-- ==== Sys2Proof/Word.lean ====
section
/-!
DEFINITION. The word types of the VZ-1 and a table keyed by Nat.
Words are little-endian in memory (R3); a g register holds 64 bits (R69).
-/

namespace Sys2Proof

/-- A 64-bit register value (R69). -/
abbrev Word := BitVec 64

/-- One byte of memory. -/
abbrev Byte := BitVec 8

/-- A table keyed by a number, kept with strictly rising keys. -/
abbrev Tab (α : Type) := List (Nat × α)

/-- The entry under a key, if the table lists one. -/
def Tab.find {α : Type} : Tab α → Nat → Option α
  | [], _ => none
  | (k, v) :: t, n => if n = k then some v else if n < k then none else Tab.find t n

/-- The table with the key's entry replaced or added at its place. -/
def Tab.put {α : Type} : Tab α → Nat → α → Tab α
  | [], n, v => [(n, v)]
  | (k, w) :: t, n, v =>
    if n = k then (k, v) :: t else if n < k then (n, v) :: (k, w) :: t else (k, w) :: Tab.put t n v

/-- The table without the key's entry. -/
def Tab.drop {α : Type} : Tab α → Nat → Tab α
  | [], _ => []
  | (k, w) :: t, n => if n = k then t else if n < k then (k, w) :: t else (k, w) :: Tab.drop t n

end Sys2Proof
end

