-- ==== Sys2Proof/Config.lean ====
section
/-!
DEFINITION. The free values: what the manual leaves open and no proof may see. None has a body.
-/

namespace Sys2Proof.Config

/-- A free choice among n things, numbered from 0, at a moment: the moment is the model's tick, the second argument
tells apart several choices of one step (log 7, 8, 9, 21). -/
opaque pick : Nat → Nat → Nat

/-- A free byte at a moment (R260 filler bytes, log 21). -/
opaque byte : Nat → Nat → Byte

/-- The cycles of each cluster's front island, at number 96 those by which the model orders events, and the nanoseconds that
pass in a step (log 2). -/
opaque cycles : Nat → Nat → Nat
opaque nanos : Nat → Nat

/-- The least security version that the fuses admit (R402, log 23). -/
opaque fusedVersion : Nat

/-- The public-key hashes in fuses, and the keys in the signed manifest of a firmware image (R402, log 23). -/
opaque fusedKeys : List Byte
opaque manifestKeys : List Byte → List Byte

/-- Whether an image or an authorization verifies under both signatures against some keys (R402, R426, log 23). -/
opaque verifies : List Byte → List Byte → Bool

/-- The power of the package, in watts, at a moment with given island points, lane entitlements of the clusters, and lane
groups and Kiln islands turned off (R400, log 98). -/
opaque watts : Nat → List Nat → List Nat → List Nat → Nat

/-- The key that unwrapping a wrapped tenant key gives, if it verifies (R402, log 23). -/
opaque unwrap : List Byte → Option (BitVec 512)

/-- The signatures and identity of an attestation response over its content (R402, log 23). -/
opaque attest : List Byte → List Byte

/-- The on-die random source at a moment (R402, log 23). -/
opaque random : Nat → BitVec 512

/-- 2^x rounded, where the model's bounds do not decide the rounding (R167, log 22). -/
opaque exp2 : Nat → Nat

end Sys2Proof.Config
end

