-- ==== Sys2Proof/Syntax.lean ====
section
/-!
DEFINITION. The instruction set as data: one constructor for each row of the opcode table.
Word instructions carry the fields of their encoding (R35, R42 to R47); the rows without an encoding are the events of
the part, each whole and indivisible, with the choices that come from outside the core as operands.
-/

namespace Sys2Proof

/-- A g or v register number (R36, R46). -/
abbrev Reg := Fin 32

/-- A mask register field: 0 means unmasked or all ones (R46, R176). -/
abbrev KReg := Fin 8

/-- The access size code `sz`; code 111 is no size (R39). -/
inductive Size | i8 | i16 | i32 | d | n8 | n16 | n32
  deriving DecidableEq, Repr

/-- The element types of vector memory and tags, in type code order (R40). -/
inductive Ty | i8 | i16 | i32 | i64 | n8 | n16 | n32 | n64 | fp64 | fp32 | fp16 | bf16 | e4m3 | e5m2 | e2m1 | e8m0
  deriving DecidableEq, Repr

/-- A register tag: tag 0 is NONE, tag c + 1 is the type of code c (R40). -/
abbrev Tag := Option Ty

/-- The scalar floating-point formats in `fmt` order (R41). -/
inductive Fmt | fp64 | fp32 | fp16 | bf16
  deriving DecidableEq, Repr

/-- The rounding mode field; code 110 is no mode (R41). -/
inductive RM | rne | rtz | rdn | rup | rna | ef | dyn
  deriving DecidableEq, Repr

/-- The operand forms 00, 01 and 10 of format V (R46). -/
inductive VForm | vv | vs | vi
  deriving DecidableEq, Repr

/-- The special registers that a chapter assigns (R116, R143, R58, R192, R231, R297, R336, R344, R371, R17, R409). -/
inductive Spr
  | vl | vgrant | vbeg | vred | efr | fst | vslip | vwidth | pfxl | vqlen
  | tself | tidx | tprio | tlevel | thold | tquant | ctxlim | ftbase | ftsize | wsbase | wssize | wsstat | wsroot
  | tcmbase | cspbase | tenant | ptroot | kbind | cpstat | podcfg | rmtstat
  | tcause | tval | tepc | tevc | tstatus | tvec | cycle | devtime | coreid | clusterid | devid
  | tsel | tgval | ttimer | tpend | fvec | tact | fsring | fsack | wear | islst
  | dctl | dstat | dstask | dstep | dbten | ibrk (n : Fin 4) | wtch (n : Fin 4) | wctl (n : Fin 4)
  | drsel | drprod | drcons | drcyc | drlost | trring | trhead | soot | sootst
  deriving DecidableEq, Repr

/-- What comes to this device over its links: one of its own remote requests, one of another device, or the registration
of a waiter there on a future of this device, which `take` says to take (R346, R349). -/
inductive RemoteReq
  | own (token : Word)
  | peer (device : Fin 1024) (tenant : Fin 16) (sys : Bool) (member : Fin 4) (sz : Size) (local40 : BitVec 40) (data : Word)
  | observe (device : Fin 1024) (token : Word) (take : Bool)
  deriving DecidableEq, Repr

/-- A launch queue: queue t of host h, or the management queue (R390, R399). -/
inductive QueueId
  | host (h : Fin 2) (t : Fin 16)
  | mgmt
  deriving DecidableEq, Repr

/-- A read of a number of bytes or a write of bytes through a port (R398). -/
inductive PortAccess
  | read (count : Nat)
  | write (bytes : List Byte)
  deriving DecidableEq, Repr

/-- A collective operation that another member of a group has accepted, as R361 compares it. -/
structure PeerColl where
  kind : Nat
  op : Nat
  fmt : Nat
  count : Nat
  chunk : Nat
  root : Nat
  urgent : Bool
  deriving DecidableEq, Repr

/-- An operation that another member of a group has accepted at one place of the sequence: a barrier has no `coll`
(R361). -/
structure PeerOp where
  tag : BitVec 32
  members : List (Nat × Nat)
  coll : Option PeerColl
  deriving DecidableEq, Repr

/-- An image that boot loads, with the security version that it carries (R402). -/
structure SignedImage where
  content : List Byte
  version : Nat
  deriving DecidableEq, Repr

/-- What the management core reads at boot: the images of R402 and the values that firmware sets from them. -/
structure BootImages where
  firmware : SignedImage
  baseDie : SignedImage
  ioDie : SignedImage
  system : SignedImage
  devtime : Word
  ftbase : Word
  fvec : Word
  device : Fin 1024
  ndev : Fin 1025
  pod : Fin 512
  /-- Physical ranges opened to each host: base and length (R398). -/
  opened : List (Fin 2 × Nat × Nat)
  /-- The fused identity of the device. -/
  identity : List Byte
  /-- The tenant table entry of tenant 0, which firmware makes active with TIERMIN 0 (R399). -/
  tenant : List Byte
  /-- The block of the management queue, through which firmware starts the system tasks (R390, R399). -/
  mgmt : List Byte
  deriving DecidableEq, Repr

/-- Where a contained uncorrectable error lies (R403). -/
inductive PoisonSite
  | line (pa : BitVec 40)
  | context (core : Fin 768) (handle : Word)
  | tile (cl : Fin 96) (bank : Fin 8) (k col : Fin 256)
  | scale (cl : Fin 96) (bank : Fin 8) (kb : Fin 8) (col : Fin 256)
  | accumulator (cl : Fin 96) (bank : Fin 8) (row : Fin 64) (col : Fin 256)
  deriving DecidableEq, Repr

/-- A contained uncorrectable error: the unit that reports it and where it lies (R403). -/
structure ContainedError where
  unit : Nat
  site : PoisonSite
  deriving DecidableEq, Repr

/-- A die of the package that holds islands: a compute die, an I/O die, or the base die of an HBM4E stack (R27). -/
inductive Die
  | compute (n : Fin 8)
  | io (n : Fin 2)
  | base (n : Fin 8)
  deriving DecidableEq, Repr

/-- What the power controller orders of the clusters: lane-group entitlements, and islands turned off, a lane group
(0 to 7) or the Kiln (8) (R400). -/
structure LanePower where
  entitlements : List (Fin 96 × Fin 9)
  off : List (Fin 96 × Fin 9)
  deriving DecidableEq, Repr

/-- The instructions and events of the part, one constructor for each row of the opcode table, in its order. -/
inductive Instr
  | add (d : Reg) (a : Reg) (b : Reg) (w : Bool)
  | sub (d : Reg) (a : Reg) (b : Reg) (w : Bool)
  | and (d : Reg) (a : Reg) (b : Reg) (w : Bool)
  | or (d : Reg) (a : Reg) (b : Reg) (w : Bool)
  | xor (d : Reg) (a : Reg) (b : Reg) (w : Bool)
  | andn (d : Reg) (a : Reg) (b : Reg) (w : Bool)
  | orn (d : Reg) (a : Reg) (b : Reg) (w : Bool)
  | shl (d : Reg) (a : Reg) (b : Reg) (w : Bool)
  | shr (d : Reg) (a : Reg) (b : Reg) (w : Bool)
  | sha (d : Reg) (a : Reg) (b : Reg) (w : Bool)
  | ror (d : Reg) (a : Reg) (b : Reg) (w : Bool)
  | mul (d : Reg) (a : Reg) (b : Reg) (w : Bool)
  | mulh (d : Reg) (a : Reg) (b : Reg) (w : Bool)
  | mulhn (d : Reg) (a : Reg) (b : Reg) (w : Bool)
  | div (d : Reg) (a : Reg) (b : Reg) (w : Bool)
  | divn (d : Reg) (a : Reg) (b : Reg) (w : Bool)
  | rem (d : Reg) (a : Reg) (b : Reg) (w : Bool)
  | remn (d : Reg) (a : Reg) (b : Reg) (w : Bool)
  | min (d : Reg) (a : Reg) (b : Reg) (w : Bool)
  | max (d : Reg) (a : Reg) (b : Reg) (w : Bool)
  | minn (d : Reg) (a : Reg) (b : Reg) (w : Bool)
  | maxn (d : Reg) (a : Reg) (b : Reg) (w : Bool)
  | slt (d : Reg) (a : Reg) (b : Reg) (w : Bool)
  | sltn (d : Reg) (a : Reg) (b : Reg) (w : Bool)
  | clz (d : Reg) (a : Reg) (w : Bool)
  | ctz (d : Reg) (a : Reg) (w : Bool)
  | popc (d : Reg) (a : Reg) (w : Bool)
  | brev (d : Reg) (a : Reg) (w : Bool)
  | addi (d : Reg) (a : Reg) (imm : BitVec 16)
  | andi (d : Reg) (a : Reg) (imm : BitVec 16)
  | ori (d : Reg) (a : Reg) (imm : BitVec 16)
  | xori (d : Reg) (a : Reg) (imm : BitVec 16)
  | slti (d : Reg) (a : Reg) (imm : BitVec 16)
  | sltni (d : Reg) (a : Reg) (imm : BitVec 16)
  | shli (d : Reg) (a : Reg) (w : Bool) (n : Fin 64)
  | shri (d : Reg) (a : Reg) (w : Bool) (n : Fin 64)
  | shai (d : Reg) (a : Reg) (w : Bool) (n : Fin 64)
  | rori (d : Reg) (a : Reg) (w : Bool) (n : Fin 64)
  | liw (d : Reg) (imm : BitVec 21)
  | lis (d : Reg) (imm : BitVec 21)
  | addpc (d : Reg) (imm : BitVec 21)
  | sel (d : Reg) (a : Reg) (b : Reg) (c : Reg)
  | lea (d : Reg) (a : Reg) (b : Reg) (sh : Fin 4)
  | fadd (d : Reg) (a : Reg) (b : Reg) (fmt : Fmt) (rm : RM)
  | fsub (d : Reg) (a : Reg) (b : Reg) (fmt : Fmt) (rm : RM)
  | fmul (d : Reg) (a : Reg) (b : Reg) (fmt : Fmt) (rm : RM)
  | fdiv (d : Reg) (a : Reg) (b : Reg) (fmt : Fmt) (rm : RM)
  | fsqrt (d : Reg) (a : Reg) (fmt : Fmt) (rm : RM)
  | fmin (d : Reg) (a : Reg) (b : Reg) (fmt : Fmt)
  | fmax (d : Reg) (a : Reg) (b : Reg) (fmt : Fmt)
  | fcmpeq (d : Reg) (a : Reg) (b : Reg) (fmt : Fmt)
  | fcmplt (d : Reg) (a : Reg) (b : Reg) (fmt : Fmt)
  | fcmple (d : Reg) (a : Reg) (b : Reg) (fmt : Fmt)
  | fcmpun (d : Reg) (a : Reg) (b : Reg) (fmt : Fmt)
  | fclass (d : Reg) (a : Reg) (fmt : Fmt)
  | fcvti (d : Reg) (a : Reg) (fmt : Fmt) (rm : RM)
  | fcvtn (d : Reg) (a : Reg) (fmt : Fmt) (rm : RM)
  | fcvtfi (d : Reg) (a : Reg) (fmt : Fmt) (rm : RM)
  | fcvtfn (d : Reg) (a : Reg) (fmt : Fmt) (rm : RM)
  | fcvtf (d : Reg) (a : Reg) (src : Fmt) (fmt : Fmt) (rm : RM)
  | fma (d : Reg) (a : Reg) (b : Reg) (c : Reg) (fmt : Fmt) (rm : RM)
  | fnma (d : Reg) (a : Reg) (b : Reg) (c : Reg) (fmt : Fmt) (rm : RM)
  | j (imm : BitVec 26)
  | jl (imm : BitVec 26)
  | jrl (d : Reg) (a : Reg)
  | beq (a : Reg) (b : Reg) (imm : BitVec 16)
  | bne (a : Reg) (b : Reg) (imm : BitVec 16)
  | blt (a : Reg) (b : Reg) (imm : BitVec 16)
  | bge (a : Reg) (b : Reg) (imm : BitVec 16)
  | bltn (a : Reg) (b : Reg) (imm : BitVec 16)
  | bgen (a : Reg) (b : Reg) (imm : BitVec 16)
  | ld (d : Reg) (a : Reg) (sz : Size) (imm : BitVec 13)
  | st (d : Reg) (a : Reg) (sz : Size) (imm : BitVec 13)
  | xld (d : Reg) (a : Reg) (b : Reg) (sh : Fin 4) (sz : Size)
  | xst (d : Reg) (a : Reg) (b : Reg) (sh : Fin 4) (sz : Size)
  | amoSwap (d : Reg) (a : Reg) (b : Reg) (rel : Bool) (acq : Bool) (x : Bool)
  | amoAdd (d : Reg) (a : Reg) (b : Reg) (rel : Bool) (acq : Bool) (x : Bool)
  | amoAnd (d : Reg) (a : Reg) (b : Reg) (rel : Bool) (acq : Bool) (x : Bool)
  | amoOr (d : Reg) (a : Reg) (b : Reg) (rel : Bool) (acq : Bool) (x : Bool)
  | amoXor (d : Reg) (a : Reg) (b : Reg) (rel : Bool) (acq : Bool) (x : Bool)
  | amoMin (d : Reg) (a : Reg) (b : Reg) (rel : Bool) (acq : Bool) (x : Bool)
  | amoMax (d : Reg) (a : Reg) (b : Reg) (rel : Bool) (acq : Bool) (x : Bool)
  | amoMinn (d : Reg) (a : Reg) (b : Reg) (rel : Bool) (acq : Bool) (x : Bool)
  | amoMaxn (d : Reg) (a : Reg) (b : Reg) (rel : Bool) (acq : Bool) (x : Bool)
  | amoCas (d : Reg) (a : Reg) (b : Reg) (rel : Bool) (acq : Bool) (x : Bool)
  | cinit (a : Reg) (b : Reg)
  | cadd (a : Reg) (b : Reg)
  | cread (d : Reg) (a : Reg)
  | ctest (d : Reg) (a : Reg) (b : Reg)
  | rld (d : Reg) (a : Reg) (sz : Size)
  | rst (d : Reg) (a : Reg) (b : Reg) (sz : Size)
  | radd (d : Reg) (a : Reg) (b : Reg) (sz : Size)
  | rswp (d : Reg) (a : Reg) (b : Reg) (sz : Size)
  | traps (n : Fin 64)
  | brk (n : Fin 64)
  | eret
  | halt
  | waiti
  | codesync (a : Reg) (b : Reg)
  | tlbinv (a : Reg)
  | l1wb (a : Reg) (b : Reg)
  | mfs (d : Reg) (spr : Spr)
  | mts (a : Reg) (spr : Spr)
  | pfx (pg : Reg) (ps : Bool) (pd : Reg) (pc : Bool) (pk : KReg)
  | spawn (d : Reg) (a : Reg) (b : Reg)
  | spawng (d : Reg) (a : Reg) (b : Reg) (c : Reg)
  | finish (a : Reg)
  | fref (a : Reg) (b : Reg)
  | fdrop (a : Reg)
  | fpoll (d : Reg) (a : Reg)
  | ftake (d : Reg) (a : Reg)
  | rpoint
  | rhold
  | rrel
  | tself (d : Reg)
  | ffail (a : Reg)
  | await (d : Reg) (a : Reg) (b : Reg) (kl : BitVec 7) (vs : Bool)
  | awaitany (d : Reg) (a : Reg) (b : Reg) (kl : BitVec 7) (vs : Bool)
  | yield (b : Reg) (kl : BitVec 7) (vs : Bool)
  | cwait (d : Reg) (a : Reg) (b : Reg) (kl : BitVec 7) (vs : Bool)
  | cpy1d (d : Reg) (a : Reg) (b : Reg) (c : Reg)
  | cpy2d (d : Reg) (a : Reg)
  | cpfill (d : Reg) (a : Reg) (b : Reg) (c : Reg)
  | cpgath (d : Reg) (a : Reg)
  | cpqry (d : Reg)
  | mxbind (d : Reg) (a : Reg) (b : Reg)
  | mxload (d : Reg) (a : Reg) (b : Reg)
  | mxrow (a : Reg) (b : Reg) (c : Reg)
  | mxrowz (a : Reg) (b : Reg) (c : Reg)
  | mxsync (d : Reg) (a : Reg)
  | mxrd (d : Reg) (a : Reg) (b : Reg)
  | mxzero (d : Reg) (a : Reg) (b : Reg)
  | mxrel (a : Reg)
  | mxqry (d : Reg) (a : Reg)
  | fgrp (d : Reg) (a : Reg) (b : Reg)
  | fcoll (d : Reg) (a : Reg)
  | fbar (d : Reg) (a : Reg)
  | fgqry (d : Reg) (a : Reg)
  | fgfree (a : Reg)
  | dmark (a : Reg)
  | dsample (d : Reg) (a : Reg)
  | vsetl (d : Reg) (a : Reg) (wc : Fin 4)
  | vsetlw (d : Reg) (a : Reg) (b : Reg) (wc : Fin 4)
  | vtag (d : Reg) (t : Tag)
  | vclr (d : Reg)
  | vfold (d : Reg) (a : Reg)
  | vsave (a : Reg)
  | vrestore (a : Reg)
  | vmaxq (d : Reg) (wc : Fin 4)
  | vadd (form : VForm) (d : Reg) (a : Reg) (b : Reg) (k : KReg)
  | vsub (form : VForm) (d : Reg) (a : Reg) (b : Reg) (k : KReg)
  | vrsub (form : VForm) (d : Reg) (a : Reg) (b : Reg) (k : KReg)
  | vmul (form : VForm) (d : Reg) (a : Reg) (b : Reg) (k : KReg)
  | vmulh (form : VForm) (d : Reg) (a : Reg) (b : Reg) (k : KReg)
  | vmin (form : VForm) (d : Reg) (a : Reg) (b : Reg) (k : KReg)
  | vmax (form : VForm) (d : Reg) (a : Reg) (b : Reg) (k : KReg)
  | vabs (d : Reg) (a : Reg) (k : KReg)
  | vneg (d : Reg) (a : Reg) (k : KReg)
  | vdiv (form : VForm) (d : Reg) (a : Reg) (b : Reg) (k : KReg)
  | vrem (form : VForm) (d : Reg) (a : Reg) (b : Reg) (k : KReg)
  | vsqrt (d : Reg) (a : Reg) (k : KReg)
  | vexp2 (d : Reg) (a : Reg) (k : KReg)
  | vand (form : VForm) (d : Reg) (a : Reg) (b : Reg) (k : KReg)
  | vor (form : VForm) (d : Reg) (a : Reg) (b : Reg) (k : KReg)
  | vxor (form : VForm) (d : Reg) (a : Reg) (b : Reg) (k : KReg)
  | vshl (form : VForm) (d : Reg) (a : Reg) (b : Reg) (k : KReg)
  | vshr (form : VForm) (d : Reg) (a : Reg) (b : Reg) (k : KReg)
  | vsha (form : VForm) (d : Reg) (a : Reg) (b : Reg) (k : KReg)
  | vsadd (form : VForm) (d : Reg) (a : Reg) (b : Reg) (k : KReg)
  | vssub (form : VForm) (d : Reg) (a : Reg) (b : Reg) (k : KReg)
  | vavg (form : VForm) (d : Reg) (a : Reg) (b : Reg) (k : KReg)
  | vfma (form : VForm) (d : Reg) (a : Reg) (b : Reg) (k : KReg)
  | vfms (form : VForm) (d : Reg) (a : Reg) (b : Reg) (k : KReg)
  | vfnma (form : VForm) (d : Reg) (a : Reg) (b : Reg) (k : KReg)
  | vfnms (form : VForm) (d : Reg) (a : Reg) (b : Reg) (k : KReg)
  | vcvt (d : Reg) (a : Reg) (t : Ty) (k : KReg) (rm : RM)
  | vcvts (d : Reg) (a : Reg) (t : Ty) (k : KReg) (rm : RM)
  | vpackmx (d : Reg) (a : Reg) (t : Ty) (rm : RM)
  | vunpkmx (d : Reg) (a : Reg) (t : Ty) (rm : RM)
  | vrsum (d : Reg) (a : Reg) (k : KReg) (q : Bool)
  | vrsumo (d : Reg) (a : Reg) (b : Reg) (k : KReg) (q : Bool)
  | vrmax (d : Reg) (a : Reg) (k : KReg) (q : Bool)
  | vrmin (d : Reg) (a : Reg) (k : KReg) (q : Bool)
  | vrand (d : Reg) (a : Reg) (k : KReg) (q : Bool)
  | vror (d : Reg) (a : Reg) (k : KReg) (q : Bool)
  | vrxor (d : Reg) (a : Reg) (k : KReg) (q : Bool)
  | vrmaxi (d : Reg) (a : Reg) (k : KReg) (q : Bool)
  | vslup (form : VForm) (d : Reg) (a : Reg) (b : Reg) (k : KReg)
  | vsldn (form : VForm) (d : Reg) (a : Reg) (b : Reg) (k : KReg)
  | vrgath (d : Reg) (a : Reg) (b : Reg) (k : KReg)
  | vcompr (d : Reg) (a : Reg) (k : KReg)
  | vexpnd (d : Reg) (a : Reg) (k : KReg)
  | viota (d : Reg) (m : KReg) (t : Ty) (k : KReg)
  | vidx (d : Reg) (t : Ty) (k : KReg)
  | vbcast (form : VForm) (d : Reg) (a : Reg) (b : Reg) (k : KReg)
  | vmerge (form : VForm) (d : Reg) (a : Reg) (b : Reg) (k : KReg)
  | vrev (d : Reg) (a : Reg) (k : KReg)
  | vzip (d : Reg) (a : Reg) (k : KReg)
  | vunzip (d : Reg) (a : Reg) (k : KReg)
  | vceq (form : VForm) (d : KReg) (a : Reg) (b : Reg) (k : KReg)
  | vcne (form : VForm) (d : KReg) (a : Reg) (b : Reg) (k : KReg)
  | vclt (form : VForm) (d : KReg) (a : Reg) (b : Reg) (k : KReg)
  | vcle (form : VForm) (d : KReg) (a : Reg) (b : Reg) (k : KReg)
  | vcgt (form : VForm) (d : KReg) (a : Reg) (b : Reg) (k : KReg)
  | vcge (form : VForm) (d : KReg) (a : Reg) (b : Reg) (k : KReg)
  | vcun (form : VForm) (d : KReg) (a : Reg) (b : Reg) (k : KReg)
  | vclass (d : KReg) (a : Reg) (b : Reg) (k : KReg)
  | kand (d : KReg) (a : KReg) (b : KReg) (k : KReg)
  | kor (d : KReg) (a : KReg) (b : KReg) (k : KReg)
  | kxor (d : KReg) (a : KReg) (b : KReg) (k : KReg)
  | knot (d : KReg) (a : KReg) (k : KReg)
  | kandn (d : KReg) (a : KReg) (b : KReg) (k : KReg)
  | ksbf (d : KReg) (a : KReg) (k : KReg)
  | ksif (d : KReg) (a : KReg) (k : KReg)
  | kpopc (d : Reg) (a : KReg) (k : KReg)
  | kfirst (d : Reg) (a : KReg) (k : KReg)
  | kmov (d : KReg) (a : KReg) (k : KReg)
  | vldUnit (d : Reg) (a : Reg) (k : KReg) (nt : Bool) (t : Ty)
  | vldStrided (d : Reg) (a : Reg) (b : Reg) (k : KReg) (nt : Bool) (t : Ty)
  | vldIndexed (d : Reg) (a : Reg) (b : Reg) (k : KReg) (nt : Bool) (t : Ty)
  | vldFirstFault (d : Reg) (a : Reg) (k : KReg) (nt : Bool) (t : Ty)
  | vldSegmentMx (d : Reg) (a : Reg) (t : Ty)
  | vstUnit (d : Reg) (a : Reg) (k : KReg) (nt : Bool) (t : Ty)
  | vstStrided (d : Reg) (a : Reg) (b : Reg) (k : KReg) (nt : Bool) (t : Ty)
  | vstIndexed (d : Reg) (a : Reg) (b : Reg) (k : KReg) (nt : Bool) (t : Ty)
  | vstOrdered (d : Reg) (a : Reg) (k : KReg) (nt : Bool) (t : Ty)
  | vstSegmentMx (d : Reg) (a : Reg) (t : Ty)
  | vmvsx (d : Reg) (b : Reg)
  | vmvxs (d : Reg) (a : Reg)
  | vqpop (d : Reg)
  | vqlen (d : Reg)
  | vmv (form : VForm) (d : Reg) (a : Reg) (b : Reg) (k : KReg)
  | timer
  | host
  | error
  | quantumExpiry
  | preemptReqCooperative
  | preemptReqForced
  | preemptReqToHandler
  | preemptCoopTimeout
  | readySelection
  | spillHoldEnd
  | steal
  | codeLineFill
  | faultRecordDelivery (cl : Fin 96)
  | fsackRetry (cl : Fin 96) (seq : BitVec 32)
  | fsackFail (cl : Fin 96) (seq : BitVec 32)
  | fsackNote (cl : Fin 96) (seq : BitVec 32)
  | fsackInvalid (cl : Fin 96) (seq : BitVec 32)
  | flueAccept
  | flueChunk (cl : Fin 96) (job : Fin 64)
  | kilnAccept
  | tileLoad (cl : Fin 96) (bank : Fin 8)
  | rowJob (cl : Fin 96) (bank : Fin 8)
  | accumulatorZeroJob (cl : Fin 96) (bank : Fin 8)
  | bankClear (cl : Fin 96) (bank : Fin 8)
  | rmtAccept
  | remoteAccess (req : RemoteReq)
  | remoteReply (token : Word) (failed : Bool) (value : Word)
  | collAccept
  | groupMatch (slot : Fin 256) (urgent : Bool) (peers : List PeerOp)
  | collChunk (slot : Fin 256) (urgent : Bool) (inputs : List (List (BitVec 32)))
  | groupFail (slot : Fin 256)
  | doorbell (host : Fin 2) (queue : Fin 16) (tail : Word)
  | cancel (host : Fin 2) (queue : Fin 16) (seq : BitVec 32)
  | hostSignal (host : Fin 2)
  | bar2Access (host : Fin 2) (offset : BitVec 36) (access : PortAccess)
  | entryArrival (queue : QueueId)
  | dispatch
  | launchCompletion (root : Word)
  | tenantDrain (tenant : Fin 16)
  | tenantDrainEnd (tenant : Fin 16)
  | keySlotWrite (slot : Fin 64) (key : BitVec 512)
  | attestationRequest (nonce : BitVec 256)
  | measurementExtend (reg : Fin 8) (digest : BitVec 384)
  | tenantKeyLoad (slot : Fin 64) (wrapped : List Byte)
  | debugAuthorization (request : List Byte)
  | spedyHalt (core : Fin 768)
  | spedyRun (core : Fin 768) (fail : Bool)
  | rdctx (core : Fin 768)
  | rdspr (core : Fin 768) (spr : Spr)
  | wrspr (core : Fin 768) (spr : Spr) (value : Word)
  | rdpa (pa : BitVec 40) (count : Nat) (key : Fin 64)
  | wrpa (pa : BitVec 40) (bytes : List Byte) (key : Fin 64)
  | rdft (slot : BitVec 32)
  | singleStep
  | draughtClear
  | registerWrite (pa : BitVec 40) (access : PortAccess)
  | boot (images : BootImages)
  | coreRestart (core : Fin 768)
  | waitiWake
  | correctedError (unit : Nat) (address : Word)
  | containedError (error : ContainedError)
  | uncontainedError (unit : Nat) (address : Word)
  | thermalThrottle (die : Die)
  | thermalTrip (die : Die)
  | powerAdjust (points : List (Fin 256 × Fin 8)) (lanes : LanePower)
  | wearUpdate (island : Fin 256) (age eol : BitVec 16)
  | illegalWord (word : BitVec 32)
  | targetUnreachable (token : Word) (performed : Bool)
  deriving DecidableEq, Repr

end Sys2Proof
end

