-- ==== Sys2Proof/Machine/State.lean ====
section
/-!
DEFINITION. The state of the part as plain data, the reasons a step can stop, and the state after reset.
Every register the spec names has one home here; views of it are computed by the accessors of the other files.
-/

namespace Sys2Proof.Machine

/-- Why a step stops for good. -/
inductive Fault
  /-- The device is FATAL: every core has stopped (R403). Raised by `step` alone. Safe: nothing runs on. -/
  | deviceFatal
  deriving DecidableEq, Repr

/-- Why an instruction has no meaning here. -/
inductive Refusal
  /-- An instruction that has no meaning yet, by its mnemonic. Raised by `exec` alone. Safe: the run stops. -/
  | notModelled (mnemonic : String)
  deriving DecidableEq, Repr

/-- A vector register: its tag and its image (R108, R109). Bits at or above the granted bits are zero. -/
structure VReg where
  tag : Tag
  img : BitVec 16384
  deriving DecidableEq, Repr

/-- The vector state of a context (R116). `masks[m - 1]` is km; `vq` holds the oldest value first. -/
structure VecState where
  vl : Nat
  vbeg : Nat
  vred : Word
  efr : BitVec 32
  wc : Fin 4
  regs : Vector VReg 32
  masks : Vector (BitVec 2048) 7
  vq : List Word
  deriving DecidableEq, Repr

/-- The prefix latch `pfxl` (R58). -/
structure Pfx where
  v : Bool
  pg : Reg
  ps : Bool
  pd : Reg
  pc : Bool
  pk : KReg
  deriving DecidableEq, Repr

/-- Where an address lies: HBM under a key index, TCM or CSP, or the control range (R23, R190). -/
inductive Place
  | hbm (pa : Nat) (key : Fin 64)
  | sram (pa : Nat)
  | ctl (pa : Nat)
  deriving DecidableEq, Repr

/-- A held translation: the result of R197 for a page (R199). -/
structure TlbEntry where
  tenant : Fin 16
  va : Nat
  size : Nat
  pa : Nat
  r : Bool
  w : Bool
  x : Bool
  s : Bool
  ten : Nat
  key : Fin 64
  deriving DecidableEq, Repr

/-- A scalar store that has issued, with its checks finished, and is not performed yet: its place and bytes, and the
translation that it holds (R96, R97, R275, R382). -/
structure HeldStore where
  place : Place
  bytes : List Byte
  via : Option TlbEntry
  deriving DecidableEq, Repr

/-- A queued or latched instruction with the values captured with it (R46, R202, R258). -/
structure VEntry where
  word : BitVec 32
  pc : Word
  cap0 : Option Word
  cap1 : Option Word
  pfx : Pfx
  /-- Issued first after an ERET or a RUN with `dctl.ONCE`, so that it matches no watchpoint (R414). -/
  once : Bool
  /-- Younger scalar stores that are performed when this instruction, the last queued access of memory before them, is
  complete (R275, R447). -/
  stores : List HeldStore
  /-- The vector state after an instruction that reads memory, where the front has learnt from it what younger queued ones
  will access: its reads have returned their values, and it leaves these results (R97, R273, log 83). -/
  early : Option VecState := none
  deriving DecidableEq, Repr

/-- What a saved context waits for and does when it returns (R244 to R248, R122). -/
inductive Wait
  /-- Nothing: it runs on at its pc. -/
  | none
  | future (h : Word) (d : Reg)
  | any (hs : List Word) (d : Reg)
  | counter (place : Place) (threshold : Word) (d : Reg)
  /-- A CWAIT that completed, with the value of its counter at that point (R244, R285). -/
  | counted (place : Place) (value : Word) (d : Reg)
  /-- A VSETLW wait: the instruction at pc executes again (R122). -/
  | strip (place : Place) (threshold : Nat)
  /-- The child of an opened gate, or a root, which has not begun (R241, R272, R285). -/
  | gate
  deriving DecidableEq, Repr

/-- A hold of an instruction for want of Woodshed space: its word, what it waits for, and the size of the record that its
save must place, with whether the save would bring in another record (R259, R261). -/
structure HoldAt where
  word : BitVec 32
  wait : Wait
  size : Nat
  switches : Bool
  deriving DecidableEq, Repr

/-- A context: everything that is saved and restored with a task (R223). -/
structure Ctx where
  pc : Word
  g : Vector Word 32
  pfx : Pfx
  fst : BitVec 9
  vec : VecState
  tidx : BitVec 7
  /-- RHOLD depth (R252). -/
  depth : Nat
  tself : Word
  /-- One entry for each reference held (R235). -/
  held : List Word
  /-- Domain kinds of the placement levels that the launch declares (R224). -/
  kinds : List Nat
  level : Nat
  pin : Bool
  /-- The core whose domain of the level's kind bounds the task, or the task's one core when pinned (R225). -/
  domCore : Nat
  /-- Lane-group cap of the task and of its launch, 1, 2, 4 or 8 (R439). -/
  cap : Nat
  launchCap : Nat
  /-- The groups of 2^VLMAX bits, which no grant of the launch passes (R439). -/
  ceiling : Nat
  cls : Nat
  limit : Nat
  tenant : Fin 16
  priv : Nat
  latch : Option VEntry
  /-- The latched instruction came out of the VIQ, so that it executes there again (R202, R407). -/
  latchQ : Bool
  /-- The hold that the instruction at pc is in, or was in when the context stopped; of a CWAIT what its counter has
  reached meanwhile (R261, R264, R285). -/
  holdAt : Option HoldAt
  /-- The VIQ, oldest first (R131). -/
  viq : List VEntry
  /-- Groups the context needs at resumption (R130). -/
  need : Nat
  /-- Groups that it held when it was saved, the GN of its record (R116, R258). -/
  gn : Nat
  /-- A stepped instruction of this task has completed and STEP is due (R415). -/
  stepDue : Bool
  /-- The next instruction that the core issues for this context is the one that ONCE exempts (R414). -/
  once : Bool
  /-- The core whose `dctl.ONCE` exempts it, once the context has been stolen from there (R414). -/
  onceOn : Option Nat
  /-- The code with which an `fsack` FAIL ends the task at its instruction, when the older queued ones are complete
  (R249, R385). -/
  failWith : Option Word
  deriving DecidableEq, Repr

/-- The state of a context that is off the core (R264). -/
inductive RecState | suspended | ready | latched
  deriving DecidableEq, Repr

/-- A context record of the context cache or the Woodshed (R258). -/
structure Rec where
  ctx : Ctx
  st : RecState
  wait : Wait
  /-- Saved in full, and the live set of a cooperative save (R130, R243). -/
  forced : Bool
  liveG : Word
  liveK : BitVec 7
  liveV : Bool
  /-- When the context last became ready, and when it was suspended, on the model's clock (R265, R259). -/
  order : Nat
  since : Nat
  /-- Stealable (R268); stopped at a reclamation point (R253). -/
  steal : Bool
  atPoint : Bool
  /-- The offset of the record in the Woodshed ring, or none while resident (R260). -/
  spill : Option Nat
  /-- Signalled while in the Woodshed and not read back yet (R263). -/
  due : Bool
  /-- The record holds a contained error (R404). -/
  poison : Bool
  deriving DecidableEq, Repr

/-- One record of the Woodshed ring in ring order: offset, padded length, live or freed (R260). -/
structure Shed where
  off : Nat
  len : Nat
  live : Bool
  deriving DecidableEq, Repr

/-- Which context a core runs (R369, R370). -/
inductive Who | idle | task | sys | fw
  deriving DecidableEq, Repr

/-- Whether a core issues instructions: stopped by HALT, stopped for the Spedy port, or in WAITI (R380, R416, R427). -/
inductive Halt | running | halted | debug | waiti
  deriving DecidableEq, Repr

/-- A hold for want of Woodshed space (R261, R374): at a wait, at a faulting instruction in place, or at an ERET. -/
inductive Hold | none | wait | inPlace | eret
  deriving DecidableEq, Repr

/-- An instruction that waits at its place: since when, the descriptor words that it has already read, and its word once
the front has issued it, which no fetch and no breakpoint stops any more (R261, R328, R329, R357). -/
structure Stall where
  since : Nat
  desc : Option (List Word)
  word : Option (BitVec 32)
  deriving DecidableEq, Repr

/-- A handler level of a core: its own context and its trap registers (R370, R371). -/
structure Handler where
  ctx : Ctx
  tcause : BitVec 9
  tval : Word
  tepc : Word
  tevc : Word
  tpriv : BitVec 2
  nest : Bool
  idle : Bool
  tsel : BitVec 6
  tact : BitVec 2
  deriving DecidableEq, Repr

/-- An L1 data line: valid and dirty bytes (R187 and the reconciliation section of 09_ordering.md). -/
structure L1Line where
  line : Nat
  data : BitVec 1024
  valid : BitVec 128
  dirty : BitVec 128
  key : Fin 64
  deriving DecidableEq, Repr

/-- A decompressed line of the L1 code cache (R444). -/
structure CodeLine where
  tenant : Fin 16
  line : Nat
  words : List (BitVec 32)
  deriving DecidableEq, Repr

/-- An entry of the draught table (R421). -/
structure Draught where
  tenant : Fin 16
  prod : Word
  cons : Word
  cyc : BitVec 48
  lag : BitVec 16
  deriving DecidableEq, Repr

/-- A register of a context that an instruction may wait for, with the error-feedback residual `efr`, or the queue `vq` of
pushed values (R132, R151, R420). -/
inductive RegName
  | g (r : Reg)
  | v (r : Reg)
  | k (m : KReg)
  | efr
  | vq
  deriving DecidableEq, Repr

/-- A range of virtual bytes: its first address and its length. -/
abbrev Range := Nat × Nat

/-- What a queued entry does to memory: whether it reads and writes, and the bytes that it may still touch (R97). -/
structure Touch where
  reads : Bool
  writes : Bool
  bytes : List Range
  deriving DecidableEq, Repr

/-- A core (R15). -/
structure Core where
  id : Nat
  who : Who
  /-- CPRIV of the running context (R371). -/
  priv : BitVec 2
  /-- The running context; of a handler, its own context. -/
  live : Ctx
  sys : Handler
  fw : Handler
  /-- The trap save store, and the live set state of the trapped task (R374). -/
  trapped : Option Ctx
  /-- The trap save store's record holds a contained error (R403, R404). -/
  trapPoison : Bool
  halt : Halt
  /-- The VIQ entry that the lanes are executing out of the queue (R131). -/
  lane : Option VEntry
  /-- What the queued instructions will touch, as far as it can be foreseen while the oldest of them waits; set only while
  the front executes an instruction (R97). -/
  ahead : Option (List Touch)
  /-- The element at which a forced save stops the instruction in the lanes, while that instruction executes (R129,
  R183, R220). -/
  cut : Option Nat
  /-- The executing instruction waits where it is (R329, R348). -/
  stall : Option Stall
  hold : Hold
  /-- The task that its wait has just saved while another context was ready, which the core now switches to (R244). -/
  passed : Option Word
  recs : List Rec
  shed : List Shed
  shedHead : Nat
  press : Bool
  quantum : Nat
  preMode : Nat
  preClass : Nat
  preAge : Nat
  pendHost : Bool
  pendPreempt : Bool
  pendError : Bool
  l1 : List L1Line
  code : List CodeLine
  tlb : List TlbEntry
  tquant : Nat
  ctxlim : Nat
  wsbase : Word
  wssize : Nat
  wsroot : Nat
  tvec : Word
  fvec : Word
  ttimer : Word
  vslip : Nat
  dctl : BitVec 6
  dstat : BitVec 5
  drsel : BitVec 4
  draughts : Vector (Option Draught) 16
  drlost : Word
  /-- The instruction of the running context that wrote each register last, the latest first (R420). -/
  writers : List (RegName × Word)
  trlog : Nat
  trbase : Nat
  trhead : Word
  counters : Vector Word 12
  deriving DecidableEq, Repr

/-- The source of a Flue job's bytes (R332 to R335). -/
inductive Copy
  | lin (dst src len : Nat)
  | rows (dst src rows rb dstr sstr : Nat)
  | fill (dst : Nat) (pattern : Word) (len : Nat)
  | gather (dst src idx slim count esz iw : Nat)
  deriving DecidableEq, Repr

/-- On whose behalf an engine accesses memory: the issuing task as it stood at acceptance (R331). -/
structure Env where
  tenant : Fin 16
  priv : Nat
  core : Nat
  pin : Bool
  handle : Word
  word : BitVec 32
  pc : Word
  deriving DecidableEq, Repr

/-- A job of the Flue queue (R329, R338). -/
structure FlueJob where
  copy : Copy
  len : Nat
  token : Word
  chunk : Nat
  active : Bool
  env : Env
  deriving DecidableEq, Repr

/-- A job of a Kiln bank, in bank order (R313). -/
inductive Job
  | load (taddr stride saddr sstride fmt kb nc : Nat) (token : Word) (env : Env)
  | row (clear : Bool) (r k0 n : Nat) (ty : Ty) (a : BitVec 4096) (xa : BitVec 64) (issuer : Word)
  | zero (r0 n : Nat) (issuer : Word)
  | sync (token issuer : Word)
  | rel
  deriving DecidableEq, Repr

/-- A Kiln bank (R291). Tile element (k, n) is bits [16 (256 k + n) + 15 : 16 (256 k + n)], scale (kb, n) is byte
256 kb + n, accumulator word (r, col) is word 256 r + col. -/
structure Bank where
  owner : Option (Fin 16)
  rows : BitVec 64
  clearing : Bool
  tile : BitVec 1048576
  scales : BitVec 16384
  acc : BitVec 524288
  /-- Format of the tile in place, whether it is usable, and the format latest in bank order once one is accepted. -/
  fmt : Nat
  usable : Bool
  latest : Option Nat
  drop : Bool
  jobs : List Job
  /-- Issuers with a dropped row or a failed load that no MXSYNC has covered yet (R320). -/
  failed : List Word
  /-- Poisoned tile elements, scales and accumulator words, each by its place as in `tile`, `scales` and `acc` (R322). -/
  poisonTile : BitVec 65536
  poisonScales : BitVec 2048
  poisonAcc : BitVec 16384
  deriving DecidableEq, Repr

/-- Whom an acknowledgement of a fault record concerns (R385). -/
inductive Owner
  | task (core : Nat) (handle : Word)
  | other
  deriving DecidableEq, Repr

/-- A fault record (R203). -/
structure FaultRec where
  handle : Word
  addr : Word
  cause : Nat
  access : Nat
  elem : Nat
  word : BitVec 32
  pc : Word
  owner : Owner
  deriving DecidableEq, Repr

/-- A cluster (R14). -/
structure Cluster where
  /-- The groups of each core's grant, and the groups marked for reclaim (R102 to R107). -/
  grants : Vector (BitVec 8) 8
  marks : BitVec 8
  ent : Nat
  /-- Lane groups and the Kiln island that the power controller has turned off (R400). -/
  gated : BitVec 8
  kilnOff : Bool
  tlb : List TlbEntry
  /-- Lines of directory entries, LAT entries and dictionaries that the cluster holds, by 64 times the line number plus
  the key index (R444, R446). -/
  dir : List (Nat × BitVec 1024)
  flue : List FlueJob
  /-- Cores waiting for a Flue entry, first come first (R329). -/
  flueWait : List Nat
  banks : Vector Bank 8
  fsLog : Nat
  fsBase : Nat
  ackSeq : BitVec 32
  ackAction : BitVec 2
  ackErr : Bool
  /-- Records written and not acknowledged, and records waiting for delivery (R384). -/
  outstanding : List (Nat × FaultRec)
  deliveries : List FaultRec
  deriving DecidableEq, Repr

/-- The state of a future-table slot; a held-list block is a slot taken for one (R229, R230). -/
inductive FutState | free | pending | resolved | failed | doomed | block
  deriving DecidableEq, Repr

/-- A future-table entry (R229). -/
structure Fut where
  st : FutState
  kind : Nat
  gen : Nat
  count : Nat
  result : Word
  /-- The core on which the future's task ended, whose dirty L1 lines an observer elsewhere asks for (R229 location). -/
  loc : Option Nat
  /-- Observing it settled is an edge; the token of an MXSYNC covers no memory access (R271). -/
  edge : Bool
  /-- The handles that a held-list block holds, at most six (R229). -/
  held : List Word
  deriving DecidableEq, Repr

/-- A SPAWNG gate that is not open yet (R241): pairs of counter address, threshold and whether it was observed. -/
structure Gate where
  token : Word
  core : Nat
  pairs : List (Nat × Word × Bool)
  child : Ctx
  deriving DecidableEq, Repr

/-- A remote request sent and not yet answered (R349). -/
structure Remote where
  token : Word
  member : Fin 4
  sz : Size
  addr : Word
  data : Word
  env : Env
  deriving DecidableEq, Repr

/-- A collective descriptor (R357). -/
structure Coll where
  inp : Nat
  out : Nat
  count : Nat
  chunk : Nat
  kind : Nat
  op : Nat
  fmt : Nat
  root : Nat
  deriving DecidableEq, Repr

/-- An operation pending on a group: a barrier, or a collective with the chunks done (R359 to R361). -/
structure GroupOp where
  token : Word
  coll : Option Coll
  matched : Bool
  done : Nat
  env : Env
  /-- Bytes of IN read with an aligned 8-byte unit of which a later chunk takes the rest: address, byte and poison mark. -/
  got : List (Nat × Byte × Byte)
  /-- Elements of OUT that wait for the rest of their aligned 8-byte unit: index and value (R274). -/
  late : List (Nat × Nat)
  deriving DecidableEq, Repr

/-- A group of this device (R355). -/
structure Group where
  tag : BitVec 32
  members : List (Nat × Nat)
  rank : Nat
  tenant : Fin 16
  failed : Bool
  joined : Bool
  bulk : List GroupOp
  urgent : List GroupOp
  /-- The core on which FGRP created it, whose cluster gets a failure record when no operation is pending (R367). -/
  core : Nat
  deriving DecidableEq, Repr

/-- The tenant table entry (R387). -/
structure Tenant where
  state : Nat
  lanemax : Nat
  bankmax : Nat
  tiermin : Nat
  featmask : BitVec 32
  keyset : Word
  root : Word
  clusters : BitVec 96
  deriving DecidableEq, Repr

/-- A launch queue block (R390). -/
structure Queue where
  base : Word
  log2n : Nat
  en : Bool
  head : Nat
  tail : Nat
  deriving DecidableEq, Repr

/-- An entry that has arrived and is not dispatched (R390, R391). -/
structure Entry where
  queue : QueueId
  lrec : Word
  deadline : Word
  compl : Word
  tier : Nat
  reserved : Bool
  seq : BitVec 32
  arrival : Word
  /-- The clock of the cycle in which the Reel read it: entries of one cycle have an order of their own (R391). -/
  readAt : Nat
  deriving DecidableEq, Repr

/-- A launch whose root is running (R395). -/
structure Launch where
  queue : QueueId
  seq : BitVec 32
  compl : Word
  deadline : Word
  dispatched : Word
  root : Word
  cancelled : Bool
  /-- `devtime` at which the root ended, once it has (R395). -/
  ended : Option Word
  deriving DecidableEq, Repr

/-- The Reel (R392, R393). -/
structure Reel where
  pending : List Entry
  launches : List Launch
  since3 : Nat
  /-- The clock at which the next dispatch may be made. -/
  next : Nat
  deriving DecidableEq, Repr

/-- A logged error: class, unit, address (R403). -/
structure ErrEntry where
  cls : Nat
  unit : Nat
  address : Word
  deriving DecidableEq, Repr

/-- How far boot has come (R402). -/
inductive Boot | off | recovery | ready
  deriving DecidableEq, Repr

/-- One entry of the agenda: give a core the turn, or an event that comes about outside the running core. -/
inductive Action
  | turn (core : Fin 768)
  | event (i : Instr)
  deriving DecidableEq, Repr

/-- The device-wide debug registers (R409). -/
structure DebugRegs where
  dstask : Word
  dstep : Bool
  dbten : BitVec 5
  ibrk : Vector Word 4
  wtch : Vector Word 4
  wctl : Vector (BitVec 9) 4
  deriving DecidableEq, Repr

/-- The Soot log registers and the model's index into the log in memory (R422 to R425). -/
structure Soot where
  en : Bool
  replay : Bool
  log2 : Nat
  base : Nat
  ovf : Word
  /-- Records written per slice; the run in progress of each unit: requester and record number. -/
  counts : Tab Nat
  runs : Tab (Nat × Nat)
  /-- Accesses already replayed of each unit. -/
  done : Tab Nat
  deriving DecidableEq, Repr

/-- The whole part: the core whose turn it is, the other cores, and everything they share. -/
structure State where
  cpu : Core
  parked : Tab Core
  clusters : Tab Cluster
  /-- Bytes of HBM, TCM and CSP by physical address (R23, R190). -/
  mem : List Host.Cell
  /-- The key value each 128-byte line was last written under (R191). -/
  lineKey : Tab (BitVec 512)
  /-- The lines that boot zeroed for the future table, from the first up to an end, and the value of key slot 0 that they
  were written under (R191, R402). -/
  zeroed : Option (Nat × Nat × BitVec 512)
  /-- Poisoned lines, by line number, with the bytes written since (R403). -/
  poison : Tab (BitVec 128)
  futs : Tab Fut
  ftbase : Nat
  ftsize : Nat
  /-- What is known here of the futures of other devices of the pod, by device and slot (R228, R346). -/
  peerFuts : Tab Fut
  /-- The `ftsize` of other devices of the pod, where it is not the default of R229. -/
  peerSizes : Tab Nat
  gates : List Gate
  remotes : List Remote
  groups : Tab Group
  groupGen : Tab Nat
  devid : Nat
  ndev : Nat
  pod : Nat
  tenants : Vector Tenant 16
  keys : Vector (BitVec 512) 64
  queues : Vector Queue 33
  reel : Reel
  plimit : Nat
  points : Vector (Fin 8) 256
  wear : Tab (BitVec 16 × BitVec 16)
  errlog : List ErrEntry
  errRoute : Nat
  hostRoute : Vector (BitVec 10) 2
  bar2 : Vector (BitVec 4) 2
  opened : List (Fin 2 × Nat × Nat)
  msix : List (Fin 2 × Nat)
  /-- Bytes of the mailbox window and the MSI-X table of each host, by 2^26 times the host plus the offset (R398). -/
  bar0 : List Host.Cell
  meas : Vector (BitVec 384) 8
  boot : Boot
  /-- Firmware has been accepted, so that it runs on the management core (R402 step 3). -/
  firmware : Bool
  /-- Security versions of the running images, and the fused identity of the device (R402). -/
  versions : List Nat
  identity : List Byte
  fatal : Bool
  dbg : DebugRegs
  soot : Soot
  debugOk : Bool
  devtime : Word
  /-- `cycle` of each cluster's front island (R28). -/
  cycles : Vector Word 96
  answer : List Byte
  agenda : List Action
  tick : Nat
  clock : Nat
  deriving DecidableEq, Repr

/-- No prefix pending (R58). -/
def Pfx.none : Pfx := { v := false, pg := 0, ps := false, pd := 0, pc := false, pk := 0 }

/-- The vector state of R116 at reset, with every register NONE and zero (R130). -/
def VecState.reset : VecState :=
  { vl := 0, vbeg := 0, vred := 0, efr := 0, wc := 0, regs := Vector.replicate 32 { tag := none, img := 0 },
    masks := Vector.replicate 7 0, vq := [] }

/-- A context with every register at its reset value. -/
def Ctx.reset : Ctx :=
  { pc := 0, g := Vector.replicate 32 0, pfx := Pfx.none, fst := 0, vec := VecState.reset, tidx := 0, depth := 0,
    tself := 0, held := [], kinds := [], level := 0, pin := false, domCore := 0, cap := 8, launchCap := 8,
    ceiling := 8, cls := 0, limit := 0, tenant := 0, priv := 0, latch := none, latchQ := false, holdAt := none,
    viq := [], need := 0, gn := 0, stepDue := false, once := false, onceOn := none, failWith := none }

/-- A handler level at reset (R370, R371). -/
def Handler.reset (priv : Nat) : Handler :=
  { ctx := { Ctx.reset with priv := priv }, tcause := 0, tval := 0, tepc := 0, tevc := 0, tpriv := 0, nest := false,
    idle := false, tsel := 0, tact := 0 }

/-- Core n at reset: idle, its registers at the values of their maps. -/
def Core.reset (n : Nat) : Core :=
  { id := n, who := .idle, priv := 2, live := Ctx.reset, sys := Handler.reset 1, fw := Handler.reset 2,
    trapped := none, trapPoison := false, halt := .running, lane := none, ahead := none, cut := none, stall := none,
    hold := .none, passed := none, recs := [], shed := [], shedHead := 0, press := false, quantum := 0, preMode := 0, preClass := 0, preAge := 0,
    pendHost := false, pendPreempt := false, pendError := false, l1 := [], code := [], tlb := [], tquant := 8192,
    ctxlim := 64, wsbase := 0, wssize := 128, wsroot := 0, tvec := 0, fvec := 0, ttimer := 0, vslip := 4, dctl := 0,
    dstat := 0, drsel := 0, draughts := Vector.replicate 16 none, drlost := 0, writers := [], trlog := 6,
    trbase := 0, trhead := 0, counters := Vector.replicate 12 0 }

/-- A free and cleared bank. What its tile, scales and accumulators hold before the first use is zero, as R296 leaves them
and the manual does not say of reset (R295, R296; DESIGN CHOICE, log 6). -/
def Bank.reset : Bank :=
  { owner := none, rows := 0, clearing := false, tile := 0, scales := 0, acc := 0, fmt := 0, usable := false,
    latest := none, drop := false, jobs := [], failed := [], poisonTile := 0, poisonScales := 0, poisonAcc := 0 }

/-- A cluster at reset (R371). -/
def Cluster.reset : Cluster :=
  { grants := Vector.replicate 8 0, marks := 0, ent := 8, gated := 0,
    kilnOff := false, tlb := [], dir := [], flue := [], flueWait := [],
    banks := Vector.replicate 8 Bank.reset, fsLog := 4, fsBase := 0, ackSeq := 0, ackAction := 0, ackErr := false,
    outstanding := [], deliveries := [] }

/-- A slot that no future has used yet (R229). -/
def Fut.reset : Fut := { st := .free, kind := 0, gen := 0, count := 0, result := 0, loc := none, edge := true, held := [] }

/-- A tenant that is absent (R387). -/
def Tenant.reset : Tenant :=
  { state := 0, lanemax := 1, bankmax := 0, tiermin := 0, featmask := 0, keyset := 0, root := 0, clusters := 0 }

/-- A launch queue that is not enabled (R390). -/
def Queue.reset : Queue := { base := 0, log2n := 4, en := false, head := 0, tail := 0 }

/-- The machine right after reset: nothing boots, runs or is stored yet; core 0 has the turn. -/
def State.reset : State :=
  { cpu := Core.reset 0, parked := [], clusters := [], mem := [], lineKey := [], zeroed := none, poison := [], futs := [],
    ftbase := 0, ftsize := 24, peerFuts := [], peerSizes := [], gates := [], remotes := [], groups := [], groupGen := [],
    devid := 0, ndev := 1, pod := 0, tenants := Vector.replicate 16 Tenant.reset, keys := Vector.replicate 64 0,
    queues := Vector.replicate 33 Queue.reset, reel := { pending := [], launches := [], since3 := 0, next := 0 },
    plimit := 2800, points := Vector.replicate 256 7, wear := [], errlog := [], errRoute := 0,
    hostRoute := Vector.replicate 2 0, bar2 := Vector.replicate 2 0, opened := [], msix := [], bar0 := [],
    meas := Vector.replicate 8 0, boot := .off, firmware := false, versions := [], identity := [], fatal := false,
    dbg := { dstask := 0, dstep := false, dbten := 0, ibrk := Vector.replicate 4 0, wtch := Vector.replicate 4 0,
               wctl := Vector.replicate 4 0x30 },
    soot := { en := false, replay := false, log2 := 16, base := 0, ovf := 0, counts := [], runs := [], done := [] },
    debugOk := false, devtime := 0, cycles := Vector.replicate 96 0, answer := [], agenda := [], tick := 0, clock := 0 }

end Sys2Proof.Machine
end

