-- ==== Sys2Proof/Machine/Bits.lean ====
section
/-!
DEFINITION. Bit-field, sign-extension and byte-order helpers used by every meaning.
-/

namespace Sys2Proof.Machine

/-- Bits [lo + len - 1 : lo] of a number (R3). -/
def bits (v lo len : Nat) : Nat := v / 2 ^ lo % 2 ^ len

/-- The n-bit two's-complement reading of a number's low n bits (R134). -/
def sgn (n v : Nat) : Int := if v % 2 ^ n < 2 ^ (n - 1) then (v % 2 ^ n : Nat) else (v % 2 ^ n : Nat) - (2 ^ n : Nat)

/-- Trunc(x, n) of an exact integer, as a number (R8). -/
def trunc (n : Nat) (x : Int) : Nat := (x % (2 ^ n : Nat)).toNat

/-- A 64-bit register value from an exact integer (R8). -/
def wordOfInt (x : Int) : Word := BitVec.ofInt 64 x

/-- The low n bits of a number, sign-extended to 64 bits (R8). -/
def sextWord (n v : Nat) : Word := BitVec.ofInt 64 (sgn n v)

/-- Slot i of width w of a bit string, as a number (R109). -/
def slot {n : Nat} (b : BitVec n) (i w : Nat) : Nat := b.toNat / 2 ^ (i * w) % 2 ^ w

/-- A bit string with slot i of width w replaced (R109). -/
def putSlot {n : Nat} (b : BitVec n) (i w v : Nat) : BitVec n :=
  BitVec.ofNat n (b.toNat - slot b i w * 2 ^ (i * w) + v % 2 ^ w * 2 ^ (i * w))

/-- The number whose slots of width w are the listed values, slot 0 first (R109). -/
def packSlots (w : Nat) : List Nat → Nat
  | [] => 0
  | v :: vs => v % 2 ^ w + 2 ^ w * packSlots w vs

/-- The number that k little-endian bytes form (R3). -/
def ofBytes : List Byte → Nat
  | [] => 0
  | b :: bs => b.toNat + 256 * ofBytes bs

/-- The low k bytes of a number, lowest first (R3). -/
def toBytes : Nat → Nat → List Byte
  | 0, _ => []
  | k + 1, v => BitVec.ofNat 8 v :: toBytes k (v / 256)

/-- A field of a byte record: `len` bytes at an offset, little-endian. -/
def at_ (bs : List Byte) (off len : Nat) : Nat := ofBytes ((bs.drop off).take len)

/-- The numbers lo, lo + 1, ... up to and not including hi. -/
def span (lo hi : Nat) : List Nat := (List.range (hi - lo)).map (lo + ·)

/-- The lowest number in [lo, hi) that meets a condition. -/
def firstIn (lo hi : Nat) (p : Nat → Bool) : Option Nat := (span lo hi).find? p

/-- The number of one bits among the low n of a number. -/
def popN (n v : Nat) : Nat := ((List.range n).filter (fun i => v.testBit i)).length

/-- ceil(a / b). -/
def cdiv (a b : Nat) : Nat := (a + b - 1) / b

/-- The largest power of two at most n, for n from 1 to 8 (R104). -/
def pow2Floor (n : Nat) : Nat := if 8 ≤ n then 8 else if 4 ≤ n then 4 else if 2 ≤ n then 2 else 1

/-- The smallest power of two at least n, doubling from p at most `fuel` times (R172, R363). -/
def pow2Ceil : Nat → Nat → Nat → Nat
  | 0, p, _ => p
  | fuel + 1, p, n => if n ≤ p then p else pow2Ceil fuel (2 * p) n

/-- The bits of a number reversed within n bits. -/
def revBits (n v : Nat) : Nat := (List.range n).foldl (fun a i => 2 * a + (v / 2 ^ i % 2)) 0

/-- The word that an access of each size reads, extended to 64 bits (R39). -/
def sizeExtend (z : Size) (v : Nat) : Word :=
  match z with
  | .i8 => sextWord 8 v
  | .i16 => sextWord 16 v
  | .i32 => sextWord 32 v
  | .d => BitVec.ofNat 64 v
  | .n8 => BitVec.ofNat 64 (v % 2 ^ 8)
  | .n16 => BitVec.ofNat 64 (v % 2 ^ 16)
  | .n32 => BitVec.ofNat 64 (v % 2 ^ 32)

/-- The bytes that an access of each size covers (R39). -/
def sizeBytes : Size → Nat
  | .i8 | .n8 => 1
  | .i16 | .n16 => 2
  | .i32 | .n32 => 4
  | .d => 8

/-- Element width in bits of a type (R108). -/
def tyBits : Ty → Nat
  | .e2m1 => 4
  | .i8 | .n8 | .e4m3 | .e5m2 | .e8m0 => 8
  | .i16 | .n16 | .fp16 | .bf16 => 16
  | .i32 | .n32 | .fp32 => 32
  | .i64 | .n64 | .fp64 => 64

/-- The I types (R134). -/
def tySigned : Ty → Bool
  | .i8 | .i16 | .i32 | .i64 => true
  | _ => false

/-- The I and N types (R134). -/
def tyInt : Ty → Bool
  | .i8 | .i16 | .i32 | .i64 | .n8 | .n16 | .n32 | .n64 => true
  | _ => false

/-- The FP types of vector arithmetic (R165). -/
def tyFp : Ty → Bool
  | .fp64 | .fp32 | .fp16 | .bf16 => true
  | _ => false

/-- An integer element read under its type (R134). -/
def tyIntVal (t : Ty) (v : Nat) : Int := if tySigned t then sgn (tyBits t) v else (v % 2 ^ tyBits t : Nat)

/-- The least and greatest value of an integer type (R134). -/
def tyMin (t : Ty) : Int := if tySigned t then -(2 ^ (tyBits t - 1) : Nat) else 0
def tyMax (t : Ty) : Int := if tySigned t then (2 ^ (tyBits t - 1) : Nat) - 1 else (2 ^ tyBits t : Nat) - 1

/-- An integer clamped to a range. -/
def clamp (lo hi x : Int) : Int := if x < lo then lo else if hi < x then hi else x

end Sys2Proof.Machine
end

