-- ==== Sys2Proof/Machine/Flags.lean ====
section
/-!
DEFINITION. The floating-point flags and the status register `fst` (R83, R143, R144).
-/

namespace Sys2Proof.Machine

/-- Accrued exception flags at their places in `fst` (R143). -/
abbrev Flags := BitVec 9

/-- Inexact, underflow, overflow, division by zero, invalid (R143). -/
def flagNX : Flags := 0x010
def flagUF : Flags := 0x020
def flagOF : Flags := 0x040
def flagDZ : Flags := 0x080
def flagNV : Flags := 0x100

/-- The value that MFS reads of `fst` (R143). -/
def fstRead (f : BitVec 9) : Word := f.setWidth 64

/-- The value that an MTS stores in `fst`: bit 3 stays zero, and a RM that is no mode stores RNE (R143, R144). -/
def fstWrite (v : Word) : BitVec 9 :=
  let rm := v.toNat % 8
  BitVec.ofNat 9 ((if 5 ≤ rm then 0 else rm) + v.toNat / 16 % 32 * 16)

end Sys2Proof.Machine
end

