-- ==== Sys2Proof/Machine/Fp.lean ====
section
/-!
DEFINITION. Floating-point values, the formats of R135 to R137, RoundTo (R142, R88) and exact arithmetic on values.
A finite value is a sign with an exact fraction, so that each result is rounded once.
-/

namespace Sys2Proof.Machine

/-- A format: exponent and mantissa bits, bias, largest finite magnitude, infinity and default NaN (R135, R136). -/
structure FloatFmt where
  e : Nat
  m : Nat
  bias : Nat
  maxFin : Nat
  inf : Option Nat
  nan : Option Nat
  deriving DecidableEq, Repr

/-- The floating-point format of a type, E8M0 apart (R135, R136). -/
def floatFmt : Ty → Option FloatFmt
  | .fp64 => some ⟨11, 52, 1023, 0x7FEFFFFFFFFFFFFF, some 0x7FF0000000000000, some 0x7FF8000000000000⟩
  | .fp32 => some ⟨8, 23, 127, 0x7F7FFFFF, some 0x7F800000, some 0x7FC00000⟩
  | .fp16 => some ⟨5, 10, 15, 0x7BFF, some 0x7C00, some 0x7E00⟩
  | .bf16 => some ⟨8, 7, 127, 0x7F7F, some 0x7F80, some 0x7FC0⟩
  | .e5m2 => some ⟨5, 2, 15, 0x7B, some 0x7C, some 0x7E⟩
  | .e4m3 => some ⟨4, 3, 7, 0x7E, none, some 0x7F⟩
  | .e2m1 => some ⟨2, 1, 1, 0x7, none, none⟩
  | _ => none

/-- FP32 (R135), the format of `efr`, the accumulators and in-pod sums. -/
def fmt32 : FloatFmt := ⟨8, 23, 127, 0x7F7FFFFF, some 0x7F800000, some 0x7FC00000⟩

/-- The type of a scalar format (R41). -/
def fmtTy : Fmt → Ty
  | .fp64 => .fp64 | .fp32 => .fp32 | .fp16 => .fp16 | .bf16 => .bf16

/-- The layout of a scalar format (R81, R135). -/
def fmtFloat : Fmt → FloatFmt
  | .fp64 => ⟨11, 52, 1023, 0x7FEFFFFFFFFFFFFF, some 0x7FF0000000000000, some 0x7FF8000000000000⟩
  | .fp32 => fmt32
  | .fp16 => ⟨5, 10, 15, 0x7BFF, some 0x7C00, some 0x7E00⟩
  | .bf16 => ⟨8, 7, 127, 0x7F7F, some 0x7F80, some 0x7FC0⟩

/-- A value: a NaN that may signal, an infinity, or a sign and a fraction num / den with den > 0. -/
inductive FpVal
  | nan (signalling : Bool)
  | inf (neg : Bool)
  | fin (neg : Bool) (num den : Nat)
  deriving DecidableEq, Repr

/-- A rounding direction in force (R41). -/
inductive Dir | rne | rtz | rdn | rup | rna
  deriving DecidableEq, Repr

/-- The mode that `fst.RM` holds (R143, R144). -/
def dirOfRM (fst : BitVec 9) : Dir :=
  match fst.toNat % 8 with
  | 1 => .rtz | 2 => .rdn | 3 => .rup | 4 => .rna | _ => .rne

/-- The direction that an instruction's rm field selects (R41, R83, R145). -/
def dirOf (rm : RM) (fst : BitVec 9) : Dir :=
  match rm with
  | .rne => .rne | .rtz => .rtz | .rdn => .rdn | .rup => .rup | .rna => .rna | .ef => .rne | .dyn => dirOfRM fst

/-- FpVal(bits, format): the value of a bit pattern (R135, R136). -/
def fpVal (f : FloatFmt) (v : Nat) : FpVal :=
  let neg := v.testBit (f.e + f.m)
  let mag := v % 2 ^ (f.e + f.m)
  match f.inf with
  | some i =>
    if mag = i then .inf neg
    else if i < mag then .nan (!mag.testBit (f.m - 1))
    else finite neg mag
  | none => if f.nan = some mag then .nan false else finite neg mag
where
  finite (neg : Bool) (mag : Nat) : FpVal :=
    let ex := mag / 2 ^ f.m
    let mant := mag % 2 ^ f.m
    if ex = 0 then .fin neg (mant * 2) (2 ^ (f.bias + f.m))
    else .fin neg ((2 ^ f.m + mant) * 2 ^ ex) (2 ^ (f.bias + f.m))

/-- The value of an E8M0 code (R137). -/
def e8m0Val (x : Nat) : FpVal := if x = 255 then .nan false else .fin false (2 ^ x) (2 ^ 127)

/-- The value of an element under any floating-point type (R135 to R137); other types have none. -/
def tyVal (t : Ty) (v : Nat) : FpVal :=
  match floatFmt t with
  | some f => fpVal f v
  | none => if t = .e8m0 then e8m0Val (v % 256) else .nan false

/-- The value of an integer. -/
def intVal (x : Int) : FpVal := .fin (x < 0) x.natAbs 1

/-- floor(log2(num / den)) for num, den > 0. -/
def ilog2 (num den : Nat) : Int :=
  let l : Int := (Nat.log2 num : Int) - Nat.log2 den
  if 0 ≤ l then (if den * 2 ^ l.toNat ≤ num then l else l - 1)
  else (if den ≤ num * 2 ^ (-l).toNat then l else l - 1)

/-- The quotient and whether a remainder stands, of num / den scaled by 2^-ex, and its rounding up (R142). -/
def roundAt (d : Dir) (neg : Bool) (num den : Nat) (ex : Int) : Nat × Bool :=
  let n := if 0 ≤ ex then num else num * 2 ^ (-ex).toNat
  let m := if 0 ≤ ex then den * 2 ^ ex.toNat else den
  let q := n / m
  let r := n % m
  let up := match d with
    | .rne => m < 2 * r || (2 * r == m && q % 2 == 1)
    | .rna => m ≤ 2 * r
    | .rtz => false
    | .rdn => neg && r != 0
    | .rup => !neg && r != 0
  (if up then q + 1 else q, r != 0)

/-- The sign bit of a format, set or clear, over a magnitude. -/
def signed (f : FloatFmt) (neg : Bool) (mag : Nat) : Nat := if neg then mag + 2 ^ (f.e + f.m) else mag

/-- The default NaN of a format; E2M1 has none and takes +0 (R136, R150). -/
def defaultNaN (f : FloatFmt) : Nat := f.nan.getD 0

/-- The magnitude that an overflow gives: R88, the adjustments of R142, or saturation under VCVTS (R149). -/
def overflowBits (f : FloatFmt) (d : Dir) (sat : Bool) (neg : Bool) : Nat :=
  let toInf := match d with
    | .rne | .rna => true
    | .rtz => false
    | .rdn => neg
    | .rup => !neg
  match f.inf, f.nan with
  | some i, _ => if toInf && !(sat && f.m = 2) then signed f neg i else signed f neg f.maxFin
  | none, some n => if toInf && !sat then n else signed f neg f.maxFin
  | none, none => signed f neg f.maxFin

/-- RoundTo of a finite nonzero value num / den: bits and flags (R142, R88). -/
def roundFin (f : FloatFmt) (d : Dir) (sat : Bool) (neg : Bool) (num den : Nat) : Nat × Flags :=
  let emin : Int := 1 - (f.bias : Int)
  let e := ilog2 num den
  let eb := if e < emin then emin else e
  let (q, nx) := roundAt d neg num den (eb - f.m)
  let mag := (eb - emin).toNat * 2 ^ f.m + q
  if f.maxFin < mag then (overflowBits f d sat neg, flagOF ||| flagNX)
  else
    let tiny := e < emin - 1 || (e == emin - 1 && (roundAt d neg num den (e - f.m)).1 < 2 ^ (f.m + 1))
    (signed f neg mag, (if nx then flagNX else 0) ||| (if nx && tiny then flagUF else 0))

/-- RoundTo(x, format, direction) with the flags of its rounding; `sat` is the saturation of VCVTS (R142, R149). -/
def roundTo (f : FloatFmt) (d : Dir) (sat : Bool) (x : FpVal) : Nat × Flags :=
  match x with
  | .nan _ => (defaultNaN f, 0)
  | .inf neg =>
    match f.inf with
    | some i => (signed f neg i, 0)
    | none => (overflowBits f .rne sat neg, 0)
  | .fin neg num den => if num = 0 then (signed f neg 0, 0) else roundFin f d sat neg num den

/-- Invalid for a signalling NaN (R82). -/
def snan : FpVal → Flags
  | .nan true => flagNV
  | _ => 0

/-- Whether a value is a NaN. -/
def FpVal.isNaN : FpVal → Bool
  | .nan _ => true
  | _ => false

/-- -x. -/
def fpNeg : FpVal → FpVal
  | .nan s => .nan s
  | .inf n => .inf (!n)
  | .fin n a b => .fin (!n) a b

/-- |x|. -/
def fpAbs : FpVal → FpVal
  | .nan s => .nan s
  | .inf _ => .inf false
  | .fin _ a b => .fin false a b

/-- The exact sum of two finite values, with the sign of an exact zero (R82); two zeros of the same sign keep it (R172). -/
def sumFin (d : Dir) (n1 : Bool) (a1 b1 : Nat) (n2 : Bool) (a2 b2 : Nat) : FpVal :=
  let x := a1 * b2
  let y := a2 * b1
  if n1 = n2 then .fin n1 (x + y) (b1 * b2)
  else if x = y then .fin (d == .rdn) 0 1
  else if y < x then .fin n1 (x - y) (b1 * b2)
  else .fin n2 (y - x) (b1 * b2)

/-- x + y, exact, with the exceptions of FADD (R82, R85). -/
def fpAdd (d : Dir) (x y : FpVal) : FpVal × Flags :=
  match x, y with
  | .nan _, _ => (.nan false, snan x ||| snan y)
  | _, .nan _ => (.nan false, snan y)
  | .inf a, .inf b => if a = b then (.inf a, 0) else (.nan false, flagNV)
  | .inf a, .fin _ _ _ => (.inf a, 0)
  | .fin _ _ _, .inf b => (.inf b, 0)
  | .fin n1 a1 b1, .fin n2 a2 b2 => (sumFin d n1 a1 b1 n2 a2 b2, 0)

/-- x × y, exact, with the exceptions of FMUL (R85). -/
def fpMul (x y : FpVal) : FpVal × Flags :=
  match x, y with
  | .nan _, _ => (.nan false, snan x ||| snan y)
  | _, .nan _ => (.nan false, snan y)
  | .inf a, .inf b => (.inf (a != b), 0)
  | .inf a, .fin n m _ => if m = 0 then (.nan false, flagNV) else (.inf (a != n), 0)
  | .fin n m _, .inf b => if m = 0 then (.nan false, flagNV) else (.inf (n != b), 0)
  | .fin n1 a1 b1, .fin n2 a2 b2 => (.fin (n1 != n2) (a1 * a2) (b1 * b2), 0)

/-- x ÷ y, exact, with the exceptions of FDIV (R85). -/
def fpDiv (x y : FpVal) : FpVal × Flags :=
  match x, y with
  | .nan _, _ => (.nan false, snan x ||| snan y)
  | _, .nan _ => (.nan false, snan y)
  | .inf _, .inf _ => (.nan false, flagNV)
  | .inf a, .fin n _ _ => (.inf (a != n), 0)
  | .fin n _ _, .inf b => (.fin (n != b) 0 1, 0)
  | .fin n1 a1 b1, .fin n2 a2 b2 =>
    if a2 = 0 then (if a1 = 0 then (.nan false, flagNV) else (.inf (n1 != n2), flagDZ))
    else (.fin (n1 != n2) (a1 * b2) (b1 * a2), 0)

/-- ±(x × y) ± z as one exact value, with the exceptions of FMA (R89, R169). -/
def fpFma (d : Dir) (negP negZ : Bool) (x y z : FpVal) : FpVal × Flags :=
  let (p, fp) := fpMul x y
  let p := if negP then fpNeg p else p
  let z := if negZ then fpNeg z else z
  let (r, fr) := fpAdd d p z
  (r, fp ||| fr ||| snan z)

/-- The integer square root by binary digits, from bit k down (R85). -/
def isqrt : Nat → Nat → Nat → Nat
  | 0, r, _ => r
  | k + 1, r, v => if (r + 2 ^ k) * (r + 2 ^ k) ≤ v then isqrt k (r + 2 ^ k) v else isqrt k r v

/-- A value that every format rounds as it rounds the square root (R85): the root to 600 fraction bits, with a half
unit more when it is not exact. -/
def fpSqrt (x : FpVal) : FpVal × Flags :=
  match x with
  | .nan _ => (.nan false, snan x)
  | .inf false => (.inf false, 0)
  | .inf true => (.nan false, flagNV)
  | .fin neg num den =>
    if num = 0 then (.fin neg 0 1, 0)
    else if neg then (.nan false, flagNV)
    else
      let v := num * 2 ^ 1200
      let s := isqrt 1130 0 (v / den)
      if s * s * den = v then (.fin false s (2 ^ 600), 0) else (.fin false (2 * s + 1) (2 ^ 601), 0)

/-- Whether x < y, with -0 equal to +0; false when either is a NaN (R176). -/
def fpLt (x y : FpVal) : Bool :=
  match x, y with
  | .nan _, _ => false
  | _, .nan _ => false
  | .inf a, .inf b => a && !b
  | .inf a, _ => a
  | _, .inf b => !b
  | .fin n1 a1 b1, .fin n2 a2 b2 =>
    let l : Int := if n1 then -((a1 * b2 : Nat) : Int) else ((a1 * b2 : Nat) : Int)
    let r : Int := if n2 then -((a2 * b1 : Nat) : Int) else ((a2 * b1 : Nat) : Int)
    l < r

/-- Whether x = y, for values that are not NaNs, with -0 equal to +0. -/
def fpEq (x y : FpVal) : Bool := !x.isNaN && !y.isNaN && !fpLt x y && !fpLt y x

/-- Whether a value has its sign bit set. -/
def fpNegative : FpVal → Bool
  | .nan _ => false
  | .inf n => n
  | .fin n _ _ => n

/-- x before y in the order with -0 below +0 (R85, R172). -/
def fpBelow (x y : FpVal) : Bool := fpLt x y || (fpEq x y && fpNegative x && !fpNegative y)

/-- FMIN and FMAX (R85): the lesser or greater, the operand that is no NaN, or the default NaN. -/
def fpMinMax (greater : Bool) (x y : FpVal) : FpVal × Flags :=
  let fl := snan x ||| snan y
  match x, y with
  | .nan _, .nan _ => (.nan false, fl)
  | .nan _, _ => (y, fl)
  | _, .nan _ => (x, fl)
  | _, _ => (if fpBelow x y = greater then y else x, fl)

/-- The class number of a bit pattern (R86). -/
def fpClass (f : FloatFmt) (v : Nat) : Nat :=
  let sub := v % 2 ^ (f.e + f.m) < 2 ^ f.m
  match fpVal f v with
  | .nan true => 0
  | .nan false => 1
  | .inf true => 2
  | .inf false => 9
  | .fin neg num _ =>
    if num = 0 then (if neg then 5 else 6)
    else if neg then (if sub then 4 else 3)
    else (if sub then 7 else 8)

/-- A value rounded to an integer and brought into a range, as FCVTI and FCVTN do (R87). -/
def fpToInt (d : Dir) (lo hi : Int) (x : FpVal) : Int × Flags :=
  match x with
  | .nan _ => (0, flagNV)
  | .inf neg => (if neg then lo else hi, flagNV)
  | .fin neg num den =>
    let (q, nx) := roundAt d neg num den 0
    let r : Int := if neg then -(q : Int) else q
    if lo ≤ r ∧ r ≤ hi then (r, if nx then flagNX else 0) else (if neg then lo else hi, flagNV)

/-- Lower and upper bounds of 2^(frac / 2^k) in units of 2^-256, by k square roots of 2 (R167). -/
def exp2Frac : Nat → Nat → Nat → Nat → Nat → Nat × Nat
  | 0, _, _, lo, hi => (lo, hi)
  | k + 1, frac, root, lo, hi =>
    let root' := isqrt 258 0 (root * 2 ^ 256)
    if frac / 2 ^ k % 2 = 1 then
      exp2Frac k frac root' (lo * root' / 2 ^ 256) (hi * (root' + 2 * (1 + k)) / 2 ^ 256 + 1)
    else exp2Frac k frac root' lo hi

/-- 2^x rounded to a format under RNE (R167). -/
def fpExp2 (f : FloatFmt) (bitsIn : Nat) : Nat × Flags :=
  match fpVal f bitsIn with
  | .nan s => (defaultNaN f, snan (.nan s))
  | .inf neg => if neg then (0, 0) else (f.inf.getD f.maxFin, 0)
  | .fin neg num den =>
    let k := Nat.log2 den
    let n : Int := if neg then -((cdiv num den : Nat) : Int) else ((num / den : Nat) : Int)
    let frac := if neg then (den - num % den) % den else num % den
    if num = 0 then roundTo f .rne false (.fin false 1 1)
    else if 400 < n then roundFin f .rne false false (2 ^ 401) 1
    else if n < -400 then roundFin f .rne false false 1 (2 ^ 401)
    else
      let scale (v : Nat) : FpVal := if 0 ≤ n then .fin false (v * 2 ^ n.toNat) (2 ^ 257) else .fin false v (2 ^ (257 + (-n).toNat))
      if frac = 0 then roundTo f .rne false (scale (2 ^ 257))
      else
        let (lo, hi) := exp2Frac k frac (2 * 2 ^ 256) (2 ^ 256) (2 ^ 256)
        let a := roundTo f .rne false (scale (2 * lo))
        let b := roundTo f .rne false (scale (2 * hi))
        if a.1 = b.1 then roundTo f .rne false (scale (lo + hi)) else (Config.exp2 bitsIn % 2 ^ (f.e + f.m), flagNX)

end Sys2Proof.Machine
end

