-- ==== Sys2Proof/Machine/Aes.lean ====
section
/-!
DEFINITION. AES-256 (FIPS 197) and XTS (IEEE 1619), which R191 names for the encryption of an HBM line.
-/

namespace Sys2Proof.Machine

/-- The S-box, entry i in byte i (FIPS 197). -/
def sboxTable : Nat :=
  0xc072a49cafa2d4adf04759fa7dc982ca76abd7fe2b670130c56f6bf27b777c63 * 2 ^ 0 +
  0x75b227ebe28012079a059618c323c7041531d871f1e5a534ccf73f362693fdb7 * 2 ^ 256 +
  0xcf584c4a39becb6a5bb1fc20ed00d153842fe329b3d63b52a05a6e1b1a2c8309 * 2 ^ 512 +
  0xd2f3ff1021dab6bcf5389d928f40a351a89f3c507f02f94585334d43fbaaefd0 * 2 ^ 768 +
  0xdb0b5ede14b8ee4688902a22dc4f816073195d643d7ea7c41744975fec130ccd * 2 ^ 1024 +
  0x08ae7a65eaf4566ca94ed58d6d37c8e779e4959162acd3c25c2406490a3a32e0 * 2 ^ 1280 +
  0x9e1dc186b95735610ef6034866b53e708a8bbd4b1f74dde8c6b4a61c2e2578ba * 2 ^ 1536 +
  0x16bb54b00f2d99416842e6bf0d89a18cdf2855cee9871e9b948ed9691198f8e1 * 2 ^ 1792

/-- The inverse S-box, entry i in byte i (FIPS 197). -/
def invSboxTable : Nat :=
  0xcbe9dec444438e3487ff2f9b8239e37cfbd7f3819ea340bf38a53630d56a0952 * 2 ^ 0 +
  0x25d18b6d49a25b76b224d92866a12e084ec3fa420b954cee3d23c2a632947b54 * 2 ^ 256 +
  0x849d8da75746155edab9edfd5048706c92b6655dcc5ca4d41698688664f6f872 * 2 ^ 512 +
  0x6b8a130103bdafc1020f3fca8f1e2cd00645b3b80558e4f70ad3bc8c00abd890 * 2 ^ 768 +
  0x6edf751ce837f9e28535ade72274ac9673e6b4f0cecff297eadc674f4111913a * 2 ^ 1024 +
  0xf45acd78fec0db9a2079d2c64b3e56fc1bbe18aa0e62b76f89c5291d711af147 * 2 ^ 1280 +
  0xef9cc9939f7ae52d0d4ab519a97f51605fec8027591012b131c7078833a8dd1f * 2 ^ 1536 +
  0x7d0c2155631469e126d677ba7e042b17619953833cbbebc8b0f52aae4d3be0a0 * 2 ^ 1792

/-- A byte through a table of 256 bytes. -/
def tableByte (t b : Nat) : Nat := t / 2 ^ (8 * b) % 256
def subByte (b : Nat) : Nat := tableByte sboxTable b
def invSubByte (b : Nat) : Nat := tableByte invSboxTable b

/-- Multiplication by x in GF(2^8) (FIPS 197). -/
def xtime (b : Nat) : Nat := if b < 128 then 2 * b else (2 * b) ^^^ 0x11B

/-- A product in GF(2^8) with a factor below 16. -/
def gmul (k b : Nat) : Nat :=
  let b2 := xtime b
  let b4 := xtime b2
  let b8 := xtime b4
  (if k.testBit 0 then b else 0) ^^^ (if k.testBit 1 then b2 else 0) ^^^ (if k.testBit 2 then b4 else 0) ^^^
  (if k.testBit 3 then b8 else 0)

/-- Bytes combined by exclusive or. -/
def xorBytes (a b : List Nat) : List Nat := List.zipWith (· ^^^ ·) a b

/-- Byte i of a block. -/
def blockByte (b : List Nat) (i : Nat) : Nat := (b[i]?).getD 0

/-- The word that enters a step of the key expansion, from the word before it (FIPS 197). -/
def keyWord (i rcon : Nat) (prev : List Nat) : List Nat :=
  if i % 8 = 0 then
    match prev with
    | a :: rest =>
      match (rest ++ [a]).map subByte with
      | x :: xs => (x ^^^ rcon) :: xs
      | [] => []
    | [] => []
  else if i % 8 = 4 then prev.map subByte
  else prev

/-- The words of the key schedule, newest first, from word i on (FIPS 197). -/
def expandFrom : Nat → Nat → Nat → List (List Nat) → List (List Nat)
  | 0, _, _, ws => ws
  | fuel + 1, i, rcon, ws =>
    let new := xorBytes ((ws[7]?).getD []) (keyWord i rcon ((ws[0]?).getD []))
    expandFrom fuel (i + 1) (if i % 8 = 0 then xtime rcon else rcon) (new :: ws)

/-- Consecutive groups of n members, of a list with at most `fuel` of them. -/
def groupsOf {α : Type} (n : Nat) : Nat → List α → List (List α)
  | 0, _ => []
  | fuel + 1, l => l.take n :: groupsOf n fuel (l.drop n)

/-- The fifteen round keys of a 32-byte key. -/
def roundKeys (key : List Nat) : List (List Nat) :=
  (groupsOf 4 15 (expandFrom 52 8 1 (groupsOf 4 8 key).reverse).reverse).map List.flatten

/-- ShiftRows and its inverse; byte r of column c is byte 4 c + r of the block. -/
def shiftRows (b : List Nat) : List Nat :=
  (List.range 16).map fun i => blockByte b (4 * ((i / 4 + i % 4) % 4) + i % 4)
def invShiftRows (b : List Nat) : List Nat :=
  (List.range 16).map fun i => blockByte b (4 * ((i / 4 + 4 - i % 4) % 4) + i % 4)

/-- Each column multiplied by a circulant matrix whose first row is given (MixColumns). -/
def mixWith (row : List Nat) (b : List Nat) : List Nat :=
  (List.range 16).map fun i =>
    (List.range 4).foldl (fun a j => a ^^^ gmul (blockByte row ((j + 4 - i % 4) % 4)) (blockByte b (i / 4 * 4 + j))) 0

/-- A block encrypted under round keys (FIPS 197 Cipher). -/
def cipher (keys : List (List Nat)) (b : List Nat) : List Nat :=
  match keys with
  | [] => b
  | k0 :: ks =>
    let mid := ks.dropLast.foldl (fun x k => xorBytes (mixWith [2, 3, 1, 1] (shiftRows (x.map subByte))) k) (xorBytes b k0)
    xorBytes (shiftRows (mid.map subByte)) (ks.getLastD [])

/-- A block decrypted under round keys (FIPS 197 InvCipher). -/
def invCipher (keys : List (List Nat)) (b : List Nat) : List Nat :=
  match keys.reverse with
  | [] => b
  | k0 :: ks =>
    let mid := ks.dropLast.foldl
      (fun x k => mixWith [14, 11, 13, 9] (xorBytes ((invShiftRows x).map invSubByte) k)) (xorBytes b k0)
    xorBytes ((invShiftRows mid).map invSubByte) (ks.getLastD [])

/-- The bytes of a number, lowest first, as numbers. -/
def natBytes (n v : Nat) : List Nat := (List.range n).map fun i => v / 2 ^ (8 * i) % 256

/-- The number that bytes form, lowest first. -/
def bytesNat : List Nat → Nat
  | [] => 0
  | b :: bs => b + 256 * bytesNat bs

/-- The next tweak: multiplication by x in GF(2^128) (IEEE 1619). -/
def nextTweak (t : Nat) : Nat := if t < 2 ^ 127 then 2 * t else (2 * t - 2 ^ 128) ^^^ 0x87

/-- The tweaks of a data unit's blocks. -/
def tweaks : Nat → Nat → List Nat
  | 0, _ => []
  | n + 1, t => t :: tweaks n (nextTweak t)

/-- A 128-byte line under XTS with a key slot's 64 bytes, data key first, and the line number as the tweak (R191,
R388). `f` is the cipher or its inverse. -/
def xtsLine (f : List (List Nat) → List Nat → List Nat) (key : BitVec 512) (line : Nat) (data : BitVec 1024) :
    BitVec 1024 :=
  let k1 := roundKeys (natBytes 32 key.toNat)
  let k2 := roundKeys (natBytes 32 (key.toNat / 2 ^ 256))
  let t0 := bytesNat (cipher k2 (natBytes 16 line))
  let blocks := (List.range 8).zip (tweaks 8 t0)
  BitVec.ofNat 1024 (bytesNat ((blocks.map fun p =>
    let t := natBytes 16 p.2
    xorBytes (f k1 (xorBytes (natBytes 16 (data.toNat / 2 ^ (128 * p.1))) t)) t).flatten))

/-- A line encrypted and decrypted under a key value (R191). -/
def encryptLine (key : BitVec 512) (line : Nat) (data : BitVec 1024) : BitVec 1024 := xtsLine cipher key line data
def decryptLine (key : BitVec 512) (line : Nat) (data : BitVec 1024) : BitVec 1024 := xtsLine invCipher key line data

end Sys2Proof.Machine
end

