-- ==== Sys2Proof/Machine/Mem.lean ====
section
/-!
DEFINITION. Cores and clusters by number, physical memory at its home, the L1 data cache, page walks and translation
(R185 to R201, and the reconciliation section of the ordering chapter).
-/

namespace Sys2Proof.Machine

/-- The package cluster number of a core (R17). -/
def clusterOf (core : Nat) : Nat := core / 8

/-- The cycle count of a cluster's front island (R28). -/
def cyclesOf (s : State) (cl : Nat) : Word := s.cycles.get (Fin.ofNat 96 cl)

/-- A core that nothing has run on: every cycle of its island has passed idle (R28, R419). -/
def freshCore (s : State) (n : Nat) : Core :=
  let c := Core.reset n
  { c with counters := c.counters.set 3 (cyclesOf s (clusterOf n)) }

/-- Core n, wherever it stands. -/
def coreAt (s : State) (n : Nat) : Core := if s.cpu.id = n then s.cpu else (s.parked.find n).getD (freshCore s n)

/-- The state with a core's data replaced. -/
def setCore (s : State) (c : Core) : State :=
  if s.cpu.id = c.id then { s with cpu := c } else { s with parked := Tab.put s.parked c.id c }

/-- The state with one core changed. -/
def modCore (s : State) (n : Nat) (f : Core → Core) : State := setCore s (f (coreAt s n))

/-- The running core changed. -/
def modCpu (s : State) (f : Core → Core) : State := { s with cpu := f s.cpu }

/-- The running context changed. -/
def modLive (s : State) (f : Ctx → Ctx) : State := { s with cpu := { s.cpu with live := f s.cpu.live } }

/-- Another core gets the turn; the one that had it is parked. -/
def turnTo (s : State) (n : Nat) : State :=
  if s.cpu.id = n then s
  else { s with cpu := coreAt s n, parked := Tab.put (Tab.drop s.parked n) s.cpu.id s.cpu }

/-- Something done with another core in the turn, which then goes back. -/
def onCore (s : State) (n : Nat) (f : State → State) : State := turnTo (f (turnTo s n)) s.cpu.id

/-- Cluster n. -/
def clusterAt (s : State) (n : Nat) : Cluster := (s.clusters.find n).getD Cluster.reset

/-- The state with a cluster's data replaced. -/
def setCluster (s : State) (n : Nat) (c : Cluster) : State := { s with clusters := Tab.put s.clusters n c }

/-- The state with one cluster changed. -/
def modCluster (s : State) (n : Nat) (f : Cluster → Cluster) : State := setCluster s n (f (clusterAt s n))

/-- The numbers of every core of the device that is not in its reset state, the running one first. -/
def coreList (s : State) : List Nat := s.cpu.id :: s.parked.map (·.1)

/-- A counter of R419 raised by one. -/
def bump (s : State) (i : Fin 12) : State :=
  modCpu s fun c => { c with counters := c.counters.set i (c.counters.get i + 1) }

/-- The byte that memory lists at an address; an unlisted byte reads 0 (log 3). -/
def memGet (m : List Host.Cell) (a : Nat) : Byte := (Tab.find m a).getD 0

/-- Memory with one byte written, in canonical form. -/
def memSet (m : List Host.Cell) (a : Nat) (b : Byte) : List Host.Cell := if b = 0 then Tab.drop m a else Tab.put m a b

/-- Whether the addresses of a table rise strictly above a bound. -/
def risingFrom : Nat → List Host.Cell → Bool
  | _, [] => true
  | lo, (a, b) :: t => decide (lo ≤ a) && b != 0 && risingFrom (a + 1) t

/-- The canonical form of memory: rising addresses, and no byte that an unlisted address would read as. -/
def Memory.wf (m : List Host.Cell) : Bool := risingFrom 0 m

/-- Bytes written at rising addresses. -/
def memPut (m : List Host.Cell) : Nat → List Byte → List Host.Cell
  | _, [] => m
  | a, b :: bs => memPut (memSet m a b) (a + 1) bs

/-- Bytes read at rising addresses. -/
def memTake (m : List Host.Cell) (a n : Nat) : List Byte := (List.range n).map fun i => memGet m (a + i)

/-- The physical ranges of R23 and R190. -/
def hbmEnd : Nat := 0x8000000000
def tcmBase : Nat := 0x8000000000
def cspBase : Nat := 0x8100000000
def ctlBase : Nat := 0x8200000000
def ctlEnd : Nat := 0x8300000000

/-- The physical address of an offset in a core's TCM and in a cluster's CSP (R190). -/
def tcmAddr (core off : Nat) : Nat := tcmBase + 0x40000 * core + off
def cspAddr (cl off : Nat) : Nat := cspBase + 0x400000 * cl + off

/-- The bytes that a line written under one key value reads as under another: the stored line is the encryption under
the first, and the access decrypts it under the second (R191). -/
def recrypt (old new : BitVec 512) (line : Nat) (data : BitVec 1024) : BitVec 1024 :=
  if old = new then data else decryptLine new line (encryptLine old line data)

/-- The key value that an HBM line was last written under: by an access, by boot, or else 0 (R191, R402). -/
def keyOf (s : State) (line : Nat) : BitVec 512 :=
  (s.lineKey.find line).getD
    (match s.zeroed with
     | some z => if z.1 ≤ line && line < z.2.1 then z.2.2 else 0
     | none => 0)

/-- An HBM line brought under a key index (R191, log 15). -/
def touchLine (s : State) (k : Fin 64) (line : Nat) : State :=
  let old := keyOf s line
  let new := s.keys.get k
  if line * 128 < hbmEnd && old != new then
    let v := recrypt old new line (BitVec.ofNat 1024 (ofBytes (memTake s.mem (line * 128) 128)))
    { s with mem := memPut s.mem (line * 128) (toBytes 128 v.toNat), lineKey := Tab.put s.lineKey line new }
  else s

/-- Every line of a physical range brought under a key index. -/
def touch (s : State) (k : Fin 64) (pa n : Nat) : State :=
  (span (pa / 128) (if n = 0 then 0 else (pa + n + 127) / 128)).foldl (fun t l => touchLine t k l) s

/-- A read at the home (R189, R191). -/
def readPhys (s : State) (k : Fin 64) (pa n : Nat) : List Byte × State :=
  let s := touch s k pa n
  (memTake s.mem pa n, s)

/-- The poison marks after a write of n bytes: a mark clears when every byte of its line has been written (R403). -/
def unpoison (p : Tab (BitVec 128)) (pa n : Nat) : Tab (BitVec 128) :=
  (List.range n).foldl (fun p i =>
    let line := (pa + i) / 128
    match p.find line with
    | some w =>
      let w' := w ||| (1 : BitVec 128) <<< ((pa + i) % 128)
      if w' = BitVec.allOnes 128 then Tab.drop p line else Tab.put p line w'
    | none => p) p

/-- A write at the home (R189, R191, R403). -/
def writePhys (s : State) (k : Fin 64) (pa : Nat) (bs : List Byte) : State :=
  let s := touch s k pa bs.length
  { s with mem := memPut s.mem pa bs, poison := unpoison s.poison pa bs.length }

/-- Whether a physical range holds a byte of a poisoned line (R222). -/
def poisoned (s : State) (pa n : Nat) : Bool :=
  (span (pa / 128) ((pa + n + 127) / 128)).any fun l => (s.poison.find l).isSome

/-- Bits i to i + n - 1 set, of 128. -/
def byteMask (i n : Nat) : BitVec 128 := BitVec.ofNat 128 ((2 ^ n - 1) * 2 ^ i)

/-- The dirty bytes of an L1 line written to its home (R187). -/
def flushLine (s : State) (l : L1Line) : State :=
  (List.range 128).foldl (fun t i =>
    if l.dirty.getLsbD i then writePhys t l.key (l.line * 128 + i) [BitVec.ofNat 8 (slot l.data i 8)] else t) s

/-- Every dirty L1 line of a core written back and left clean (reconciliation at an edge's source). -/
def writeBack (s : State) (core : Nat) : State :=
  let ls := (coreAt s core).l1
  let s := ls.foldl flushLine s
  modCore s core fun c => { c with l1 := ls.map fun l => { l with dirty := 0 } }

/-- The dirty L1 lines of a core that meet a condition written back (R381, R383). A dirty line goes home only with all the
others of its core, so that no store is seen at home before an older one: R447 promises it of a LAT entry and the line
that it names (DEDUCED, log 81). -/
def writeBackIf (s : State) (core : Nat) (p : Nat → Bool) : State :=
  if (coreAt s core).l1.any fun l => p l.line && l.dirty != 0 then writeBack s core else s

/-- The clean bytes of a core's L1 invalidated; dirty bytes survive (reconciliation at an edge's target). -/
def invalidate (s : State) (core : Nat) : State :=
  modCore s core fun c =>
    { c with l1 := (c.l1.filter fun l => l.dirty != 0).map fun l => { l with valid := l.dirty } }

/-- Room for a line in the running core's L1: a full set of four gives up a line of free choice. R187 has 128 sets and names
no index: a line stands in the set of its physical line number modulo 128 (R187; DESIGN CHOICE, log 8). -/
def l1Room (s : State) (line : Nat) : State :=
  let set := s.cpu.l1.filter fun l => l.line % 128 = line % 128
  if set.length < 4 then s
  else
    match set[Config.pick s.tick 1 % set.length]? with
    | some v =>
      let s := if v.dirty = 0 then s else writeBack s s.cpu.id
      modCpu s fun c => { c with l1 := c.l1.filter fun l => l.line != v.line }
    | none => s

/-- The L1 line of the running core, if it holds one under this key index. -/
def l1Find (s : State) (k : Fin 64) (line : Nat) : Option L1Line :=
  s.cpu.l1.find? fun l => l.line = line && l.key = k

/-- A line that L1 holds under another key index leaves it first (R191). -/
def l1Rekey (s : State) (k : Fin 64) (line : Nat) : State :=
  match s.cpu.l1.find? fun l => l.line = line && l.key != k with
  | some v =>
    modCpu (if v.dirty = 0 then s else writeBack s s.cpu.id) fun c =>
      { c with l1 := c.l1.filter fun l => l.line != line }
  | none => s

/-- The bytes of a line merged: those of `keep` from `a`, the others from `b`. -/
def mergeBytes (keep : BitVec 128) (a b : BitVec 1024) : BitVec 1024 :=
  BitVec.ofNat 1024 (ofBytes ((List.range 128).map fun i =>
    BitVec.ofNat 8 (if keep.getLsbD i then slot a i 8 else slot b i 8)))

/-- A load through the running core's L1, of bytes that lie in one line; none when it needs a poisoned line (R187, R222).
A miss fills the line, except under the streaming hint (R219). -/
def l1Load (s : State) (k : Fin 64) (stream : Bool) (pa n : Nat) : Option (List Byte) × State :=
  let line := pa / 128
  let need := byteMask (pa % 128) n
  let s := l1Rekey s k line
  let held := l1Find s k line
  let hit := match held with
    | some l => l.valid &&& need == need
    | none => false
  match held, hit with
  | some l, true => (some ((List.range n).map fun i => BitVec.ofNat 8 (slot l.data (pa % 128 + i) 8)), s)
  | _, _ =>
    let s := bump s 8
    if poisoned s pa n then (none, s)
    else
      let (home, s) := readPhys s k (line * 128) 128
      let hv := BitVec.ofNat 1024 (ofBytes home)
      let data := match held with
        | some l => mergeBytes l.dirty l.data hv
        | none => hv
      let bytes := (List.range n).map fun i => BitVec.ofNat 8 (slot data (pa % 128 + i) 8)
      match held with
      | some _ =>
        (some bytes, modCpu s fun c => { c with l1 := c.l1.map fun l =>
          if l.line = line then { l with data := data, valid := BitVec.allOnes 128 } else l })
      | none =>
        if stream then (some bytes, s)
        else
          (some bytes, modCpu (l1Room s line) fun c =>
            { c with l1 := { line := line, data := data, valid := BitVec.allOnes 128, dirty := 0, key := k } :: c.l1 })

/-- A line's data with n bytes at an offset replaced. -/
def patch (d : BitVec 1024) (off : Nat) (bs : List Byte) : BitVec 1024 :=
  ((List.range bs.length).zip bs).foldl (fun d p => putSlot d (off + p.1) 8 p.2.toNat) d

/-- The line that a store miss fills from its home; of a poisoned line no byte is valid (R187, R222). -/
def storeFill (s : State) (k : Fin 64) (line : Nat) : L1Line × State :=
  let s := bump (l1Room s line) 8
  if poisoned s (line * 128) 128 then ({ line := line, data := 0, valid := 0, dirty := 0, key := k }, s)
  else
    let (home, s) := readPhys s k (line * 128) 128
    ({ line := line, data := BitVec.ofNat 1024 (ofBytes home), valid := BitVec.allOnes 128, dirty := 0, key := k }, s)

/-- A line with stored bytes, valid and dirty (R187). -/
def storeLine (l : L1Line) (pa : Nat) (bs : List Byte) : L1Line :=
  let m := byteMask (pa % 128) bs.length
  { l with data := patch l.data (pa % 128) bs, valid := l.valid ||| m, dirty := l.dirty ||| m }

/-- A store through the running core's L1, of bytes that lie in one line: write-back, and a miss first fills its line
(R187, R97). -/
def l1Store (s : State) (k : Fin 64) (pa : Nat) (bs : List Byte) : State :=
  let line := pa / 128
  let s := l1Rekey s k line
  match l1Find s k line with
  | some _ => modCpu s fun c => { c with l1 := c.l1.map fun l => if l.line = line then storeLine l pa bs else l }
  | none =>
    let (l, s) := storeFill s k line
    modCpu s fun c => { c with l1 := storeLine l pa bs :: c.l1 }

/-- A streaming store writes at the home and removes the bytes from the running core's L1 (R219); the core's dirty lines,
which hold older stores, go home first (R447, log 81). -/
def streamStore (s : State) (k : Fin 64) (pa : Nat) (bs : List Byte) : State :=
  let line := pa / 128
  let m := byteMask (pa % 128) bs.length
  let s := writePhys (l1Rekey (writeBack s s.cpu.id) k line) k pa bs
  modCpu s fun c => { c with l1 := c.l1.map fun l =>
    if l.line = line then { l with valid := l.valid &&& ~~~m, dirty := l.dirty &&& ~~~m } else l }

/-- The levels of a walk: lowest index bit, table bytes, and page size of a leaf there (R195). -/
def walkLevels : List (Nat × Nat × Nat) :=
  [(39, 0x10000, 0), (30, 0x1000, 0x40000000), (21, 0x1000, 0x200000), (16, 0x100, 0x10000)]

/-- The walk of R197 from table t over the levels left. The manual names no key for the lines of page tables: the walker
reads them under key slot 0, so that a line last written under another key value is read as R191 gives (DESIGN CHOICE,
log 67). An entry in a line that holds a contained error is read as its bytes stand: R222 speaks of loads alone (DESIGN
CHOICE, log 103). -/
def walk (s : State) (tenant : Fin 16) (va : Nat) : List (Nat × Nat × Nat) → Nat → Option TlbEntry × State
  | [], _ => (none, s)
  | (lo, tbl, page) :: rest, t =>
    let (bs, s) := readPhys s 0 (t + (va / 2 ^ lo % (tbl / 8)) * 8) 8
    let e := ofBytes bs
    if !e.testBit 0 then (none, s)
    else if !e.testBit 1 then
      let nt := bits e 32 32 * 256
      match rest with
      | [] => (none, s)
      | (_, tbl', _) :: _ =>
        if bits e 2 30 != 0 || nt % tbl' != 0 || hbmEnd ≤ nt then (none, s)
        else walk s tenant va rest nt
    else
      let pa := bits e 40 24 * 0x10000
      if page = 0 || bits e 6 2 != 0 || bits e 18 22 != 0 || pa % page != 0 then (none, s)
      else if hbmEnd ≤ pa && !(ctlBase ≤ pa && pa < ctlEnd) then (none, s)
      else
        (some { tenant := tenant, va := va - va % page, size := page, pa := pa, r := e.testBit 2, w := e.testBit 3,
                x := e.testBit 4, s := e.testBit 5, ten := bits e 8 4, key := Fin.ofNat 64 (bits e 12 6) }, s)

/-- A held translation of an address, if a list of entries has one (R199). -/
def tlbFind (es : List TlbEntry) (tenant : Fin 16) (va : Nat) : Option TlbEntry :=
  es.find? fun e => e.tenant = tenant && e.va ≤ va && va < e.va + e.size

/-- A list of entries with one more. At the capacity of its set, the set gives up an entry of free choice (R199, log 9). -/
def tlbAdd (es : List TlbEntry) (ways choice : Nat) (sameSet : TlbEntry → Bool) (e : TlbEntry) : List TlbEntry :=
  let set := es.filter sameSet
  e :: (if set.length < ways then es
        else match set[choice % set.length]? with
          | some v => es.erase v
          | none => es)

/-- The set of the cluster TLB in which an entry stands, of 1,024 sets of 8 ways (R199, log 9). -/
def tlbSet (e : TlbEntry) : Nat := e.va / e.size % 1024

/-- The translation of an address for a tenant, through the core's micro-TLB, the cluster TLB, or a walk (R197, R199).
Engines pass no core and use the cluster TLB alone (R325). A held entry is used until it is given up or a TLBINV removes
it: of the two translations that R200 allows after a change of the table, the model takes the old one while it is held
(DESIGN CHOICE, log 9). -/
def translate (s : State) (core : Option Nat) (cl : Nat) (tenant : Fin 16) (va : Nat) : Option TlbEntry × State :=
  let micro := match core with
    | some c => tlbFind (coreAt s c).tlb tenant va
    | none => none
  match micro with
  | some e => (some e, s)
  | none =>
    let fill (s : State) (e : TlbEntry) : State :=
      match core with
      | some c => modCore s c fun k => { k with tlb := tlbAdd k.tlb 48 (Config.pick s.tick 2) (fun _ => true) e }
      | none => s
    let s := if core.isSome then bump s 9 else s
    match tlbFind (clusterAt s cl).tlb tenant va with
    | some e => (some e, fill s e)
    | none =>
      match walk s tenant va walkLevels (s.tenants.get tenant).root.toNat with
      | (some e, s) =>
        let s := fill s e
        (some e, modCluster s cl fun c =>
          { c with tlb := tlbAdd c.tlb 8 (Config.pick s.tick 3) (fun x => tlbSet x = tlbSet e) e })
      | (none, s) => (none, s)

/-- What an access does to its bytes (R198, R203). -/
inductive Kind | read | write | rmw | fetch
  deriving DecidableEq, Repr

/-- A resolved address or the fault that stops it (R95). -/
inductive Resolved
  | ok (p : Place)
  | xlate
  | prot
  deriving DecidableEq, Repr

/-- The window region and the two windows (R24, R194). -/
def winBase : Nat := 0x000FFE0000000000
def winEnd : Nat := 0x000FFE0100000000
def cspWin : Nat := 0x000FFE0001000000

/-- The checks of R198 on a translated access. -/
def permits (s : State) (tenant : Fin 16) (priv : Nat) (k : Kind) (e : TlbEntry) : Bool :=
  e.ten = tenant.val && !(e.s && priv = 0) && (s.tenants.get tenant).keyset.getLsbD e.key.val &&
  (match k with
   | .read => e.r
   | .write => e.w
   | .rmw => e.r && e.w
   | .fetch => e.x)

/-- The blocks of the control range that only firmware reaches (R388, log 19). -/
def firmwareOnly (pa : Nat) : Bool :=
  (0x8200010000 ≤ pa && pa < 0x8200011000) || (0x8200020800 ≤ pa && pa < 0x8200020840) ||
  (0x8200050000 ≤ pa && pa < 0x8200060000)

/-- Steps 2 and 3 of R95 with R194, R197 and R198: where an access at a virtual address goes, and the translation that
it used. A translation that the instruction has obtained already serves the page again (R200). The control range is
reached only through pages with S = 1 and tenant 0, and so at system privilege (R190, R388); through any other page the
access takes PROT, which the manual does not name (DESIGN CHOICE, log 19). -/
def resolveWith (s : State) (got : List TlbEntry) (core : Option Nat) (home : Nat) (tenant : Fin 16) (priv : Nat)
    (pin : Bool) (k : Kind) (va : Nat) : Resolved × Option TlbEntry × State :=
  if 2 ^ 52 ≤ va then (.xlate, none, s)
  else if winBase ≤ va && va < winEnd then
    if k = .fetch then (.xlate, none, s)
    else if va < winBase + 0x40000 then (if pin then .ok (.sram (tcmAddr home (va - winBase))) else .prot, none, s)
    else if cspWin ≤ va && va < cspWin + 0x400000 then (.ok (.sram (cspAddr (clusterOf home) (va - cspWin))), none, s)
    else (.xlate, none, s)
  else
    let found := match tlbFind got tenant va with
      | some e => (some e, s)
      | none => translate s core (clusterOf home) tenant va
    match found with
    | (none, s) => (.xlate, none, s)
    | (some e, s) =>
      let pa := e.pa + (va - e.va)
      (if !permits s tenant priv k e then .prot
       else if pa < hbmEnd then .ok (.hbm pa e.key)
       else if ctlBase ≤ pa && pa < ctlEnd then
         (if !e.s || e.ten != 0 || (firmwareOnly pa && priv < 2) then .prot else .ok (.ctl pa))
       else .xlate, some e, s)

/-- Where an access at a virtual address goes (R95). -/
def resolve (s : State) (core : Option Nat) (home : Nat) (tenant : Fin 16) (priv : Nat) (pin : Bool) (k : Kind)
    (va : Nat) : Resolved × State :=
  let r := resolveWith s [] core home tenant priv pin k va
  (r.1, r.2.2)

end Sys2Proof.Machine
end

