-- ==== Sys2Proof/Machine/Futures.lean ====
section
/-!
DEFINITION. Handles, the future table, references, signals, fault records waiting for delivery, doom and reclamation
(R227 to R235, R249 to R257, R263, R264, R342, R367).
-/

namespace Sys2Proof.Machine

/-- The fields of a handle (R227). -/
def hDev (h : Word) : Nat := bits h.toNat 54 10
def hKind (h : Word) : Nat := bits h.toNat 50 4
def hGen (h : Word) : Nat := bits h.toNat 32 18
def hSlot (h : Word) : Nat := bits h.toNat 0 32

/-- A handle from its fields (R227). -/
def mkHandle (dev kind gen slot : Nat) : Word :=
  BitVec.ofNat 64 (dev % 1024 * 2 ^ 54 + kind % 16 * 2 ^ 50 + gen % 2 ^ 18 * 2 ^ 32 + slot % 2 ^ 32)

/-- The physical address of a place; counters and atomics act there (R276). -/
def placePa : Place → Nat
  | .hbm pa _ => pa
  | .sram pa => pa
  | .ctl pa => pa

/-- A future-table entry (R229). -/
def futAt (s : State) (slot : Nat) : Fut := (s.futs.find slot).getD Fut.reset

/-- A future-table entry replaced. -/
def setFut (s : State) (slot : Nat) (f : Fut) : State := { s with futs := Tab.put s.futs slot f }

/-- The entries of the device's table (R231), and of the table of any device of the pod (R228). -/
def futCount (s : State) : Nat := 2 ^ s.ftsize
def tableCount (s : State) (dev : Nat) : Nat := if dev = s.devid then futCount s else 2 ^ (s.peerSizes.find dev).getD 24

/-- The key of another device's future in `peerFuts`. -/
def peerKey (h : Word) : Nat := hDev h * 2 ^ 32 + hSlot h

/-- The entry that a handle names by its device and slot: in this device's table, or what is known of another device's
(R228, R346). -/
def entryAt (s : State) (h : Word) : Fut :=
  if hDev h = s.devid then futAt s (hSlot h) else (s.peerFuts.find (peerKey h)).getD Fut.reset

/-- That entry replaced. -/
def setEntry (s : State) (h : Word) (f : Fut) : State :=
  if hDev h = s.devid then setFut s (hSlot h) f else { s with peerFuts := Tab.put s.peerFuts (peerKey h) f }

/-- The first free slot at or after a start, looking at most `fuel` slots round the table. -/
def freeFrom (s : State) : Nat → Nat → Option Nat
  | 0, _ => none
  | fuel + 1, n =>
    if (futAt s (n % futCount s)).st = .free then some (n % futCount s) else freeFrom s fuel (n + 1)

/-- The held lists of the device's tasks: running, trapped, recorded or behind a gate. -/
def allHeld (s : State) : List (List Word) :=
  ((coreList s).map fun n =>
    let c := coreAt s n
    c.live.held :: ((c.trapped.map (·.held)).toList ++ c.recs.map fun r => r.ctx.held)).flatten ++
  s.gates.map fun g => g.child.held

/-- The slots that held lists take: blocks of six handles each (R229, log 10). -/
def heldBlocks (s : State) : Nat := ((allHeld s).map fun l => cdiv l.length 6).sum

/-- The held-list blocks that n more references of the running task take (R229). -/
def moreBlocks (s : State) (n : Nat) : Nat :=
  cdiv (s.cpu.live.held.length + n) 6 - cdiv s.cpu.live.held.length 6

/-- Whether the table has more slots than its futures, the held lists and some further blocks take (R229). -/
def slotsLeft (s : State) (more : Nat) : Bool :=
  (s.futs.filter fun p => p.2.st != .free && p.2.st != .block).length + heldBlocks s + more < futCount s

/-- The slots that stand as held-list blocks (R229). -/
def blockSlots (s : State) : List Nat := (s.futs.filter fun p => p.2.st = .block).map (·.1)

/-- A free slot of free choice, if one is left beside some further held-list blocks (R229, log 7). -/
def freeSlotWith (s : State) (blocks : Nat) : Option Nat :=
  if slotsLeft s blocks then freeFrom s (min (futCount s) (s.futs.length + 1)) (Config.pick s.tick 7) else none

/-- A free slot for a future that no running task takes a reference to. -/
def freeSlot (s : State) : Option Nat := freeSlotWith s 0

/-- A free slot for a token of the running task, beside the block that its reference may need (R229, R343). -/
def tokenSlot (s : State) : Option Nat := freeSlotWith s (moreBlocks s 1)

/-- Free slots taken for held-list blocks, one after another (R229). -/
def takeBlocks : Nat → State → State
  | 0, s => s
  | n + 1, s =>
    match freeFrom s (min (futCount s) (s.futs.length + 1)) (Config.pick s.tick 17 + n) with
    | some k => takeBlocks n (setFut s k { futAt s k with st := .block })
    | none => s

/-- A held-list block that has emptied returned to the free slots (R229). -/
def freeBlock (s : State) (n : Nat) : State :=
  let f := futAt s n
  setFut s n { f with st := .free, gen := (f.gen + 1) % 2 ^ 18, held := [] }

/-- A held list in pieces of six handles, the content of its blocks (R229). -/
def sixes : Nat → List Word → List (List Word)
  | 0, _ => []
  | n + 1, l => if l.isEmpty then [] else l.take 6 :: sixes n (l.drop 6)

/-- The contents of the blocks of every held list, one block after another (R229). -/
def blockContents (s : State) : List (List Word) := ((allHeld s).map fun l => sixes l.length l).flatten

/-- Each held-list block holds the handles of its piece of a held list (R229). -/
def fillBlocks (s : State) : State :=
  ((blockSlots s).zip (blockContents s)).foldl (fun t p =>
    if (futAt t p.1).held = p.2 then t else setFut t p.1 { futAt t p.1 with held := p.2 }) s

/-- As many slots stand as held-list blocks as the held lists need, and hold their handles: more are taken, or those that
are too many are returned (R229, log 10). -/
def settleBlocks (s : State) : State :=
  let bs := blockSlots s
  let n := heldBlocks s
  fillBlocks (if bs.length < n then takeBlocks (n - bs.length) s else (bs.drop n).foldl freeBlock s)

/-- The state of a future as its entry holds it (R229). -/
def futCode : FutState → Nat
  | .free => 0 | .pending => 1 | .resolved => 2 | .failed => 3 | .doomed => 4 | .block => 5

/-- References that the task of a handle holds, wherever its context is (R229, R235). -/
def heldBy (s : State) (h : Word) : Nat :=
  let cs := (coreList s).map fun n =>
    let c := coreAt s n
    (if c.who = .task then [c.live] else []) ++ c.trapped.toList ++ c.recs.map fun r => r.ctx
  match (cs.flatten ++ s.gates.map fun g => g.child).find? fun c => c.tself = h with
  | some c => c.held.length
  | none => 0

/-- The 64 bytes of an entry as the table holds it in memory. Those of its location, waiter records and links, to which
the manual gives no form, are free; a held-list block has its handles where an entry has its count to its waiter records
(R229; DESIGN CHOICE, log 10). -/
def futBytes (s : State) (n : Nat) : List Byte :=
  let f := futAt s n
  let free (k : Nat) : List Byte := (List.range k).map (Config.byte s.tick)
  toBytes 1 (futCode f.st) ++
  (if f.st = .block then
    free 1 ++ toBytes 2 0 ++ toBytes 4 f.gen ++
    ((List.range 6).map fun i => toBytes 8 (f.held.getD i 0).toNat).flatten ++ free 8
   else
    toBytes 1 f.kind ++ toBytes 2 0 ++ toBytes 4 f.gen ++ toBytes 4 f.count ++
    toBytes 4 (heldBy s (mkHandle s.devid f.kind f.gen n)) ++ toBytes 8 f.result.toNat ++ free 40)

/-- What an entry shows besides its free bytes: the slot, and the references that its task holds. -/
def futShown (s : State) (n : Nat) : Fut × Nat :=
  let f := futAt s n
  (f, heldBy s (mkHandle s.devid f.kind f.gen n))

/-- The table in memory follows the futures: every entry that a step has changed is written at its place from `ftbase`,
under key slot 0 (R229, R231; DESIGN CHOICE, log 10). -/
def writeTable (s t : State) : State :=
  t.futs.foldl (fun u p =>
    let pa := t.ftbase + 64 * p.1
    if futShown s p.1 = futShown t p.1 || hbmEnd < pa + 64 then u else writePhys u 0 pa (futBytes t p.1)) t

/-- The listed bytes of memory in which the table lies (R229, R231). -/
def tableCells (s : State) : List Host.Cell :=
  s.mem.filter fun c => s.ftbase ≤ c.1 && c.1 < s.ftbase + 64 * futCount s

/-- The state of a future that an entry's first byte gives; a code that R229 does not name counts as free (DESIGN CHOICE,
log 10). -/
def futState (n : Nat) : FutState :=
  match n with
  | 1 => .pending
  | 2 => .resolved
  | 3 => .failed
  | 4 => .doomed
  | 5 => .block
  | _ => .free

/-- The future of an entry's 64 bytes (R229). -/
def futOf (bs : List Byte) : Fut :=
  let f := { Fut.reset with st := futState (at_ bs 0 1), gen := at_ bs 4 4 % 2 ^ 18 }
  if f.st = .block then { f with held := (List.range 6).map fun i => BitVec.ofNat 64 (at_ bs (8 + 8 * i) 8) }
  else { f with kind := at_ bs 1 1, count := at_ bs 8 4, result := BitVec.ofNat 64 (at_ bs 16 8) }

/-- The futures as the table in memory gives them, read under key slot 0 (R229, R231; DESIGN CHOICE, log 10). -/
def readTable (s : State) : State :=
  let slots := ((tableCells s).map fun c => (c.1 - s.ftbase) / 64).eraseDups
  { s with futs := slots.foldl (fun t n => Tab.put t n (futOf (readPhys s 0 (s.ftbase + 64 * n) 64).1)) [] }

/-- The table after a step. Its bytes rule when `ftbase` has moved it, or when software has written it while no launch ran,
which R229 forbids at any other time; else the futures rule (R229, R231; DESIGN CHOICE, log 10). -/
def keepTable (s t : State) : State :=
  if t.ftbase != s.ftbase ||
      (s.reel.launches.isEmpty && t.reel.launches.isEmpty && decide (tableCells s ≠ tableCells t)) then readTable t
  else writeTable s t

/-- A new pending future of a kind in a slot, with count 1, and the handle that names it (R229, R230). -/
def allocAt (s : State) (kind : Nat) (slot : Option Nat) : Option (Word × State) :=
  match slot with
  | none => none
  | some n =>
    let f := futAt s n
    some (mkHandle s.devid kind f.gen n,
          setFut s n { f with st := .pending, kind := kind, count := 1, result := 0, loc := none, edge := true })

/-- A new pending future in a free slot (R229, R230). -/
def allocFut (s : State) (kind : Nat) : Option (Word × State) := allocAt s kind (freeSlot s)

/-- A new token of the running task (R229, R343). -/
def allocToken (s : State) (kind : Nat) : Option (Word × State) := allocAt s kind (tokenSlot s)

/-- A launch whose root is the future of a slot and generation has ended now (R395). -/
def endLaunch (now : Word) (slot gen : Nat) (l : Launch) : Launch :=
  if hSlot l.root = slot && hGen l.root = gen && l.ended.isNone then { l with ended := some now } else l

/-- The end of a future's task, noted with the launch of which it is the root (R395). -/
def noteEnd (s : State) (slot gen : Nat) : State :=
  { s with reel := { s.reel with launches := s.reel.launches.map (endLaunch s.devtime slot gen) } }

/-- A slot freed, its generation moved on (R229, R230). -/
def freeFut (s : State) (slot : Nat) : State :=
  let f := futAt s slot
  setFut (noteEnd s slot f.gen) slot { f with st := .free, gen := (f.gen + 1) % 2 ^ 18, count := 0, result := 0, loc := none,
                                                   edge := true, held := [] }

/-- The future of a handle freed, in the table of its device. -/
def freeEntry (s : State) (h : Word) : State :=
  if hDev h = s.devid then freeFut s (hSlot h)
  else
    let f := entryAt s h
    setEntry s h { Fut.reset with gen := (f.gen + 1) % 2 ^ 18 }

/-- Steps 1 to 4 of R228: the handle names the current future of a slot of its device in the pod. -/
def handleNames (s : State) (h : Word) : Bool :=
  let f := entryAt s h
  hDev h < s.ndev && hKind h ≤ 6 && hSlot h < tableCount s (hDev h) && hGen h = f.gen && f.st != .free &&
    f.st != .block && hKind h = f.kind

/-- R228 with a held reference. -/
def handleHeld (s : State) (c : Ctx) (h : Word) : Bool := handleNames s h && c.held.contains h

/-- A record waiting for delivery to a cluster's fault-service task (R384). -/
def post (s : State) (cl : Nat) (r : FaultRec) : State :=
  modCluster s cl fun c => { c with deliveries := c.deliveries ++ [r] }

/-- A waiting record that a signal concerns (R264). -/
def waitsOn (w : Wait) (h : Word) : Bool :=
  match w with
  | .future h' _ => h' = h
  | .any hs _ => hs.contains h
  | _ => false

/-- A record made ready now; one in the Woodshed is to be read back at once (R263 to R265). -/
def makeReady (s : State) (r : Rec) : Rec := { r with st := .ready, order := s.clock, due := r.spill.isSome }

/-- Every waiter on a future becomes ready (R249, R264). -/
def signal (s : State) (h : Word) : State :=
  (coreList s).foldl (fun t n =>
    modCore t n fun c => { c with recs := c.recs.map fun r =>
      if r.st = .suspended && waitsOn r.wait h then makeReady s r else r }) s

/-- A wait on a counter that an atomic access finds at a value: a CWAIT whose threshold is reached has its value (R285). -/
def metAt (pa : Nat) (v : Word) (w : Wait) : Option Wait :=
  match w with
  | .counter p thr d => if placePa p = pa && thr ≤ v then some (.counted p v d) else none
  | .strip p thr => if placePa p = pa && thr ≤ v.toNat then some w else none
  | _ => none

/-- A CWAIT that a context is held at notes the value that completes it, wherever the context stands meanwhile (R261,
R264, R285). -/
def heldMeets (pa : Nat) (v : Word) (c : Ctx) : Ctx :=
  { c with holdAt := c.holdAt.map fun h => { h with wait := (metAt pa v h.wait).getD h.wait } }

/-- Waiters on a counter whose threshold an atomic access finds reached: suspended ones become ready, a held one notes
the value (R261, R264, R285). -/
def wakeCounter (s : State) (pa : Nat) (v : Word) : State :=
  (coreList s).foldl (fun t n =>
    modCore t n fun c => { c with
      live := heldMeets pa v c.live
      trapped := c.trapped.map (heldMeets pa v)
      recs := c.recs.map fun r =>
        let r := { r with ctx := heldMeets pa v r.ctx }
        if r.st = .suspended then
          match metAt pa v r.wait with
          | some w => { makeReady s r with wait := w }
          | none => r
        else r }) s

/-- A context that starts or resumes without a wait, as a ready record (R241, R248). -/
def readyRec (s : State) (c : Ctx) (wt : Wait) (steal : Bool) : Rec :=
  { ctx := c, st := .ready, wait := wt, forced := false, liveG := BitVec.allOnes 64, liveK := 0, liveV := false,
    order := s.clock, since := s.clock, steal := steal, atPoint := false, spill := none, due := false, poison := false }

/-- The child of a gate that has opened, as a ready record: it invalidates as it starts, for the counter edges of its pairs
(R241, R271, R285). -/
def gateRec (s : State) (c : Ctx) : Rec := readyRec s c .gate (!c.pin)

/-- Every pair of a gate has been observed at or above its threshold (R241). -/
def gateMet (g : Gate) : Bool := g.pairs.all (·.2.2)

/-- A pending future gets its result and signals its waiters; a doomed one is freed (R230). -/
def settle (s : State) (h : Word) (failed : Bool) (v : Word) : State :=
  let f := entryAt s h
  if hGen h != f.gen then s
  else
    match f.st with
    | .pending =>
      let s := if hDev h = s.devid then noteEnd s (hSlot h) (hGen h) else s
      signal (setEntry s h { f with st := if failed then .failed else .resolved, result := v }) h
    | .doomed => freeEntry s h
    | _ => s

/-- A hardware failure code (R250). -/
def failCode (cause : Nat) : Word := BitVec.ofNat 64 (0xFFFFFFFFFFFFFF00 + cause)

/-- The record of a failed group for a cluster's fault-service task: one for each pending operation, with its token, word
and address, and 0 for the address, access and element that R367 does not name (R203, R367; DESIGN CHOICE, log 71). -/
def groupRecord (h : Word) (word : BitVec 32) (pc : Word) : FaultRec :=
  { handle := h, addr := 0, cause := 0x0B, access := 0, elem := 0, word := word, pc := pc, owner := .other }

/-- A barrier's arrival without its token, which is discarded or was dropped: it stands in its sequence (R256). -/
def stands (s : State) (o : GroupOp) : Bool :=
  let f := entryAt s o.token
  o.coll.isNone && !(f.st = .pending && hGen o.token = f.gen)

/-- A group fails: its pending operations fail their tokens, with a record to each issuer's cluster; so does an operation
that joins a FAILED group later. A barrier's arrival whose token was dropped stands in its sequence, with one record of
the failure. A member without a pending operation gets its record at the cluster of the core that created the group
(R256, R367, logs 56 and 71). -/
def failGroup (s : State) (n : Nat) : State :=
  match s.groups.find n with
  | none => s
  | some g =>
    let ops := (g.bulk ++ g.urgent).filter fun o => !(g.failed && stands s o)
    if g.failed && ops.isEmpty then s
    else
      let s := { s with groups := Tab.put s.groups n { g with failed := true, bulk := g.bulk.filter (stands s), urgent := [] } }
      if ops.isEmpty then post s (clusterOf g.core) (groupRecord 0 0 0)
      else
        ops.foldl (fun t o => post (settle t o.token true (failCode 0x0B)) (clusterOf o.env.core)
          (groupRecord o.token o.env.word o.env.pc)) s

/-- The group on which an operation's token is pending. -/
def groupOf (s : State) (h : Word) : Option Nat :=
  (s.groups.find? fun p => (p.2.bulk ++ p.2.urgent).any fun o => o.token = h).map (·.1)

/-- An operation whose token nobody holds any more (R256, R367). -/
def abandoned (s : State) (o : GroupOp) : Bool := (entryAt s o.token).st = .doomed && hGen o.token = (entryAt s o.token).gen

/-- An abandoned collective of a group has results of its last chunk still to write, which that chunk's end asks for
(R256, R274, R367). -/
def leavesLate (s : State) (n : Nat) : Bool :=
  match s.groups.find n with
  | some g => (g.bulk ++ g.urgent).any fun o => abandoned s o && o.coll.isSome && !o.late.isEmpty
  | none => false

/-- The core whose records hold the task of a handle. -/
def recCore (s : State) (h : Word) : Option Nat :=
  (coreList s).find? fun n => (coreAt s n).recs.any fun r => r.ctx.tself = h

/-- The Woodshed record at an offset marked freed, and the tail moved over freed records (R260). -/
def shedFree (c : Core) (off : Nat) : Core :=
  { c with shed := (c.shed.map fun r => if r.off = off then { r with live := false } else r).dropWhile fun r => !r.live }

/-- A record taken out of a core's set (R255, R260). -/
def removeRec (c : Core) (h : Word) : Core :=
  match c.recs.find? fun r => r.ctx.tself = h with
  | some r =>
    let c := { c with recs := c.recs.filter fun r => r.ctx.tself != h }
    match r.spill with
    | some off => shedFree c off
    | none => c
  | none => c

/-- Writes at Woodshed addresses, through the walk from `wsroot` as tenant 0 at system privilege. A page in the control
range, which the walk permits and which is no HBM, counts as one whose translation fails: R233 and R262 do not say what
an eviction does there (R233, R262; DESIGN CHOICE, log 133). -/
def shedWrite (core : Nat) : Nat → State → Nat → List Byte → Nat ⊕ State
  | 0, s, _, _ => .inr s
  | fuel + 1, s, va, bs =>
    if bs.isEmpty then .inr s
    else
      match walk s 0 va walkLevels (coreAt s core).wsroot with
      | (some e, s) =>
        if permits s 0 1 .rmw e && e.s && e.pa < hbmEnd then
          shedWrite core fuel (writePhys s e.key (e.pa + (va - e.va)) (bs.take 64)) (va + 64) (bs.drop 64)
        else .inl va
      | (none, _) => .inl va

/-- Bytes read at Woodshed addresses, by the same walk; none where a page cannot be read, or is no HBM (R233, R263; DESIGN
CHOICE, log 133). -/
def shedRead (core : Nat) : Nat → State → Nat → Nat → Option (List Byte) × State
  | 0, s, _, _ => (some [], s)
  | fuel + 1, s, va, n =>
    if n = 0 then (some [], s)
    else
      match walk s 0 va walkLevels (coreAt s core).wsroot with
      | (some e, s) =>
        if permits s 0 1 .read e && e.s && e.pa < hbmEnd then
          let (bs, s) := readPhys s e.key (e.pa + (va - e.va)) (min n 64)
          match shedRead core fuel s (va + 64) (n - 64) with
          | (some more, s) => (some (bs ++ more), s)
          | (none, s) => (none, s)
        else (none, s)
      | (none, s) => (none, s)

/-- A record leaves a core's set; in the Woodshed its prefix is marked freed. Where its page no longer translates, which
R262 says of evictions alone, the mark stays as it was (R255, R260; DESIGN CHOICE, log 121). -/
def takeRec (s : State) (core : Nat) (h : Word) : State :=
  let c := coreAt s core
  let s := match c.recs.find? fun r => r.ctx.tself = h with
    | some r =>
      match r.spill with
      | some off =>
        match shedWrite core 1 s (c.wsbase.toNat + off + 12) (toBytes 4 0) with
        | .inr s => s
        | .inl _ => s
      | none => s
    | none => s
  modCore s core fun c => removeRec c h

/-- One reference dropped; answers the references that the holder's end drops in turn. A gated child whose pairs have all
been observed and which still waits with its gate for room counts as one whose gate has not opened: it never starts
(log 70). A record that a signal has made ready stands at its wait still and is gone at once (log 39). An FCOLL with results
that wait for their 8-byte unit leaves its group when they are written. The group of an FBAR fails too, while its arrival
stands (R234, R253, R255, R256, R342, R367; DEDUCED, log 56). -/
def dropOnce (s : State) (h : Word) : List Word × State :=
  let n := hSlot h
  let f := entryAt s h
  if hGen h != f.gen || f.count = 0 then ([], s)
  else if 1 < f.count then ([], setEntry s h { f with count := f.count - 1 })
  else if hDev h != s.devid then
    -- its own device reclaims the task or stops the job of a pending one
    ([], if f.st = .pending then setEntry s h { f with st := .doomed, count := 0 } else freeEntry s h)
  else
    match f.st with
    | .resolved | .failed => ([], freeFut s n)
    | .pending =>
      let s := setFut s n { f with st := .doomed, count := 0 }
      match f.kind with
      | 1 =>
        let s := (List.range 96).foldl (fun t c =>
          if (clusterAt t c).flue.any (fun j => j.token = h) then
            modCluster t c fun k => { k with flue := k.flue.filter fun j => j.token != h }
          else t) s
        ([], freeFut s n)
      | 2 | 3 => ([], s)
      | 4 | 5 =>
        match groupOf s h with
        | some g => ([], if leavesLate s g then s else failGroup s g)
        | none => ([], s)
      | _ =>
        match s.gates.find? fun g => g.token = h with
        | some g => (g.child.held, freeFut { s with gates := s.gates.filter fun g => g.token != h } n)
        | none =>
          match recCore s h with
          | some c =>
            match (coreAt s c).recs.find? fun r => r.ctx.tself = h with
            | some r =>
              if r.atPoint && r.ctx.depth = 0 then (r.ctx.held, freeFut (takeRec s c h) n)
              else ([], s)
            | none => ([], s)
          | none => ([], s)
    | _ => ([], s)

/-- A list of references dropped, with everything their ends drop (R255). -/
def dropAll : Nat → List Word → State → State
  | 0, _, s => s
  | _ + 1, [], s => s
  | fuel + 1, h :: hs, s =>
    let (more, s) := dropOnce s h
    dropAll fuel (hs ++ more) s

/-- How many references the device's tasks hold: a bound on a cascade's length. -/
def heldTotal (s : State) : Nat := ((allHeld s).map List.length).sum

/-- The waiting cores of a cluster after n Flue entries were freed together, while some were free already: those entries
stay with the cores that they went to, the n lowest of the others come next, in ascending core number, and the rest keep
the order in which they began to wait (R329). -/
def waitersAfter (free n : Nat) (ws : List Nat) : List Nat :=
  let rest := ws.drop free
  let first := ((List.range 768).filter rest.contains).take n
  ws.take free ++ first ++ rest.filter fun c => !first.contains c

/-- Flue entries freed together go to the waiting cores in ascending core number (R329). -/
def freedTogether (s t : State) : State :=
  { t with clusters := t.clusters.map fun p =>
      let before := (clusterAt s p.1).flue.length
      let n := before - p.2.flue.length
      if 2 ≤ n then (p.1, { p.2 with flueWait := waitersAfter (64 - before) n p.2.flueWait }) else p }

/-- References dropped with their cascade (R234, R255). -/
def dropRefs (s : State) (hs : List Word) : State := freedTogether s (dropAll (hs.length + heldTotal s + 1) hs s)

/-- One reference of a context removed from its held list and dropped (R234). -/
def dropHeld (s : State) (h : Word) : State :=
  dropRefs (modLive s fun c => { c with held := c.held.erase h }) [h]

/-- Whether the running task is doomed (R253). -/
def doomed (s : State) : Bool :=
  let h := s.cpu.live.tself
  s.cpu.who = .task && hGen h = (entryAt s h).gen && (entryAt s h).st = .doomed

end Sys2Proof.Machine
end

