-- ==== Sys2Proof/Machine/Store.lean ====
section
/-!
DEFINITION. Lane groups, context records, the context cache, the Woodshed, and the trace ring
(R102 to R107, R130, R243, R258 to R263, R417).
-/

namespace Sys2Proof.Machine

/-- The lane groups of a core's grant, bit n for group n (R116 GMAP). -/
def gmap (s : State) (core : Nat) : BitVec 8 := (clusterAt s (clusterOf core)).grants.get (Fin.ofNat 8 (core % 8))

/-- The number of groups of a core's grant (R116 GN). -/
def groupCount (s : State) (core : Nat) : Nat := popN 8 (gmap s core).toNat

/-- The granted bits of the running core (R103). -/
def grantBits (s : State) : Nat := 2048 * groupCount s s.cpu.id

/-- The home group of a core as a set (R102). -/
def homeSet (core : Nat) : BitVec 8 := (1 : BitVec 8) <<< (core % 8)

/-- The groups that the other cores of the cluster hold. -/
def heldByOthers (s : State) (core : Nat) : BitVec 8 :=
  (List.range 8).foldl (fun a i =>
    if i = core % 8 then a else a ||| gmap s (clusterOf core * 8 + i)) 0

/-- The groups marked for reclaim in a core's cluster (R107). -/
def marked (s : State) (core : Nat) : BitVec 8 := (clusterAt s (clusterOf core)).marks

/-- FreeShared of R104: shared groups that are free, and unmarked shared groups that the core already holds. -/
def freeShared (s : State) (core : Nat) : BitVec 8 :=
  let home := homeSet core
  let free := ~~~(heldByOthers s core) &&& ~~~home
  (free &&& ~~~(gmap s core) &&& ~~~(marked s core)) ||| (gmap s core &&& ~~~home &&& ~~~(marked s core))

/-- A core's grant replaced; marks on groups that it gives up are cleared with them, and granted groups are powered
(R105, R107, R400). -/
def setGrant (s : State) (core : Nat) (gs : BitVec 8) : State :=
  let given := gmap s core &&& ~~~gs &&& ~~~(homeSet core)
  modCluster s (clusterOf core) fun c =>
    { c with grants := c.grants.set (Fin.ofNat 8 (core % 8)) gs, marks := c.marks &&& ~~~given,
             gated := c.gated &&& ~~~gs }

/-- The n lowest-numbered groups of a set, taking first those of another set (R105). -/
def takeGroups (n : Nat) (first set : BitVec 8) : BitVec 8 :=
  let order := ((List.range 8).filter fun i => first.getLsbD i) ++
    ((List.range 8).filter fun i => set.getLsbD i && !first.getLsbD i)
  (order.take n).foldl (fun a i => a ||| ((1 : BitVec 8) <<< i)) 0

/-- The groups of a new grant of n groups: the home group, kept unmarked groups, then the lowest free ones (R105). -/
def chooseGrant (s : State) (core n : Nat) : BitVec 8 :=
  let mine := gmap s core &&& ~~~(homeSet core) &&& ~~~(marked s core)
  homeSet core ||| takeGroups (n - 1) mine (freeShared s core)

/-- A grant of n groups to the running core; a home group on loan joins it at once and is marked for reclaim (R102,
R105). -/
def grantTo (s : State) (n : Nat) : State :=
  let loan := heldByOthers s s.cpu.id &&& homeSet s.cpu.id
  let s := setGrant s s.cpu.id (chooseGrant s s.cpu.id n)
  modCluster s (clusterOf s.cpu.id) fun c => { c with marks := c.marks ||| loan }

/-- Whether a context that needs n groups can be granted them on a core now: its home group joins in any case (R102,
R107, R130). A resumption is held to no PowerEntitlement, TenantMax or HintCap that has fallen below the saved need,
since R130 never grants less than its table requires (DESIGN CHOICE, log 69). -/
def canGrant (s : State) (core n : Nat) : Bool := n ≤ 1 + popN 8 (freeShared s core).toNat

/-- A home group of another core that the running core holds on loan while that core has a grant again: the reclaim that
counts as a ready context of class 3 (R102). -/
def loanCalled (s : State) : Bool :=
  (List.range 8).any fun j =>
    let n := clusterOf s.cpu.id * 8 + j
    n != s.cpu.id && (homeSet n &&& gmap s s.cpu.id &&& gmap s n &&& marked s n) != 0

/-- Groups marked for reclaim for a context that needs n groups on a core, for which those already marked count, whichever
core holds them (R107). -/
def markFor (s : State) (core n : Nat) : State :=
  let home := homeSet core
  let others := heldByOthers s core
  let loan := others &&& home
  let cands := (List.range 8).filter fun i =>
    i != core % 8 && !(marked s core).getLsbD i && (List.range 8).any fun j =>
      j != core % 8 && i != j && (gmap s (clusterOf core * 8 + j)).getLsbD i
  let already := popN 8 (marked s core &&& ~~~home).toNat
  let fresh := cands.take (n - (1 + popN 8 (freeShared s core).toNat + already))
  modCluster s (clusterOf core) fun c =>
    { c with marks := fresh.foldl (fun a i => a ||| ((1 : BitVec 8) <<< i)) (c.marks ||| loan) }

/-- Groups are marked for every context that is ready to resume and needs more than its core can grant it, on each core, in
the order of its records. R107 does not say when: the model marks at the end of each step (R107; DESIGN CHOICE, log
90). -/
def markReady (s : State) : State :=
  (coreList s).foldl (fun t n =>
    ((coreAt s n).recs.filter fun r => r.st = .ready).foldl (fun t r =>
      if canGrant t n r.ctx.need then t else markFor t n r.ctx.need) t) s

/-- Image bits at or above a number of bits cleared, in every register (R121). -/
def resizeImages (v : VecState) (n : Nat) : VecState :=
  { v with regs := v.regs.map fun r => { r with img := BitVec.ofNat 16384 (r.img.toNat % 2 ^ n) } }

/-- Whether the running core's home group is still on loan, so that its lane instructions wait; the holder's do not
(R102). -/
def lanesWait (s : State) : Bool := (heldByOthers s s.cpu.id &&& homeSet s.cpu.id &&& gmap s s.cpu.id) != 0

/-- The vector registers that a live set saves: named, and not tagged NONE. -/
def savedRegs (r : Rec) : List (Nat × VReg) :=
  ((List.range 32).zip r.ctx.vec.regs.toList).filter fun p => r.liveG.getLsbD (32 + p.1) && p.2.tag.isSome

/-- The bytes that the elements [0, vl) of a register take in a record (R258). -/
def regBytes (vl : Nat) (v : VReg) : Nat :=
  match v.tag with
  | some t => cdiv (vl * tyBits t) 64 * 8
  | none => 0

/-- The g registers that a record saves (R258). -/
def savedG (r : Rec) : List Nat := (span 1 32).filter fun i => r.liveG.getLsbD i

/-- The size of a context record in bytes (R258). -/
def recBytes (r : Rec) : Nat :=
  64 + 8 * (savedG r).length + (if r.liveV then 8 * r.ctx.vec.vq.length else 0) + 256 * popN 7 r.liveK.toNat +
  ((savedRegs r).map fun p => regBytes r.ctx.vec.vl p.2).sum + (if r.ctx.latch.isSome then 32 else 0) +
  32 * r.ctx.viq.length

/-- The 16-bit image of a prefix latch (R58). -/
def pfxBits (p : Pfx) : Nat :=
  p.v.toNat + p.pg.val * 2 + p.ps.toNat * 64 + p.pd.val * 128 + p.pc.toNat * 4096 + p.pk.val * 8192

/-- The prefix latch of a 16-bit image (R58). -/
def pfxOf (n : Nat) : Pfx :=
  { v := n.testBit 0, pg := Fin.ofNat 32 (bits n 1 5), ps := n.testBit 6, pd := Fin.ofNat 32 (bits n 7 5),
    pc := n.testBit 12, pk := Fin.ofNat 8 (bits n 13 3) }

/-- The tag of a type as a number, 0 for NONE (R40). -/
def tagNum (t : Tag) : Nat :=
  match t with
  | none => 0
  | some .i8 => 1 | some .i16 => 2 | some .i32 => 3 | some .i64 => 4 | some .n8 => 5 | some .n16 => 6
  | some .n32 => 7 | some .n64 => 8 | some .fp64 => 9 | some .fp32 => 10 | some .fp16 => 11 | some .bf16 => 12
  | some .e4m3 => 13 | some .e5m2 => 14 | some .e2m1 => 15 | some .e8m0 => 16

/-- The tag of a tag number (R40). -/
def tagOf (n : Nat) : Tag :=
  match n with
  | 1 => some .i8 | 2 => some .i16 | 3 => some .i32 | 4 => some .i64 | 5 => some .n8 | 6 => some .n16
  | 7 => some .n32 | 8 => some .n64 | 9 => some .fp64 | 10 => some .fp32 | 11 => some .fp16 | 12 => some .bf16
  | 13 => some .e4m3 | 14 => some .e5m2 | 15 => some .e2m1 | 16 => some .e8m0
  | _ => none

/-- A latch or VIQ entry of 32 bytes (R258). -/
def entryBytes (e : VEntry) : List Byte :=
  toBytes 4 e.word.toNat ++ toBytes 4 (e.cap0.isSome.toNat + 2 * e.cap1.isSome.toNat) ++ toBytes 8 e.pc.toNat ++
  toBytes 8 (e.cap0.getD 0).toNat ++ toBytes 8 (e.cap1.getD 0).toNat

/-- The bytes of a context record, header and body (R258). -/
def recImage (r : Rec) : List Byte :=
  let c := r.ctx
  let v := c.vec
  let saved := savedRegs r
  let tags := saved.foldl (fun a p => a + tagNum p.2.tag * 2 ^ (5 * p.1)) 0
  toBytes 8 c.pc.toNat ++ toBytes 8 r.liveG.toNat ++ toBytes 8 v.vred.toNat ++ toBytes 4 v.efr.toNat ++
  toBytes 2 c.fst.toNat ++ toBytes 2 (pfxBits c.pfx) ++ toBytes 2 v.vl ++ toBytes 2 v.vbeg ++
  toBytes 1 (r.liveK.toNat + 128 * r.liveV.toNat) ++
  toBytes 1 (v.wc.val + 4 * r.forced.toNat + 8 * c.latch.isSome.toNat + 16 * c.gn) ++ toBytes 1 c.viq.length ++
  toBytes 1 v.vq.length ++ toBytes 1 c.tidx.toNat ++ toBytes 1 c.depth ++ toBytes 1 c.cls ++ toBytes 1 0 ++
  toBytes 20 tags ++
  ((savedG r).map fun i => toBytes 8 (c.g.get (Fin.ofNat 32 i)).toNat).flatten ++
  (if r.liveV then (v.vq.map fun w => toBytes 8 w.toNat).flatten else []) ++
  (((List.range 7).filter fun i => r.liveK.getLsbD i).map fun i =>
    toBytes 256 (v.masks.get (Fin.ofNat 7 i)).toNat).flatten ++
  (saved.map fun p => toBytes (regBytes v.vl p.2)
    (p.2.img.toNat % 2 ^ (v.vl * ((p.2.tag.map tyBits).getD 0)))).flatten ++
  (match c.latch with
   | some e => entryBytes e
   | none => []) ++
  (c.viq.map entryBytes).flatten

/-- The bytes of the ring and the offset of its tail (R260). -/
def ringSize (c : Core) : Nat := c.wssize * 65536
def ringTail (c : Core) : Nat := match c.shed with
  | r :: _ => r.off
  | [] => c.shedHead

/-- Bytes between the tail and the head (R231 USED). -/
def ringUsed (c : Core) : Nat :=
  match c.shed with
  | [] => 0
  | r :: _ => if r.off < c.shedHead then c.shedHead - r.off else c.shedHead + ringSize c - r.off

/-- Where a record of a padded length goes: an offset, and the filler that precedes it (R260); none when the ring is
full. -/
def ringPlace (c : Core) (len : Nat) : Option (Nat × Nat) :=
  let size := ringSize c
  let t := ringTail c
  let h := c.shedHead
  if c.shed.isEmpty then
    (if len ≤ size - h then some (h, 0) else if len ≤ size then some (0, size - h) else none)
  else if t < h then
    (if len ≤ size - h then some (h, 0) else if len ≤ t then some (0, size - h) else none)
  else if len ≤ t - h then some (h, 0) else none

/-- The outcome of making room or saving: done, the ring is full, or a Woodshed page fails at an address. -/
inductive Saved
  | ok (s : State)
  | full
  | fault (va : Nat)

/-- One record evicted to the Woodshed (R260). The padding after the record holds zeros, which the manual leaves open
(DESIGN CHOICE, log 11). -/
def evict (s : State) (core : Nat) (r : Rec) : Saved :=
  let c := coreAt s core
  let img := recImage r
  let len := cdiv (16 + img.length) 64 * 64
  match ringPlace c len with
  | none => .full
  | some (off, filler) =>
    let base := c.wsbase.toNat
    let fill := toBytes 8 0 ++ toBytes 4 (filler - 16) ++ toBytes 4 0 ++
      (List.range (filler - 16)).map fun i => Config.byte s.tick i
    let s1 : Nat ⊕ State := if filler = 0 then .inr s else shedWrite core filler s (base + c.shedHead) fill
    match s1 with
    | .inl va => .fault va
    | .inr s1 =>
      let bs := toBytes 8 r.ctx.tself.toNat ++ toBytes 4 img.length ++ toBytes 4 1 ++ img ++
        List.replicate (len - 16 - img.length) 0
      match shedWrite core len s1 (base + off) bs with
      | .inl va => .fault va
      | .inr s2 =>
        .ok (modCore s2 core fun k =>
          { k with
            recs := k.recs.map fun q => if q.ctx.tself = r.ctx.tself then { q with spill := some off } else q
            shed := (k.shed ++ ((if filler = 0 then [] else [{ off := c.shedHead, len := filler, live := false }]) ++
              [{ off := off, len := len, live := true }] : List Shed)).dropWhile fun q => !q.live
            shedHead := (off + len) % ringSize c
            counters := k.counters.set 5 (k.counters.get 5 + 1) })

/-- The effective class of a ready record (R265). -/
def effClass (s : State) (r : Rec) : Nat := min 3 (r.ctx.cls + (s.clock - r.order) / 65536)

/-- Whether one ready record goes before another: effective class, then signal order, then SLOT (R265). -/
def goesBefore (s : State) (a b : Rec) : Bool :=
  let ca := effClass s a
  let cb := effClass s b
  cb < ca || (ca = cb && (a.order < b.order || (a.order = b.order && hSlot a.ctx.tself < hSlot b.ctx.tself)))

/-- The record that goes before all others of a list (R265). -/
def firstOf (before : Rec → Rec → Bool) : List Rec → Option Rec
  | [] => none
  | r :: rs =>
    match firstOf before rs with
    | some q => if before q r then some q else some r
    | none => some r

/-- The record of least key. Of several with one key it is the first of the list: R259 names no order among victims of
one moment (DESIGN CHOICE, log 70). -/
def minBy (f : Rec → Nat) : List Rec → Option Rec
  | [] => none
  | r :: rs =>
    match minBy f rs with
    | some q => if f q < f r then some q else some r
    | none => some r

/-- The next victim (R259): the longest suspended, else the latest ready of the lowest effective class; never the
incoming record. -/
def victim (s : State) (c : Core) (incoming : Option Word) : Option Rec :=
  let res := c.recs.filter fun r => r.spill.isNone && some r.ctx.tself != incoming
  match minBy (fun r => r.since) (res.filter fun r => r.st != .ready) with
  | some r => some r
  | none => minBy (fun r => effClass s r * 2 ^ 64 + (2 ^ 64 - 1 - r.order)) res

/-- Records evicted until one of a size fits within 128 KiB and `ctxlim`, sparing an incoming one (R259). With no victim
left the save goes on (log 70). A save that needs several evictions and finds the ring full, or a page failing, after some
of them makes none (R261, R262; DESIGN CHOICE, log 108). -/
def makeRoomFor (incoming : Option Word) : Nat → State → Nat → Nat → Saved
  | 0, s, _, _ => .ok s
  | fuel + 1, s, core, need =>
    let c := coreAt s core
    let res := c.recs.filter fun r => r.spill.isNone
    if res.length + 1 ≤ c.ctxlim && (res.map recBytes).sum + need ≤ 131072 then .ok s
    else
      match victim s c incoming with
      | none => .ok s
      | some r =>
        match evict s core r with
        | .ok s => makeRoomFor incoming fuel s core need
        | .full => .full
        | .fault va => .fault va

/-- Room made for a record that no switch brings in another one for (R259). -/
def makeRoom (fuel : Nat) (s : State) (core need : Nat) : Saved := makeRoomFor none fuel s core need

/-- The ready record that a switch of the running core will bring in (R259, R265). -/
def nextUp (s : State) : Option Word :=
  (firstOf (goesBefore s) (s.cpu.recs.filter fun r =>
    r.st = .ready && r.spill.isNone && canGrant s s.cpu.id r.ctx.need)).map fun r => r.ctx.tself

/-- Gates whose pairs have all been observed: each child enters its core's ready set, evicting as a save does, or waits
while no room can be made for it (R241, R259, log 70). -/
def enterGates (s : State) : State :=
  s.gates.foldl (fun t g =>
    if gateMet g then
      let r := gateRec t g.child
      match makeRoom ((coreAt t g.core).recs.length + 1) t g.core (recBytes r) with
      | .ok u => modCore { u with gates := u.gates.filter fun x => x.token != g.token } g.core fun c =>
          { c with recs := c.recs ++ [r] }
      | _ => t
    else t) s

/-- Gates whose pairs an atomic access finds at their thresholds (R241, R285). -/
def openGates (s : State) (pa : Nat) (v : Word) : State :=
  enterGates { s with gates := s.gates.map fun g =>
    { g with pairs := g.pairs.map fun p => if p.1 = pa && p.2.1 ≤ v then (p.1, p.2.1, true) else p } }

/-- What an atomic access that leaves or finds a counter at a value does beyond memory: it is a point of the counter's
atomic order, at which every waiter whose threshold is reached completes (R285). -/
def counterPoint (s : State) (pa : Nat) (v : Word) : State := openGates (wakeCounter s pa v) pa v

/-- A trace record when `dctl.TRACE` is set. R417 names no key: it is written under key slot 0 (R417; DESIGN CHOICE, log
116). -/
def traceRec (s : State) (kind cause : Nat) (handle value : Word) : State :=
  let c := s.cpu
  if c.dctl.getLsbD 3 then
    let n := c.trhead.toNat % 2 ^ c.trlog
    let s := writePhys s 0 (c.trbase + n * 32)
      (toBytes 1 kind ++ toBytes 1 cause ++ toBytes 2 c.id ++ toBytes 4 0 ++ toBytes 8 s.devtime.toNat ++
       toBytes 8 handle.toNat ++ toBytes 8 value.toNat)
    modCpu s fun k => { k with trhead := c.trhead + 1, dstat := if 2 ^ c.trlog ≤ c.trhead.toNat then k.dstat ||| 0x10 else k.dstat }
  else s

/-- A context after a cooperative save: only its live set is kept (R130, R243). -/
def keepLive (c : Ctx) (liveG : Word) (liveK : BitVec 7) (vs : Bool) : Ctx :=
  let g := Vector.ofFn fun i : Fin 32 => if i.val != 0 && liveG.getLsbD i.val then c.g.get i else 0
  if vs then
    let v := c.vec
    { c with
      g := g
      vec := { v with
        regs := Vector.ofFn fun i : Fin 32 =>
          let r := v.regs.get i
          match r.tag with
          | some t =>
            if liveG.getLsbD (32 + i.val) then
              { tag := some t, img := BitVec.ofNat 16384 (r.img.toNat % 2 ^ (v.vl * tyBits t)) }
            else { tag := none, img := 0 }
          | none =>
            -- a live register tagged NONE has no element width, and none of its bits is kept
            { tag := none, img := 0 }
        masks := Vector.ofFn fun i : Fin 7 => if liveK.getLsbD i.val then v.masks.get i else 0 } }
  else { c with g := g, vec := VecState.reset }

/-- Whether any vector or mask register, or V-state itself, is live (R243). -/
def liveState (liveG : Word) (liveK : BitVec 7) (vs : Bool) : Bool := vs || liveK != 0 || liveG >>> 32 != 0

/-- The widest tag width of a context's live registers; `vwidth` if none (R130). -/
def widest (c : Ctx) : Nat :=
  let ws := (c.vec.regs.toList.filterMap fun r => r.tag.map tyBits)
  if ws.isEmpty then 8 * 2 ^ c.vec.wc.val else ws.foldl max 0

/-- The groups a cooperatively saved context with V-state live needs at resumption (R130), within the 2^VLMAX bits that no
grant of the launch ever passes (R439, log 69). -/
def needOf (c : Ctx) : Nat := min c.ceiling (pow2Ceil 3 1 (cdiv (c.vec.vl * widest c) 2048))

/-- A latch or VIQ entry as 32 bytes give it. What R258 has no bytes for, the captured prefix among it, is that of the
entry that stood there with the same word and address (R258; DESIGN CHOICE, log 11). -/
def savedEntry (old : Option VEntry) (bs : List Byte) : VEntry :=
  let cap (bit at0 : Nat) : Option Word :=
    if (at_ bs 4 4).testBit bit then some (BitVec.ofNat 64 (at_ bs at0 8)) else none
  let word := BitVec.ofNat 32 (at_ bs 0 4)
  let pc := BitVec.ofNat 64 (at_ bs 8 8)
  match old.filter fun e => e.word = word && e.pc = pc with
  | some e => { e with cap0 := cap 0 16, cap1 := cap 1 24 }
  | none => { word := word, pc := pc, cap0 := cap 0 16, cap1 := cap 1 24, pfx := Pfx.none, once := false, stores := [] }

/-- A record as its bytes give it, header and body. Its handle, its launch's settings and what it waits for stand in no
byte of R258 and stay those of the record that was evicted. A length or a count above its range is taken as the
greatest of it, a GN as the number of groups of a grant next below it, a base class as at most the task's own limit,
and `fst` as an MTS stores it. Without live V-state, and in a forced save with GN 0, there is no vector state (R103, R130,
R143, R258; DESIGN CHOICE, log 11). -/
def recOf (r : Rec) (bs : List Byte) : Rec :=
  let flags := at_ bs 37 1
  let gn := if flags / 16 = 0 then 0 else pow2Floor (flags / 16)
  let vs := (at_ bs 36 1).testBit 7 && !(flags.testBit 2 && gn = 0)
  let liveG := BitVec.ofNat 64 (at_ bs 8 8)
  let liveK := BitVec.ofNat 7 (at_ bs 36 1)
  let vl := min 2048 (at_ bs 32 2)
  let gs := (span 1 32).filter fun i => liveG.getLsbD i
  let ks := (List.range 7).filter fun i => vs && liveK.getLsbD i
  let vs' := (List.range 32).filter fun i => vs && liveG.getLsbD (32 + i) && (tagOf (bits (at_ bs 44 20) (5 * i) 5)).isSome
  let tag (i : Nat) : Tag := if vs'.contains i then tagOf (bits (at_ bs 44 20) (5 * i) 5) else none
  let size (i : Nat) : Nat := regBytes vl { tag := tag i, img := 0 }
  let nq := if vs then min 8 (at_ bs 39 1) else 0
  let q0 := 64 + 8 * gs.length
  let k0 := q0 + 8 * nq
  let v0 := k0 + 256 * ks.length
  let l0 := v0 + (vs'.map size).sum
  let e0 := if flags.testBit 3 then l0 + 32 else l0
  let regs := Vector.ofFn fun i : Fin 32 =>
    { tag := tag i.val
      img := BitVec.ofNat 16384 (at_ bs (v0 + ((vs'.takeWhile (· < i.val)).map size).sum)
        (if vs'.contains i.val then size i.val else 0)) : VReg }
  let g := Vector.ofFn fun i : Fin 32 =>
    if gs.contains i.val then BitVec.ofNat 64 (at_ bs (64 + 8 * (gs.takeWhile (· < i.val)).length) 8) else 0
  let masks := Vector.ofFn fun i : Fin 7 =>
    if ks.contains i.val then BitVec.ofNat 2048 (at_ bs (k0 + 256 * (ks.takeWhile (· < i.val)).length) 256) else 0
  let vec : VecState :=
    if !vs && !flags.testBit 2 then VecState.reset else
    { vl := vl, vbeg := min 2047 (at_ bs 34 2), vred := BitVec.ofNat 64 (at_ bs 16 8),
      efr := BitVec.ofNat 32 (at_ bs 24 4), wc := Fin.ofNat 4 flags, regs := regs, masks := masks,
      vq := (List.range nq).map fun j => BitVec.ofNat 64 (at_ bs (q0 + 8 * j) 8) }
  let c := { r.ctx with
    pc := BitVec.ofNat 64 (at_ bs 0 8), g := g, pfx := pfxOf (at_ bs 30 2), fst := fstWrite (BitVec.ofNat 64 (at_ bs 28 2)), vec := vec,
    tidx := BitVec.ofNat 7 (at_ bs 40 1), depth := at_ bs 41 1, cls := min r.ctx.limit (bits (at_ bs 42 1) 0 2), gn := gn,
    latch := if flags.testBit 3 then some (savedEntry r.ctx.latch (bs.drop l0)) else none
    viq := (List.range (min 16 (at_ bs 38 1))).map fun j => savedEntry r.ctx.viq[j]? (bs.drop (e0 + 32 * j)) }
  { r with
    ctx := { c with need := if flags.testBit 2 then c.gn else if vs then needOf c else 0 }
    forced := flags.testBit 2, liveG := liveG, liveK := liveK, liveV := vs }

/-- The running core no longer waits for a Flue entry (R329). -/
def unwait (s : State) : State :=
  let n := clusterOf s.cpu.id
  if (clusterAt s n).flueWait.contains s.cpu.id then
    modCluster s n fun c => { c with flueWait := c.flueWait.filter (· != s.cpu.id) }
  else s

/-- The running task taken off its core, to resume at an address: its groups return to the pool, and the core is idle.
Counter 4 counts each time that a task leaves its core, for a save, a trap, a halt or its end: R419 does not say what a
context switch is (R105, R417, R419; DESIGN CHOICE, log 129). -/
def leaveCoreAt (s : State) (pc : Word) : State :=
  let s := unwait s
  let s := traceRec s 3 0 s.cpu.live.tself pc
  let s := setGrant s s.cpu.id 0
  modCpu (bump s 4) fun c => { c with who := .idle, live := Ctx.reset, quantum := 0, hold := .none,
                                      stall := none, lane := none }

/-- The running task taken off its core at its pc. -/
def leaveCore (s : State) : State := leaveCoreAt s s.cpu.live.pc

/-- A record put into the running core's context cache, and the core left idle, if room can be made (R259). -/
def saveRec (s : State) (r : Rec) : Saved :=
  match makeRoomFor (nextUp s) (s.cpu.recs.length + 1) s s.cpu.id (recBytes r) with
  | .ok s =>
    let s := leaveCoreAt s r.ctx.pc
    .ok (modCpu s fun c => { c with recs := c.recs ++ [r] })
  | .full => .full
  | .fault va => .fault va

/-- The vector state that a forced save keeps: of each register that is not tagged NONE its elements [0, vl), and no other
image bit (R130). -/
def keepForced (v : VecState) : VecState :=
  { v with regs := Vector.ofFn fun i : Fin 32 =>
      let r := v.regs.get i
      match r.tag with
      | some t => { tag := some t, img := BitVec.ofNat 16384 (r.img.toNat % 2 ^ (v.vl * tyBits t)) }
      | none => { tag := none, img := 0 } }

/-- A context as a forced or a trap save keeps it, with the groups that it needs again (R130, R374). -/
def savedCtx (s : State) (c : Ctx) : Ctx :=
  let n := groupCount s s.cpu.id
  { c with need := n, gn := n, vec := keepForced c.vec }

/-- The record of a forced save of the running context (R130). Bit 0 of its live mask is set, which R258 leaves open
(DESIGN CHOICE, log 82). -/
def forcedRec (s : State) (c : Ctx) (st : RecState) (w : Wait) (steal atPoint : Bool) : Rec :=
  let gn := groupCount s s.cpu.id
  { ctx := savedCtx s c, st := st, wait := w, forced := true, liveG := BitVec.allOnes 64,
    liveK := if gn = 0 then 0 else BitVec.allOnes 7, liveV := gn != 0, order := s.clock, since := s.clock,
    steal := steal, atPoint := atPoint, spill := none, due := false, poison := false }

/-- The record of a cooperative save of the running context (R130, R243). Its live mask holds bit 0 as the instruction
gave it (DESIGN CHOICE, log 82). It stands at its reclamation point, also one that a cooperative pre-emption made ready at
a wait already signalled: of R253's cases for a doomed task that one may be a task stopped at a point or one saved by a
pre-emption (R253, R264, R386; DESIGN CHOICE, log 134). -/
def coopRec (s : State) (c : Ctx) (liveG : Word) (liveK : BitVec 7) (vs : Bool) (st : RecState) (w : Wait)
    (steal : Bool) : Rec :=
  let c := { keepLive c liveG liveK vs with holdAt := none }
  { ctx := { c with need := if vs then needOf c else 0, gn := groupCount s s.cpu.id }, st := st, wait := w,
    forced := false, liveG := liveG, liveK := liveK, liveV := vs, order := s.clock, since := s.clock, steal := steal, atPoint := true, spill := none,
    due := false, poison := false }

end Sys2Proof.Machine
end

