-- ==== Sys2Proof/Machine/Control.lean ====
section
/-!
DEFINITION. The engine and unit control range (R388): each block as bytes, read and written in place.
-/

namespace Sys2Proof.Machine

/-- A tenant table entry as 64 bytes (R387). -/
def tenantBytes (t : Tenant) : List Byte :=
  toBytes 1 t.state ++ toBytes 1 t.lanemax ++ toBytes 1 t.bankmax ++ toBytes 1 t.tiermin ++ toBytes 4 t.featmask.toNat ++
  toBytes 8 t.keyset.toNat ++ toBytes 8 t.root.toNat ++ toBytes 12 t.clusters.toNat ++ toBytes 28 0

/-- The tenant table entry that 64 written bytes give, with the stored limits of R387. ROOT is a physical address aligned
to 64 KiB, and only bits [39:16] are stored (log 72). A STATE above 2 and a TIERMIN above 3, for which R387 names no limit,
are stored as written (DESIGN CHOICE, log 112). -/
def tenantOf (b : List Byte) : Tenant :=
  { state := at_ b 0 1, lanemax := max 1 (min 8 (at_ b 1 1)), bankmax := min 8 (at_ b 2 1), tiermin := at_ b 3 1,
    featmask := BitVec.ofNat 32 (at_ b 4 4), keyset := BitVec.ofNat 64 (at_ b 8 8),
    root := BitVec.ofNat 64 (at_ b 16 8 % 2 ^ 40 / 65536 * 65536), clusters := BitVec.ofNat 96 (at_ b 24 12) }

/-- A launch queue block as 64 bytes (R390). -/
def queueBytes (q : Queue) : List Byte :=
  toBytes 8 q.base.toNat ++ toBytes 1 q.log2n ++ toBytes 1 q.en.toNat ++ toBytes 6 0 ++ toBytes 8 q.head ++
  toBytes 8 q.tail ++ toBytes 32 0

/-- The queue block that 64 written bytes give; HEAD is read only. R390 gives BASE as 64-byte aligned and LOG2N as 4 to 16,
and not what other values become: the base is cut to a multiple of 64, a LOG2N outside its range is taken as the nearest
in it, and EN is bit 0 of its byte (R390; DESIGN CHOICE, log 135). -/
def queueOf (q : Queue) (b : List Byte) : Queue :=
  { q with base := BitVec.ofNat 64 (at_ b 0 8 / 64 * 64), log2n := max 4 (min 16 (at_ b 8 1)), en := at_ b 9 1 % 2 = 1,
           tail := at_ b 24 8 }

/-- The queue index of a control address, if it lies in a queue block (R388). -/
def queueIndex (pa : Nat) : Option (Fin 33) :=
  let o := pa - 0x8200020000
  if 0x8200020000 ≤ pa && o < 0x800 then
    some (Fin.ofNat 33 (o / 0x400 * 16 + o % 0x400 / 64))
  else if 0x8200020800 ≤ pa && pa < 0x8200020840 then some 32
  else none

/-- The bytes of the error block: the route register, the number of logged errors, and the log (R403, log 16). -/
def errorBytes (s : State) : List Byte :=
  toBytes 8 s.errRoute ++ toBytes 8 s.errlog.length ++ toBytes 48 0 ++
  (s.errlog.map fun e => toBytes 4 e.cls ++ toBytes 4 e.unit ++ toBytes 8 e.address.toNat).flatten

/-- The power block: PLIMIT, then one byte for each island (R388, log 24). -/
def powerBytes (s : State) : List Byte :=
  toBytes 8 s.plimit ++ (s.points.toList.map fun p => BitVec.ofNat 8 p.val)

/-- The block that holds a control address: its base and its bytes; key slots read as zero (R388, R402). -/
def ctlBlock (s : State) (pa : Nat) : Nat × List Byte :=
  if pa < 0x8200000400 then (pa / 64 * 64, tenantBytes (s.tenants.get (Fin.ofNat 16 ((pa - ctlBase) / 64))))
  else if 0x8200020000 ≤ pa && pa < 0x8200020840 then
    match queueIndex pa with
    | some q => (pa / 64 * 64, queueBytes (s.queues.get q))
    | none => (pa, [])
  else if 0x8200030000 ≤ pa && pa < 0x8200030000 + 8 * 768 then
    let c := coreAt s ((pa - 0x8200030000) / 8)
    (pa / 8 * 8, toBytes 8 (c.preMode + c.preClass * 16))
  else if 0x8200040000 ≤ pa && pa < 0x8200050000 then (0x8200040000, powerBytes s)
  else if 0x8200050000 ≤ pa && pa < 0x8200060000 then (0x8200050000, errorBytes s)
  else if 0x8200060000 ≤ pa && pa < 0x8200060010 then
    (pa / 8 * 8, toBytes 8 (s.hostRoute.get (Fin.ofNat 2 ((pa - 0x8200060000) / 8))).toNat)
  else (pa, [])

/-- A read of the control range; unlisted addresses read 0 (R388). -/
def ctlRead (s : State) (pa n : Nat) : List Byte :=
  let (base, b) := ctlBlock s pa
  toBytes n (at_ b (pa - base) n)

/-- Bytes with some replaced from an offset. -/
def splice (b : List Byte) (off : Nat) (new : List Byte) : List Byte :=
  (b ++ List.replicate (off + new.length - b.length) 0).take off ++ new ++ b.drop (off + new.length)

/-- A write of the control range; unlisted addresses ignore writes. A write of an island's point is ignored too: the power
controller gives the points (R388, R400; DESIGN CHOICE, log 24). -/
def ctlWrite (s : State) (pa : Nat) (new : List Byte) : State :=
  let (base, b) := ctlBlock s pa
  let b' := splice b (pa - base) new
  if pa < 0x8200000400 then
    { s with tenants := s.tenants.set (Fin.ofNat 16 ((pa - ctlBase) / 64)) (tenantOf b') }
  else if 0x8200010000 ≤ pa && pa < 0x8200011000 then
    let k : Fin 64 := Fin.ofNat 64 ((pa - 0x8200010000) / 64)
    let off := (pa - 0x8200010000) % 64
    { s with keys := s.keys.set k (BitVec.ofNat 512 (ofBytes (splice (toBytes 64 (s.keys.get k).toNat) off new))) }
  else if 0x8200020000 ≤ pa && pa < 0x8200020840 then
    match queueIndex pa with
    | some q => { s with queues := s.queues.set q (queueOf (s.queues.get q) b') }
    | none => s
  else if 0x8200030000 ≤ pa && pa < 0x8200030000 + 8 * 768 then
    modCore s ((pa - 0x8200030000) / 8) fun c =>
      { c with preMode := at_ b' 0 8 % 4, preClass := at_ b' 0 8 / 16 % 4, preAge := 0 }
  else if 0x8200040000 ≤ pa && pa < 0x8200040008 then { s with plimit := min 2800 (at_ b' 0 8) }
  else if 0x8200050000 ≤ pa && pa < 0x8200050008 then { s with errRoute := at_ b' 0 8 % 1024 }
  else if 0x8200060000 ≤ pa && pa < 0x8200060010 then
    { s with hostRoute := s.hostRoute.set (Fin.ofNat 2 ((pa - 0x8200060000) / 8)) (BitVec.ofNat 10 (at_ b' 0 8)) }
  else s

end Sys2Proof.Machine
end

