-- ==== Sys2Proof/Machine/Launches.lean ====
section
/-!
DEFINITION. The Reel's accesses to a tenant's memory, completion records, error logging and the FATAL state
(R390, R395, R403, R431).
-/

namespace Sys2Proof.Machine

/-- The queue number of a launch queue's block and the tenant of its entries; the management queue belongs to tenant 0
(R390, R399). -/
def queueSlot : QueueId → Fin 33
  | .host h t => Fin.ofNat 33 (16 * h.val + t.val)
  | .mgmt => 32
def queueTenant : QueueId → Fin 16
  | .host _ t => t
  | .mgmt => 0

/-- The home of a byte that the Reel reads or writes for a tenant, at task privilege: HBM under a key index (R431). A
window has no meaning there. -/
def reelPlace (s : State) (tenant : Fin 16) (k : Kind) (va : Nat) : Option (Nat × Fin 64) × State :=
  if 2 ^ 52 ≤ va || (winBase ≤ va && va < winEnd) then (none, s)
  else
    match walk s tenant va walkLevels (s.tenants.get tenant).root.toNat with
    | (none, s) => (none, s)
    | (some e, s) =>
      let pa := e.pa + (va - e.va)
      (if permits s tenant 0 k e && pa < hbmEnd then some (pa, e.key) else none, s)

/-- Bytes that the Reel reads at listed addresses; none when a byte cannot be read or is poisoned (R431). -/
def reelBytes (s : State) (tenant : Fin 16) : List Nat → Option (List Byte) × State
  | [] => (some [], s)
  | va :: vas =>
    match reelPlace s tenant .read va with
    | (none, s) => (none, s)
    | (some (pa, key), s) =>
      if poisoned s pa 1 then (none, s)
      else
        let (b, s) := readPhys s key pa 1
        match reelBytes s tenant vas with
        | (some bs, s) => (some (b ++ bs), s)
        | (none, s) => (none, s)

/-- n bytes that the Reel reads from an address. -/
def reelRead (s : State) (tenant : Fin 16) (va n : Nat) : Option (List Byte) × State :=
  reelBytes s tenant ((List.range n).map (va + ·))

/-- Bytes that the Reel writes from an address; a byte that cannot be written is not. -/
def reelWrite (s : State) (tenant : Fin 16) : Nat → List Byte → State
  | _, [] => s
  | va, b :: bs =>
    match reelPlace s tenant .write va with
    | (some (pa, key), s) => reelWrite (writePhys s key pa [b]) tenant (va + 1) bs
    | (none, s) => reelWrite s tenant (va + 1) bs

/-- What completes an entry (R395). -/
structure Completion where
  queue : QueueId
  seq : BitVec 32
  compl : Word
  deadline : Word
  result : Word
  status : Nat
  dispatched : Word
  ended : Word
  deriving DecidableEq, Repr

/-- The 32 bytes of a completion record (R395). -/
def complBytes (c : Completion) : List Byte :=
  toBytes 8 c.result.toNat ++ toBytes 4 c.seq.toNat ++ toBytes 1 c.status ++
  toBytes 1 (decide (c.deadline < c.ended)).toNat ++ toBytes 2 0 ++ toBytes 8 c.dispatched.toNat ++
  toBytes 8 c.ended.toNat

/-- A completion: its record, byte 12 last, and the queue's MSI-X vector (R395). -/
def complete (s : State) (c : Completion) : State :=
  let bs := complBytes c
  let t := queueTenant c.queue
  let a := c.compl.toNat
  let s := reelWrite s t a (bs.take 12)
  let s := reelWrite s t (a + 13) (bs.drop 13)
  let s := reelWrite s t (a + 12) ((bs.drop 12).take 1)
  match c.queue with
  | .host h t => { s with msix := s.msix ++ [(h, t.val)] }
  | .mgmt => s

/-- The completion of an entry that was never dispatched. Its DISPATCH is 0 and its END the `devtime` of the completion, as
R396 has it of one cancelled; of REFUSED and RESOURCE no rule says it (R393, R395, R396; DESIGN CHOICE, log 124). -/
def unrun (s : State) (e : Entry) (status : Nat) : Completion :=
  { queue := e.queue, seq := e.seq, compl := e.compl, deadline := e.deadline, result := 0, status := status,
    dispatched := 0, ended := s.devtime }

/-- The completion of a launch without a result (R396, R403). -/
def cutOff (s : State) (l : Launch) (status : Nat) : Completion :=
  { queue := l.queue, seq := l.seq, compl := l.compl, deadline := l.deadline, result := 0, status := status,
    dispatched := l.dispatched, ended := l.ended.getD s.devtime }

/-- Completions one after another. -/
def completeAll (s : State) (cs : List Completion) : State := cs.foldl complete s

/-- Errors that the log ring holds (log 16). -/
def errCap : Nat := 4092

/-- An error logged; a ring more than half full makes ERROR pending on the routed core (R403). -/
def logError (s : State) (e : ErrEntry) : State :=
  let l := s.errlog ++ [e]
  let l := if errCap < l.length then l.tail else l
  let s := { s with errlog := l }
  if e.cls = 2 || errCap < 2 * l.length then
    (if s.errRoute < 768 then modCore s s.errRoute fun c => { c with pendError := true } else s)
  else s

/-- An uncontained error: the device is FATAL, every launch completes with STATUS DEVICE, and vector 31 goes to both
hosts (R403). -/
def goFatal (s : State) (unit : Nat) (address : Word) : State :=
  let s := logError s { cls := 2, unit := unit, address := address }
  let cs := s.reel.launches.map (fun l => cutOff s l 5) ++ s.reel.pending.map fun e => unrun s e 5
  let s := completeAll { s with reel := { s.reel with launches := [], pending := [] } } cs
  { s with fatal := true, msix := s.msix ++ [(0, 31), (1, 31)] }

end Sys2Proof.Machine
end

