-- ==== Sys2Proof/WellFormed.lean ====
section
/-!
DEFINITION. Which words of a known layout are instructions: the conditions of R48 that bear on the fields together.
-/

namespace Sys2Proof

/-- Why a word is ILLEGAL (R48). -/
inductive Reject
  | opcode          -- a major opcode of R42 that is unassigned
  | member          -- a member code of R43 that is unassigned
  | mustBeZero      -- a must-be-zero or unused field that is not zero
  | size            -- a size code that the member does not accept
  | rounding        -- a rounding mode that the member does not accept
  | form            -- an operand form that the member does not define
  | variant         -- a VLD or VST variant outside R205
  | tag             -- a tag or type that the member does not accept
  | amount          -- a 32-bit shift by 32 or more
  | sameFormat      -- FCVTF between equal formats
  | pair            -- v31 named as the first register of a pair
  | maskDest        -- a mask result named k0
  | spr             -- an unassigned special register
  | length          -- not four bytes
  | event           -- an event of the part, which no word encodes
  deriving DecidableEq, Repr

/-- Reject unless the condition holds. -/
def demand (b : Bool) (r : Reject) : Option Reject := if b then none else some r

/-- The sizes a store takes (R39). -/
def Size.stores : Size → Bool
  | .i8 | .i16 | .i32 | .d => true
  | .n8 | .n16 | .n32 => false

/-- The element types of segment-MX transfers (R47). -/
def Ty.segment : Ty → Bool
  | .i8 | .e4m3 | .e5m2 | .e2m1 => true
  | _ => false

/-- The defect of R48 that a word of this layout has, if any; an event is no word. -/
def Instr.defect : Instr → Option Reject
  | .add _ _ _ _ => none
  | .sub _ _ _ _ => none
  | .and _ _ _ _ => none
  | .or _ _ _ _ => none
  | .xor _ _ _ _ => none
  | .andn _ _ _ _ => none
  | .orn _ _ _ _ => none
  | .shl _ _ _ _ => none
  | .shr _ _ _ _ => none
  | .sha _ _ _ _ => none
  | .ror _ _ _ _ => none
  | .mul _ _ _ _ => none
  | .mulh _ _ _ _ => none
  | .mulhn _ _ _ _ => none
  | .div _ _ _ _ => none
  | .divn _ _ _ _ => none
  | .rem _ _ _ _ => none
  | .remn _ _ _ _ => none
  | .min _ _ _ _ => none
  | .max _ _ _ _ => none
  | .minn _ _ _ _ => none
  | .maxn _ _ _ _ => none
  | .slt _ _ _ _ => none
  | .sltn _ _ _ _ => none
  | .clz _ _ _ => none
  | .ctz _ _ _ => none
  | .popc _ _ _ => none
  | .brev _ _ _ => none
  | .addi _ _ _ => none
  | .andi _ _ _ => none
  | .ori _ _ _ => none
  | .xori _ _ _ => none
  | .slti _ _ _ => none
  | .sltni _ _ _ => none
  | .shli _ _ w n => demand (!w || n.val < 32) .amount
  | .shri _ _ w n => demand (!w || n.val < 32) .amount
  | .shai _ _ w n => demand (!w || n.val < 32) .amount
  | .rori _ _ w n => demand (!w || n.val < 32) .amount
  | .liw _ _ => none
  | .lis _ _ => none
  | .addpc _ _ => none
  | .sel _ _ _ _ => none
  | .lea _ _ _ _ => none
  | .fadd _ _ _ _ rm => demand (rm != .ef) .rounding
  | .fsub _ _ _ _ rm => demand (rm != .ef) .rounding
  | .fmul _ _ _ _ rm => demand (rm != .ef) .rounding
  | .fdiv _ _ _ _ rm => demand (rm != .ef) .rounding
  | .fsqrt _ _ _ rm => demand (rm != .ef) .rounding
  | .fmin _ _ _ _ => none
  | .fmax _ _ _ _ => none
  | .fcmpeq _ _ _ _ => none
  | .fcmplt _ _ _ _ => none
  | .fcmple _ _ _ _ => none
  | .fcmpun _ _ _ _ => none
  | .fclass _ _ _ => none
  | .fcvti _ _ _ rm => demand (rm != .ef) .rounding
  | .fcvtn _ _ _ rm => demand (rm != .ef) .rounding
  | .fcvtfi _ _ _ rm => demand (rm != .ef) .rounding
  | .fcvtfn _ _ _ rm => demand (rm != .ef) .rounding
  | .fcvtf _ _ src fmt rm => (demand (rm != .ef) .rounding) <|> (demand (src != fmt) .sameFormat)
  | .fma _ _ _ _ _ rm => demand (rm != .ef) .rounding
  | .fnma _ _ _ _ _ rm => demand (rm != .ef) .rounding
  | .j _ => none
  | .jl _ => none
  | .jrl _ _ => none
  | .beq _ _ _ => none
  | .bne _ _ _ => none
  | .blt _ _ _ => none
  | .bge _ _ _ => none
  | .bltn _ _ _ => none
  | .bgen _ _ _ => none
  | .ld _ _ _ _ => none
  | .st _ _ sz _ => demand sz.stores .size
  | .xld _ _ _ _ _ => none
  | .xst _ _ _ _ sz => demand sz.stores .size
  | .amoSwap _ _ _ _ _ _ => none
  | .amoAdd _ _ _ _ _ _ => none
  | .amoAnd _ _ _ _ _ _ => none
  | .amoOr _ _ _ _ _ _ => none
  | .amoXor _ _ _ _ _ _ => none
  | .amoMin _ _ _ _ _ _ => none
  | .amoMax _ _ _ _ _ _ => none
  | .amoMinn _ _ _ _ _ _ => none
  | .amoMaxn _ _ _ _ _ _ => none
  | .amoCas _ _ _ _ _ _ => none
  | .cinit _ _ => none
  | .cadd _ _ => none
  | .cread _ _ => none
  | .ctest _ _ _ => none
  | .rld _ _ _ => none
  | .rst _ _ _ sz => demand sz.stores .size
  | .radd _ _ _ sz => demand (sz == .i32 || sz == .d) .size
  | .rswp _ _ _ sz => demand (sz == .i32 || sz == .d) .size
  | .traps _ => none
  | .brk _ => none
  | .eret => none
  | .halt => none
  | .waiti => none
  | .codesync _ _ => none
  | .tlbinv _ => none
  | .l1wb _ _ => none
  | .mfs _ _ => none
  | .mts _ _ => none
  | .pfx _ _ _ _ _ => none
  | .spawn _ _ _ => none
  | .spawng _ _ _ _ => none
  | .finish _ => none
  | .fref _ _ => none
  | .fdrop _ => none
  | .fpoll _ _ => none
  | .ftake _ _ => none
  | .rpoint => none
  | .rhold => none
  | .rrel => none
  | .tself _ => none
  | .ffail _ => none
  | .await _ _ _ _ _ => none
  | .awaitany _ _ _ _ _ => none
  | .yield _ _ _ => none
  | .cwait _ _ _ _ _ => none
  | .cpy1d _ _ _ _ => none
  | .cpy2d _ _ => none
  | .cpfill _ _ _ _ => none
  | .cpgath _ _ => none
  | .cpqry _ => none
  | .mxbind _ _ _ => none
  | .mxload _ _ _ => none
  | .mxrow _ _ _ => none
  | .mxrowz _ _ _ => none
  | .mxsync _ _ => none
  | .mxrd _ _ _ => none
  | .mxzero _ _ _ => none
  | .mxrel _ => none
  | .mxqry _ _ => none
  | .fgrp _ _ _ => none
  | .fcoll _ _ => none
  | .fbar _ _ => none
  | .fgqry _ _ => none
  | .fgfree _ => none
  | .dmark _ => none
  | .dsample _ _ => none
  | .vsetl _ _ _ => none
  | .vsetlw _ _ _ _ => none
  | .vtag _ _ => none
  | .vclr _ => none
  | .vfold _ _ => none
  | .vsave _ => none
  | .vrestore _ => none
  | .vmaxq _ _ => none
  | .vadd _ _ _ _ _ => none
  | .vsub _ _ _ _ _ => none
  | .vrsub _ _ _ _ _ => none
  | .vmul _ _ _ _ _ => none
  | .vmulh _ _ _ _ _ => none
  | .vmin _ _ _ _ _ => none
  | .vmax _ _ _ _ _ => none
  | .vabs _ _ _ => none
  | .vneg _ _ _ => none
  | .vdiv _ _ _ _ _ => none
  | .vrem _ _ _ _ _ => none
  | .vsqrt _ _ _ => none
  | .vexp2 _ _ _ => none
  | .vand _ _ _ _ _ => none
  | .vor _ _ _ _ _ => none
  | .vxor _ _ _ _ _ => none
  | .vshl _ _ _ _ _ => none
  | .vshr _ _ _ _ _ => none
  | .vsha _ _ _ _ _ => none
  | .vsadd _ _ _ _ _ => none
  | .vssub _ _ _ _ _ => none
  | .vavg _ _ _ _ _ => none
  | .vfma _ _ _ _ _ => none
  | .vfms _ _ _ _ _ => none
  | .vfnma _ _ _ _ _ => none
  | .vfnms _ _ _ _ _ => none
  | .vcvt _ _ _ _ _ => none
  | .vcvts _ _ _ _ _ => none
  | .vpackmx d _ _ rm => (demand (rm != .ef) .rounding) <|> (demand (d.val != 31) .pair)
  | .vunpkmx _ a _ rm => (demand (rm != .ef) .rounding) <|> (demand (a.val != 31) .pair)
  | .vrsum _ _ _ _ => none
  | .vrsumo _ _ _ _ _ => none
  | .vrmax _ _ _ _ => none
  | .vrmin _ _ _ _ => none
  | .vrand _ _ _ _ => none
  | .vror _ _ _ _ => none
  | .vrxor _ _ _ _ => none
  | .vrmaxi _ _ _ _ => none
  | .vslup form _ _ _ _ => demand (form != .vv) .form
  | .vsldn form _ _ _ _ => demand (form != .vv) .form
  | .vrgath _ _ _ _ => none
  | .vcompr _ _ _ => none
  | .vexpnd _ _ _ => none
  | .viota _ _ _ _ => none
  | .vidx _ _ _ => none
  | .vbcast form _ _ _ _ => demand (form != .vv) .form
  | .vmerge _ _ _ _ _ => none
  | .vrev _ _ _ => none
  | .vzip _ _ _ => none
  | .vunzip _ _ _ => none
  | .vceq _ d _ _ _ => demand (d.val != 0) .maskDest
  | .vcne _ d _ _ _ => demand (d.val != 0) .maskDest
  | .vclt _ d _ _ _ => demand (d.val != 0) .maskDest
  | .vcle _ d _ _ _ => demand (d.val != 0) .maskDest
  | .vcgt _ d _ _ _ => demand (d.val != 0) .maskDest
  | .vcge _ d _ _ _ => demand (d.val != 0) .maskDest
  | .vcun _ d _ _ _ => demand (d.val != 0) .maskDest
  | .vclass d _ _ _ => demand (d.val != 0) .maskDest
  | .kand d _ _ _ => demand (d.val != 0) .maskDest
  | .kor d _ _ _ => demand (d.val != 0) .maskDest
  | .kxor d _ _ _ => demand (d.val != 0) .maskDest
  | .knot d _ _ => demand (d.val != 0) .maskDest
  | .kandn d _ _ _ => demand (d.val != 0) .maskDest
  | .ksbf d _ _ => demand (d.val != 0) .maskDest
  | .ksif d _ _ => demand (d.val != 0) .maskDest
  | .kpopc _ _ _ => none
  | .kfirst _ _ _ => none
  | .kmov d _ _ => demand (d.val != 0) .maskDest
  | .vldUnit _ _ _ _ _ => none
  | .vldStrided _ _ _ _ _ t => demand (t != .e2m1) .tag
  | .vldIndexed _ _ _ _ _ t => demand (t != .e2m1) .tag
  | .vldFirstFault _ _ _ _ _ => none
  | .vldSegmentMx d _ t => (demand (d.val != 31) .pair) <|> (demand t.segment .tag)
  | .vstUnit _ _ _ _ _ => none
  | .vstStrided _ _ _ _ _ t => demand (t != .e2m1) .tag
  | .vstIndexed _ _ _ _ _ t => demand (t != .e2m1) .tag
  | .vstOrdered _ _ _ _ _ => none
  | .vstSegmentMx d _ t => (demand (d.val != 31) .pair) <|> (demand t.segment .tag)
  | .vmvsx _ _ => none
  | .vmvxs _ _ => none
  | .vqpop _ => none
  | .vqlen _ => none
  | .vmv form _ a b _ => demand (if form == .vv then b.val == 0 else a.val == 0) .mustBeZero
  | .timer => some .event
  | .host => some .event
  | .error => some .event
  | .quantumExpiry => some .event
  | .preemptReqCooperative => some .event
  | .preemptReqForced => some .event
  | .preemptReqToHandler => some .event
  | .preemptCoopTimeout => some .event
  | .readySelection => some .event
  | .spillHoldEnd => some .event
  | .steal => some .event
  | .codeLineFill => some .event
  | .faultRecordDelivery _ => some .event
  | .fsackRetry _ _ => some .event
  | .fsackFail _ _ => some .event
  | .fsackNote _ _ => some .event
  | .fsackInvalid _ _ => some .event
  | .flueAccept => some .event
  | .flueChunk _ _ => some .event
  | .kilnAccept => some .event
  | .tileLoad _ _ => some .event
  | .rowJob _ _ => some .event
  | .accumulatorZeroJob _ _ => some .event
  | .bankClear _ _ => some .event
  | .rmtAccept => some .event
  | .remoteAccess _ => some .event
  | .remoteReply _ _ _ => some .event
  | .collAccept => some .event
  | .groupMatch _ _ _ => some .event
  | .collChunk _ _ _ => some .event
  | .groupFail _ => some .event
  | .doorbell _ _ _ => some .event
  | .cancel _ _ _ => some .event
  | .hostSignal _ => some .event
  | .bar2Access _ _ _ => some .event
  | .entryArrival _ => some .event
  | .dispatch => some .event
  | .launchCompletion _ => some .event
  | .tenantDrain _ => some .event
  | .tenantDrainEnd _ => some .event
  | .keySlotWrite _ _ => some .event
  | .attestationRequest _ => some .event
  | .measurementExtend _ _ => some .event
  | .tenantKeyLoad _ _ => some .event
  | .debugAuthorization _ => some .event
  | .spedyHalt _ => some .event
  | .spedyRun _ _ => some .event
  | .rdctx _ => some .event
  | .rdspr _ _ => some .event
  | .wrspr _ _ _ => some .event
  | .rdpa _ _ _ => some .event
  | .wrpa _ _ _ => some .event
  | .rdft _ => some .event
  | .singleStep => some .event
  | .draughtClear => some .event
  | .registerWrite _ _ => some .event
  | .boot _ => some .event
  | .coreRestart _ => some .event
  | .waitiWake => some .event
  | .correctedError _ _ => some .event
  | .containedError _ => some .event
  | .uncontainedError _ _ => some .event
  | .thermalThrottle _ => some .event
  | .thermalTrip _ => some .event
  | .powerAdjust _ _ => some .event
  | .wearUpdate _ _ _ => some .event
  | .illegalWord _ => some .event
  | .targetUnreachable _ _ => some .event

/-- A word instruction that R48 does not call ILLEGAL. -/
def WellFormed (i : Instr) : Bool := i.defect == none

end Sys2Proof
end

