-- ==== Sys2Proof/Decode.lean ====
section
/-!
DEFINITION. The decoder of instruction words, total and rejecting by name (R33 to R48), and the encoder written from the
same tables. A word is read as a number; field [hi:lo] is a quotient and a remainder of it.
-/

namespace Sys2Proof

/-- Bits [lo + len - 1 : lo] of a word (R3). -/
def fld (w lo len : Nat) : Nat := w / 2 ^ lo % 2 ^ len

/-- A 5-bit register field. -/
def rg (w lo : Nat) : Reg := ⟨fld w lo 5, Nat.mod_lt _ (by decide)⟩

/-- A 3-bit mask register field. -/
def kg (w lo : Nat) : KReg := ⟨fld w lo 3, Nat.mod_lt _ (by decide)⟩

/-- A 2-bit field. -/
def f4 (w lo : Nat) : Fin 4 := ⟨fld w lo 2, Nat.mod_lt _ (by decide)⟩

/-- A 6-bit field. -/
def f64 (w lo : Nat) : Fin 64 := ⟨fld w lo 6, Nat.mod_lt _ (by decide)⟩

/-- A 1-bit field. -/
def bt (w lo : Nat) : Bool := fld w lo 1 == 1

/-- The size named by `sz` (R39). -/
def Size.ofCode : Nat → Option Size
  | 0 => some .i8 | 1 => some .i16 | 2 => some .i32 | 3 => some .d
  | 4 => some .n8 | 5 => some .n16 | 6 => some .n32 | _ => none

/-- The code of a size (R39). -/
def Size.code : Size → Nat
  | .i8 => 0 | .i16 => 1 | .i32 => 2 | .d => 3 | .n8 => 4 | .n16 => 5 | .n32 => 6

/-- The type of a 4-bit type code (R40). -/
def Ty.ofCode : Nat → Option Ty
  | 0 => some .i8 | 1 => some .i16 | 2 => some .i32 | 3 => some .i64
  | 4 => some .n8 | 5 => some .n16 | 6 => some .n32 | 7 => some .n64
  | 8 => some .fp64 | 9 => some .fp32 | 10 => some .fp16 | 11 => some .bf16
  | 12 => some .e4m3 | 13 => some .e5m2 | 14 => some .e2m1 | 15 => some .e8m0
  | _ => none

/-- The type code of a type (R40). -/
def Ty.code : Ty → Nat
  | .i8 => 0 | .i16 => 1 | .i32 => 2 | .i64 => 3 | .n8 => 4 | .n16 => 5 | .n32 => 6 | .n64 => 7
  | .fp64 => 8 | .fp32 => 9 | .fp16 => 10 | .bf16 => 11 | .e4m3 => 12 | .e5m2 => 13 | .e2m1 => 14 | .e8m0 => 15

/-- The type of a nonzero tag value: tag c + 1 is type code c (R40). -/
def Ty.ofTag : Nat → Option Ty
  | 0 => none
  | n + 1 => Ty.ofCode n

/-- The tag of a 5-bit tag value, 0 being NONE (R40). -/
def Tag.ofCode : Nat → Option Tag
  | 0 => some none
  | n + 1 => (Ty.ofCode n).map some

/-- The 5-bit value of a tag (R40). -/
def Tag.code : Tag → Nat
  | none => 0
  | some t => t.code + 1

/-- The rounding mode of an `rm` field (R41). -/
def RM.ofCode : Nat → Option RM
  | 0 => some .rne | 1 => some .rtz | 2 => some .rdn | 3 => some .rup | 4 => some .rna | 5 => some .ef | 7 => some .dyn
  | _ => none

/-- The code of a rounding mode (R41). -/
def RM.code : RM → Nat
  | .rne => 0 | .rtz => 1 | .rdn => 2 | .rup => 3 | .rna => 4 | .ef => 5 | .dyn => 7

/-- The scalar format of a `fmt` field (R41). -/
def Fmt.get : Fin 4 → Fmt
  | 0 => .fp64 | 1 => .fp32 | 2 => .fp16 | 3 => .bf16

/-- The code of a scalar format (R41). -/
def Fmt.code : Fmt → Nat
  | .fp64 => 0 | .fp32 => 1 | .fp16 => 2 | .bf16 => 3

/-- The operand form of format V; form 11 belongs to VLD and VST alone (R46). -/
def VForm.ofCode : Nat → Option VForm
  | 0 => some .vv | 1 => some .vs | 2 => some .vi | _ => none

/-- The code of an operand form (R46). -/
def VForm.code : VForm → Nat
  | .vv => 0 | .vs => 1 | .vi => 2

/-- The number of a special register, as its chapter assigns it. -/
def Spr.code : Spr → Nat
  | .vl => 0x000
  | .vgrant => 0x001
  | .vbeg => 0x002
  | .vred => 0x003
  | .efr => 0x004
  | .fst => 0x005
  | .vslip => 0x006
  | .vwidth => 0x007
  | .pfxl => 0x008
  | .vqlen => 0x009
  | .tself => 0x040
  | .tidx => 0x041
  | .tprio => 0x042
  | .tlevel => 0x043
  | .thold => 0x044
  | .tquant => 0x045
  | .ctxlim => 0x046
  | .ftbase => 0x047
  | .ftsize => 0x048
  | .wsbase => 0x049
  | .wssize => 0x04A
  | .wsstat => 0x04B
  | .wsroot => 0x04C
  | .tcmbase => 0x080
  | .cspbase => 0x081
  | .tenant => 0x082
  | .ptroot => 0x083
  | .kbind => 0x0C0
  | .cpstat => 0x0D0
  | .podcfg => 0x0E0
  | .rmtstat => 0x0E1
  | .tcause => 0x100
  | .tval => 0x101
  | .tepc => 0x102
  | .tevc => 0x103
  | .tstatus => 0x104
  | .tvec => 0x105
  | .cycle => 0x106
  | .devtime => 0x107
  | .coreid => 0x108
  | .clusterid => 0x109
  | .devid => 0x10A
  | .tsel => 0x10B
  | .tgval => 0x10C
  | .ttimer => 0x10D
  | .tpend => 0x10E
  | .fvec => 0x10F
  | .tact => 0x110
  | .fsring => 0x111
  | .fsack => 0x112
  | .wear => 0x113
  | .islst => 0x114
  | .dctl => 0x200
  | .dstat => 0x201
  | .dstask => 0x202
  | .dstep => 0x203
  | .dbten => 0x204
  | .ibrk n => 0x210 + n.val
  | .wtch n => 0x218 + n.val
  | .wctl n => 0x220 + n.val
  | .drsel => 0x230
  | .drprod => 0x231
  | .drcons => 0x232
  | .drcyc => 0x233
  | .drlost => 0x234
  | .trring => 0x240
  | .trhead => 0x241
  | .soot => 0x250
  | .sootst => 0x251

/-- Every special register that a chapter assigns. -/
def Spr.all : List Spr :=
  [.vl, .vgrant, .vbeg, .vred, .efr, .fst, .vslip, .vwidth, .pfxl, .vqlen, .tself, .tidx,
   .tprio, .tlevel, .thold, .tquant, .ctxlim, .ftbase, .ftsize, .wsbase, .wssize, .wsstat, .wsroot, .tcmbase,
   .cspbase, .tenant, .ptroot, .kbind, .cpstat, .podcfg, .rmtstat, .tcause, .tval, .tepc, .tevc, .tstatus,
   .tvec, .cycle, .devtime, .coreid, .clusterid, .devid, .tsel, .tgval, .ttimer, .tpend, .fvec, .tact,
   .fsring, .fsack, .wear, .islst, .dctl, .dstat, .dstask, .dstep, .dbten, .drsel, .drprod, .drcons,
   .drcyc, .drlost, .trring, .trhead, .soot, .sootst] ++
  [(.ibrk 0), (.ibrk 1), (.ibrk 2), (.ibrk 3), (.wtch 0), (.wtch 1), (.wtch 2), (.wtch 3), (.wctl 0), (.wctl 1), (.wctl 2), (.wctl 3)]

/-- The special register of a number; a number that no chapter assigns names none (R48). -/
def Spr.ofCode (n : Nat) : Option Spr := Spr.all.find? (fun r => r.code == n)

/-- Continue with a field's meaning, or reject the word. -/
def need {α β : Type} (o : Option α) (r : Reject) (k : α → Except Reject β) : Except Reject β :=
  match o with
  | some x => k x
  | none => .error r

/-- Every listed field (lowest bit, length) holds its fixed value, or the word is rejected (R7, R37). -/
def fixed {β : Type} (w : Nat) (fs : List (Nat × Nat × Nat)) (k : Except Reject β) : Except Reject β :=
  if fs.all (fun p => fld w p.1 p.2.1 == p.2.2) then k else .error .mustBeZero

/-- Op 0x01: the member code [5:0] chooses the instruction (R42, R43). -/
def decodeAlu (w : Nat) : Except Reject Instr :=
  match fld w 0 6 with
  | 0 => fixed w [(6, 4, 0)] <| .ok (.add (rg w 21) (rg w 16) (rg w 11) (bt w 10))
  | 1 => fixed w [(6, 4, 0)] <| .ok (.sub (rg w 21) (rg w 16) (rg w 11) (bt w 10))
  | 2 => fixed w [(6, 4, 0)] <| .ok (.and (rg w 21) (rg w 16) (rg w 11) (bt w 10))
  | 3 => fixed w [(6, 4, 0)] <| .ok (.or (rg w 21) (rg w 16) (rg w 11) (bt w 10))
  | 4 => fixed w [(6, 4, 0)] <| .ok (.xor (rg w 21) (rg w 16) (rg w 11) (bt w 10))
  | 5 => fixed w [(6, 4, 0)] <| .ok (.andn (rg w 21) (rg w 16) (rg w 11) (bt w 10))
  | 6 => fixed w [(6, 4, 0)] <| .ok (.orn (rg w 21) (rg w 16) (rg w 11) (bt w 10))
  | 7 => fixed w [(6, 4, 0)] <| .ok (.shl (rg w 21) (rg w 16) (rg w 11) (bt w 10))
  | 8 => fixed w [(6, 4, 0)] <| .ok (.shr (rg w 21) (rg w 16) (rg w 11) (bt w 10))
  | 9 => fixed w [(6, 4, 0)] <| .ok (.sha (rg w 21) (rg w 16) (rg w 11) (bt w 10))
  | 10 => fixed w [(6, 4, 0)] <| .ok (.ror (rg w 21) (rg w 16) (rg w 11) (bt w 10))
  | 11 => fixed w [(6, 4, 0)] <| .ok (.mul (rg w 21) (rg w 16) (rg w 11) (bt w 10))
  | 12 => fixed w [(6, 4, 0)] <| .ok (.mulh (rg w 21) (rg w 16) (rg w 11) (bt w 10))
  | 13 => fixed w [(6, 4, 0)] <| .ok (.mulhn (rg w 21) (rg w 16) (rg w 11) (bt w 10))
  | 14 => fixed w [(6, 4, 0)] <| .ok (.div (rg w 21) (rg w 16) (rg w 11) (bt w 10))
  | 15 => fixed w [(6, 4, 0)] <| .ok (.divn (rg w 21) (rg w 16) (rg w 11) (bt w 10))
  | 16 => fixed w [(6, 4, 0)] <| .ok (.rem (rg w 21) (rg w 16) (rg w 11) (bt w 10))
  | 17 => fixed w [(6, 4, 0)] <| .ok (.remn (rg w 21) (rg w 16) (rg w 11) (bt w 10))
  | 18 => fixed w [(6, 4, 0)] <| .ok (.min (rg w 21) (rg w 16) (rg w 11) (bt w 10))
  | 19 => fixed w [(6, 4, 0)] <| .ok (.max (rg w 21) (rg w 16) (rg w 11) (bt w 10))
  | 20 => fixed w [(6, 4, 0)] <| .ok (.minn (rg w 21) (rg w 16) (rg w 11) (bt w 10))
  | 21 => fixed w [(6, 4, 0)] <| .ok (.maxn (rg w 21) (rg w 16) (rg w 11) (bt w 10))
  | 22 => fixed w [(6, 4, 0)] <| .ok (.slt (rg w 21) (rg w 16) (rg w 11) (bt w 10))
  | 23 => fixed w [(6, 4, 0)] <| .ok (.sltn (rg w 21) (rg w 16) (rg w 11) (bt w 10))
  | 24 => fixed w [(6, 4, 0), (11, 5, 0)] <| .ok (.clz (rg w 21) (rg w 16) (bt w 10))
  | 25 => fixed w [(6, 4, 0), (11, 5, 0)] <| .ok (.ctz (rg w 21) (rg w 16) (bt w 10))
  | 26 => fixed w [(6, 4, 0), (11, 5, 0)] <| .ok (.popc (rg w 21) (rg w 16) (bt w 10))
  | 27 => fixed w [(6, 4, 0), (11, 5, 0)] <| .ok (.brev (rg w 21) (rg w 16) (bt w 10))
  | _ => .error .member

/-- Op 0x08: the member code [15:14] chooses the instruction (R42, R43). -/
def decodeShi (w : Nat) : Except Reject Instr :=
  match fld w 14 2 with
  | 0 => fixed w [(7, 7, 0)] <| .ok (.shli (rg w 21) (rg w 16) (bt w 6) (f64 w 0))
  | 1 => fixed w [(7, 7, 0)] <| .ok (.shri (rg w 21) (rg w 16) (bt w 6) (f64 w 0))
  | 2 => fixed w [(7, 7, 0)] <| .ok (.shai (rg w 21) (rg w 16) (bt w 6) (f64 w 0))
  | 3 => fixed w [(7, 7, 0)] <| .ok (.rori (rg w 21) (rg w 16) (bt w 6) (f64 w 0))
  | _ => .error .member

/-- Op 0x0E: the member code [5:0] chooses the instruction (R42, R43). -/
def decodeFop (w : Nat) : Except Reject Instr :=
  match fld w 0 6 with
  | 0 => need (RM.ofCode (fld w 6 3)) .rounding fun rm => .ok (.fadd (rg w 21) (rg w 16) (rg w 11) (Fmt.get (f4 w 9)) rm)
  | 1 => need (RM.ofCode (fld w 6 3)) .rounding fun rm => .ok (.fsub (rg w 21) (rg w 16) (rg w 11) (Fmt.get (f4 w 9)) rm)
  | 2 => need (RM.ofCode (fld w 6 3)) .rounding fun rm => .ok (.fmul (rg w 21) (rg w 16) (rg w 11) (Fmt.get (f4 w 9)) rm)
  | 3 => need (RM.ofCode (fld w 6 3)) .rounding fun rm => .ok (.fdiv (rg w 21) (rg w 16) (rg w 11) (Fmt.get (f4 w 9)) rm)
  | 4 => fixed w [(11, 5, 0)] <| need (RM.ofCode (fld w 6 3)) .rounding fun rm => .ok (.fsqrt (rg w 21) (rg w 16) (Fmt.get (f4 w 9)) rm)
  | 5 => fixed w [(6, 3, 0)] <| .ok (.fmin (rg w 21) (rg w 16) (rg w 11) (Fmt.get (f4 w 9)))
  | 6 => fixed w [(6, 3, 0)] <| .ok (.fmax (rg w 21) (rg w 16) (rg w 11) (Fmt.get (f4 w 9)))
  | 7 => fixed w [(6, 3, 0)] <| .ok (.fcmpeq (rg w 21) (rg w 16) (rg w 11) (Fmt.get (f4 w 9)))
  | 8 => fixed w [(6, 3, 0)] <| .ok (.fcmplt (rg w 21) (rg w 16) (rg w 11) (Fmt.get (f4 w 9)))
  | 9 => fixed w [(6, 3, 0)] <| .ok (.fcmple (rg w 21) (rg w 16) (rg w 11) (Fmt.get (f4 w 9)))
  | 10 => fixed w [(6, 3, 0)] <| .ok (.fcmpun (rg w 21) (rg w 16) (rg w 11) (Fmt.get (f4 w 9)))
  | 11 => fixed w [(6, 3, 0), (11, 5, 0)] <| .ok (.fclass (rg w 21) (rg w 16) (Fmt.get (f4 w 9)))
  | 12 => fixed w [(11, 5, 0)] <| need (RM.ofCode (fld w 6 3)) .rounding fun rm => .ok (.fcvti (rg w 21) (rg w 16) (Fmt.get (f4 w 9)) rm)
  | 13 => fixed w [(11, 5, 0)] <| need (RM.ofCode (fld w 6 3)) .rounding fun rm => .ok (.fcvtn (rg w 21) (rg w 16) (Fmt.get (f4 w 9)) rm)
  | 14 => fixed w [(11, 5, 0)] <| need (RM.ofCode (fld w 6 3)) .rounding fun rm => .ok (.fcvtfi (rg w 21) (rg w 16) (Fmt.get (f4 w 9)) rm)
  | 15 => fixed w [(11, 5, 0)] <| need (RM.ofCode (fld w 6 3)) .rounding fun rm => .ok (.fcvtfn (rg w 21) (rg w 16) (Fmt.get (f4 w 9)) rm)
  | 16 => fixed w [(13, 3, 0)] <| need (RM.ofCode (fld w 6 3)) .rounding fun rm => .ok (.fcvtf (rg w 21) (rg w 16) (Fmt.get (f4 w 11)) (Fmt.get (f4 w 9)) rm)
  | _ => .error .member

/-- Op 0x0F: the member code [0:0] chooses the instruction (R42, R43). -/
def decodeFma (w : Nat) : Except Reject Instr :=
  match fld w 0 1 with
  | 0 => need (RM.ofCode (fld w 1 3)) .rounding fun rm => .ok (.fma (rg w 21) (rg w 16) (rg w 11) (rg w 6) (Fmt.get (f4 w 4)) rm)
  | 1 => need (RM.ofCode (fld w 1 3)) .rounding fun rm => .ok (.fnma (rg w 21) (rg w 16) (rg w 11) (rg w 6) (Fmt.get (f4 w 4)) rm)
  | _ => .error .member

/-- Op 0x1B: the member code [5:5] chooses the instruction (R42, R43). -/
def decodeXmem (w : Nat) : Except Reject Instr :=
  match fld w 5 1 with
  | 0 => fixed w [(6, 5, 0)] <| need (Size.ofCode (fld w 0 3)) .size fun sz => .ok (.xld (rg w 21) (rg w 16) (rg w 11) (f4 w 3) sz)
  | 1 => fixed w [(6, 5, 0)] <| need (Size.ofCode (fld w 0 3)) .size fun sz => .ok (.xst (rg w 21) (rg w 16) (rg w 11) (f4 w 3) sz)
  | _ => .error .member

/-- Op 0x1C: the member code [3:0] chooses the instruction (R42, R43). -/
def decodeAmo (w : Nat) : Except Reject Instr :=
  match fld w 0 4 with
  | 0 => fixed w [(5, 1, 0), (8, 3, 0)] <| .ok (.amoSwap (rg w 21) (rg w 16) (rg w 11) (bt w 7) (bt w 6) (bt w 4))
  | 1 => fixed w [(5, 1, 0), (8, 3, 0)] <| .ok (.amoAdd (rg w 21) (rg w 16) (rg w 11) (bt w 7) (bt w 6) (bt w 4))
  | 2 => fixed w [(5, 1, 0), (8, 3, 0)] <| .ok (.amoAnd (rg w 21) (rg w 16) (rg w 11) (bt w 7) (bt w 6) (bt w 4))
  | 3 => fixed w [(5, 1, 0), (8, 3, 0)] <| .ok (.amoOr (rg w 21) (rg w 16) (rg w 11) (bt w 7) (bt w 6) (bt w 4))
  | 4 => fixed w [(5, 1, 0), (8, 3, 0)] <| .ok (.amoXor (rg w 21) (rg w 16) (rg w 11) (bt w 7) (bt w 6) (bt w 4))
  | 5 => fixed w [(5, 1, 0), (8, 3, 0)] <| .ok (.amoMin (rg w 21) (rg w 16) (rg w 11) (bt w 7) (bt w 6) (bt w 4))
  | 6 => fixed w [(5, 1, 0), (8, 3, 0)] <| .ok (.amoMax (rg w 21) (rg w 16) (rg w 11) (bt w 7) (bt w 6) (bt w 4))
  | 7 => fixed w [(5, 1, 0), (8, 3, 0)] <| .ok (.amoMinn (rg w 21) (rg w 16) (rg w 11) (bt w 7) (bt w 6) (bt w 4))
  | 8 => fixed w [(5, 1, 0), (8, 3, 0)] <| .ok (.amoMaxn (rg w 21) (rg w 16) (rg w 11) (bt w 7) (bt w 6) (bt w 4))
  | 9 => fixed w [(5, 1, 0), (8, 3, 0)] <| .ok (.amoCas (rg w 21) (rg w 16) (rg w 11) (bt w 7) (bt w 6) (bt w 4))
  | _ => .error .member

/-- Op 0x1D: the member code [4:0] chooses the instruction (R42, R43). -/
def decodeCtr (w : Nat) : Except Reject Instr :=
  match fld w 0 5 with
  | 0 => fixed w [(5, 6, 0), (21, 5, 0)] <| .ok (.cinit (rg w 16) (rg w 11))
  | 1 => fixed w [(5, 6, 0), (21, 5, 0)] <| .ok (.cadd (rg w 16) (rg w 11))
  | 2 => fixed w [(5, 11, 0)] <| .ok (.cread (rg w 21) (rg w 16))
  | 3 => fixed w [(5, 6, 0)] <| .ok (.ctest (rg w 21) (rg w 16) (rg w 11))
  | _ => .error .member

/-- Op 0x1E: the member code [4:0] chooses the instruction (R42, R43). -/
def decodeRmt (w : Nat) : Except Reject Instr :=
  match fld w 0 5 with
  | 0 => fixed w [(8, 8, 0)] <| need (Size.ofCode (fld w 5 3)) .size fun sz => .ok (.rld (rg w 21) (rg w 16) sz)
  | 1 => fixed w [(8, 3, 0)] <| need (Size.ofCode (fld w 5 3)) .size fun sz => .ok (.rst (rg w 21) (rg w 16) (rg w 11) sz)
  | 2 => fixed w [(8, 3, 0)] <| need (Size.ofCode (fld w 5 3)) .size fun sz => .ok (.radd (rg w 21) (rg w 16) (rg w 11) sz)
  | 3 => fixed w [(8, 3, 0)] <| need (Size.ofCode (fld w 5 3)) .size fun sz => .ok (.rswp (rg w 21) (rg w 16) (rg w 11) sz)
  | _ => .error .member

/-- Op 0x1F: the member code [4:0] chooses the instruction (R42, R43). -/
def decodeSys (w : Nat) : Except Reject Instr :=
  match fld w 0 5 with
  | 0 => fixed w [(11, 15, 0)] <| .ok (.traps (f64 w 5))
  | 1 => fixed w [(11, 15, 0)] <| .ok (.brk (f64 w 5))
  | 2 => fixed w [(5, 21, 0)] <| .ok .eret
  | 3 => fixed w [(5, 21, 0)] <| .ok .halt
  | 4 => fixed w [(5, 21, 0)] <| .ok .waiti
  | 5 => fixed w [(5, 6, 0), (21, 5, 0)] <| .ok (.codesync (rg w 16) (rg w 11))
  | 6 => fixed w [(5, 11, 0), (21, 5, 0)] <| .ok (.tlbinv (rg w 16))
  | 7 => fixed w [(5, 6, 0), (21, 5, 0)] <| .ok (.l1wb (rg w 16) (rg w 11))
  | _ => .error .member

/-- Op 0x23: the member code [4:0] chooses the instruction (R42, R43). -/
def decodeTask (w : Nat) : Except Reject Instr :=
  match fld w 0 5 with
  | 0 => fixed w [(5, 6, 0)] <| .ok (.spawn (rg w 21) (rg w 16) (rg w 11))
  | 1 => fixed w [(5, 1, 0)] <| .ok (.spawng (rg w 21) (rg w 16) (rg w 11) (rg w 6))
  | 2 => fixed w [(5, 11, 0), (21, 5, 0)] <| .ok (.finish (rg w 16))
  | 3 => fixed w [(5, 6, 0), (21, 5, 0)] <| .ok (.fref (rg w 16) (rg w 11))
  | 4 => fixed w [(5, 11, 0), (21, 5, 0)] <| .ok (.fdrop (rg w 16))
  | 5 => fixed w [(5, 11, 0)] <| .ok (.fpoll (rg w 21) (rg w 16))
  | 6 => fixed w [(5, 11, 0)] <| .ok (.ftake (rg w 21) (rg w 16))
  | 7 => fixed w [(5, 21, 0)] <| .ok .rpoint
  | 8 => fixed w [(5, 21, 0)] <| .ok .rhold
  | 9 => fixed w [(5, 21, 0)] <| .ok .rrel
  | 10 => fixed w [(5, 16, 0)] <| .ok (.tself (rg w 21))
  | 11 => fixed w [(5, 11, 0), (21, 5, 0)] <| .ok (.ffail (rg w 16))
  | _ => .error .member

/-- Op 0x24: the member code [2:0] chooses the instruction (R42, R43). -/
def decodeAwt (w : Nat) : Except Reject Instr :=
  match fld w 0 3 with
  | 0 => .ok (.await (rg w 21) (rg w 16) (rg w 11) (BitVec.ofNat 7 (fld w 4 7)) (bt w 3))
  | 1 => .ok (.awaitany (rg w 21) (rg w 16) (rg w 11) (BitVec.ofNat 7 (fld w 4 7)) (bt w 3))
  | 2 => fixed w [(16, 10, 0)] <| .ok (.yield (rg w 11) (BitVec.ofNat 7 (fld w 4 7)) (bt w 3))
  | 3 => .ok (.cwait (rg w 21) (rg w 16) (rg w 11) (BitVec.ofNat 7 (fld w 4 7)) (bt w 3))
  | _ => .error .member

/-- Op 0x25: the member code [4:0] chooses the instruction (R42, R43). -/
def decodeCpy (w : Nat) : Except Reject Instr :=
  match fld w 0 5 with
  | 0 => fixed w [(5, 1, 0)] <| .ok (.cpy1d (rg w 21) (rg w 16) (rg w 11) (rg w 6))
  | 1 => fixed w [(5, 11, 0)] <| .ok (.cpy2d (rg w 21) (rg w 16))
  | 2 => fixed w [(5, 1, 0)] <| .ok (.cpfill (rg w 21) (rg w 16) (rg w 11) (rg w 6))
  | 3 => fixed w [(5, 11, 0)] <| .ok (.cpgath (rg w 21) (rg w 16))
  | 4 => fixed w [(5, 16, 0)] <| .ok (.cpqry (rg w 21))
  | _ => .error .member

/-- Op 0x26: the member code [4:0] chooses the instruction (R42, R43). -/
def decodeMtx (w : Nat) : Except Reject Instr :=
  match fld w 0 5 with
  | 0 => fixed w [(5, 6, 0)] <| .ok (.mxbind (rg w 21) (rg w 16) (rg w 11))
  | 1 => fixed w [(5, 6, 0)] <| .ok (.mxload (rg w 21) (rg w 16) (rg w 11))
  | 2 => fixed w [(5, 1, 0), (21, 5, 0)] <| .ok (.mxrow (rg w 16) (rg w 11) (rg w 6))
  | 3 => fixed w [(5, 1, 0), (21, 5, 0)] <| .ok (.mxrowz (rg w 16) (rg w 11) (rg w 6))
  | 4 => fixed w [(5, 11, 0)] <| .ok (.mxsync (rg w 21) (rg w 16))
  | 5 => fixed w [(5, 6, 0)] <| .ok (.mxrd (rg w 21) (rg w 16) (rg w 11))
  | 6 => fixed w [(5, 6, 0)] <| .ok (.mxzero (rg w 21) (rg w 16) (rg w 11))
  | 7 => fixed w [(5, 11, 0), (21, 5, 0)] <| .ok (.mxrel (rg w 16))
  | 8 => fixed w [(5, 11, 0)] <| .ok (.mxqry (rg w 21) (rg w 16))
  | _ => .error .member

/-- Op 0x27: the member code [4:0] chooses the instruction (R42, R43). -/
def decodeFab (w : Nat) : Except Reject Instr :=
  match fld w 0 5 with
  | 0 => fixed w [(5, 6, 0)] <| .ok (.fgrp (rg w 21) (rg w 16) (rg w 11))
  | 1 => fixed w [(5, 11, 0)] <| .ok (.fcoll (rg w 21) (rg w 16))
  | 2 => fixed w [(5, 11, 0)] <| .ok (.fbar (rg w 21) (rg w 16))
  | 3 => fixed w [(5, 11, 0)] <| .ok (.fgqry (rg w 21) (rg w 16))
  | 4 => fixed w [(5, 11, 0), (21, 5, 0)] <| .ok (.fgfree (rg w 16))
  | _ => .error .member

/-- Op 0x28: the member code [4:0] chooses the instruction (R42, R43). -/
def decodeDbg (w : Nat) : Except Reject Instr :=
  match fld w 0 5 with
  | 0 => fixed w [(5, 11, 0), (21, 5, 0)] <| .ok (.dmark (rg w 16))
  | 1 => fixed w [(5, 11, 0)] <| .ok (.dsample (rg w 21) (rg w 16))
  | _ => .error .member

/-- Op 0x30: the member code [5:0] chooses the instruction (R42, R43). -/
def decodeVcfg (w : Nat) : Except Reject Instr :=
  match fld w 0 6 with
  | 0 => fixed w [(8, 8, 0)] <| .ok (.vsetl (rg w 21) (rg w 16) (f4 w 6))
  | 1 => fixed w [(8, 3, 0)] <| .ok (.vsetlw (rg w 21) (rg w 16) (rg w 11) (f4 w 6))
  | 2 => fixed w [(6, 5, 0), (16, 5, 0)] <| need (Tag.ofCode (fld w 11 5)) .tag fun t => .ok (.vtag (rg w 21) t)
  | 3 => fixed w [(6, 15, 0)] <| .ok (.vclr (rg w 21))
  | 4 => fixed w [(6, 10, 0)] <| .ok (.vfold (rg w 21) (rg w 16))
  | 5 => fixed w [(6, 10, 0), (21, 5, 0)] <| .ok (.vsave (rg w 16))
  | 6 => fixed w [(6, 10, 0), (21, 5, 0)] <| .ok (.vrestore (rg w 16))
  | 7 => fixed w [(8, 13, 0)] <| .ok (.vmaxq (rg w 21) (f4 w 6))
  | _ => .error .member

/-- Op 0x31: the member code [5:0] chooses the instruction (R42, R43). -/
def decodeVarith (w : Nat) : Except Reject Instr :=
  match fld w 0 6 with
  | 0 => need (VForm.ofCode (fld w 24 2)) .form fun form => .ok (.vadd form (rg w 19) (rg w 14) (rg w 9) (kg w 6))
  | 1 => need (VForm.ofCode (fld w 24 2)) .form fun form => .ok (.vsub form (rg w 19) (rg w 14) (rg w 9) (kg w 6))
  | 2 => need (VForm.ofCode (fld w 24 2)) .form fun form => .ok (.vrsub form (rg w 19) (rg w 14) (rg w 9) (kg w 6))
  | 3 => need (VForm.ofCode (fld w 24 2)) .form fun form => .ok (.vmul form (rg w 19) (rg w 14) (rg w 9) (kg w 6))
  | 4 => need (VForm.ofCode (fld w 24 2)) .form fun form => .ok (.vmulh form (rg w 19) (rg w 14) (rg w 9) (kg w 6))
  | 5 => need (VForm.ofCode (fld w 24 2)) .form fun form => .ok (.vmin form (rg w 19) (rg w 14) (rg w 9) (kg w 6))
  | 6 => need (VForm.ofCode (fld w 24 2)) .form fun form => .ok (.vmax form (rg w 19) (rg w 14) (rg w 9) (kg w 6))
  | 7 => fixed w [(9, 5, 0), (24, 2, 0)] <| .ok (.vabs (rg w 19) (rg w 14) (kg w 6))
  | 8 => fixed w [(9, 5, 0), (24, 2, 0)] <| .ok (.vneg (rg w 19) (rg w 14) (kg w 6))
  | 9 => need (VForm.ofCode (fld w 24 2)) .form fun form => .ok (.vdiv form (rg w 19) (rg w 14) (rg w 9) (kg w 6))
  | 10 => need (VForm.ofCode (fld w 24 2)) .form fun form => .ok (.vrem form (rg w 19) (rg w 14) (rg w 9) (kg w 6))
  | 11 => fixed w [(9, 5, 0), (24, 2, 0)] <| .ok (.vsqrt (rg w 19) (rg w 14) (kg w 6))
  | 12 => fixed w [(9, 5, 0), (24, 2, 0)] <| .ok (.vexp2 (rg w 19) (rg w 14) (kg w 6))
  | 13 => need (VForm.ofCode (fld w 24 2)) .form fun form => .ok (.vand form (rg w 19) (rg w 14) (rg w 9) (kg w 6))
  | 14 => need (VForm.ofCode (fld w 24 2)) .form fun form => .ok (.vor form (rg w 19) (rg w 14) (rg w 9) (kg w 6))
  | 15 => need (VForm.ofCode (fld w 24 2)) .form fun form => .ok (.vxor form (rg w 19) (rg w 14) (rg w 9) (kg w 6))
  | 16 => need (VForm.ofCode (fld w 24 2)) .form fun form => .ok (.vshl form (rg w 19) (rg w 14) (rg w 9) (kg w 6))
  | 17 => need (VForm.ofCode (fld w 24 2)) .form fun form => .ok (.vshr form (rg w 19) (rg w 14) (rg w 9) (kg w 6))
  | 18 => need (VForm.ofCode (fld w 24 2)) .form fun form => .ok (.vsha form (rg w 19) (rg w 14) (rg w 9) (kg w 6))
  | 19 => need (VForm.ofCode (fld w 24 2)) .form fun form => .ok (.vsadd form (rg w 19) (rg w 14) (rg w 9) (kg w 6))
  | 20 => need (VForm.ofCode (fld w 24 2)) .form fun form => .ok (.vssub form (rg w 19) (rg w 14) (rg w 9) (kg w 6))
  | 21 => need (VForm.ofCode (fld w 24 2)) .form fun form => .ok (.vavg form (rg w 19) (rg w 14) (rg w 9) (kg w 6))
  | _ => .error .member

/-- Op 0x32: the member code [5:0] chooses the instruction (R42, R43). -/
def decodeVfma (w : Nat) : Except Reject Instr :=
  match fld w 0 6 with
  | 0 => need (VForm.ofCode (fld w 24 2)) .form fun form => .ok (.vfma form (rg w 19) (rg w 14) (rg w 9) (kg w 6))
  | 1 => need (VForm.ofCode (fld w 24 2)) .form fun form => .ok (.vfms form (rg w 19) (rg w 14) (rg w 9) (kg w 6))
  | 2 => need (VForm.ofCode (fld w 24 2)) .form fun form => .ok (.vfnma form (rg w 19) (rg w 14) (rg w 9) (kg w 6))
  | 3 => need (VForm.ofCode (fld w 24 2)) .form fun form => .ok (.vfnms form (rg w 19) (rg w 14) (rg w 9) (kg w 6))
  | _ => .error .member

/-- Op 0x33: the member code [2:0] chooses the instruction (R42, R43). -/
def decodeVcvt (w : Nat) : Except Reject Instr :=
  match fld w 0 3 with
  | 0 => fixed w [(24, 2, 2)] <| need (Ty.ofTag (fld w 9 5)) .tag fun t => need (RM.ofCode (fld w 3 3)) .rounding fun rm => .ok (.vcvt (rg w 19) (rg w 14) t (kg w 6) rm)
  | 1 => fixed w [(24, 2, 2)] <| need (Ty.ofTag (fld w 9 5)) .tag fun t => need (RM.ofCode (fld w 3 3)) .rounding fun rm => .ok (.vcvts (rg w 19) (rg w 14) t (kg w 6) rm)
  | 2 => fixed w [(6, 3, 0), (24, 2, 2)] <| need (Ty.ofTag (fld w 9 5)) .tag fun t => need (RM.ofCode (fld w 3 3)) .rounding fun rm => .ok (.vpackmx (rg w 19) (rg w 14) t rm)
  | 3 => fixed w [(6, 3, 0), (24, 2, 2)] <| need (Ty.ofTag (fld w 9 5)) .tag fun t => need (RM.ofCode (fld w 3 3)) .rounding fun rm => .ok (.vunpkmx (rg w 19) (rg w 14) t rm)
  | _ => .error .member

/-- Op 0x34: the member code [4:0] chooses the instruction (R42, R43). -/
def decodeVred (w : Nat) : Except Reject Instr :=
  match fld w 0 5 with
  | 0 => fixed w [(9, 5, 0), (24, 2, 0)] <| .ok (.vrsum (rg w 19) (rg w 14) (kg w 6) (bt w 5))
  | 1 => fixed w [(24, 2, 1)] <| .ok (.vrsumo (rg w 19) (rg w 14) (rg w 9) (kg w 6) (bt w 5))
  | 2 => fixed w [(9, 5, 0), (24, 2, 0)] <| .ok (.vrmax (rg w 19) (rg w 14) (kg w 6) (bt w 5))
  | 3 => fixed w [(9, 5, 0), (24, 2, 0)] <| .ok (.vrmin (rg w 19) (rg w 14) (kg w 6) (bt w 5))
  | 4 => fixed w [(9, 5, 0), (24, 2, 0)] <| .ok (.vrand (rg w 19) (rg w 14) (kg w 6) (bt w 5))
  | 5 => fixed w [(9, 5, 0), (24, 2, 0)] <| .ok (.vror (rg w 19) (rg w 14) (kg w 6) (bt w 5))
  | 6 => fixed w [(9, 5, 0), (24, 2, 0)] <| .ok (.vrxor (rg w 19) (rg w 14) (kg w 6) (bt w 5))
  | 7 => fixed w [(9, 5, 0), (24, 2, 0)] <| .ok (.vrmaxi (rg w 19) (rg w 14) (kg w 6) (bt w 5))
  | _ => .error .member

/-- Op 0x35: the member code [5:0] chooses the instruction (R42, R43). -/
def decodeVperm (w : Nat) : Except Reject Instr :=
  match fld w 0 6 with
  | 0 => need (VForm.ofCode (fld w 24 2)) .form fun form => .ok (.vslup form (rg w 19) (rg w 14) (rg w 9) (kg w 6))
  | 1 => need (VForm.ofCode (fld w 24 2)) .form fun form => .ok (.vsldn form (rg w 19) (rg w 14) (rg w 9) (kg w 6))
  | 2 => fixed w [(24, 2, 0)] <| .ok (.vrgath (rg w 19) (rg w 14) (rg w 9) (kg w 6))
  | 3 => fixed w [(9, 5, 0), (24, 2, 0)] <| .ok (.vcompr (rg w 19) (rg w 14) (kg w 6))
  | 4 => fixed w [(9, 5, 0), (24, 2, 0)] <| .ok (.vexpnd (rg w 19) (rg w 14) (kg w 6))
  | 5 => fixed w [(17, 2, 0), (24, 2, 2)] <| need (Ty.ofTag (fld w 9 5)) .tag fun t => .ok (.viota (rg w 19) (kg w 14) t (kg w 6))
  | 6 => fixed w [(14, 5, 0), (24, 2, 2)] <| need (Ty.ofTag (fld w 9 5)) .tag fun t => .ok (.vidx (rg w 19) t (kg w 6))
  | 7 => need (VForm.ofCode (fld w 24 2)) .form fun form => .ok (.vbcast form (rg w 19) (rg w 14) (rg w 9) (kg w 6))
  | 8 => need (VForm.ofCode (fld w 24 2)) .form fun form => .ok (.vmerge form (rg w 19) (rg w 14) (rg w 9) (kg w 6))
  | 9 => fixed w [(9, 5, 0), (24, 2, 0)] <| .ok (.vrev (rg w 19) (rg w 14) (kg w 6))
  | 10 => fixed w [(9, 5, 0), (24, 2, 0)] <| .ok (.vzip (rg w 19) (rg w 14) (kg w 6))
  | 11 => fixed w [(9, 5, 0), (24, 2, 0)] <| .ok (.vunzip (rg w 19) (rg w 14) (kg w 6))
  | _ => .error .member

/-- Op 0x36: the member code [5:0] chooses the instruction (R42, R43). -/
def decodeVmask (w : Nat) : Except Reject Instr :=
  match fld w 0 6 with
  | 0 => fixed w [(22, 2, 0)] <| need (VForm.ofCode (fld w 24 2)) .form fun form => .ok (.vceq form (kg w 19) (rg w 14) (rg w 9) (kg w 6))
  | 1 => fixed w [(22, 2, 0)] <| need (VForm.ofCode (fld w 24 2)) .form fun form => .ok (.vcne form (kg w 19) (rg w 14) (rg w 9) (kg w 6))
  | 2 => fixed w [(22, 2, 0)] <| need (VForm.ofCode (fld w 24 2)) .form fun form => .ok (.vclt form (kg w 19) (rg w 14) (rg w 9) (kg w 6))
  | 3 => fixed w [(22, 2, 0)] <| need (VForm.ofCode (fld w 24 2)) .form fun form => .ok (.vcle form (kg w 19) (rg w 14) (rg w 9) (kg w 6))
  | 4 => fixed w [(22, 2, 0)] <| need (VForm.ofCode (fld w 24 2)) .form fun form => .ok (.vcgt form (kg w 19) (rg w 14) (rg w 9) (kg w 6))
  | 5 => fixed w [(22, 2, 0)] <| need (VForm.ofCode (fld w 24 2)) .form fun form => .ok (.vcge form (kg w 19) (rg w 14) (rg w 9) (kg w 6))
  | 6 => fixed w [(22, 2, 0)] <| need (VForm.ofCode (fld w 24 2)) .form fun form => .ok (.vcun form (kg w 19) (rg w 14) (rg w 9) (kg w 6))
  | 7 => fixed w [(22, 4, 4)] <| .ok (.vclass (kg w 19) (rg w 14) (rg w 9) (kg w 6))
  | 8 => fixed w [(12, 2, 0), (17, 2, 0), (22, 4, 0)] <| .ok (.kand (kg w 19) (kg w 14) (kg w 9) (kg w 6))
  | 9 => fixed w [(12, 2, 0), (17, 2, 0), (22, 4, 0)] <| .ok (.kor (kg w 19) (kg w 14) (kg w 9) (kg w 6))
  | 10 => fixed w [(12, 2, 0), (17, 2, 0), (22, 4, 0)] <| .ok (.kxor (kg w 19) (kg w 14) (kg w 9) (kg w 6))
  | 11 => fixed w [(9, 5, 0), (17, 2, 0), (22, 4, 0)] <| .ok (.knot (kg w 19) (kg w 14) (kg w 6))
  | 12 => fixed w [(12, 2, 0), (17, 2, 0), (22, 4, 0)] <| .ok (.kandn (kg w 19) (kg w 14) (kg w 9) (kg w 6))
  | 13 => fixed w [(9, 5, 0), (17, 2, 0), (22, 4, 0)] <| .ok (.ksbf (kg w 19) (kg w 14) (kg w 6))
  | 14 => fixed w [(9, 5, 0), (17, 2, 0), (22, 4, 0)] <| .ok (.ksif (kg w 19) (kg w 14) (kg w 6))
  | 15 => fixed w [(9, 5, 0), (17, 2, 0), (24, 2, 0)] <| .ok (.kpopc (rg w 19) (kg w 14) (kg w 6))
  | 16 => fixed w [(9, 5, 0), (17, 2, 0), (24, 2, 0)] <| .ok (.kfirst (rg w 19) (kg w 14) (kg w 6))
  | 17 => fixed w [(9, 5, 0), (17, 2, 0), (22, 4, 0)] <| .ok (.kmov (kg w 19) (kg w 14) (kg w 6))
  | _ => .error .member

/-- Op 0x37: the form, then the segment-MX variant, choose the member (R42, R204). -/
def decodeVld (w : Nat) : Except Reject Instr :=
  match fld w 24 2, fld w 4 1 with
  | 0, 0 => need (Ty.ofCode (fld w 0 4)) .tag fun t => .ok (.vldIndexed (rg w 19) (rg w 14) (rg w 9) (kg w 6) (bt w 5) t)
  | 1, 0 => need (Ty.ofCode (fld w 0 4)) .tag fun t => .ok (.vldStrided (rg w 19) (rg w 14) (rg w 9) (kg w 6) (bt w 5) t)
  | 2, 0 => fixed w [(9, 5, 0)] <| need (Ty.ofCode (fld w 0 4)) .tag fun t => .ok (.vldUnit (rg w 19) (rg w 14) (kg w 6) (bt w 5) t)
  | 2, 1 => fixed w [(5, 9, 0)] <| need (Ty.ofCode (fld w 0 4)) .tag fun t => .ok (.vldSegmentMx (rg w 19) (rg w 14) t)
  | 3, 0 => fixed w [(9, 5, 0)] <| need (Ty.ofCode (fld w 0 4)) .tag fun t => .ok (.vldFirstFault (rg w 19) (rg w 14) (kg w 6) (bt w 5) t)
  | _, _ => .error .variant

/-- Op 0x38: the form, then the segment-MX variant, choose the member (R42, R204). -/
def decodeVst (w : Nat) : Except Reject Instr :=
  match fld w 24 2, fld w 4 1 with
  | 0, 0 => need (Ty.ofCode (fld w 0 4)) .tag fun t => .ok (.vstIndexed (rg w 19) (rg w 14) (rg w 9) (kg w 6) (bt w 5) t)
  | 1, 0 => need (Ty.ofCode (fld w 0 4)) .tag fun t => .ok (.vstStrided (rg w 19) (rg w 14) (rg w 9) (kg w 6) (bt w 5) t)
  | 2, 0 => fixed w [(9, 5, 0)] <| need (Ty.ofCode (fld w 0 4)) .tag fun t => .ok (.vstUnit (rg w 19) (rg w 14) (kg w 6) (bt w 5) t)
  | 2, 1 => fixed w [(5, 9, 0)] <| need (Ty.ofCode (fld w 0 4)) .tag fun t => .ok (.vstSegmentMx (rg w 19) (rg w 14) t)
  | 3, 0 => fixed w [(9, 5, 0)] <| need (Ty.ofCode (fld w 0 4)) .tag fun t => .ok (.vstOrdered (rg w 19) (rg w 14) (kg w 6) (bt w 5) t)
  | _, _ => .error .variant

/-- Op 0x39: the member code [5:0] chooses the instruction (R42, R43). -/
def decodeVmov (w : Nat) : Except Reject Instr :=
  match fld w 0 6 with
  | 0 => fixed w [(6, 3, 0), (14, 5, 0), (24, 2, 1)] <| .ok (.vmvsx (rg w 19) (rg w 9))
  | 1 => fixed w [(6, 8, 0), (24, 2, 0)] <| .ok (.vmvxs (rg w 19) (rg w 14))
  | 2 => fixed w [(6, 13, 0), (24, 2, 0)] <| .ok (.vqpop (rg w 19))
  | 3 => fixed w [(6, 13, 0), (24, 2, 0)] <| .ok (.vqlen (rg w 19))
  | 4 => need (VForm.ofCode (fld w 24 2)) .form fun form => .ok (.vmv form (rg w 19) (rg w 14) (rg w 9) (kg w 6))
  | _ => .error .member

/-- The fields of a word, read by its major opcode (R42). -/
def decodeFields (w : Nat) : Except Reject Instr :=
  match fld w 26 6 with
  | 0x01 => decodeAlu w
  | 0x02 => .ok (.addi (rg w 21) (rg w 16) (BitVec.ofNat 16 (fld w 0 16)))
  | 0x03 => .ok (.andi (rg w 21) (rg w 16) (BitVec.ofNat 16 (fld w 0 16)))
  | 0x04 => .ok (.ori (rg w 21) (rg w 16) (BitVec.ofNat 16 (fld w 0 16)))
  | 0x05 => .ok (.xori (rg w 21) (rg w 16) (BitVec.ofNat 16 (fld w 0 16)))
  | 0x06 => .ok (.slti (rg w 21) (rg w 16) (BitVec.ofNat 16 (fld w 0 16)))
  | 0x07 => .ok (.sltni (rg w 21) (rg w 16) (BitVec.ofNat 16 (fld w 0 16)))
  | 0x08 => decodeShi w
  | 0x09 => .ok (.liw (rg w 21) (BitVec.ofNat 21 (fld w 0 21)))
  | 0x0A => .ok (.lis (rg w 21) (BitVec.ofNat 21 (fld w 0 21)))
  | 0x0B => .ok (.addpc (rg w 21) (BitVec.ofNat 21 (fld w 0 21)))
  | 0x0C => fixed w [(0, 6, 0)] <| .ok (.sel (rg w 21) (rg w 16) (rg w 11) (rg w 6))
  | 0x0D => fixed w [(2, 9, 0)] <| .ok (.lea (rg w 21) (rg w 16) (rg w 11) (f4 w 0))
  | 0x0E => decodeFop w
  | 0x0F => decodeFma w
  | 0x10 => .ok (.j (BitVec.ofNat 26 (fld w 0 26)))
  | 0x11 => .ok (.jl (BitVec.ofNat 26 (fld w 0 26)))
  | 0x12 => fixed w [(0, 16, 0)] <| .ok (.jrl (rg w 21) (rg w 16))
  | 0x13 => .ok (.beq (rg w 21) (rg w 16) (BitVec.ofNat 16 (fld w 0 16)))
  | 0x14 => .ok (.bne (rg w 21) (rg w 16) (BitVec.ofNat 16 (fld w 0 16)))
  | 0x15 => .ok (.blt (rg w 21) (rg w 16) (BitVec.ofNat 16 (fld w 0 16)))
  | 0x16 => .ok (.bge (rg w 21) (rg w 16) (BitVec.ofNat 16 (fld w 0 16)))
  | 0x17 => .ok (.bltn (rg w 21) (rg w 16) (BitVec.ofNat 16 (fld w 0 16)))
  | 0x18 => .ok (.bgen (rg w 21) (rg w 16) (BitVec.ofNat 16 (fld w 0 16)))
  | 0x19 => need (Size.ofCode (fld w 13 3)) .size fun sz => .ok (.ld (rg w 21) (rg w 16) sz (BitVec.ofNat 13 (fld w 0 13)))
  | 0x1A => need (Size.ofCode (fld w 13 3)) .size fun sz => .ok (.st (rg w 21) (rg w 16) sz (BitVec.ofNat 13 (fld w 0 13)))
  | 0x1B => decodeXmem w
  | 0x1C => decodeAmo w
  | 0x1D => decodeCtr w
  | 0x1E => decodeRmt w
  | 0x1F => decodeSys w
  | 0x20 => fixed w [(16, 5, 0)] <| need (Spr.ofCode (fld w 0 16)) .spr fun spr => .ok (.mfs (rg w 21) spr)
  | 0x21 => fixed w [(21, 5, 0)] <| need (Spr.ofCode (fld w 0 16)) .spr fun spr => .ok (.mts (rg w 16) spr)
  | 0x22 => fixed w [(0, 11, 0)] <| .ok (.pfx (rg w 21) (bt w 20) (rg w 15) (bt w 14) (kg w 11))
  | 0x23 => decodeTask w
  | 0x24 => decodeAwt w
  | 0x25 => decodeCpy w
  | 0x26 => decodeMtx w
  | 0x27 => decodeFab w
  | 0x28 => decodeDbg w
  | 0x30 => decodeVcfg w
  | 0x31 => decodeVarith w
  | 0x32 => decodeVfma w
  | 0x33 => decodeVcvt w
  | 0x34 => decodeVred w
  | 0x35 => decodeVperm w
  | 0x36 => decodeVmask w
  | 0x37 => decodeVld w
  | 0x38 => decodeVst w
  | 0x39 => decodeVmov w
  | _ => .error .opcode

/-- The instruction of a 32-bit word, or the reason why it is none (R48). -/
def decode (w : Nat) : Except Reject Instr :=
  match decodeFields w with
  | .ok i =>
    match i.defect with
    | none => .ok i
    | some r => .error r
  | .error r => .error r

/-- A word from its fixed bits and its fields (code, lowest bit), summed (R35). -/
def put (base : Nat) (fs : List (Nat × Nat)) : Nat := fs.foldr (fun p n => n + p.1 * 2 ^ p.2) base

/-- The word of a word instruction: each field's code at its place (R35); an event has none. -/
def encode : Instr → Option Nat
  | .add d a b w => some (put 0x04000000 [(d.val, 21), (a.val, 16), (b.val, 11), (w.toNat, 10)])
  | .sub d a b w => some (put 0x04000001 [(d.val, 21), (a.val, 16), (b.val, 11), (w.toNat, 10)])
  | .and d a b w => some (put 0x04000002 [(d.val, 21), (a.val, 16), (b.val, 11), (w.toNat, 10)])
  | .or d a b w => some (put 0x04000003 [(d.val, 21), (a.val, 16), (b.val, 11), (w.toNat, 10)])
  | .xor d a b w => some (put 0x04000004 [(d.val, 21), (a.val, 16), (b.val, 11), (w.toNat, 10)])
  | .andn d a b w => some (put 0x04000005 [(d.val, 21), (a.val, 16), (b.val, 11), (w.toNat, 10)])
  | .orn d a b w => some (put 0x04000006 [(d.val, 21), (a.val, 16), (b.val, 11), (w.toNat, 10)])
  | .shl d a b w => some (put 0x04000007 [(d.val, 21), (a.val, 16), (b.val, 11), (w.toNat, 10)])
  | .shr d a b w => some (put 0x04000008 [(d.val, 21), (a.val, 16), (b.val, 11), (w.toNat, 10)])
  | .sha d a b w => some (put 0x04000009 [(d.val, 21), (a.val, 16), (b.val, 11), (w.toNat, 10)])
  | .ror d a b w => some (put 0x0400000A [(d.val, 21), (a.val, 16), (b.val, 11), (w.toNat, 10)])
  | .mul d a b w => some (put 0x0400000B [(d.val, 21), (a.val, 16), (b.val, 11), (w.toNat, 10)])
  | .mulh d a b w => some (put 0x0400000C [(d.val, 21), (a.val, 16), (b.val, 11), (w.toNat, 10)])
  | .mulhn d a b w => some (put 0x0400000D [(d.val, 21), (a.val, 16), (b.val, 11), (w.toNat, 10)])
  | .div d a b w => some (put 0x0400000E [(d.val, 21), (a.val, 16), (b.val, 11), (w.toNat, 10)])
  | .divn d a b w => some (put 0x0400000F [(d.val, 21), (a.val, 16), (b.val, 11), (w.toNat, 10)])
  | .rem d a b w => some (put 0x04000010 [(d.val, 21), (a.val, 16), (b.val, 11), (w.toNat, 10)])
  | .remn d a b w => some (put 0x04000011 [(d.val, 21), (a.val, 16), (b.val, 11), (w.toNat, 10)])
  | .min d a b w => some (put 0x04000012 [(d.val, 21), (a.val, 16), (b.val, 11), (w.toNat, 10)])
  | .max d a b w => some (put 0x04000013 [(d.val, 21), (a.val, 16), (b.val, 11), (w.toNat, 10)])
  | .minn d a b w => some (put 0x04000014 [(d.val, 21), (a.val, 16), (b.val, 11), (w.toNat, 10)])
  | .maxn d a b w => some (put 0x04000015 [(d.val, 21), (a.val, 16), (b.val, 11), (w.toNat, 10)])
  | .slt d a b w => some (put 0x04000016 [(d.val, 21), (a.val, 16), (b.val, 11), (w.toNat, 10)])
  | .sltn d a b w => some (put 0x04000017 [(d.val, 21), (a.val, 16), (b.val, 11), (w.toNat, 10)])
  | .clz d a w => some (put 0x04000018 [(d.val, 21), (a.val, 16), (w.toNat, 10)])
  | .ctz d a w => some (put 0x04000019 [(d.val, 21), (a.val, 16), (w.toNat, 10)])
  | .popc d a w => some (put 0x0400001A [(d.val, 21), (a.val, 16), (w.toNat, 10)])
  | .brev d a w => some (put 0x0400001B [(d.val, 21), (a.val, 16), (w.toNat, 10)])
  | .addi d a imm => some (put 0x08000000 [(d.val, 21), (a.val, 16), (imm.toNat, 0)])
  | .andi d a imm => some (put 0x0C000000 [(d.val, 21), (a.val, 16), (imm.toNat, 0)])
  | .ori d a imm => some (put 0x10000000 [(d.val, 21), (a.val, 16), (imm.toNat, 0)])
  | .xori d a imm => some (put 0x14000000 [(d.val, 21), (a.val, 16), (imm.toNat, 0)])
  | .slti d a imm => some (put 0x18000000 [(d.val, 21), (a.val, 16), (imm.toNat, 0)])
  | .sltni d a imm => some (put 0x1C000000 [(d.val, 21), (a.val, 16), (imm.toNat, 0)])
  | .shli d a w n => some (put 0x20000000 [(d.val, 21), (a.val, 16), (w.toNat, 6), (n.val, 0)])
  | .shri d a w n => some (put 0x20004000 [(d.val, 21), (a.val, 16), (w.toNat, 6), (n.val, 0)])
  | .shai d a w n => some (put 0x20008000 [(d.val, 21), (a.val, 16), (w.toNat, 6), (n.val, 0)])
  | .rori d a w n => some (put 0x2000C000 [(d.val, 21), (a.val, 16), (w.toNat, 6), (n.val, 0)])
  | .liw d imm => some (put 0x24000000 [(d.val, 21), (imm.toNat, 0)])
  | .lis d imm => some (put 0x28000000 [(d.val, 21), (imm.toNat, 0)])
  | .addpc d imm => some (put 0x2C000000 [(d.val, 21), (imm.toNat, 0)])
  | .sel d a b c => some (put 0x30000000 [(d.val, 21), (a.val, 16), (b.val, 11), (c.val, 6)])
  | .lea d a b sh => some (put 0x34000000 [(d.val, 21), (a.val, 16), (b.val, 11), (sh.val, 0)])
  | .fadd d a b fmt rm => some (put 0x38000000 [(d.val, 21), (a.val, 16), (b.val, 11), (fmt.code, 9), (rm.code, 6)])
  | .fsub d a b fmt rm => some (put 0x38000001 [(d.val, 21), (a.val, 16), (b.val, 11), (fmt.code, 9), (rm.code, 6)])
  | .fmul d a b fmt rm => some (put 0x38000002 [(d.val, 21), (a.val, 16), (b.val, 11), (fmt.code, 9), (rm.code, 6)])
  | .fdiv d a b fmt rm => some (put 0x38000003 [(d.val, 21), (a.val, 16), (b.val, 11), (fmt.code, 9), (rm.code, 6)])
  | .fsqrt d a fmt rm => some (put 0x38000004 [(d.val, 21), (a.val, 16), (fmt.code, 9), (rm.code, 6)])
  | .fmin d a b fmt => some (put 0x38000005 [(d.val, 21), (a.val, 16), (b.val, 11), (fmt.code, 9)])
  | .fmax d a b fmt => some (put 0x38000006 [(d.val, 21), (a.val, 16), (b.val, 11), (fmt.code, 9)])
  | .fcmpeq d a b fmt => some (put 0x38000007 [(d.val, 21), (a.val, 16), (b.val, 11), (fmt.code, 9)])
  | .fcmplt d a b fmt => some (put 0x38000008 [(d.val, 21), (a.val, 16), (b.val, 11), (fmt.code, 9)])
  | .fcmple d a b fmt => some (put 0x38000009 [(d.val, 21), (a.val, 16), (b.val, 11), (fmt.code, 9)])
  | .fcmpun d a b fmt => some (put 0x3800000A [(d.val, 21), (a.val, 16), (b.val, 11), (fmt.code, 9)])
  | .fclass d a fmt => some (put 0x3800000B [(d.val, 21), (a.val, 16), (fmt.code, 9)])
  | .fcvti d a fmt rm => some (put 0x3800000C [(d.val, 21), (a.val, 16), (fmt.code, 9), (rm.code, 6)])
  | .fcvtn d a fmt rm => some (put 0x3800000D [(d.val, 21), (a.val, 16), (fmt.code, 9), (rm.code, 6)])
  | .fcvtfi d a fmt rm => some (put 0x3800000E [(d.val, 21), (a.val, 16), (fmt.code, 9), (rm.code, 6)])
  | .fcvtfn d a fmt rm => some (put 0x3800000F [(d.val, 21), (a.val, 16), (fmt.code, 9), (rm.code, 6)])
  | .fcvtf d a src fmt rm => some (put 0x38000010 [(d.val, 21), (a.val, 16), (src.code, 11), (fmt.code, 9), (rm.code, 6)])
  | .fma d a b c fmt rm => some (put 0x3C000000 [(d.val, 21), (a.val, 16), (b.val, 11), (c.val, 6), (fmt.code, 4), (rm.code, 1)])
  | .fnma d a b c fmt rm => some (put 0x3C000001 [(d.val, 21), (a.val, 16), (b.val, 11), (c.val, 6), (fmt.code, 4), (rm.code, 1)])
  | .j imm => some (put 0x40000000 [(imm.toNat, 0)])
  | .jl imm => some (put 0x44000000 [(imm.toNat, 0)])
  | .jrl d a => some (put 0x48000000 [(d.val, 21), (a.val, 16)])
  | .beq a b imm => some (put 0x4C000000 [(a.val, 21), (b.val, 16), (imm.toNat, 0)])
  | .bne a b imm => some (put 0x50000000 [(a.val, 21), (b.val, 16), (imm.toNat, 0)])
  | .blt a b imm => some (put 0x54000000 [(a.val, 21), (b.val, 16), (imm.toNat, 0)])
  | .bge a b imm => some (put 0x58000000 [(a.val, 21), (b.val, 16), (imm.toNat, 0)])
  | .bltn a b imm => some (put 0x5C000000 [(a.val, 21), (b.val, 16), (imm.toNat, 0)])
  | .bgen a b imm => some (put 0x60000000 [(a.val, 21), (b.val, 16), (imm.toNat, 0)])
  | .ld d a sz imm => some (put 0x64000000 [(d.val, 21), (a.val, 16), (sz.code, 13), (imm.toNat, 0)])
  | .st d a sz imm => some (put 0x68000000 [(d.val, 21), (a.val, 16), (sz.code, 13), (imm.toNat, 0)])
  | .xld d a b sh sz => some (put 0x6C000000 [(d.val, 21), (a.val, 16), (b.val, 11), (sh.val, 3), (sz.code, 0)])
  | .xst d a b sh sz => some (put 0x6C000020 [(d.val, 21), (a.val, 16), (b.val, 11), (sh.val, 3), (sz.code, 0)])
  | .amoSwap d a b rel acq x => some (put 0x70000000 [(d.val, 21), (a.val, 16), (b.val, 11), (rel.toNat, 7), (acq.toNat, 6), (x.toNat, 4)])
  | .amoAdd d a b rel acq x => some (put 0x70000001 [(d.val, 21), (a.val, 16), (b.val, 11), (rel.toNat, 7), (acq.toNat, 6), (x.toNat, 4)])
  | .amoAnd d a b rel acq x => some (put 0x70000002 [(d.val, 21), (a.val, 16), (b.val, 11), (rel.toNat, 7), (acq.toNat, 6), (x.toNat, 4)])
  | .amoOr d a b rel acq x => some (put 0x70000003 [(d.val, 21), (a.val, 16), (b.val, 11), (rel.toNat, 7), (acq.toNat, 6), (x.toNat, 4)])
  | .amoXor d a b rel acq x => some (put 0x70000004 [(d.val, 21), (a.val, 16), (b.val, 11), (rel.toNat, 7), (acq.toNat, 6), (x.toNat, 4)])
  | .amoMin d a b rel acq x => some (put 0x70000005 [(d.val, 21), (a.val, 16), (b.val, 11), (rel.toNat, 7), (acq.toNat, 6), (x.toNat, 4)])
  | .amoMax d a b rel acq x => some (put 0x70000006 [(d.val, 21), (a.val, 16), (b.val, 11), (rel.toNat, 7), (acq.toNat, 6), (x.toNat, 4)])
  | .amoMinn d a b rel acq x => some (put 0x70000007 [(d.val, 21), (a.val, 16), (b.val, 11), (rel.toNat, 7), (acq.toNat, 6), (x.toNat, 4)])
  | .amoMaxn d a b rel acq x => some (put 0x70000008 [(d.val, 21), (a.val, 16), (b.val, 11), (rel.toNat, 7), (acq.toNat, 6), (x.toNat, 4)])
  | .amoCas d a b rel acq x => some (put 0x70000009 [(d.val, 21), (a.val, 16), (b.val, 11), (rel.toNat, 7), (acq.toNat, 6), (x.toNat, 4)])
  | .cinit a b => some (put 0x74000000 [(a.val, 16), (b.val, 11)])
  | .cadd a b => some (put 0x74000001 [(a.val, 16), (b.val, 11)])
  | .cread d a => some (put 0x74000002 [(d.val, 21), (a.val, 16)])
  | .ctest d a b => some (put 0x74000003 [(d.val, 21), (a.val, 16), (b.val, 11)])
  | .rld d a sz => some (put 0x78000000 [(d.val, 21), (a.val, 16), (sz.code, 5)])
  | .rst d a b sz => some (put 0x78000001 [(d.val, 21), (a.val, 16), (b.val, 11), (sz.code, 5)])
  | .radd d a b sz => some (put 0x78000002 [(d.val, 21), (a.val, 16), (b.val, 11), (sz.code, 5)])
  | .rswp d a b sz => some (put 0x78000003 [(d.val, 21), (a.val, 16), (b.val, 11), (sz.code, 5)])
  | .traps n => some (put 0x7C000000 [(n.val, 5)])
  | .brk n => some (put 0x7C000001 [(n.val, 5)])
  | .eret => some (put 0x7C000002 [])
  | .halt => some (put 0x7C000003 [])
  | .waiti => some (put 0x7C000004 [])
  | .codesync a b => some (put 0x7C000005 [(a.val, 16), (b.val, 11)])
  | .tlbinv a => some (put 0x7C000006 [(a.val, 16)])
  | .l1wb a b => some (put 0x7C000007 [(a.val, 16), (b.val, 11)])
  | .mfs d spr => some (put 0x80000000 [(d.val, 21), (spr.code, 0)])
  | .mts a spr => some (put 0x84000000 [(a.val, 16), (spr.code, 0)])
  | .pfx pg ps pd pc pk => some (put 0x88000000 [(pg.val, 21), (ps.toNat, 20), (pd.val, 15), (pc.toNat, 14), (pk.val, 11)])
  | .spawn d a b => some (put 0x8C000000 [(d.val, 21), (a.val, 16), (b.val, 11)])
  | .spawng d a b c => some (put 0x8C000001 [(d.val, 21), (a.val, 16), (b.val, 11), (c.val, 6)])
  | .finish a => some (put 0x8C000002 [(a.val, 16)])
  | .fref a b => some (put 0x8C000003 [(a.val, 16), (b.val, 11)])
  | .fdrop a => some (put 0x8C000004 [(a.val, 16)])
  | .fpoll d a => some (put 0x8C000005 [(d.val, 21), (a.val, 16)])
  | .ftake d a => some (put 0x8C000006 [(d.val, 21), (a.val, 16)])
  | .rpoint => some (put 0x8C000007 [])
  | .rhold => some (put 0x8C000008 [])
  | .rrel => some (put 0x8C000009 [])
  | .tself d => some (put 0x8C00000A [(d.val, 21)])
  | .ffail a => some (put 0x8C00000B [(a.val, 16)])
  | .await d a b kl vs => some (put 0x90000000 [(d.val, 21), (a.val, 16), (b.val, 11), (kl.toNat, 4), (vs.toNat, 3)])
  | .awaitany d a b kl vs => some (put 0x90000001 [(d.val, 21), (a.val, 16), (b.val, 11), (kl.toNat, 4), (vs.toNat, 3)])
  | .yield b kl vs => some (put 0x90000002 [(b.val, 11), (kl.toNat, 4), (vs.toNat, 3)])
  | .cwait d a b kl vs => some (put 0x90000003 [(d.val, 21), (a.val, 16), (b.val, 11), (kl.toNat, 4), (vs.toNat, 3)])
  | .cpy1d d a b c => some (put 0x94000000 [(d.val, 21), (a.val, 16), (b.val, 11), (c.val, 6)])
  | .cpy2d d a => some (put 0x94000001 [(d.val, 21), (a.val, 16)])
  | .cpfill d a b c => some (put 0x94000002 [(d.val, 21), (a.val, 16), (b.val, 11), (c.val, 6)])
  | .cpgath d a => some (put 0x94000003 [(d.val, 21), (a.val, 16)])
  | .cpqry d => some (put 0x94000004 [(d.val, 21)])
  | .mxbind d a b => some (put 0x98000000 [(d.val, 21), (a.val, 16), (b.val, 11)])
  | .mxload d a b => some (put 0x98000001 [(d.val, 21), (a.val, 16), (b.val, 11)])
  | .mxrow a b c => some (put 0x98000002 [(a.val, 16), (b.val, 11), (c.val, 6)])
  | .mxrowz a b c => some (put 0x98000003 [(a.val, 16), (b.val, 11), (c.val, 6)])
  | .mxsync d a => some (put 0x98000004 [(d.val, 21), (a.val, 16)])
  | .mxrd d a b => some (put 0x98000005 [(d.val, 21), (a.val, 16), (b.val, 11)])
  | .mxzero d a b => some (put 0x98000006 [(d.val, 21), (a.val, 16), (b.val, 11)])
  | .mxrel a => some (put 0x98000007 [(a.val, 16)])
  | .mxqry d a => some (put 0x98000008 [(d.val, 21), (a.val, 16)])
  | .fgrp d a b => some (put 0x9C000000 [(d.val, 21), (a.val, 16), (b.val, 11)])
  | .fcoll d a => some (put 0x9C000001 [(d.val, 21), (a.val, 16)])
  | .fbar d a => some (put 0x9C000002 [(d.val, 21), (a.val, 16)])
  | .fgqry d a => some (put 0x9C000003 [(d.val, 21), (a.val, 16)])
  | .fgfree a => some (put 0x9C000004 [(a.val, 16)])
  | .dmark a => some (put 0xA0000000 [(a.val, 16)])
  | .dsample d a => some (put 0xA0000001 [(d.val, 21), (a.val, 16)])
  | .vsetl d a wc => some (put 0xC0000000 [(d.val, 21), (a.val, 16), (wc.val, 6)])
  | .vsetlw d a b wc => some (put 0xC0000001 [(d.val, 21), (a.val, 16), (b.val, 11), (wc.val, 6)])
  | .vtag d t => some (put 0xC0000002 [(d.val, 21), (t.code, 11)])
  | .vclr d => some (put 0xC0000003 [(d.val, 21)])
  | .vfold d a => some (put 0xC0000004 [(d.val, 21), (a.val, 16)])
  | .vsave a => some (put 0xC0000005 [(a.val, 16)])
  | .vrestore a => some (put 0xC0000006 [(a.val, 16)])
  | .vmaxq d wc => some (put 0xC0000007 [(d.val, 21), (wc.val, 6)])
  | .vadd form d a b k => some (put 0xC4000000 [(form.code, 24), (d.val, 19), (a.val, 14), (b.val, 9), (k.val, 6)])
  | .vsub form d a b k => some (put 0xC4000001 [(form.code, 24), (d.val, 19), (a.val, 14), (b.val, 9), (k.val, 6)])
  | .vrsub form d a b k => some (put 0xC4000002 [(form.code, 24), (d.val, 19), (a.val, 14), (b.val, 9), (k.val, 6)])
  | .vmul form d a b k => some (put 0xC4000003 [(form.code, 24), (d.val, 19), (a.val, 14), (b.val, 9), (k.val, 6)])
  | .vmulh form d a b k => some (put 0xC4000004 [(form.code, 24), (d.val, 19), (a.val, 14), (b.val, 9), (k.val, 6)])
  | .vmin form d a b k => some (put 0xC4000005 [(form.code, 24), (d.val, 19), (a.val, 14), (b.val, 9), (k.val, 6)])
  | .vmax form d a b k => some (put 0xC4000006 [(form.code, 24), (d.val, 19), (a.val, 14), (b.val, 9), (k.val, 6)])
  | .vabs d a k => some (put 0xC4000007 [(d.val, 19), (a.val, 14), (k.val, 6)])
  | .vneg d a k => some (put 0xC4000008 [(d.val, 19), (a.val, 14), (k.val, 6)])
  | .vdiv form d a b k => some (put 0xC4000009 [(form.code, 24), (d.val, 19), (a.val, 14), (b.val, 9), (k.val, 6)])
  | .vrem form d a b k => some (put 0xC400000A [(form.code, 24), (d.val, 19), (a.val, 14), (b.val, 9), (k.val, 6)])
  | .vsqrt d a k => some (put 0xC400000B [(d.val, 19), (a.val, 14), (k.val, 6)])
  | .vexp2 d a k => some (put 0xC400000C [(d.val, 19), (a.val, 14), (k.val, 6)])
  | .vand form d a b k => some (put 0xC400000D [(form.code, 24), (d.val, 19), (a.val, 14), (b.val, 9), (k.val, 6)])
  | .vor form d a b k => some (put 0xC400000E [(form.code, 24), (d.val, 19), (a.val, 14), (b.val, 9), (k.val, 6)])
  | .vxor form d a b k => some (put 0xC400000F [(form.code, 24), (d.val, 19), (a.val, 14), (b.val, 9), (k.val, 6)])
  | .vshl form d a b k => some (put 0xC4000010 [(form.code, 24), (d.val, 19), (a.val, 14), (b.val, 9), (k.val, 6)])
  | .vshr form d a b k => some (put 0xC4000011 [(form.code, 24), (d.val, 19), (a.val, 14), (b.val, 9), (k.val, 6)])
  | .vsha form d a b k => some (put 0xC4000012 [(form.code, 24), (d.val, 19), (a.val, 14), (b.val, 9), (k.val, 6)])
  | .vsadd form d a b k => some (put 0xC4000013 [(form.code, 24), (d.val, 19), (a.val, 14), (b.val, 9), (k.val, 6)])
  | .vssub form d a b k => some (put 0xC4000014 [(form.code, 24), (d.val, 19), (a.val, 14), (b.val, 9), (k.val, 6)])
  | .vavg form d a b k => some (put 0xC4000015 [(form.code, 24), (d.val, 19), (a.val, 14), (b.val, 9), (k.val, 6)])
  | .vfma form d a b k => some (put 0xC8000000 [(form.code, 24), (d.val, 19), (a.val, 14), (b.val, 9), (k.val, 6)])
  | .vfms form d a b k => some (put 0xC8000001 [(form.code, 24), (d.val, 19), (a.val, 14), (b.val, 9), (k.val, 6)])
  | .vfnma form d a b k => some (put 0xC8000002 [(form.code, 24), (d.val, 19), (a.val, 14), (b.val, 9), (k.val, 6)])
  | .vfnms form d a b k => some (put 0xC8000003 [(form.code, 24), (d.val, 19), (a.val, 14), (b.val, 9), (k.val, 6)])
  | .vcvt d a t k rm => some (put 0xCE000000 [(d.val, 19), (a.val, 14), ((t.code + 1), 9), (k.val, 6), (rm.code, 3)])
  | .vcvts d a t k rm => some (put 0xCE000001 [(d.val, 19), (a.val, 14), ((t.code + 1), 9), (k.val, 6), (rm.code, 3)])
  | .vpackmx d a t rm => some (put 0xCE000002 [(d.val, 19), (a.val, 14), ((t.code + 1), 9), (rm.code, 3)])
  | .vunpkmx d a t rm => some (put 0xCE000003 [(d.val, 19), (a.val, 14), ((t.code + 1), 9), (rm.code, 3)])
  | .vrsum d a k q => some (put 0xD0000000 [(d.val, 19), (a.val, 14), (k.val, 6), (q.toNat, 5)])
  | .vrsumo d a b k q => some (put 0xD1000001 [(d.val, 19), (a.val, 14), (b.val, 9), (k.val, 6), (q.toNat, 5)])
  | .vrmax d a k q => some (put 0xD0000002 [(d.val, 19), (a.val, 14), (k.val, 6), (q.toNat, 5)])
  | .vrmin d a k q => some (put 0xD0000003 [(d.val, 19), (a.val, 14), (k.val, 6), (q.toNat, 5)])
  | .vrand d a k q => some (put 0xD0000004 [(d.val, 19), (a.val, 14), (k.val, 6), (q.toNat, 5)])
  | .vror d a k q => some (put 0xD0000005 [(d.val, 19), (a.val, 14), (k.val, 6), (q.toNat, 5)])
  | .vrxor d a k q => some (put 0xD0000006 [(d.val, 19), (a.val, 14), (k.val, 6), (q.toNat, 5)])
  | .vrmaxi d a k q => some (put 0xD0000007 [(d.val, 19), (a.val, 14), (k.val, 6), (q.toNat, 5)])
  | .vslup form d a b k => some (put 0xD4000000 [(form.code, 24), (d.val, 19), (a.val, 14), (b.val, 9), (k.val, 6)])
  | .vsldn form d a b k => some (put 0xD4000001 [(form.code, 24), (d.val, 19), (a.val, 14), (b.val, 9), (k.val, 6)])
  | .vrgath d a b k => some (put 0xD4000002 [(d.val, 19), (a.val, 14), (b.val, 9), (k.val, 6)])
  | .vcompr d a k => some (put 0xD4000003 [(d.val, 19), (a.val, 14), (k.val, 6)])
  | .vexpnd d a k => some (put 0xD4000004 [(d.val, 19), (a.val, 14), (k.val, 6)])
  | .viota d m t k => some (put 0xD6000005 [(d.val, 19), (m.val, 14), ((t.code + 1), 9), (k.val, 6)])
  | .vidx d t k => some (put 0xD6000006 [(d.val, 19), ((t.code + 1), 9), (k.val, 6)])
  | .vbcast form d a b k => some (put 0xD4000007 [(form.code, 24), (d.val, 19), (a.val, 14), (b.val, 9), (k.val, 6)])
  | .vmerge form d a b k => some (put 0xD4000008 [(form.code, 24), (d.val, 19), (a.val, 14), (b.val, 9), (k.val, 6)])
  | .vrev d a k => some (put 0xD4000009 [(d.val, 19), (a.val, 14), (k.val, 6)])
  | .vzip d a k => some (put 0xD400000A [(d.val, 19), (a.val, 14), (k.val, 6)])
  | .vunzip d a k => some (put 0xD400000B [(d.val, 19), (a.val, 14), (k.val, 6)])
  | .vceq form d a b k => some (put 0xD8000000 [(form.code, 24), (d.val, 19), (a.val, 14), (b.val, 9), (k.val, 6)])
  | .vcne form d a b k => some (put 0xD8000001 [(form.code, 24), (d.val, 19), (a.val, 14), (b.val, 9), (k.val, 6)])
  | .vclt form d a b k => some (put 0xD8000002 [(form.code, 24), (d.val, 19), (a.val, 14), (b.val, 9), (k.val, 6)])
  | .vcle form d a b k => some (put 0xD8000003 [(form.code, 24), (d.val, 19), (a.val, 14), (b.val, 9), (k.val, 6)])
  | .vcgt form d a b k => some (put 0xD8000004 [(form.code, 24), (d.val, 19), (a.val, 14), (b.val, 9), (k.val, 6)])
  | .vcge form d a b k => some (put 0xD8000005 [(form.code, 24), (d.val, 19), (a.val, 14), (b.val, 9), (k.val, 6)])
  | .vcun form d a b k => some (put 0xD8000006 [(form.code, 24), (d.val, 19), (a.val, 14), (b.val, 9), (k.val, 6)])
  | .vclass d a b k => some (put 0xD9000007 [(d.val, 19), (a.val, 14), (b.val, 9), (k.val, 6)])
  | .kand d a b k => some (put 0xD8000008 [(d.val, 19), (a.val, 14), (b.val, 9), (k.val, 6)])
  | .kor d a b k => some (put 0xD8000009 [(d.val, 19), (a.val, 14), (b.val, 9), (k.val, 6)])
  | .kxor d a b k => some (put 0xD800000A [(d.val, 19), (a.val, 14), (b.val, 9), (k.val, 6)])
  | .knot d a k => some (put 0xD800000B [(d.val, 19), (a.val, 14), (k.val, 6)])
  | .kandn d a b k => some (put 0xD800000C [(d.val, 19), (a.val, 14), (b.val, 9), (k.val, 6)])
  | .ksbf d a k => some (put 0xD800000D [(d.val, 19), (a.val, 14), (k.val, 6)])
  | .ksif d a k => some (put 0xD800000E [(d.val, 19), (a.val, 14), (k.val, 6)])
  | .kpopc d a k => some (put 0xD800000F [(d.val, 19), (a.val, 14), (k.val, 6)])
  | .kfirst d a k => some (put 0xD8000010 [(d.val, 19), (a.val, 14), (k.val, 6)])
  | .kmov d a k => some (put 0xD8000011 [(d.val, 19), (a.val, 14), (k.val, 6)])
  | .vldUnit d a k nt t => some (put 0xDE000000 [(d.val, 19), (a.val, 14), (k.val, 6), (nt.toNat, 5), (t.code, 0)])
  | .vldStrided d a b k nt t => some (put 0xDD000000 [(d.val, 19), (a.val, 14), (b.val, 9), (k.val, 6), (nt.toNat, 5), (t.code, 0)])
  | .vldIndexed d a b k nt t => some (put 0xDC000000 [(d.val, 19), (a.val, 14), (b.val, 9), (k.val, 6), (nt.toNat, 5), (t.code, 0)])
  | .vldFirstFault d a k nt t => some (put 0xDF000000 [(d.val, 19), (a.val, 14), (k.val, 6), (nt.toNat, 5), (t.code, 0)])
  | .vldSegmentMx d a t => some (put 0xDE000010 [(d.val, 19), (a.val, 14), (t.code, 0)])
  | .vstUnit d a k nt t => some (put 0xE2000000 [(d.val, 19), (a.val, 14), (k.val, 6), (nt.toNat, 5), (t.code, 0)])
  | .vstStrided d a b k nt t => some (put 0xE1000000 [(d.val, 19), (a.val, 14), (b.val, 9), (k.val, 6), (nt.toNat, 5), (t.code, 0)])
  | .vstIndexed d a b k nt t => some (put 0xE0000000 [(d.val, 19), (a.val, 14), (b.val, 9), (k.val, 6), (nt.toNat, 5), (t.code, 0)])
  | .vstOrdered d a k nt t => some (put 0xE3000000 [(d.val, 19), (a.val, 14), (k.val, 6), (nt.toNat, 5), (t.code, 0)])
  | .vstSegmentMx d a t => some (put 0xE2000010 [(d.val, 19), (a.val, 14), (t.code, 0)])
  | .vmvsx d b => some (put 0xE5000000 [(d.val, 19), (b.val, 9)])
  | .vmvxs d a => some (put 0xE4000001 [(d.val, 19), (a.val, 14)])
  | .vqpop d => some (put 0xE4000002 [(d.val, 19)])
  | .vqlen d => some (put 0xE4000003 [(d.val, 19)])
  | .vmv form d a b k => some (put 0xE4000004 [(form.code, 24), (d.val, 19), (a.val, 14), (b.val, 9), (k.val, 6)])
  | .timer => none
  | .host => none
  | .error => none
  | .quantumExpiry => none
  | .preemptReqCooperative => none
  | .preemptReqForced => none
  | .preemptReqToHandler => none
  | .preemptCoopTimeout => none
  | .readySelection => none
  | .spillHoldEnd => none
  | .steal => none
  | .codeLineFill => none
  | .faultRecordDelivery _ => none
  | .fsackRetry _ _ => none
  | .fsackFail _ _ => none
  | .fsackNote _ _ => none
  | .fsackInvalid _ _ => none
  | .flueAccept => none
  | .flueChunk _ _ => none
  | .kilnAccept => none
  | .tileLoad _ _ => none
  | .rowJob _ _ => none
  | .accumulatorZeroJob _ _ => none
  | .bankClear _ _ => none
  | .rmtAccept => none
  | .remoteAccess _ => none
  | .remoteReply _ _ _ => none
  | .collAccept => none
  | .groupMatch _ _ _ => none
  | .collChunk _ _ _ => none
  | .groupFail _ => none
  | .doorbell _ _ _ => none
  | .cancel _ _ _ => none
  | .hostSignal _ => none
  | .bar2Access _ _ _ => none
  | .entryArrival _ => none
  | .dispatch => none
  | .launchCompletion _ => none
  | .tenantDrain _ => none
  | .tenantDrainEnd _ => none
  | .keySlotWrite _ _ => none
  | .attestationRequest _ => none
  | .measurementExtend _ _ => none
  | .tenantKeyLoad _ _ => none
  | .debugAuthorization _ => none
  | .spedyHalt _ => none
  | .spedyRun _ _ => none
  | .rdctx _ => none
  | .rdspr _ _ => none
  | .wrspr _ _ _ => none
  | .rdpa _ _ _ => none
  | .wrpa _ _ _ => none
  | .rdft _ => none
  | .singleStep => none
  | .draughtClear => none
  | .registerWrite _ _ => none
  | .boot _ => none
  | .coreRestart _ => none
  | .waitiWake => none
  | .correctedError _ _ => none
  | .containedError _ => none
  | .uncontainedError _ _ => none
  | .thermalThrottle _ => none
  | .thermalTrip _ => none
  | .powerAdjust _ _ => none
  | .wearUpdate _ _ _ => none
  | .illegalWord _ => none
  | .targetUnreachable _ _ => none

/-- The 32-bit word in four bytes at rising addresses, little-endian (R33). -/
def wordOfBytes : List Byte → Option Nat
  | [b0, b1, b2, b3] => some (b0.toNat + b1.toNat * 2 ^ 8 + b2.toNat * 2 ^ 16 + b3.toNat * 2 ^ 24)
  | _ => none

/-- The decoder on any bytes: four of them make a word (R33). -/
def decodeBytes (bs : List Byte) : Except Reject Instr :=
  match wordOfBytes bs with
  | some w => decode w
  | none => .error .length

/-- The bytes of a word as it lies in memory (R33). -/
def bytesOfWord (w : Nat) : List Byte :=
  [BitVec.ofNat 8 w, BitVec.ofNat 8 (w / 2 ^ 8), BitVec.ofNat 8 (w / 2 ^ 16), BitVec.ofNat 8 (w / 2 ^ 24)]

/-- The instruction the decoder reads from bits numbered as the opcode table numbers them. -/
def decodeTableWord (_nbits w : Nat) : Option Instr :=
  match decodeBytes (bytesOfWord w) with
  | .ok i => some i
  | .error _ => none

end Sys2Proof
end

