-- ==== Sys2Proof/Machine/Operands.lean ====
section
/-!
DEFINITION. Which g registers an instruction reads or writes (R44 to R47), which it leaves pending in the VIQ (R179), and
which bytes a queued memory instruction may touch (R97): what the front's scoreboard needs (R71).
-/

namespace Sys2Proof.Machine

/-- The g operand of a form 01 vector instruction (R46). -/
def formReg (f : VForm) (b : Reg) : List Reg :=
  match f with
  | .vs => [b]
  | _ => []

/-- The g registers that a word instruction names as operands (R44 to R47); an event names none. -/
def gRegs : Instr → List Reg
  | .add d a b _ => [d, a, b]
  | .sub d a b _ => [d, a, b]
  | .and d a b _ => [d, a, b]
  | .or d a b _ => [d, a, b]
  | .xor d a b _ => [d, a, b]
  | .andn d a b _ => [d, a, b]
  | .orn d a b _ => [d, a, b]
  | .shl d a b _ => [d, a, b]
  | .shr d a b _ => [d, a, b]
  | .sha d a b _ => [d, a, b]
  | .ror d a b _ => [d, a, b]
  | .mul d a b _ => [d, a, b]
  | .mulh d a b _ => [d, a, b]
  | .mulhn d a b _ => [d, a, b]
  | .div d a b _ => [d, a, b]
  | .divn d a b _ => [d, a, b]
  | .rem d a b _ => [d, a, b]
  | .remn d a b _ => [d, a, b]
  | .min d a b _ => [d, a, b]
  | .max d a b _ => [d, a, b]
  | .minn d a b _ => [d, a, b]
  | .maxn d a b _ => [d, a, b]
  | .slt d a b _ => [d, a, b]
  | .sltn d a b _ => [d, a, b]
  | .clz d a _ => [d, a]
  | .ctz d a _ => [d, a]
  | .popc d a _ => [d, a]
  | .brev d a _ => [d, a]
  | .addi d a _ => [d, a]
  | .andi d a _ => [d, a]
  | .ori d a _ => [d, a]
  | .xori d a _ => [d, a]
  | .slti d a _ => [d, a]
  | .sltni d a _ => [d, a]
  | .shli d a _ _ => [d, a]
  | .shri d a _ _ => [d, a]
  | .shai d a _ _ => [d, a]
  | .rori d a _ _ => [d, a]
  | .liw d _ => [d]
  | .lis d _ => [d]
  | .addpc d _ => [d]
  | .sel d a b c => [d, a, b, c]
  | .lea d a b _ => [d, a, b]
  | .fadd d a b _ _ => [d, a, b]
  | .fsub d a b _ _ => [d, a, b]
  | .fmul d a b _ _ => [d, a, b]
  | .fdiv d a b _ _ => [d, a, b]
  | .fsqrt d a _ _ => [d, a]
  | .fmin d a b _ => [d, a, b]
  | .fmax d a b _ => [d, a, b]
  | .fcmpeq d a b _ => [d, a, b]
  | .fcmplt d a b _ => [d, a, b]
  | .fcmple d a b _ => [d, a, b]
  | .fcmpun d a b _ => [d, a, b]
  | .fclass d a _ => [d, a]
  | .fcvti d a _ _ => [d, a]
  | .fcvtn d a _ _ => [d, a]
  | .fcvtfi d a _ _ => [d, a]
  | .fcvtfn d a _ _ => [d, a]
  | .fcvtf d a _ _ _ => [d, a]
  | .fma d a b c _ _ => [d, a, b, c]
  | .fnma d a b c _ _ => [d, a, b, c]
  | .j _ => []
  | .jl _ => [1]
  | .jrl d a => [d, a]
  | .beq a b _ => [a, b]
  | .bne a b _ => [a, b]
  | .blt a b _ => [a, b]
  | .bge a b _ => [a, b]
  | .bltn a b _ => [a, b]
  | .bgen a b _ => [a, b]
  | .ld d a _ _ => [d, a]
  | .st d a _ _ => [d, a]
  | .xld d a b _ _ => [d, a, b]
  | .xst d a b _ _ => [d, a, b]
  | .amoSwap d a b _ _ _ => [d, a, b]
  | .amoAdd d a b _ _ _ => [d, a, b]
  | .amoAnd d a b _ _ _ => [d, a, b]
  | .amoOr d a b _ _ _ => [d, a, b]
  | .amoXor d a b _ _ _ => [d, a, b]
  | .amoMin d a b _ _ _ => [d, a, b]
  | .amoMax d a b _ _ _ => [d, a, b]
  | .amoMinn d a b _ _ _ => [d, a, b]
  | .amoMaxn d a b _ _ _ => [d, a, b]
  | .amoCas d a b _ _ _ => [d, a, b]
  | .cinit a b => [a, b]
  | .cadd a b => [a, b]
  | .cread d a => [d, a]
  | .ctest d a b => [d, a, b]
  | .rld d a _ => [d, a]
  | .rst d a b _ => [d, a, b]
  | .radd d a b _ => [d, a, b]
  | .rswp d a b _ => [d, a, b]
  | .traps _ => []
  | .brk _ => []
  | .eret => []
  | .halt => []
  | .waiti => []
  | .codesync a b => [a, b]
  | .tlbinv a => [a]
  | .l1wb a b => [a, b]
  | .mfs d _ => [d]
  | .mts a _ => [a]
  | .pfx pg _ _ _ _ => [pg]
  | .spawn d a b => [d, a, b]
  | .spawng d a b c => [d, a, b, c]
  | .finish a => [a]
  | .fref a b => [a, b]
  | .fdrop a => [a]
  | .fpoll d a => [d, a]
  | .ftake d a => [d, a]
  | .rpoint => []
  | .rhold => []
  | .rrel => []
  | .tself d => [d]
  | .ffail a => [a]
  | .await d a b _ _ => [d, a, b]
  | .awaitany d a b _ _ => [d, a, b]
  | .yield b _ _ => [b]
  | .cwait d a b _ _ => [d, a, b]
  | .cpy1d d a b c => [d, a, b, c]
  | .cpy2d d a => [d, a]
  | .cpfill d a b c => [d, a, b, c]
  | .cpgath d a => [d, a]
  | .cpqry d => [d]
  | .mxbind d a b => [d, a, b]
  | .mxload d a b => [d, a, b]
  | .mxrow a b _ => [a, b]
  | .mxrowz a b _ => [a, b]
  | .mxsync d a => [d, a]
  | .mxrd _ a b => [a, b]
  | .mxzero d a b => [d, a, b]
  | .mxrel a => [a]
  | .mxqry d a => [d, a]
  | .fgrp d a b => [d, a, b]
  | .fcoll d a => [d, a]
  | .fbar d a => [d, a]
  | .fgqry d a => [d, a]
  | .fgfree a => [a]
  | .dmark a => [a]
  | .dsample d a => [d, a]
  | .vsetl d a _ => [d, a]
  | .vsetlw d a b _ => [d, a, b]
  | .vtag _ _ => []
  | .vclr _ => []
  | .vfold _ a => [a]
  | .vsave a => [a]
  | .vrestore a => [a]
  | .vmaxq d _ => [d]
  | .vadd form _ _ b _ => formReg form b
  | .vsub form _ _ b _ => formReg form b
  | .vrsub form _ _ b _ => formReg form b
  | .vmul form _ _ b _ => formReg form b
  | .vmulh form _ _ b _ => formReg form b
  | .vmin form _ _ b _ => formReg form b
  | .vmax form _ _ b _ => formReg form b
  | .vabs _ _ _ => []
  | .vneg _ _ _ => []
  | .vdiv form _ _ b _ => formReg form b
  | .vrem form _ _ b _ => formReg form b
  | .vsqrt _ _ _ => []
  | .vexp2 _ _ _ => []
  | .vand form _ _ b _ => formReg form b
  | .vor form _ _ b _ => formReg form b
  | .vxor form _ _ b _ => formReg form b
  | .vshl form _ _ b _ => formReg form b
  | .vshr form _ _ b _ => formReg form b
  | .vsha form _ _ b _ => formReg form b
  | .vsadd form _ _ b _ => formReg form b
  | .vssub form _ _ b _ => formReg form b
  | .vavg form _ _ b _ => formReg form b
  | .vfma form _ _ b _ => formReg form b
  | .vfms form _ _ b _ => formReg form b
  | .vfnma form _ _ b _ => formReg form b
  | .vfnms form _ _ b _ => formReg form b
  | .vcvt _ _ _ _ _ => []
  | .vcvts _ _ _ _ _ => []
  | .vpackmx _ _ _ _ => []
  | .vunpkmx _ _ _ _ => []
  | .vrsum _ _ _ _ => []
  | .vrsumo _ _ b _ _ => [b]
  | .vrmax _ _ _ _ => []
  | .vrmin _ _ _ _ => []
  | .vrand _ _ _ _ => []
  | .vror _ _ _ _ => []
  | .vrxor _ _ _ _ => []
  | .vrmaxi _ _ _ _ => []
  | .vslup form _ _ b _ => formReg form b
  | .vsldn form _ _ b _ => formReg form b
  | .vrgath _ _ _ _ => []
  | .vcompr _ _ _ => []
  | .vexpnd _ _ _ => []
  | .viota _ _ _ _ => []
  | .vidx _ _ _ => []
  | .vbcast form _ _ b _ => formReg form b
  | .vmerge form _ _ b _ => formReg form b
  | .vrev _ _ _ => []
  | .vzip _ _ _ => []
  | .vunzip _ _ _ => []
  | .vceq form _ _ b _ => formReg form b
  | .vcne form _ _ b _ => formReg form b
  | .vclt form _ _ b _ => formReg form b
  | .vcle form _ _ b _ => formReg form b
  | .vcgt form _ _ b _ => formReg form b
  | .vcge form _ _ b _ => formReg form b
  | .vcun form _ _ b _ => formReg form b
  | .vclass _ _ b _ => [b]
  | .kand _ _ _ _ => []
  | .kor _ _ _ _ => []
  | .kxor _ _ _ _ => []
  | .knot _ _ _ => []
  | .kandn _ _ _ _ => []
  | .ksbf _ _ _ => []
  | .ksif _ _ _ => []
  | .kpopc d _ _ => [d]
  | .kfirst d _ _ => [d]
  | .kmov _ _ _ => []
  | .vldUnit _ a _ _ _ => [a]
  | .vldStrided _ a b _ _ _ => [a, b]
  | .vldIndexed _ a _ _ _ _ => [a]
  | .vldFirstFault _ a _ _ _ => [a]
  | .vldSegmentMx _ a _ => [a]
  | .vstUnit _ a _ _ _ => [a]
  | .vstStrided _ a b _ _ _ => [a, b]
  | .vstIndexed _ a _ _ _ _ => [a]
  | .vstOrdered _ a _ _ _ => [a]
  | .vstSegmentMx _ a _ => [a]
  | .vmvsx _ b => [b]
  | .vmvxs d _ => [d]
  | .vqpop d => [d]
  | .vqlen d => [d]
  | .vmv form _ _ b _ => formReg form b
  | .timer => []
  | .host => []
  | .error => []
  | .quantumExpiry => []
  | .preemptReqCooperative => []
  | .preemptReqForced => []
  | .preemptReqToHandler => []
  | .preemptCoopTimeout => []
  | .readySelection => []
  | .spillHoldEnd => []
  | .steal => []
  | .codeLineFill => []
  | .faultRecordDelivery _ => []
  | .fsackRetry _ _ => []
  | .fsackFail _ _ => []
  | .fsackNote _ _ => []
  | .fsackInvalid _ _ => []
  | .flueAccept => []
  | .flueChunk _ _ => []
  | .kilnAccept => []
  | .tileLoad _ _ => []
  | .rowJob _ _ => []
  | .accumulatorZeroJob _ _ => []
  | .bankClear _ _ => []
  | .rmtAccept => []
  | .remoteAccess _ => []
  | .remoteReply _ _ _ => []
  | .collAccept => []
  | .groupMatch _ _ _ => []
  | .collChunk _ _ _ => []
  | .groupFail _ => []
  | .doorbell _ _ _ => []
  | .cancel _ _ _ => []
  | .hostSignal _ => []
  | .bar2Access _ _ _ => []
  | .entryArrival _ => []
  | .dispatch => []
  | .launchCompletion _ => []
  | .tenantDrain _ => []
  | .tenantDrainEnd _ => []
  | .keySlotWrite _ _ => []
  | .attestationRequest _ => []
  | .measurementExtend _ _ => []
  | .tenantKeyLoad _ _ => []
  | .debugAuthorization _ => []
  | .spedyHalt _ => []
  | .spedyRun _ _ => []
  | .rdctx _ => []
  | .rdspr _ _ => []
  | .wrspr _ _ _ => []
  | .rdpa _ _ _ => []
  | .wrpa _ _ _ => []
  | .rdft _ => []
  | .singleStep => []
  | .draughtClear => []
  | .registerWrite _ _ => []
  | .boot _ => []
  | .coreRestart _ => []
  | .waitiWake => []
  | .correctedError _ _ => []
  | .containedError _ => []
  | .uncontainedError _ _ => []
  | .thermalThrottle _ => []
  | .thermalTrip _ => []
  | .powerAdjust _ _ => []
  | .wearUpdate _ _ _ => []
  | .illegalWord _ => []
  | .targetUnreachable _ _ => []

/-- The g register that a queued instruction leaves pending until it completes (R179). -/
def gDest : Instr → Option Reg
  | .mxbind d _ _ => some d
  | .mxload d _ _ => some d
  | .mxsync d _ => some d
  | .mxzero d _ _ => some d
  | .mxqry d _ => some d
  | .vmaxq d _ => some d
  | .kpopc d _ _ => some d
  | .kfirst d _ _ => some d
  | .vmvxs d _ => some d
  | .vqpop d => some d
  | .vqlen d => some d
  | _ => none

/-- The instruction of a queued word. -/
def entryInstr (e : VEntry) : Option Instr :=
  match decode e.word.toNat with
  | .ok i => some i
  | .error _ => none

/-- The g registers that queued instructions leave pending: their results and the copies of their prefixes (R179). -/
def pendingG (q : List VEntry) : List Reg :=
  (q.map fun e =>
    match entryInstr e with
    | some i =>
      match gDest i with
      | some d => if e.pfx.v && !e.pfx.pc then [d, e.pfx.pd] else [d]
      | none => []
    | none => []).flatten

/-- Every vector register. -/
def allV : List Reg := List.finRange 32

/-- The vector registers that an instruction writes, without the copy of a prefix (R45, R46). -/
def vWrites : Instr → List Reg
  | .mxrd d _ _ | .vtag d _ | .vclr d | .vfold d _ | .vadd _ d _ _ _ | .vsub _ d _ _ _ | .vrsub _ d _ _ _
  | .vmul _ d _ _ _ | .vmulh _ d _ _ _ | .vmin _ d _ _ _ | .vmax _ d _ _ _ | .vdiv _ d _ _ _ | .vrem _ d _ _ _
  | .vand _ d _ _ _ | .vor _ d _ _ _ | .vxor _ d _ _ _ | .vshl _ d _ _ _ | .vshr _ d _ _ _ | .vsha _ d _ _ _
  | .vsadd _ d _ _ _ | .vssub _ d _ _ _ | .vavg _ d _ _ _ | .vslup _ d _ _ _ | .vsldn _ d _ _ _
  | .vbcast _ d _ _ _ | .vmerge _ d _ _ _ | .vmv _ d _ _ _ | .vfma _ d _ _ _ | .vfms _ d _ _ _
  | .vfnma _ d _ _ _ | .vfnms _ d _ _ _ | .vabs d _ _ | .vneg d _ _ | .vsqrt d _ _ | .vexp2 d _ _
  | .vexpnd d _ _ | .vrev d _ _ | .vzip d _ _ | .vunzip d _ _ | .vcompr d _ _ | .vrsum d _ _ _ | .vrmax d _ _ _
  | .vrmin d _ _ _ | .vrand d _ _ _ | .vror d _ _ _ | .vrxor d _ _ _ | .vrmaxi d _ _ _ | .vcvt d _ _ _ _
  | .vcvts d _ _ _ _ | .vunpkmx d _ _ _ | .vrsumo d _ _ _ _ | .vrgath d _ _ _ | .viota d _ _ _ | .vidx d _ _
  | .vldUnit d _ _ _ _ | .vldStrided d _ _ _ _ _ | .vldIndexed d _ _ _ _ _ | .vldFirstFault d _ _ _ _
  | .vmvsx d _ => [d]
  | .vpackmx d _ _ _ | .vldSegmentMx d _ _ => [d, Fin.ofNat 32 (d.val + 1)]
  | .vrestore _ => allV
  | _ => []

/-- The mask registers that an instruction writes (R176). -/
def kWrites : Instr → List KReg
  | .vceq _ d _ _ _ | .vcne _ d _ _ _ | .vclt _ d _ _ _ | .vcle _ d _ _ _ | .vcgt _ d _ _ _ | .vcge _ d _ _ _
  | .vcun _ d _ _ _ | .vclass d _ _ _ | .kand d _ _ _ | .kor d _ _ _ | .kxor d _ _ _ | .knot d _ _
  | .kandn d _ _ _ | .ksbf d _ _ | .ksif d _ _ | .kmov d _ _ => [d]
  | .vrestore _ => List.finRange 8
  | _ => []

/-- Two ranges share a byte. -/
def overlap (a b : Range) : Bool := 0 < a.2 && 0 < b.2 && a.1 < b.1 + b.2 && b.1 < a.1 + a.2

/-- A VIQ instruction that writes memory (R127, R205). -/
def writesMemory : Instr → Bool
  | .vstUnit _ _ _ _ _ | .vstOrdered _ _ _ _ _ | .vstStrided _ _ _ _ _ _ | .vstIndexed _ _ _ _ _ _
  | .vstSegmentMx _ _ _ | .vsave _ => true
  | _ => false

/-- What older queued entries have still to write: vector and mask registers, `vl` where one of them is a VRESTORE,
`late` where a first-fault load may still lower it or an error-feedback conversion has still to leave its residual, and
memory where `stores` is set. -/
structure Unsure where
  regs : List Reg := []
  masks : List KReg := []
  len : Bool := false
  late : Bool := false
  stores : Bool := false

/-- The same behind one more entry, with the copy of its prefix (R55). -/
def Unsure.add (u : Unsure) (e : VEntry) : Unsure :=
  match entryInstr e with
  | some i =>
    { regs := vWrites i ++ (if e.pfx.v && e.pfx.pc then [e.pfx.pd] else []) ++ u.regs
      masks := kWrites i ++ u.masks
      len := u.len || (match i with
        | .vrestore _ => true
        | _ => false)
      late := u.late || (match i with
        | .vldFirstFault _ _ _ _ _ => true
        | .vcvt _ _ _ _ rm | .vcvts _ _ _ _ rm => rm = .ef
        | _ => false)
      stores := u.stores || writesMemory i }
  | none => u

/-- The same after an entry whose effect is known. -/
def Unsure.drop (u : Unsure) (e : VEntry) (i : Instr) : Unsure :=
  let known := vWrites i ++ if e.pfx.v && e.pfx.pc then [e.pfx.pd] else []
  { u with regs := u.regs.filter fun r => !known.contains r, masks := u.masks.filter fun m => !(kWrites i).contains m }

/-- The elements [vbeg, vl) that a queued transfer accesses: its active ones, or all while an older queued instruction has
still to write its mask (R97, R207, log 83). -/
def touchElems (v : VecState) (first : Bool) (u : Unsure) (e : VEntry) (k : KReg) : List Nat :=
  let m := if e.pfx.v && e.pfx.pk != 0 then e.pfx.pk else k
  (span (if first then v.vbeg else 0) v.vl).filter fun i =>
    m = 0 || u.masks.contains m || (v.masks.get (Fin.ofNat 7 (m.val - 1))).getLsbD i

/-- The bytes of element i of a unit form, and of an element at an offset from the base (R206, R210). -/
def unitRange (base : Nat) (t : Ty) (i : Nat) : Range := ((base + i * tyBits t / 8) % 2 ^ 64, cdiv (tyBits t) 8)
def offRange (base : Nat) (t : Ty) (off : Int) : Range := (trunc 64 ((base : Int) + off), cdiv (tyBits t) 8)

/-- The bytes of an indexed transfer; any byte, while an older queued instruction has still to write its index register
(R206, log 83). -/
def indexRanges (v : VecState) (first : Bool) (u : Unsure) (e : VEntry) (base : Nat) (b : Reg) (k : KReg) (t : Ty) :
    List Range :=
  if u.regs.contains b then [(0, 2 ^ 64)]
  else
    match (v.regs.get b).tag with
    | some tb =>
      (touchElems v first u e k).map fun i => offRange base t (tyIntVal tb (slot (v.regs.get b).img i (tyBits tb)))
    | none => []

/-- What a queued entry does to memory. `first` says that no older entry is queued, `u` what older ones have still to
write, `gn` is the grant (R97, R127, R128, R206, R217, R301). -/
def touchOf (v : VecState) (gn : Nat) (first : Bool) (u : Unsure) (e : VEntry) : Option Touch :=
  let base := (e.cap0.getD 0).toNat
  let image := 1856 + 32 * (256 * gn)
  let units (k : KReg) (t : Ty) := (touchElems v first u e k).map (unitRange base t)
  let strided (k : KReg) (t : Ty) :=
    (touchElems v first u e k).map fun i => offRange base t (sgn 64 (e.cap1.getD 0).toNat * i)
  let segments (t : Ty) := (span ((if first then v.vbeg else 0) / 32) (v.vl / 32)).map fun b =>
    let n := if t = .e2m1 then 20 else 36
    ((base + b * n) % 2 ^ 64, n)
  match entryInstr e with
  | some (.vldUnit _ _ k _ t) | some (.vldFirstFault _ _ k _ t) => some ⟨true, false, units k t⟩
  | some (.vstUnit _ _ k _ t) | some (.vstOrdered _ _ k _ t) => some ⟨false, true, units k t⟩
  | some (.vldStrided _ _ _ k _ t) => some ⟨true, false, strided k t⟩
  | some (.vstStrided _ _ _ k _ t) => some ⟨false, true, strided k t⟩
  | some (.vldIndexed _ _ b k _ t) => some ⟨true, false, indexRanges v first u e base b k t⟩
  | some (.vstIndexed _ _ b k _ t) => some ⟨false, true, indexRanges v first u e base b k t⟩
  | some (.vldSegmentMx _ _ t) => some ⟨true, false, segments t⟩
  | some (.vstSegmentMx _ _ t) => some ⟨false, true, segments t⟩
  | some (.vsave _) => some ⟨false, true, [(base, image)]⟩
  | some (.vrestore _) => some ⟨true, false, [(base, image)]⟩
  | some (.mxload _ _ _) => some ⟨true, false, [((e.cap1.getD 0).toNat, 32)]⟩
  | _ => none

/-- The same, where behind a VRESTORE, which may change `vl`, any byte counts (log 83). -/
def touchIn (v : VecState) (gn : Nat) (first : Bool) (u : Unsure) (e : VEntry) : Option Touch :=
  (touchOf v gn first u e).map fun t => if u.len then { t with bytes := [(0, 2 ^ 64)] } else t

/-- What queued entries do to memory, oldest first. -/
def touchesFrom (v : VecState) (gn : Nat) : Bool → Unsure → List VEntry → List Touch
  | _, _, [] => []
  | first, u, e :: es =>
    (touchIn v gn first u e).toList ++ touchesFrom v gn false (u.add e) es

/-- What the entries of a queue do to memory, oldest first. -/
def touches (v : VecState) (gn : Nat) (q : List VEntry) : List Touch :=
  touchesFrom v gn true {} q

/-- Whether a queued entry reads or writes memory. -/
def usesMemory (e : VEntry) : Bool := (touchOf VecState.reset 0 true {} e).isSome

/-- A younger scalar store held until the last queued access before it is complete (R275, R447). -/
def holdStore (h : HeldStore) : List VEntry → List VEntry
  | [] => []
  | e :: es =>
    if es.any usesMemory || !usesMemory e then e :: holdStore h es else { e with stores := e.stores ++ [h] } :: es

/-- The stores held in a queue, oldest first. -/
def heldStores (q : List VEntry) : List HeldStore := (q.map (·.stores)).flatten

end Sys2Proof.Machine
end

