-- ==== Sys2Proof/Machine/Ops.lean ====
section
/-!
DEFINITION. The named operations of the core: reading and writing registers, taking a trap and returning from one,
memory faults and the retry latch, ending a task, and the access paths of loads and stores.
-/

namespace Sys2Proof.Machine

/-- What every meaning answers. -/
abbrev Out := Host.Outcome State Fault Refusal

/-- A g register of the running context; g0 reads zero (R69). -/
def getG (s : State) (r : Reg) : Word := if r = 0 then 0 else s.cpu.live.g.get r

/-- A g register of the running context written; a write to g0 is discarded (R69). -/
def setG (s : State) (r : Reg) (v : Word) : State :=
  if r = 0 then s else modLive s fun c => { c with g := c.g.set r v }

/-- The prefix that the executing instruction has: that of its VIQ entry, or the prefix latch (R57). -/
def prefixOf (s : State) : Pfx :=
  match s.cpu.lane with
  | some e => e.pfx
  | none => s.cpu.live.pfx

/-- The address of the executing instruction. -/
def pcOf (s : State) : Word :=
  match s.cpu.lane with
  | some e => e.pc
  | none => s.cpu.live.pc

/-- A captured g operand: from the VIQ entry when the lanes execute one, else read now (R46). -/
def capture (s : State) (second : Bool) (r : Reg) : Word :=
  match s.cpu.lane with
  | some e => ((if second then e.cap1 else e.cap0).getD 0)
  | none => getG s r

/-- The primary g result, and the copy that a prefix with pc = 0 asks for (R55). -/
def result (s : State) (d : Reg) (v : Word) : State :=
  let p := prefixOf s
  let s := setG s d v
  if p.v && !p.pc then setG s p.pd v else s

/-- A load of n bytes within one line at a resolved place, through L1 for HBM (R187); none when it consumes poison. -/
def loadAt (s : State) (stream : Bool) (p : Place) (n : Nat) : Option (List Byte) × State :=
  match p with
  | .hbm pa k => l1Load s k stream pa n
  | .sram pa => if poisoned s pa n then (none, s) else (some (memTake s.mem pa n), s)
  | .ctl pa => (some (ctlRead s pa n), s)

/-- A store of bytes within one line at a resolved place, through L1 for HBM (R187). -/
def storeAt (s : State) (stream : Bool) (p : Place) (bs : List Byte) : State :=
  match p with
  | .hbm pa k => if stream then streamStore s k pa bs else l1Store s k pa bs
  | .sram pa => { s with mem := memPut s.mem pa bs, poison := unpoison s.poison pa bs.length }
  | .ctl pa => ctlWrite s pa bs

/-- The stores that the oldest queued instruction held back are performed, in their order (R97, R275). -/
def performHeld (s : State) (hs : List HeldStore) : State :=
  hs.foldl (fun s h => storeAt s false h.place h.bytes) s

/-- An instruction completes: the front moves to the next word and its prefix ends; a queued one leaves the VIQ, and the
stores that it held back are performed (R57, R131, R275). -/
def retire (s : State) : State :=
  match s.cpu.lane with
  | some e =>
    performHeld
      (modCpu s fun c => { c with lane := none, stall := none, live := { c.live with viq := c.live.viq.tail } }) e.stores
  | none => modCpu s fun c => { c with stall := none, live := { c.live with pc := c.live.pc + 4, pfx := Pfx.none } }

/-- The front continues at a target (R90). -/
def jump (s : State) (t : Word) : State :=
  modCpu s fun c => { c with stall := none, live := { c.live with pc := t, pfx := Pfx.none } }

/-- Exceptions accrued in `fst` (R83). -/
def accrue (s : State) (f : Flags) : State := modLive s fun c => { c with fst := c.fst ||| f }

/-- The level that a trap goes to is firmware (R375). -/
def toFirmware (s : State) (cause : Nat) : Bool :=
  cause = 0x23 || s.cpu.who = .sys || (s.cpu.who = .task && s.cpu.live.priv = 1 && (cause = 4 || cause = 5))

/-- A handler's trap registers at entry (R374). -/
def enterHandler (h : Handler) (cause : Nat) (tval tepc tevc : Word) (tpriv : BitVec 2) (nest idle : Bool)
    (vec : Word) : Handler :=
  { h with tcause := BitVec.ofNat 9 (cause + if 0x20 ≤ cause then 0x100 else 0), tval := tval, tepc := tepc,
           tevc := tevc, tpriv := tpriv, nest := nest, idle := idle, tact := 0,
           ctx := { h.ctx with pc := vec, pfx := Pfx.none } }

/-- The oldest instruction of a context that has not completed, besides the front's: the latched one that came out of
the VIQ, else the oldest of the VIQ (R202, R407). -/
def oldestQueued (c : Ctx) : Option VEntry := if c.latchQ && c.latch.isSome then c.latch else c.viq.head?

/-- The vector commit pointer of a context: its oldest queued instruction, else the front pc (R371, R407). -/
def commitPc (c : Ctx) : Word := ((oldestQueued c).map (·.pc)).getD c.pc

/-- Taking a trap or an interrupt (R374 to R377). The running context's pc is where it resumes. With an idle core `tepc`,
`tevc` and TPRIV are 0, which the manual leaves open (DESIGN CHOICE, log 73). A queued instruction that traps stays at
the head of the VIQ image, and `tepc` is the front's pc (R407). The trap save store's record is new, with no error
(R404). The selection after the handler passes over no task (R265, R378, log 119). -/
def takeTrap (s : State) (cause : Nat) (tval : Word) : State :=
  let s := modCpu (unwait s) fun c => { c with lane := none, stall := none }
  let c := s.cpu
  let idle := c.who = .idle
  let tepc := if idle then 0 else c.live.pc
  let tevc := if idle then 0 else commitPc c.live
  let s := traceRec s 4 cause (if c.who = .task then c.live.tself else 0) tepc
  if c.who = .fw then goFatal s 1 tepc
  else
    let fwd := toFirmware s cause
    let saved := savedCtx s c.live
    let s := if c.who = .task then bump (setGrant s c.id 0) 4 else s
    modCpu s fun k =>
      let vec := if fwd then k.fvec else k.tvec
      let h := enterHandler (if fwd then k.fw else k.sys) cause tval tepc tevc (if idle then 0 else k.priv)
        (c.who = .sys) idle (vec &&& ~~~0x3F)
      { k with
        sys := if fwd then (if c.who = .sys then { k.sys with ctx := c.live } else k.sys) else h
        fw := if fwd then h else k.fw
        trapped := if c.who = .task then some saved else if idle then none else k.trapped
        trapPoison := if c.who = .task || idle then false else k.trapPoison
        writers := []
        passed := none
        who := if fwd then .fw else .sys
        priv := if fwd then 2 else 1
        live := h.ctx }

/-- A trap as the outcome of an instruction. -/
def trap (s : State) (cause : Nat) (tval : Word) : State := takeTrap s cause tval

/-- The running task saved in full and its core halted, with the pair of addresses of R407 (R416, R427). -/
def haltTask (s : State) (regs : Handler → Handler) : State :=
  let c := s.cpu
  let saved := savedCtx s c.live
  let s := traceRec (unwait s) 3 0 c.live.tself c.live.pc
  modCpu (bump (setGrant s c.id 0) 4) fun k =>
    { k with lane := none, stall := none, trapped := some saved, trapPoison := false, who := .idle, live := Ctx.reset,
             halt := .debug, writers := [],
             sys := { regs k.sys with tepc := c.live.pc, tevc := commitPc c.live, tpriv := c.priv, nest := false,
                                      idle := false, tact := 0 } }

/-- A debug stop: with `dctl.SPEDY` set it halts the core, a task saved and a handler where it stands; else it is a trap.
`dstat.IDX` is 0 where nothing matched, as at BRK, of which R409 gives no value (R409, R416; DESIGN CHOICE, log 128). -/
def debugStop (s : State) (cause : Nat) (tval : Word) (idx : Nat) (bhit whit : Bool) : State :=
  let s := modCpu (unwait s) fun c =>
    { c with dstat := (c.dstat &&& 0x10) ||| BitVec.ofNat 5 (idx % 4 + bhit.toNat * 4 + whit.toNat * 8) }
  if s.cpu.dctl.getLsbD 0 && s.cpu.who != .idle then
    (if s.cpu.who = .task then haltTask s fun h => { h with tcause := BitVec.ofNat 9 cause, tval := tval }
     else modCpu s fun c => { c with lane := none, stall := none, halt := .debug })
  else takeTrap s cause tval

/-- The future of a task that ends notes the core, for the completion edge (R271). -/
def endedOn (s : State) (core : Nat) (h : Word) : State :=
  let f := entryAt s h
  if hGen h = f.gen then setEntry s h { f with loc := some core } else s

/-- The future of a task that ends on the running core. -/
def endedHere (s : State) (h : Word) : State := endedOn s s.cpu.id h

/-- A task ends: its future settles, its held references drop, its groups return and the core is idle (R249, R255). Its
trace record has the address of the instruction at which it ends, since it resumes nowhere (R417; DESIGN CHOICE, log
115). -/
def endTask (s : State) (failed : Bool) (v : Word) : State :=
  let c := s.cpu.live
  let s := leaveCore s
  dropRefs (settle (endedHere s c.tself) c.tself failed v) c.held

/-- A doomed task is reclaimed where it stands (R253, R255). -/
def reclaim (s : State) : State := endTask s true 0

/-- A spill-pressure record for the running core (R261). -/
def spillRecord (s : State) (handle : Word) (word : BitVec 32) (pc : Word) : State :=
  let c := s.cpu
  post (modCpu s fun k => { k with press := true }) (clusterOf c.id)
    { handle := handle, addr := c.wsbase + BitVec.ofNat 64 c.shedHead, cause := 9, access := 4, elem := 0, word := word,
      pc := pc, owner := .other }

/-- The word of an instruction (R35). -/
def wordOf (i : Instr) : BitVec 32 := BitVec.ofNat 32 ((encode i).getD 0)

/-- The major opcode of an instruction (R35). -/
def majorOp (i : Instr) : Nat := (wordOf i).toNat / 2 ^ 26

/-- An instruction that passes through the VIQ, by its major opcode (R131, R327, R348). -/
def viaQueue (i : Instr) : Bool :=
  let op := majorOp i
  op = 0x1E || op = 0x25 || op = 0x26 || op = 0x27 || 0x30 ≤ op

/-- The reclamation points (R253). -/
def isPoint : Instr → Bool
  | .await _ _ _ _ _ | .awaitany _ _ _ _ _ | .cwait _ _ _ _ _ | .yield _ _ _ | .spawn _ _ _ | .spawng _ _ _ _
  | .vsetl _ _ _ | .vsetlw _ _ _ _ | .rpoint => true
  | _ => false

/-- The access code of a fault record (R203). -/
def accessCode : Kind → Nat
  | .read => 0 | .write => 1 | .rmw => 2 | .fetch => 3

/-- A memory fault of a task at task privilege: the record, and the instruction in the retry latch, which counter 11
counts. For want of ring space it is held in place, and not latched (R202, R203, R261, R262, R419). -/
def latchTask (s : State) (entry : Option VEntry) (point : Bool) (cause : Nat) (va : Word) (k : Kind) (elem : Nat)
    (word : BitVec 32) : State :=
  let c := s.cpu
  let fr : FaultRec := { handle := c.live.tself, addr := va, cause := cause, access := accessCode k, elem := elem,
                         word := word, pc := if k = .fetch then va else pcOf s, owner := .task c.id c.live.tself }
  let s := post s (clusterOf c.id) fr
  let viq := if c.lane.isSome then c.live.viq.tail else c.live.viq
  let ctx := { c.live with latch := entry, latchQ := c.lane.isSome, viq := viq }
  match saveRec (modCpu s fun k => { k with lane := none }) (forcedRec s ctx .latched .none false point) with
  | .ok s => bump s 11
  | _ => spillRecord (modCpu s fun k => { k with lane := none, hold := .inPlace }) c.live.tself word (pcOf s)

/-- The VIQ or latch entry of the executing instruction, with its captured operands (R202, R258). -/
def entryOf (s : State) (i : Instr) (caps : List Word) : VEntry :=
  match s.cpu.lane with
  | some e => e
  | none => { word := wordOf i, pc := s.cpu.live.pc, cap0 := caps[0]?, cap1 := caps[1]?, pfx := s.cpu.live.pfx,
              once := s.cpu.live.once, stores := [] }

/-- An XLATE or PROT fault (R95, R202, R375). -/
def memFault (s : State) (i : Instr) (caps : List Word) (cause : Nat) (va : Word) (k : Kind) (elem : Nat) : State :=
  if s.cpu.who = .task && s.cpu.live.priv = 0 then
    latchTask s (some (entryOf s i caps)) (isPoint i) cause va k elem (wordOf i)
  else takeTrap s cause va

/-- Whether the instruction comes from the front, and whether older ones are queued before it. -/
def atFront (s : State) : Bool := s.cpu.lane.isNone
def queued (s : State) : Bool := atFront s && !s.cpu.live.viq.isEmpty

/-- The executing instruction waits where it is, with no effect (R71, R132, R300, R329, R348). -/
def waitHere (s : State) : State :=
  modCpu s fun c => { c with stall := some (c.stall.getD { since := s.clock, desc := none, word := none }) }

/-- A load of poisoned data fails the task, as if by FFAIL there: older queued instructions complete first (R222, R249).
A handler context has no future to fail, and the manual does not say what its load does: the device goes FATAL
(DESIGN CHOICE, log 84). -/
def poisonTask (s : State) : State :=
  if s.cpu.who = .task then (if queued s then waitHere s else endTask s true (failCode 0x24)) else goFatal s 2 (pcOf s)

/-- ONCE exempts the executing instruction from breakpoints and watchpoints: it is the first that the core issued for the
resumed context (R414). -/
def exempt (s : State) : Bool :=
  s.cpu.dctl.getLsbD 1 && (match s.cpu.lane with
    | some e => e.once
    | none => s.cpu.live.once)

/-- The watchpoint that an access of n bytes matches: of several the lowest, which R413 leaves open (R411, R413, R414;
DESIGN CHOICE, log 127). -/
def watchHit (s : State) (va n : Nat) (rd wr : Bool) : Option (Fin 4) :=
  let d := s.dbg
  let ok := s.cpu.who = .task && !exempt s &&
    (d.dbten.getLsbD 4 || d.dbten.toNat % 16 = s.cpu.live.tenant.val)
  if !ok then none
  else (List.finRange 4).find? fun i =>
    let w := (d.wctl.get i).toNat
    let size := 2 ^ bits w 4 5
    let lo := (d.wtch.get i).toNat / size * size
    w.testBit 0 && ((w.testBit 1 && rd) || (w.testBit 2 && wr)) &&
      (!w.testBit 3 || s.cpu.live.tself = d.dstask) && lo < va + n && va < lo + size

/-- Whether an access kind reads and writes, as a watchpoint counts it (R413). -/
def kindRd (k : Kind) : Bool := k = .read || k = .rmw
def kindWr (k : Kind) : Bool := k = .write || k = .rmw

/-- The outcome of an access: its value with the state after it, or the state after the event that stopped it. -/
inductive Acc (α : Type)
  | ok (a : α) (s : State)
  | stop (s : State)

/-- Continue after an access. -/
def Acc.bind {α β : Type} (x : Acc α) (f : α → State → Acc β) : Acc β :=
  match x with
  | .ok a s => f a s
  | .stop s => .stop s

/-- The state after an access that ends an instruction. -/
def Acc.done {α : Type} (x : Acc α) (f : α → State → State) : State :=
  match x with
  | .ok a s => f a s
  | .stop s => s

/-- The running context resolves an address through its own core. R24 and R95 speak of tasks that are not pinned: in the
TCM window a handler context takes PROT as they do (R95 steps 2 and 3; DESIGN CHOICE, log 92). -/
def resolveLive (s : State) (k : Kind) (va : Nat) : Resolved × State :=
  let c := s.cpu
  resolve s (some c.id) c.id c.live.tenant c.priv.toNat (c.who = .task && c.live.pin) k va

/-- The same for an instruction that has obtained translations already, with the one that it used (R200). -/
def resolveLiveWith (s : State) (got : List TlbEntry) (k : Kind) (va : Nat) : Resolved × Option TlbEntry × State :=
  let c := s.cpu
  resolveWith s got (some c.id) c.id c.live.tenant c.priv.toNat (c.who = .task && c.live.pin) k va

/-- The checks of R95 with the watchpoints of R413, for an access of n bytes by an instruction. -/
def checkAccess (s : State) (i : Instr) (k : Kind) (va n : Nat) : Acc Place :=
  if va % n != 0 then .stop (trap s 0x03 (BitVec.ofNat 64 va))
  else
    match watchHit s va n (kindRd k) (kindWr k) with
    | some w => .stop (debugStop s 0x0E (BitVec.ofNat 64 va) w.val false true)
    | none =>
      match resolveLive s k va with
      | (.ok p, s) => .ok p s
      | (.xlate, s) => .stop (memFault s i [] 0x04 (BitVec.ofNat 64 va) k 0)
      | (.prot, s) => .stop (memFault s i [] 0x05 (BitVec.ofNat 64 va) k 0)

/-- Loaded bytes with those of a younger write to the same memory in their place. -/
def overlay (pa : Nat) (bs : List Byte) (h : HeldStore) : List Byte :=
  let p := placePa h.place
  (bs.zip (List.range bs.length)).map fun b => if p ≤ pa + b.2 then (h.bytes[pa + b.2 - p]?).getD b.1 else b.1

/-- The stores that the front has issued and that still wait for queued reads; the lanes see none (R97, R275). -/
def waiting (s : State) : List HeldStore := if s.cpu.lane.isNone then heldStores s.cpu.live.viq else []

/-- A scalar load of n bytes as a number: the newest of the task's own writes to each byte (R94, R95, R97, R222). -/
def loadN (s : State) (i : Instr) (va n : Nat) : Acc Nat :=
  (checkAccess s i .read va n).bind fun p s =>
    match loadAt s false p n with
    | (some bs, s) => .ok (ofBytes ((waiting s).foldl (overlay (placePa p)) bs)) s
    | (none, s) => .stop (poisonTask s)

/-- The write of a scalar store while it is held. -/
def heldStore (s : State) (va : Nat) (p : Place) (bs : List Byte) : HeldStore :=
  { place := p, bytes := bs, via := tlbFind s.cpu.tlb s.cpu.live.tenant va }

/-- A scalar store of an address at its resolved place. While an older queued instruction still has memory to access, the
write is held, and the instruction completes: no write goes before an older read (R275), nor a LAT entry's before the line
that it names (R447, log 81) (R97). -/
def issueStore (s : State) (va : Nat) (p : Place) (bs : List Byte) : State :=
  if s.cpu.lane.isNone && s.cpu.live.viq.any usesMemory then
    modLive s fun c => { c with viq := holdStore (heldStore s va p bs) c.viq }
  else storeAt s false p bs

/-- Several 8-byte scalar loads at rising addresses (R241, R246, R301, R328, R354, R357). -/
def loadWords (s : State) (i : Instr) (va : Nat) : Nat → Acc (List Word)
  | 0 => .ok [] s
  | n + 1 =>
    (loadN s i va 8).bind fun w s =>
      (loadWords s i ((va + 8) % 2 ^ 64) n).bind fun ws s => .ok (BitVec.ofNat 64 w :: ws) s

/-- A read at the home of a place (R276). -/
def homeRead (s : State) (p : Place) (n : Nat) : List Byte × State :=
  match p with
  | .hbm pa k => readPhys s k pa n
  | .sram pa => (memTake s.mem pa n, s)
  | .ctl pa => (ctlRead s pa n, s)

/-- A write at the home of a place (R276). -/
def homeWrite (s : State) (p : Place) (bs : List Byte) : State :=
  match p with
  | .hbm pa k => writePhys s k pa bs
  | .sram pa => { s with mem := memPut s.mem pa bs, poison := unpoison s.poison pa bs.length }
  | .ctl pa => ctlWrite s pa bs

/-- The running core's own L1 bytes of a location go home, and its clean copies of the location leave, before an atomic
acts there: an older plain store reaches the atomic and a younger load sees its result (R289). -/
def settleL1 (s : State) (p : Place) (n : Nat) : State :=
  match p with
  | .hbm pa _ =>
    let s := writeBackIf s s.cpu.id fun l => l = pa / 128
    modCpu s fun c => { c with l1 := c.l1.map fun l =>
      if l.line = pa / 128 then { l with valid := l.valid &&& ~~~(byteMask (pa % 128) n) } else l }
  | _ => s

/-- The package slice that is home to an HBM line (R21). -/
def sliceOf (pa : Nat) : Nat :=
  ((((bits pa 7 6 ^^^ bits pa 13 6) ^^^ bits pa 19 6) ^^^ bits pa 25 6) ^^^ bits pa 31 6) ^^^ bits pa 37 3

/-- A slice whose region is full has stopped, and its bit of `sootst` is set (R424). -/
def sootStop (s : State) (sl : Nat) : State := { s with soot := { s.soot with ovf := s.soot.ovf ||| (1 : Word) <<< sl } }

/-- Every slot of a slice's region holds a record, besides slot 0 (R422, R424). -/
def sootFull (s : State) (sl : Nat) : Bool := 2 ^ s.soot.log2 ≤ (s.soot.counts.find sl).getD 0 + 1

/-- A new record of a slice's region, with a run of one access; the slice stops with its last slot. R422 names no key: the
log is written under key slot 0, and replay reads its bytes as they stand (R422, R424, R425; DESIGN CHOICE, log 117). -/
def sootRecord (s : State) (pa requester sl : Nat) : State :=
  let base := s.soot.base + sl * 2 ^ (s.soot.log2 + 4)
  let n := (s.soot.counts.find sl).getD 0
  let s := writePhys s 0 (base + 16 * (n + 1))
    (toBytes 5 (pa / 8) ++ toBytes 2 requester ++ [0] ++ toBytes 4 1 ++ toBytes 4 0)
  let s := writePhys s 0 base (toBytes 8 (n + 1) ++ toBytes 8 0)
  let s := { s with soot := { s.soot with counts := Tab.put s.soot.counts sl (n + 1),
                                          runs := Tab.put s.soot.runs (pa / 8) (requester, n) } }
  if sootFull s sl then sootStop s sl else s

/-- An atomic access logged by its home slice (R422 to R424); TCM and CSP atomics are not logged. -/
def sootLog (s : State) (pa requester : Nat) : State :=
  let t := s.soot
  let sl := sliceOf pa
  if !t.en || hbmEnd ≤ pa || t.ovf.getLsbD sl then s
  else if sootFull s sl then sootStop s sl
  else
    match t.runs.find (pa / 8) with
    | some (r, m) =>
      if r = requester then
        let at0 := t.base + sl * 2 ^ (t.log2 + 4) + 16 * (m + 1) + 8
        writePhys s 0 at0 (toBytes 4 (ofBytes (memTake s.mem at0 4) + 1))
      else sootRecord s pa requester sl
    | none => sootRecord s pa requester sl

/-- The requester of the k-th access to a unit in a slice's log, reading its records in order (R425). -/
def replayNext (s : State) (unit : Nat) : Nat → Nat → Nat → Option Nat
  | 0, _, _ => none
  | left + 1, m, k =>
    let a := s.soot.base + sliceOf (unit * 8) * 2 ^ (s.soot.log2 + 4) + 16 * (m + 1)
    if ofBytes (memTake s.mem a 5) = unit then
      let n := ofBytes (memTake s.mem (a + 8) 4)
      if k < n then some (ofBytes (memTake s.mem (a + 5) 2)) else replayNext s unit left (m + 1) (k - n)
    else replayNext s unit left (m + 1) k

/-- Whether replay lets an atomic of a requester at an address go now (R425). -/
def replayOk (s : State) (pa requester : Nat) : Bool :=
  if !s.soot.replay || hbmEnd ≤ pa then true
  else
    let base := s.soot.base + sliceOf pa * 2 ^ (s.soot.log2 + 4)
    let n := min (ofBytes (memTake s.mem base 8)) (2 ^ s.soot.log2)
    match replayNext s (pa / 8) n 0 ((s.soot.done.find (pa / 8)).getD 0) with
    | some r => r = requester
    | none => true

/-- One more access of a unit replayed. -/
def replayed (s : State) (pa : Nat) : State :=
  if s.soot.replay then
    { s with soot := { s.soot with done := Tab.put s.soot.done (pa / 8) ((s.soot.done.find (pa / 8)).getD 0 + 1) } }
  else s

/-- What a prefix may lend to a successor (R53 to R56, R101, R119, R147, R163). -/
inductive Lend
  | refuse        -- not a legal successor
  | predicate     -- a predicate alone
  | copyG         -- a copy with pc = 0
  | copyV         -- a copy with pc = 1
  deriving DecidableEq, Repr

/-- Whether a prefix raises PREFIX on a successor that takes so much, with or without a k field (R53, R55, R56). -/
def badPrefix (l : Lend) (hasK : Bool) (p : Pfx) : Bool :=
  (p.pk != 0 && !hasK) ||
  (match l with
   | .refuse => true
   | .predicate => p.pc || p.pd != 0
   | .copyG => p.pc
   | .copyV => !p.pc && p.pd != 0)

/-- What issue needs to know of an instruction. -/
structure Attr where
  /-- What a prefix may lend it, and whether it has a k field. -/
  lend : Lend
  hasK : Bool := false
  /-- Legal in a handler context (R370). -/
  scalar : Bool := true
  /-- The optional feature it belongs to (R432). -/
  feat : Option Nat := none
  /-- Issues only when the VIQ is empty. -/
  drain : Bool := false
  /-- The privilege level it needs (R50). -/
  level : Nat := 0

/-- The bytes of an AMO (R288). -/
def amoBytes (x : Bool) : Nat := if x then 8 else 4

/-- The bytes that a scalar access names, if the instruction makes one (R94, R281, R288). -/
def scalarRange (s : State) (i : Instr) : Option (Nat × Nat) :=
  match i with
  | .ld _ a sz imm | .st _ a sz imm => some ((getG s a + imm.signExtend 64).toNat, sizeBytes sz)
  | .xld _ a b sh sz | .xst _ a b sh sz => some ((getG s a + getG s b <<< sh.val).toNat, sizeBytes sz)
  | .cread _ a | .ctest _ a _ => some ((getG s a).toNat, 8)
  | .amoSwap _ a _ _ _ x | .amoAdd _ a _ _ _ x | .amoAnd _ a _ _ _ x | .amoOr _ a _ _ _ x | .amoXor _ a _ _ _ x
  | .amoMin _ a _ _ _ x | .amoMax _ a _ _ _ x | .amoMinn _ a _ _ _ x | .amoMaxn _ a _ _ _ x | .amoCas _ a _ _ _ x =>
    some ((getG s a).toNat, amoBytes x)
  | _ => none

/-- The translation of a tenant's address on the running core, with the physical address of its byte. -/
def tenantPa (s : State) (tenant : Fin 16) (va : Nat) : Option (TlbEntry × Nat) :=
  if 2 ^ 52 ≤ va then none
  else ((translate s (some s.cpu.id) (clusterOf s.cpu.id) tenant va).1).map fun e => (e, e.pa + (va - e.va))

/-- The physical address of a byte of the running context, whatever its permissions. -/
def paOf (s : State) (va : Nat) : Option Nat :=
  if winBase ≤ va && va < winEnd then
    match (resolveLive s .read va).1 with
    | .ok p => some (placePa p)
    | _ => none
  else (tenantPa s s.cpu.live.tenant va).map (·.2)

/-- The parts of a range in each page of 64 KiB. -/
def pageParts (b : Range) : List Range :=
  (span (b.1 / 65536) (cdiv (b.1 + b.2) 65536)).map fun p =>
    let lo := max b.1 (p * 65536)
    (lo, min (b.1 + b.2) ((p + 1) * 65536) - lo)

/-- Whether a scalar access and a range have a byte in common, by their virtual or their physical addresses (R97, R218). -/
def meets (s : State) (a b : Range) : Bool :=
  overlap a b || (pageParts b).any fun p =>
    overlap (a.1 % 65536, a.2) (p.1 % 65536, p.2) &&
    (match paOf s a.1, paOf s p.1 with
     | some x, some y => overlap (x, a.2) (y, p.2)
     | _, _ => false)

/-- The address of a directory entry of a tenant (R443). -/
def dirVa (i : Nat) : Nat := 0x000FFD0000000000 + 64 * i

/-- A directory entry of a tenant's code directory, read at its home; none when it cannot be read (R443). -/
def dirEntry (s : State) (tenant : Fin 16) (i : Nat) : Option (List Byte) :=
  (tenantPa s tenant (dirVa i)).map fun p => (readPhys s p.1.key p.2 64).1

/-- A directory entry of a tenant as memory holds it, and as the clusters cache it (R446). -/
def entryViews (s : State) (tenant : Fin 16) (i : Nat) : List (List Byte) :=
  (dirEntry s tenant i).toList ++
  (match tenantPa s tenant (dirVa i) with
   | some p =>
     (s.clusters.map fun q => (q.2.dir.filter fun l => l.1 / 64 = p.2 / 128).map fun l =>
       (List.range 64).map fun j => BitVec.ofNat 8 (slot l.2 (p.2 % 128 + j) 8)).flatten
   | none => [])

/-- Some tenant's valid segment has a byte of its LAT entries among n physical bytes: its directory entry as it stands, or
as the core's own stores leave it (R443, R447). -/
def namesLat (s : State) (pa n : Nat) : Bool :=
  let t := writeBack s s.cpu.id
  (List.finRange 16).any fun tenant => (List.range 64).any fun i =>
    (entryViews s tenant i ++ (dirEntry t tenant i).toList).any fun b =>
      (at_ b 12 4).testBit 0 && (pageParts (at_ b 16 8, 4 * at_ b 8 4)).any fun p =>
        (tenantPa s tenant p.1).any fun q => overlap (pa, n) (q.2, p.2)

/-- An AMO, which reads and writes its location at one moment (R288). -/
def isAmo : Instr → Bool
  | .amoSwap _ _ _ _ _ _ | .amoAdd _ _ _ _ _ _ | .amoAnd _ _ _ _ _ _ | .amoOr _ _ _ _ _ _ | .amoXor _ _ _ _ _ _
  | .amoMin _ _ _ _ _ _ | .amoMax _ _ _ _ _ _ | .amoMinn _ _ _ _ _ _ | .amoMaxn _ _ _ _ _ _ | .amoCas _ _ _ _ _ _ =>
    true
  | _ => false

/-- A load whose bytes a held store can hand on (R97). -/
def forwards : Instr → Bool
  | .ld _ _ _ _ | .xld _ _ _ _ _ => true
  | _ => false

/-- A scalar store, which only joins the held ones. -/
def isStore : Instr → Bool
  | .st _ _ _ _ | .xst _ _ _ _ _ => true
  | _ => false

/-- A held store that an access of a range must not pass: one of its bytes at the home, or of a control register, which
hands nothing on (R97, R276). -/
def blocks (s : State) (i : Instr) (r : Range) (h : HeldStore) : Bool :=
  let device := match h.place with
    | .ctl _ => true
    | _ => false
  !isStore i && (device || !forwards i) &&
  (match paOf s r.1 with
   | some pa => overlap (pa, r.2) (placePa h.place, h.bytes.length)
   | none => false)

/-- A push, which waits in the VIQ while `vq` is full (R132). -/
def isPush (i : Instr) : Bool :=
  match i with
  | .vrsum _ _ _ q | .vrsumo _ _ _ _ q | .vrmax _ _ _ q | .vrmin _ _ _ q | .vrand _ _ _ q | .vror _ _ _ q
  | .vrxor _ _ _ q | .vrmaxi _ _ _ q => q
  | _ => false

/-- The head of the VIQ is a push that waits on a full `vq` for a younger VQPOP to enter (R132, R180). -/
def pushWaits (s : State) : Bool :=
  8 ≤ s.cpu.live.vec.vq.length &&
  match s.cpu.live.viq.head?.bind entryInstr with
  | some i => isPush i
  | none => false

/-- What the queued instructions may still touch: as the scheduler has foreseen it while the oldest of them waits, else as
far as their operands are known (R97, log 83). -/
def aheadOf (s : State) : List Touch :=
  let q := s.cpu.live.viq
  if q.isEmpty then [] else s.cpu.ahead.getD (touches s.cpu.live.vec (groupCount s s.cpu.id) q)

/-- An AMO writes a LAT entry of some tenant's segment (R447). -/
def amoNamesLat (s : State) (i : Instr) : Bool :=
  match scalarRange s i with
  | some r => (paOf s r.1).any fun pa => namesLat s pa r.2
  | none => false

/-- Whether queued memory instructions hold a scalar access back: one that has a byte in common with it has not yet
performed (R97, R218, R289); an AMO is a write that follows a read that has not yet returned (R275), and follows an older
queued store, which is passed over only while the queue waits for a VQPOP behind it, and by an AMO that writes no LAT entry
(R180, R447; DEDUCED, log 81); a CODESYNC writes back what older stores have still to write (R446), and so does an MTS to
`fsack`, after which a walk sees every write before it (R385); an L1WB writes back what held scalar stores have (R383). -/
def memBusy (s : State) (i : Instr) : Bool :=
  let q := s.cpu.live.viq
  let ts := aheadOf s
  (isAmo i && ts.any fun t => t.reads || (t.writes && !(pushWaits s && !amoNamesLat s i))) ||
  (match i with
   | .codesync _ _ | .mts _ .fsack => ts.any (·.writes) || !(heldStores q).isEmpty
   | .l1wb _ _ => !(heldStores q).isEmpty
   | _ => false) ||
  (match scalarRange s i with
   | some r => (ts.any fun t => t.bytes.any (meets s r)) || (heldStores q).any (blocks s i r)
   | none => false)

/-- Whether the front must hold an instruction back for queued ones: a register pending in the VIQ, or memory (R71, R97,
R179). -/
def busy (s : State) (i : Instr) : Bool :=
  let q := s.cpu.live.viq
  let p := prefixOf s
  (gRegs i).any (fun r => r != 0 && (pendingG q).contains r) ||
  (p.v && !p.pc && p.pd != 0 && (pendingG q).contains p.pd) || memBusy s i

/-- The running task is the one that single step is armed for (R415). -/
def stepping (s : State) : Bool :=
  s.dbg.dstep && s.cpu.who = .task && s.cpu.live.tself = s.dbg.dstask

/-- The front waits for the VIQ before each instruction (R408). -/
def synced (s : State) : Bool := s.cpu.dctl.getLsbD 2 || stepping s

/-- An instruction enters the VIQ with its captured values, and the front goes on (R131). -/
def enqueue (s : State) (i : Instr) (caps : List Word) : State :=
  retire (modLive s fun c => { c with viq := c.viq ++ [entryOf s i caps] })

/-- A successor stays at the front until the lanes can take it, so that `pfxl` holds its prefix and `tepc` its address
whatever stops it (R57). Only a push that waits for a VQPOP lets it into the VIQ: R180 asks for what stands between them
to enter, and R131 and R407 then give a trap of it the front's pc (log 18). -/
def staysAtFront (s : State) : Bool := (prefixOf s).v && !pushWaits s

/-- An instruction at the head of the VIQ cannot begin yet: it waits there, and the front goes on where it may. A successor
waits at the front; but a push that has passed its checks and finds `vq` full waits in the VIQ, where nothing traps it any
more (R57, R102, R132, R314, log 18). -/
def delay (s : State) (i : Instr) (caps : List Word) : State :=
  if atFront s && !synced s && (isPush i || !(prefixOf s).v) then enqueue s i caps else waitHere s

/-- The tenant has the feature that an instruction belongs to masked (R433). -/
def masked (s : State) (a : Attr) : Bool :=
  match a.feat with
  | some f => (s.tenants.get s.cpu.live.tenant).featmask.getLsbD f
  | none => false

/-- A predicate of a prefix is false (R54). -/
def predFalse (s : State) : Bool :=
  let p := prefixOf s
  p.v && p.pg != 0 && (getG s p.pg != 0) == p.ps

/-- The running task is doomed and at RHOLD depth 0 (R253). -/
def reclaimable (s : State) : Bool := doomed s && s.cpu.live.depth = 0

/-- The executing instruction has passed its checks and waits for a place at its engine; the descriptor words that it read
stay with it (R328, R329, R357). -/
def offered (s : State) : Option (List Word) := s.cpu.stall.bind (·.desc)

/-- The checks of R50 in their order and the predicate of R54; a queued instruction has passed them at the front, and so
has one that waits at its engine, which no trap ends (R329). -/
def front (a : Attr) (i : Instr) (s : State) (k : State → State) : Out :=
  let w : Word := (wordOf i).setWidth 64
  let p := prefixOf s
  let handler := s.cpu.who = .sys || s.cpu.who = .fw
  if !atFront s then .next (k s)
  else if (offered s).isNone && masked s a then .next (trap s 0x01 w)
  else if p.v && badPrefix a.lend a.hasK p then .next (trap s 0x11 w)
  else if (handler && !a.scalar) || s.cpu.priv.toNat < a.level then .next (trap s 0x02 0)
  else if p.v && p.pg != 0 && (pendingG s.cpu.live.viq).contains p.pg then .next (waitHere s)
  else if predFalse s then
    .next (if isPoint i && reclaimable s then (if queued s then waitHere s else reclaim s) else retire s)
  else .next (k s)

/-- An instruction that the front executes itself. Older queued ones hold it back when it must see the queue drained, or
when its registers or bytes are pending (R71, R97, R100). -/
def issue (a : Attr) (i : Instr) (s : State) (body : State → State) : Out :=
  front a i s fun s => if queued s && (a.drain || synced s || busy s i) then waitHere s else body s

/-- An instruction that passes through the VIQ with captured g operands (R131). `grant` says that it needs a grant at
issue (R16), `lanes` that it waits for a home group on loan (R102). -/
def issueV (a : Attr) (grant lanes : Bool) (i : Instr) (caps : List Reg) (s : State) (body : State → State) : Out :=
  front a i s fun s =>
    let vals := caps.map (getG s)
    if atFront s && grant && groupCount s s.cpu.id = 0 then trap s 0x06 0
    else if queued s then
      (if a.drain || synced s || busy s i || staysAtFront s || 16 ≤ s.cpu.live.viq.length then waitHere s
       else enqueue s i vals)
    else if lanes && lanesWait s then (if (prefixOf s).v then waitHere s else delay s i vals)
    else body s

/-- A handler context leaves: a trace record with no handle and the handler's pc, since R417 names a resumption pc, which
a handler that ends has not (R417; DESIGN CHOICE, log 85). -/
def traceLeave (s : State) : State := traceRec s 3 0 0 s.cpu.live.pc

/-- A handler context left: its registers stay in its own store, and the core has no running context (R370, R378,
R417). -/
def leaveHandler (s : State) : State :=
  modCpu (traceLeave s) fun c =>
    let own := { c.live with once := false }
    let d := if c.who = .fw then { c with fw := { c.fw with ctx := own } } else { c with sys := { c.sys with ctx := own } }
    { d with who := .idle, live := Ctx.reset, hold := if d.hold = .eret then .none else d.hold, stall := none }

/-- A task out of the trap save store ends as failed with a code (R378 FAIL). -/
def endTrapped (s : State) (c : Ctx) (code : Word) : State :=
  let s := modCpu s fun k => { k with trapped := none, trapPoison := false, hold := .none }
  dropRefs (settle (endedHere s c.tself) c.tself true code) c.held

/-- The trapped task ends as failed with a code (R378 FAIL). -/
def failTrapped (s : State) (code : Word) : State :=
  match s.cpu.trapped with
  | none => leaveHandler s
  | some c => endTrapped (leaveHandler s) c code

/-- The first instruction that the core issues for a context is the one that ONCE exempts: the latched one that came out
of the VIQ, else the oldest of the VIQ, else the front's (R202, R407, R414). -/
def markOnce (one : Bool) (c : Ctx) : Ctx :=
  if c.latchQ && c.latch.isSome then { c with latch := c.latch.map fun e => { e with once := one }, once := false }
  else
    match c.viq with
    | e :: es => { c with viq := { e with once := one } :: es, once := false }
    | [] => { c with once := one }

/-- A trapped task at the address where it goes on. What its held CWAIT has reached stands only for that instruction
(R261, R264, R285). -/
def atPc (c : Ctx) (pc : Word) : Ctx := { c with pc := pc, holdAt := if pc = c.pc then c.holdAt else none }

/-- The record of a trapped task that becomes ready; an error of the trap save store's record stays with it, and with ONCE
set the first instruction that it issues is exempt (R378 READY, R404, R414). -/
def trappedRec (s : State) (c : Ctx) (pc : Word) : Rec :=
  { ctx := atPc (markOnce (s.cpu.dctl.getLsbD 1) c) pc, st := .ready, wait := .none, forced := true, liveG := BitVec.allOnes 64,
    liveK := if c.need = 0 then 0 else BitVec.allOnes 7, liveV := c.need != 0, order := s.clock, since := s.clock,
    steal := false, atPoint := false, spill := none, due := false, poison := s.cpu.trapPoison }

/-- The trapped task becomes ready: its record moves into the context cache, or ERET waits or traps for want of Woodshed
space (R374, R378). -/
def readyTrapped (s : State) (c : Ctx) (h : Handler) : State :=
  let r := trappedRec s c h.tepc
  match makeRoom (s.cpu.recs.length + 1) s s.cpu.id (recBytes r) with
  | .ok s =>
    modCpu (leaveHandler s) fun k =>
      { k with trapped := none, trapPoison := false, recs := k.recs ++ [r], hold := .none }
  | .full =>
    if s.cpu.hold = .eret then waitHere s
    else waitHere (modCpu (spillRecord s c.tself 0x7C000002 h.tepc) fun k => { k with hold := .eret })
  | .fault va =>
    trap (modCpu s fun k => { k with hold := if k.hold = .eret then .none else k.hold }) 0x09 (BitVec.ofNat 64 va)

/-- A task out of the trap save store put on the core: a grant of what it held, its privilege from TPRIV, its pc from
`tepc`; with ONCE set, the next instruction it issues is exempt (R130, R378, R407, R414, R417). Its quantum counter goes
on from where the trap found it (DESIGN CHOICE, log 74). After a write of 3 to TPRIV, a level that R370 does not name, it
runs at privilege 3 (DESIGN CHOICE, log 113). -/
def placeTrapped (s : State) (c : Ctx) (h : Handler) : State :=
  let s := if c.need = 0 then s else grantTo s c.need
  let s := traceRec s 2 0 c.tself h.tepc
  modCpu s fun k =>
    { k with who := .task, priv := h.tpriv, trapped := none, trapPoison := false, writers := [],
             hold := if h.tepc = c.pc || k.hold != .wait then k.hold else .none,
             live := { atPc (markOnce (k.dctl.getLsbD 1) c) h.tepc with priv := h.tpriv.toNat } }

/-- The trapped task goes on; one whose record holds a contained error fails where it resumes (R378, R404). -/
def putTrapped (s : State) (c : Ctx) (h : Handler) : State :=
  let t := placeTrapped s c h
  if s.cpu.trapPoison then endTask t true (failCode 0x24) else t

/-- The trapped task restored (R378). -/
def restoreTrapped (s : State) (c : Ctx) (h : Handler) : State := putTrapped (leaveHandler s) c h

/-- The return from a trap or an interrupt, from the registers of the running handler's level (R378). Where the trapped
task has been ended meanwhile, by an `fsack` with FAIL, the core selects (DESIGN CHOICE, log 114). -/
def returnTrap (s : State) : State :=
  let h := if s.cpu.who = .fw then s.cpu.fw else s.cpu.sys
  if h.tepc.toNat % 4 != 0 then trap s 0x03 h.tepc
  else if h.nest then
    modCpu (traceRec (traceLeave s) 2 0 0 h.tepc) fun c =>
      { c with fw := { c.fw with ctx := { c.live with once := false } }, who := .sys, priv := 1, stall := none,
               writers := [], live := { markOnce (c.dctl.getLsbD 1) c.sys.ctx with pc := h.tepc } }
  else if h.idle then leaveHandler s
  else
    match s.cpu.trapped with
    | none => leaveHandler s
    | some c =>
      if h.tact.getLsbD 0 then failTrapped s (failCode (h.tcause.toNat % 256))
      else if h.tact.getLsbD 1 || !canGrant s s.cpu.id c.need then readyTrapped s c h
      else restoreTrapped s c h

end Sys2Proof.Machine
end

