-- ==== Sys2Proof/Machine/Scalar.lean ====
section
/-!
DEFINITION. Integer arithmetic, immediates, shifts by a constant, constants, SEL and LEA (R74 to R80, R101).
-/

namespace Sys2Proof.Machine

/-- A scalar instruction with a g result: a predicate and a copy with pc = 0 (R101). -/
def scalarAttr : Attr := { lend := .copyG }

/-- A scalar instruction that writes one g register and moves on (R70, R101). -/
def produce (i : Instr) (d : Reg) (s : State) (v : State → Word) : Out :=
  issue scalarAttr i s fun s => retire (result s d (v s))

/-- The width that W selects (R75). -/
def aluBits (w : Bool) : Nat := if w then 32 else 64

/-- Trunc(r, n), sign-extended from 32 bits under W (R75). -/
def aluWord (w : Bool) (r : Int) : Word := if w then sextWord 32 (trunc 32 r) else wordOfInt r

/-- An operand as the n-bit number that the member reads (R75). -/
def aluArg (w : Bool) (v : Word) : Nat := v.toNat % 2 ^ aluBits w

/-- An ALU member: r of the width and the two operands as unsigned numbers (R75). -/
def alu (i : Instr) (d a b : Reg) (w : Bool) (s : State) (r : Nat → Nat → Nat → Int) : Out :=
  produce i d s fun s => aluWord w (r (aluBits w) (aluArg w (getG s a)) (aluArg w (getG s b)))

/-- An ALU member with one operand (R75). -/
def alu1 (i : Instr) (d a : Reg) (w : Bool) (s : State) (r : Nat → Nat → Int) : Out :=
  produce i d s fun s => aluWord w (r (aluBits w) (aluArg w (getG s a)))

/-- Rotation right within n bits (R75). -/
def rotr (n x k : Nat) : Nat := x / 2 ^ k + x % 2 ^ k * 2 ^ (n - k)

/-- The signed quotient, truncated toward zero, with the corners of R76. -/
def divS (x y : Int) : Int := if y = 0 then -1 else Int.tdiv x y

/-- The signed remainder, with the corners of R76. -/
def remS (x y : Int) : Int := if y = 0 then x else Int.tmod x y

/-- Leading zeros within n bits (R75). -/
def clzN (n x : Nat) : Nat := if x = 0 then n else n - 1 - Nat.log2 x

/-- Trailing zeros within n bits (R75). -/
def ctzN (n x : Nat) : Nat := (firstIn 0 n fun i => x.testBit i).getD n

/-- ADD (R75). -/
def execAdd (d a b : Reg) (w : Bool) (s : State) : Out :=
  alu (.add d a b w) d a b w s fun _ x y => (x : Int) + y

/-- SUB (R75). -/
def execSub (d a b : Reg) (w : Bool) (s : State) : Out :=
  alu (.sub d a b w) d a b w s fun _ x y => (x : Int) - y

/-- AND (R75). -/
def execAnd (d a b : Reg) (w : Bool) (s : State) : Out :=
  alu (.and d a b w) d a b w s fun _ x y => ((x &&& y : Nat) : Int)

/-- OR (R75). -/
def execOr (d a b : Reg) (w : Bool) (s : State) : Out :=
  alu (.or d a b w) d a b w s fun _ x y => ((x ||| y : Nat) : Int)

/-- XOR (R75). -/
def execXor (d a b : Reg) (w : Bool) (s : State) : Out :=
  alu (.xor d a b w) d a b w s fun _ x y => ((x ^^^ y : Nat) : Int)

/-- ANDN (R75). -/
def execAndn (d a b : Reg) (w : Bool) (s : State) : Out :=
  alu (.andn d a b w) d a b w s fun n x y => ((x &&& (2 ^ n - 1 - y) : Nat) : Int)

/-- ORN (R75). -/
def execOrn (d a b : Reg) (w : Bool) (s : State) : Out :=
  alu (.orn d a b w) d a b w s fun n x y => ((x ||| (2 ^ n - 1 - y) : Nat) : Int)

/-- SHL (R75). -/
def execShl (d a b : Reg) (w : Bool) (s : State) : Out :=
  alu (.shl d a b w) d a b w s fun n x y => ((x * 2 ^ (y % n) : Nat) : Int)

/-- SHR (R75). -/
def execShr (d a b : Reg) (w : Bool) (s : State) : Out :=
  alu (.shr d a b w) d a b w s fun n x y => ((x / 2 ^ (y % n) : Nat) : Int)

/-- SHA (R75). -/
def execSha (d a b : Reg) (w : Bool) (s : State) : Out :=
  alu (.sha d a b w) d a b w s fun n x y => sgn n x / (2 ^ (y % n) : Nat)

/-- ROR (R75). -/
def execRor (d a b : Reg) (w : Bool) (s : State) : Out :=
  alu (.ror d a b w) d a b w s fun n x y => ((rotr n x (y % n) : Nat) : Int)

/-- MUL (R75). -/
def execMul (d a b : Reg) (w : Bool) (s : State) : Out :=
  alu (.mul d a b w) d a b w s fun _ x y => ((x * y : Nat) : Int)

/-- MULH (R75). -/
def execMulh (d a b : Reg) (w : Bool) (s : State) : Out :=
  alu (.mulh d a b w) d a b w s fun n x y => sgn n x * sgn n y / (2 ^ n : Nat)

/-- MULHN (R75). -/
def execMulhn (d a b : Reg) (w : Bool) (s : State) : Out :=
  alu (.mulhn d a b w) d a b w s fun n x y => ((x * y / 2 ^ n : Nat) : Int)

/-- DIV (R76). -/
def execDiv (d a b : Reg) (w : Bool) (s : State) : Out :=
  alu (.div d a b w) d a b w s fun n x y => divS (sgn n x) (sgn n y)

/-- DIVN (R76). -/
def execDivn (d a b : Reg) (w : Bool) (s : State) : Out :=
  alu (.divn d a b w) d a b w s fun _ x y => if y = 0 then -1 else ((x / y : Nat) : Int)

/-- REM (R76). -/
def execRem (d a b : Reg) (w : Bool) (s : State) : Out :=
  alu (.rem d a b w) d a b w s fun n x y => remS (sgn n x) (sgn n y)

/-- REMN (R76). -/
def execRemn (d a b : Reg) (w : Bool) (s : State) : Out :=
  alu (.remn d a b w) d a b w s fun _ x y => ((x % y : Nat) : Int)

/-- MIN (R75). -/
def execMin (d a b : Reg) (w : Bool) (s : State) : Out :=
  alu (.min d a b w) d a b w s fun n x y => if sgn n x < sgn n y then sgn n x else sgn n y

/-- MAX (R75). -/
def execMax (d a b : Reg) (w : Bool) (s : State) : Out :=
  alu (.max d a b w) d a b w s fun n x y => if sgn n x < sgn n y then sgn n y else sgn n x

/-- MINN (R75). -/
def execMinn (d a b : Reg) (w : Bool) (s : State) : Out :=
  alu (.minn d a b w) d a b w s fun _ x y => ((Nat.min x y : Nat) : Int)

/-- MAXN (R75). -/
def execMaxn (d a b : Reg) (w : Bool) (s : State) : Out :=
  alu (.maxn d a b w) d a b w s fun _ x y => ((Nat.max x y : Nat) : Int)

/-- SLT (R75). -/
def execSlt (d a b : Reg) (w : Bool) (s : State) : Out :=
  alu (.slt d a b w) d a b w s fun n x y => if sgn n x < sgn n y then 1 else 0

/-- SLTN (R75). -/
def execSltn (d a b : Reg) (w : Bool) (s : State) : Out :=
  alu (.sltn d a b w) d a b w s fun _ x y => if x < y then 1 else 0

/-- CLZ (R75). -/
def execClz (d a : Reg) (w : Bool) (s : State) : Out :=
  alu1 (.clz d a w) d a w s fun n x => (clzN n x : Int)

/-- CTZ (R75). -/
def execCtz (d a : Reg) (w : Bool) (s : State) : Out :=
  alu1 (.ctz d a w) d a w s fun n x => (ctzN n x : Int)

/-- POPC (R75). -/
def execPopc (d a : Reg) (w : Bool) (s : State) : Out :=
  alu1 (.popc d a w) d a w s fun n x => (popN n x : Int)

/-- BREV (R75). -/
def execBrev (d a : Reg) (w : Bool) (s : State) : Out :=
  alu1 (.brev d a w) d a w s fun n x => (revBits n x : Int)

/-- ADDI (R77, R38). -/
def execAddi (d a : Reg) (imm : BitVec 16) (s : State) : Out :=
  produce (.addi d a imm) d s fun s => getG s a + imm.signExtend 64

/-- ANDI (R77, R38). -/
def execAndi (d a : Reg) (imm : BitVec 16) (s : State) : Out :=
  produce (.andi d a imm) d s fun s => getG s a &&& imm.signExtend 64

/-- ORI (R77, R38). -/
def execOri (d a : Reg) (imm : BitVec 16) (s : State) : Out :=
  produce (.ori d a imm) d s fun s => getG s a ||| imm.setWidth 64

/-- XORI (R77, R38). -/
def execXori (d a : Reg) (imm : BitVec 16) (s : State) : Out :=
  produce (.xori d a imm) d s fun s => getG s a ^^^ imm.setWidth 64

/-- SLTI (R77, R38). -/
def execSlti (d a : Reg) (imm : BitVec 16) (s : State) : Out :=
  produce (.slti d a imm) d s fun s => if (getG s a).toInt < imm.toInt then 1 else 0

/-- SLTNI (R77, R38). -/
def execSltni (d a : Reg) (imm : BitVec 16) (s : State) : Out :=
  produce (.sltni d a imm) d s fun s => if getG s a < imm.signExtend 64 then 1 else 0

/-- A shift by a constant: the ALU member's result with y the amount (R78). -/
def shiftConst (i : Instr) (d a : Reg) (w : Bool) (s : State) (r : Nat → Nat → Int) : Out :=
  produce i d s fun s => aluWord w (r (aluBits w) (aluArg w (getG s a)))

/-- SHI SHL (R78). -/
def execShli (d a : Reg) (w : Bool) (k : Fin 64) (s : State) : Out :=
  shiftConst (.shli d a w k) d a w s fun n x => ((x * 2 ^ (k.val % n) : Nat) : Int)

/-- SHI SHR (R78). -/
def execShri (d a : Reg) (w : Bool) (k : Fin 64) (s : State) : Out :=
  shiftConst (.shri d a w k) d a w s fun n x => ((x / 2 ^ (k.val % n) : Nat) : Int)

/-- SHI SHA (R78). -/
def execShai (d a : Reg) (w : Bool) (k : Fin 64) (s : State) : Out :=
  shiftConst (.shai d a w k) d a w s fun n x => sgn n x / (2 ^ (k.val % n) : Nat)

/-- SHI ROR (R78). -/
def execRori (d a : Reg) (w : Bool) (k : Fin 64) (s : State) : Out :=
  shiftConst (.rori d a w k) d a w s fun n x => ((rotr n x (k.val % n) : Nat) : Int)

/-- LIW (R79). -/
def execLiw (d : Reg) (imm : BitVec 21) (s : State) : Out :=
  produce (.liw d imm) d s fun _ => imm.signExtend 64

/-- LIS (R79). -/
def execLis (d : Reg) (imm : BitVec 21) (s : State) : Out :=
  produce (.lis d imm) d s fun s => (getG s d <<< 21) ||| imm.setWidth 64

/-- ADDPC (R79). -/
def execAddpc (d : Reg) (imm : BitVec 21) (s : State) : Out :=
  produce (.addpc d imm) d s fun s => pcOf s + (imm.signExtend 64) <<< 2

/-- SEL (R80). -/
def execSel (d a b c : Reg) (s : State) : Out :=
  produce (.sel d a b c) d s fun s => if getG s c != 0 then getG s a else getG s b

/-- LEA (R80). -/
def execLea (d a b : Reg) (sh : Fin 4) (s : State) : Out :=
  produce (.lea d a b sh) d s fun s => getG s a + getG s b <<< sh.val

end Sys2Proof.Machine
end

