-- ==== Sys2Proof/Machine/ScalarMem.lean ====
section
/-!
DEFINITION. Jumps and branches, scalar loads and stores (R90 to R97).
-/

namespace Sys2Proof.Machine

/-- An instruction that no prefix may stand before (R53). -/
def plainAttr : Attr := { lend := .refuse }

/-- The target of a displacement in words from the instruction's own address (R90). -/
def target {n : Nat} (s : State) (disp : BitVec n) : Word := pcOf s + (disp.signExtend 64) <<< 2

/-- J (R90). -/
def execJ (imm : BitVec 26) (s : State) : Out :=
  issue plainAttr (.j imm) s fun s => jump s (target s imm)

/-- JL (R90). -/
def execJl (imm : BitVec 26) (s : State) : Out :=
  issue plainAttr (.jl imm) s fun s => jump (setG s 1 (pcOf s + 4)) (target s imm)

/-- JRL (R90, R91). -/
def execJrl (d a : Reg) (s : State) : Out :=
  issue plainAttr (.jrl d a) s fun s =>
    let t := getG s a
    if t.toNat % 4 != 0 then trap s 0x03 t else jump (setG s d (pcOf s + 4)) t

/-- A branch, taken when its condition on the two operands holds (R90). -/
def branch (i : Instr) (a b : Reg) (imm : BitVec 16) (s : State) (c : Word → Word → Bool) : Out :=
  issue plainAttr i s fun s => if c (getG s a) (getG s b) then jump s (target s imm) else retire s

/-- BEQ (R90). -/
def execBeq (a b : Reg) (imm : BitVec 16) (s : State) : Out :=
  branch (.beq a b imm) a b imm s fun x y => x == y

/-- BNE (R90). -/
def execBne (a b : Reg) (imm : BitVec 16) (s : State) : Out :=
  branch (.bne a b imm) a b imm s fun x y => x != y

/-- BLT (R90). -/
def execBlt (a b : Reg) (imm : BitVec 16) (s : State) : Out :=
  branch (.blt a b imm) a b imm s fun x y => x.toInt < y.toInt

/-- BGE (R90). -/
def execBge (a b : Reg) (imm : BitVec 16) (s : State) : Out :=
  branch (.bge a b imm) a b imm s fun x y => y.toInt ≤ x.toInt

/-- BLTN (R90). -/
def execBltn (a b : Reg) (imm : BitVec 16) (s : State) : Out :=
  branch (.bltn a b imm) a b imm s fun x y => x < y

/-- BGEN (R90). -/
def execBgen (a b : Reg) (imm : BitVec 16) (s : State) : Out :=
  branch (.bgen a b imm) a b imm s fun x y => y ≤ x

/-- The address of LD and ST (R94). -/
def eaOffset (s : State) (a : Reg) (imm : BitVec 13) : Nat := (getG s a + imm.signExtend 64).toNat

/-- The address of XMEM (R94). -/
def eaIndex (s : State) (a b : Reg) (sh : Fin 4) : Nat := (getG s a + getG s b <<< sh.val).toNat

/-- A scalar load into d (R94, R95). -/
def loadTo (i : Instr) (d : Reg) (sz : Size) (s : State) (ea : State → Nat) : Out :=
  issue scalarAttr i s fun s =>
    (loadN s i (ea s) (sizeBytes sz)).done fun v s => retire (result s d (sizeExtend sz v))

/-- A scalar store of the low bytes of d (R94, R95, R97). -/
def storeFrom (i : Instr) (d : Reg) (sz : Size) (s : State) (ea : State → Nat) : Out :=
  issue plainAttr i s fun s =>
    let v := (getG s d).toNat
    let va := ea s
    (checkAccess s i .write va (sizeBytes sz)).done fun p s => retire (issueStore s va p (toBytes (sizeBytes sz) v))

/-- LD (R93, R94). -/
def execLd (d a : Reg) (sz : Size) (imm : BitVec 13) (s : State) : Out :=
  loadTo (.ld d a sz imm) d sz s fun s => eaOffset s a imm

/-- ST (R93, R94). -/
def execSt (d a : Reg) (sz : Size) (imm : BitVec 13) (s : State) : Out :=
  storeFrom (.st d a sz imm) d sz s fun s => eaOffset s a imm

/-- XMEM load (R93, R94). -/
def execXld (d a b : Reg) (sh : Fin 4) (sz : Size) (s : State) : Out :=
  loadTo (.xld d a b sh sz) d sz s fun s => eaIndex s a b sh

/-- XMEM store (R93, R94). -/
def execXst (d a b : Reg) (sh : Fin 4) (sz : Size) (s : State) : Out :=
  storeFrom (.xst d a b sh sz) d sz s fun s => eaIndex s a b sh

end Sys2Proof.Machine
end

