-- ==== Sys2Proof/Machine/Atomics.lean ====
section
/-!
DEFINITION. Atomics and counters, performed at the home of their location (R276, R279 to R290).
-/

namespace Sys2Proof.Machine

/-- A point of the atomic order of a location: its counter's waiters see the value that it holds now (R276, R285). -/
def atomicPoint (s : State) (p : Place) : State :=
  let unit := placePa p / 8 * 8
  counterPoint s unit (BitVec.ofNat 64 (ofBytes (memTake s.mem unit 8)))

/-- The bytes at the home written, as a point of the location's atomic order (R276, R285). -/
def atomicWrite (s : State) (p : Place) (bs : List Byte) : State := atomicPoint (homeWrite s p bs) p

/-- One atomic access of n bytes: `f` gives the value written, if one is. It is logged, and replay orders it. An access
that reads fails its task on poison; CINIT reads nothing. One that may write sends the core's dirty lines home first, so
that no older store is seen after it (R447, log 81) (R222, R270, R276, R283, R290, R422, R425). -/
def atomicAccess (s : State) (i : Instr) (k : Kind) (va n : Nat) (rel acq : Bool) (f : Nat → Option Nat)
    (fin : Nat → State → State) : State :=
  (checkAccess s i k va n).done fun p s =>
    let pa := placePa p
    if !replayOk s pa s.cpu.id then waitHere s
    else if k != .write && poisoned s pa n then poisonTask s
    else
      let s := if rel || k != .read then writeBack s s.cpu.id else s
      let s := settleL1 s p n
      let (bs, s) := homeRead s p n
      let old := ofBytes bs
      let s := match f old with
        | some v => atomicWrite s p (toBytes n v)
        | none => atomicPoint s p
      let s := replayed (sootLog s pa s.cpu.id) pa
      fin old (if acq then invalidate s s.cpu.id else s)

/-- The attributes of an AMO or a counter write: no prefix, and a releasing one sees the VIQ drained (R53, R283). -/
def releaseAttr (rel : Bool) : Attr := { lend := .refuse, drain := rel }

/-- An AMO: `new` of the access width in bits, the old value and the operand, as unsigned numbers (R288). -/
def amo (i : Instr) (d a b : Reg) (rel acq x : Bool) (s : State) (new : Nat → Nat → Nat → Option Nat) : Out :=
  issue (releaseAttr rel) i s fun s =>
    let w := 8 * amoBytes x
    let y := (getG s b).toNat % 2 ^ w
    atomicAccess s i .rmw (getG s a).toNat (amoBytes x) rel acq (fun old => new w old y) fun old s =>
      retire (setG s d (sextWord w old))

/-- AMO SWAP (R288). -/
def execAmoSwap (d a b : Reg) (rel acq x : Bool) (s : State) : Out :=
  amo (.amoSwap d a b rel acq x) d a b rel acq x s fun _ _ y => some y

/-- AMO ADD (R288). -/
def execAmoAdd (d a b : Reg) (rel acq x : Bool) (s : State) : Out :=
  amo (.amoAdd d a b rel acq x) d a b rel acq x s fun w old y => some ((old + y) % 2 ^ w)

/-- AMO AND (R288). -/
def execAmoAnd (d a b : Reg) (rel acq x : Bool) (s : State) : Out :=
  amo (.amoAnd d a b rel acq x) d a b rel acq x s fun _ old y => some (old &&& y)

/-- AMO OR (R288). -/
def execAmoOr (d a b : Reg) (rel acq x : Bool) (s : State) : Out :=
  amo (.amoOr d a b rel acq x) d a b rel acq x s fun _ old y => some (old ||| y)

/-- AMO XOR (R288). -/
def execAmoXor (d a b : Reg) (rel acq x : Bool) (s : State) : Out :=
  amo (.amoXor d a b rel acq x) d a b rel acq x s fun _ old y => some (old ^^^ y)

/-- AMO MIN (R288). -/
def execAmoMin (d a b : Reg) (rel acq x : Bool) (s : State) : Out :=
  amo (.amoMin d a b rel acq x) d a b rel acq x s fun w old y => some (if sgn w old < sgn w y then old else y)

/-- AMO MAX (R288). -/
def execAmoMax (d a b : Reg) (rel acq x : Bool) (s : State) : Out :=
  amo (.amoMax d a b rel acq x) d a b rel acq x s fun w old y => some (if sgn w old < sgn w y then y else old)

/-- AMO MINN (R288). -/
def execAmoMinn (d a b : Reg) (rel acq x : Bool) (s : State) : Out :=
  amo (.amoMinn d a b rel acq x) d a b rel acq x s fun _ old y => some (Nat.min old y)

/-- AMO MAXN (R288). -/
def execAmoMaxn (d a b : Reg) (rel acq x : Bool) (s : State) : Out :=
  amo (.amoMaxn d a b rel acq x) d a b rel acq x s fun _ old y => some (Nat.max old y)

/-- AMO CAS: the compare value is read from d first, and a failed CAS writes nothing (R288). -/
def execAmoCas (d a b : Reg) (rel acq x : Bool) (s : State) : Out :=
  amo (.amoCas d a b rel acq x) d a b rel acq x s fun w old y =>
    if old = (getG s d).toNat % 2 ^ w then some y else none

/-- CINIT (R281). -/
def execCinit (a b : Reg) (s : State) : Out :=
  issue (releaseAttr true) (.cinit a b) s fun s =>
    atomicAccess s (.cinit a b) .write (getG s a).toNat 8 true false (fun _ => some (getG s b).toNat) fun _ s => retire s

/-- CADD, saturating (R281). -/
def execCadd (a b : Reg) (s : State) : Out :=
  issue (releaseAttr true) (.cadd a b) s fun s =>
    atomicAccess s (.cadd a b) .rmw (getG s a).toNat 8 true false
      (fun old => some (Nat.min (old + (getG s b).toNat) (2 ^ 64 - 1))) fun _ s => retire s

/-- A counter read with its g result (R281, R282). -/
def counterRead (i : Instr) (d a : Reg) (s : State) (v : Nat → State → Word) : Out :=
  issue scalarAttr i s fun s =>
    atomicAccess s i .read (getG s a).toNat 8 false true (fun _ => none) fun old t =>
      retire (result t d (v old s))

/-- CREAD (R281). -/
def execCread (d a : Reg) (s : State) : Out :=
  counterRead (.cread d a) d a s fun old _ => BitVec.ofNat 64 old

/-- CTEST (R281). -/
def execCtest (d a b : Reg) (s : State) : Out :=
  counterRead (.ctest d a b) d a s fun old s => if (getG s b).toNat ≤ old then 1 else 0

end Sys2Proof.Machine
end

