-- ==== Sys2Proof/Machine/Faults.lean ====
section
/-!
DEFINITION. The fault ring and its acknowledgement (R203, R384, R385).
-/

namespace Sys2Proof.Machine

/-- The 32 bytes of a fault record (R203). -/
def faultBytes (r : FaultRec) : List Byte :=
  toBytes 8 r.handle.toNat ++ toBytes 8 r.addr.toNat ++ toBytes 1 r.cause ++ toBytes 1 r.access ++ toBytes 2 r.elem ++
  toBytes 4 r.word.toNat ++ toBytes 8 r.pc.toNat

/-- The first waiting record delivered: it is written to its slot, and one is added to PROD as a releasing write. While
every slot is unacknowledged, or a replayed log names another requester, delivery waits. A slot that an older record still
holds while another one is free is written over: R384 names the slot by PROD alone (DESIGN CHOICE, log 100). The ring is
read and written under key slot 0: no rule names a key for it (DESIGN CHOICE, log 122) (R384, R425). -/
def deliver (s : State) (cl : Nat) : State :=
  let c := clusterAt s cl
  match c.deliveries with
  | [] => s
  | r :: rest =>
    if 2 ^ c.fsLog ≤ c.outstanding.length || !replayOk s c.fsBase 2048 then s
    else
      let prod := ofBytes (readPhys s 0 c.fsBase 8).1
      let slot := prod % 2 ^ c.fsLog
      let s := writePhys s 0 (c.fsBase + 64 + 32 * slot) (faultBytes r)
      let s := atomicWrite s (.hbm c.fsBase 0) (toBytes 8 (Nat.min (prod + 1) (2 ^ 64 - 1)))
      let s := replayed (sootLog s c.fsBase 2048) c.fsBase
      modCluster s cl fun k =>
        { k with deliveries := rest, outstanding := k.outstanding ++ [(prod % 2 ^ 32, r)] }

/-- Where the task of a record stands: in its latch, or held in place on its core (R202, R261). -/
inductive Stuck | latched | inPlace | gone
  deriving DecidableEq, Repr

/-- The standing of the task that a record concerns. -/
def stuckAt (s : State) (core : Nat) (h : Word) : Stuck :=
  let c := coreAt s core
  if c.recs.any fun r => r.st = .latched && r.ctx.tself = h then .latched
  else if c.hold = .inPlace &&
      ((c.who = .task && c.live.tself = h) || (c.who != .task && (c.trapped.map fun x => x.tself) = some h)) then .inPlace
  else .gone

/-- A latched record made ready again, with a change of its context. -/
def unlatch (s : State) (core : Nat) (h : Word) (f : Ctx → Ctx) : State :=
  modCore s core fun c => { c with recs := c.recs.map fun r =>
    if r.st = .latched && r.ctx.tself = h then makeReady s { r with ctx := f r.ctx } else r }

/-- The instruction of a fault record is one that passes through the VIQ. -/
def queuedWord (w : BitVec 32) : Bool :=
  match decode w.toNat with
  | .ok i => viaQueue i
  | .error _ => false

/-- Instructions are queued before the one at which a context is stuck: a latched one that the front issued, or one held in
place that is not the oldest of the queue (R202, R249). -/
def olderQueued (c : Ctx) (word : BitVec 32) : Bool :=
  !c.viq.isEmpty && (if c.latch.isSome then !c.latchQ else !queuedWord word)

/-- A latched or held task fails with a code, as if by FFAIL at its instruction: instructions that were queued before that
one complete first (R249, R385). -/
def failStuck (s : State) (core : Nat) (h : Word) (word : BitVec 32) (code : Word) : State :=
  let failing (c : Ctx) : Ctx := { c with failWith := some code }
  match stuckAt s core h with
  | .latched =>
    match (coreAt s core).recs.find? fun r => r.ctx.tself = h with
    | some r =>
      if olderQueued r.ctx word then unlatch s core h failing
      else dropRefs (settle (endedOn (takeRec s core h) core h) h true code) r.ctx.held
    | none => s
  | .inPlace =>
    let c := coreAt s core
    if c.who = .task then
      (if olderQueued c.live word then modCore s core fun c => { c with hold := .none, live := failing c.live }
       else onCore s core fun t => endTask t true code)
    else
      match c.trapped with
      | some x =>
        if olderQueued x word then modCore s core fun c => { c with hold := .none, trapped := some (failing x) }
        else
          let s := modCore s core fun c => { c with trapped := none, hold := .none }
          dropRefs (settle (endedOn s core h) h true code) x.held
      | none => s
  | .gone => s

/-- A latched or held task goes on: it re-executes its instruction. A replay from the retry latch is a corrected event
(R261, R385, R403, log 16). A latched record in the Woodshed is read back at once, as R263 has it of one whose token is
signalled (DESIGN CHOICE, log 109). -/
def retryStuck (s : State) (core : Nat) (h : Word) : State :=
  match stuckAt s core h with
  | .latched => unlatch (logError s { cls := 0, unit := core, address := h }) core h id
  | .inPlace => modCore s core fun c => { c with hold := .none }
  | .gone => s

/-- The slot of a record freed (R385). -/
def freeSlotSeq (s : State) (cl seq : Nat) : State :=
  modCluster s cl fun k => { k with outstanding := k.outstanding.filter fun p => p.1 != seq }

/-- An acknowledgement of an outstanding record by a sequence number. ERR says whether the last one was refused (R371,
R385). -/
def acknowledge (s : State) (cl seq action : Nat) : State :=
  match (clusterAt s cl).outstanding.find? fun p => p.1 = seq with
  | none => modCluster s cl fun k => { k with ackErr := true }
  | some (_, r) =>
    if action = 3 then modCluster s cl fun k => { k with ackErr := true }
    else
      let s := modCluster s cl fun k => { k with ackSeq := BitVec.ofNat 32 seq, ackAction := BitVec.ofNat 2 action, ackErr := false }
      match r.owner with
      | .other => freeSlotSeq s cl seq
      | .task core h =>
        if stuckAt s core h = .gone then freeSlotSeq s cl seq
        else
          match action with
          | 0 => freeSlotSeq (retryStuck s core h) cl seq
          | 1 => freeSlotSeq (failStuck s core h r.word (failCode r.cause)) cl seq
          | _ => s

/-- FAULT_RECORD_DELIVERY (R384). -/
def execFaultRecordDelivery (cl : Fin 96) (s : State) : Out := .next (deliver s cl.val)

/-- An acknowledgement as a write of `fsack` makes it: a core of the cluster first writes back its dirty lines, before
one that changes nothing and sets ERR too (R385, log 78). -/
def ackFrom (s : State) (cl : Fin 96) (seq : BitVec 32) (action : Nat) : State :=
  acknowledge (if clusterOf s.cpu.id = cl.val then writeBack s s.cpu.id else s) cl.val seq.toNat action

/-- FSACK_RETRY (R385). -/
def execFsackRetry (cl : Fin 96) (seq : BitVec 32) (s : State) : Out := .next (ackFrom s cl seq 0)

/-- FSACK_FAIL (R385). -/
def execFsackFail (cl : Fin 96) (seq : BitVec 32) (s : State) : Out := .next (ackFrom s cl seq 1)

/-- FSACK_NOTE (R385). -/
def execFsackNote (cl : Fin 96) (seq : BitVec 32) (s : State) : Out := .next (ackFrom s cl seq 2)

/-- FSACK_INVALID: a write with ACTION 3 sets ERR and changes nothing else (R385). -/
def execFsackInvalid (cl : Fin 96) (seq : BitVec 32) (s : State) : Out := .next (ackFrom s cl seq 3)

end Sys2Proof.Machine
end

