-- ==== Sys2Proof/Machine/Switch.lean ====
section
/-!
DEFINITION. A context put on a core: its grant, the return of its wait, and its edges (R105, R130, R244 to R248, R264,
R271).
-/

namespace Sys2Proof.Machine

/-- The completion edge of an observed future: the core on which its task ended writes back, and the observer's core
drops its clean bytes; on one core, and for the token of an MXSYNC, nothing is done (R271, reconciliation table). -/
def completionEdge (s : State) (h : Word) : State :=
  let f := entryAt s h
  if !f.edge then s
  else
    match f.loc with
    | some n => if n = s.cpu.id then s else invalidate (writeBack s n) s.cpu.id
    | none => invalidate s s.cpu.id

/-- Whether a future is resolved or failed (R230). -/
def settled (s : State) (h : Word) : Bool :=
  let f := entryAt s h
  f.st = .resolved || f.st = .failed

/-- The result of a settled future taken: d, `tidx` with the index, and one reference dropped (R245, R246). -/
def takeFuture (s : State) (h : Word) (d : Reg) (index : Nat) : State :=
  let f := entryAt s h
  let s := completionEdge s h
  let s := modLive (setG s d f.result) fun c =>
    { c with tidx := BitVec.ofNat 7 (index + if f.st = .failed then 32 else 0) }
  dropHeld s h

/-- The lowest index of an array of handles whose future is settled (R246). -/
def firstSettled (s : State) (hs : List Word) : Option (Word × Nat) :=
  ((hs.zip (List.range hs.length)).find? fun p => settled s p.1)

/-- What a wait does when its context returns, or the child of a gate or a root begins. The value of a CWAIT is the one
observed at the point at which it completes, as R247 and R285 say of its register, where R244 has the counter read at the
return (R122, R241, R244 to R247, R272, R285; DEDUCED, log 68). -/
def finishWait (s : State) (wt : Wait) : State :=
  match wt with
  | .none => s
  | .future h d => takeFuture s h d 0
  | .any hs d =>
    match firstSettled s hs with
    | some (h, i) => takeFuture s h d i
    | none => s
  | .counted _ v d => setG (invalidate s s.cpu.id) d v
  | .counter p _ d => setG (invalidate s s.cpu.id) d (BitVec.ofNat 64 (ofBytes (homeRead s p 8).1))
  | .strip _ _ | .gate => invalidate s s.cpu.id

/-- A context begins to run on the core, with nothing of an older one in flight. Its quantum counter starts at 0, also
where a YIELD goes on with the same task (R266, R417, R420; DESIGN CHOICE, log 95). -/
def begin_ (s : State) (c : Ctx) : State :=
  let s := traceRec s 2 0 c.tself c.pc
  modCpu s fun k =>
    { k with who := .task, priv := BitVec.ofNat 2 c.priv, live := c, quantum := 0, hold := .none, passed := none,
             stall := none, lane := none, writers := [] }

/-- The wait of the context that ONCE exempts has returned, so that its instruction is complete and ONCE is cleared, on
the core that issued it. A context saved in full has its instruction before it (R414). -/
def onceBack (s : State) (r : Rec) : State :=
  if r.ctx.once && !r.forced then
    modCore (modLive s fun c => { c with once := false, onceOn := none }) (r.ctx.onceOn.getD s.cpu.id) fun c =>
      { c with dctl := c.dctl &&& ~~~2 }
  else s

/-- A ready record of the running core's context cache runs: exactly the grant it needs, where R130 says at least
(DESIGN CHOICE, log 86), then the return of its wait. A record that holds a contained error fails there (R130, R244, R404,
R414). -/
def resume (s : State) (r : Rec) : State :=
  let s := takeRec s s.cpu.id r.ctx.tself
  let s := if r.ctx.need = 0 then s else grantTo s r.ctx.need
  let s := begin_ s r.ctx
  if r.poison then endTask s true (failCode 0x24) else finishWait (onceBack s r) r.wait

end Sys2Proof.Machine
end

