-- ==== Sys2Proof/Machine/Remote.lean ====
section
/-!
DEFINITION. Tokens of engine instructions, and remote requests (R343 to R352).
-/

namespace Sys2Proof.Machine

/-- The attributes of an engine instruction that issues to an empty VIQ (R327, R348). -/
def engineAttr (feat : Nat) : Attr := { lend := .refuse, scalar := false, feat := some feat, drain := true }

/-- On whose behalf an accepted job accesses memory (R331). -/
def envOf (s : State) (i : Instr) : Env :=
  let c := s.cpu
  { tenant := c.live.tenant, priv := c.live.priv, core := c.id, pin := c.live.pin, handle := c.live.tself,
    word := wordOf i, pc := pcOf s }

/-- One more reference on the running task's held list (R234). -/
def hold (s : State) (h : Word) : State := modLive s fun c => { c with held := c.held ++ [h] }

/-- The executing instruction waits for a place at its engine with the words of its descriptor, with no other effect
(R329, R348, R359). -/
def waitOffered (s : State) (desc : List Word) : State :=
  modCpu s fun c =>
    { c with stall := some { since := (c.stall.map (·.since)).getD s.clock, desc := some desc,
                             word := c.stall.bind (·.word) } }

/-- The waiting instruction is offered to its engine again (R300, R329, R348, R359). -/
def offeredAgain (s : State) : State := modCpu s fun c => { c with stall := c.stall.filter (·.desc.isSome) }

/-- The traps of a job that would allocate a token: HELDOVER, then FUTURE (R235, R328, R348). -/
def tokenChecks (s : State) (k : State → State) : State :=
  if 256 ≤ s.cpu.live.held.length then trap s 0x10 0
  else if (tokenSlot s).isNone then trap s 0x08 0
  else k s

/-- A job accepted by its engine: the core's dirty lines go home, and the task holds a new token that it writes to d
(R234, R330, R349). The token of an MXSYNC covers no memory access, so that `mem` is false and it is no edge (R271,
R320). A wait for a free slot is one for a place (R329). -/
def acceptJob (s : State) (kind : Nat) (mem : Bool) (d : Reg) (desc : List Word) (k : Word → State → State) : State :=
  match allocToken s kind with
  | none => waitOffered s desc
  | some (h, s) =>
    let s := if mem then writeBack s s.cpu.id else setEntry s h { entryAt s h with edge := false }
    k h (setG (hold s h) d h)

/-- A job offered to its engine: its traps first, which a job that waits already has passed, then a wait while the engine
is full, then acceptance (R235, R328 to R330, R348). -/
def offer (s : State) (kind : Nat) (mem : Bool) (d : Reg) (full : Bool) (desc : List Word) (k : Word → State → State) :
    State :=
  let go := fun s => if full then waitOffered s desc else acceptJob s kind mem d desc k
  if (offered s).isSome then go s else tokenChecks s go

/-- The device and the local part of a pod-global address (R345). -/
def podDev (v : Word) : Nat := bits v.toNat 40 10
def podLocal (v : Word) : Nat := v.toNat % 2 ^ 40

/-- A core's remote requests that no reply has answered (R344). -/
def remoteOut (s : State) (core : Nat) : Nat := (s.remotes.filter fun r => r.env.core = core).length

/-- An RMT instruction (R348, R349), watched on LOCAL at this device; `tval` of WATCH is LOCAL alone (R413; DESIGN CHOICE,
log 105). -/
def remote (i : Instr) (member : Fin 4) (d a b : Reg) (sz : Size) (s : State) : Out :=
  issue (engineAttr 1) i s fun s =>
    let v := getG s a
    if v.toNat / 2 ^ 50 != 0 || s.ndev ≤ podDev v then trap s 0x0B v
    else if podLocal v % sizeBytes sz != 0 then trap s 0x03 v
    else
      match if (offered s).isSome then none
            else watchHit s (podLocal v) (sizeBytes sz) (member != 1) (member != 0) with
      | some w => debugStop s 0x0E (BitVec.ofNat 64 (podLocal v)) w.val false true
      | none =>
        offer s 3 true d (64 ≤ remoteOut s s.cpu.id) [] fun h t =>
          retire { t with remotes := t.remotes ++
            [{ token := h, member := member, sz := sz, addr := v, data := getG s b, env := envOf s i }] }

/-- RLD (R349). -/
def execRld (d a : Reg) (sz : Size) (s : State) : Out := remote (.rld d a sz) 0 d a 0 sz s

/-- RST (R349). -/
def execRst (d a b : Reg) (sz : Size) (s : State) : Out := remote (.rst d a b sz) 1 d a b sz s

/-- RADD (R349). -/
def execRadd (d a b : Reg) (sz : Size) (s : State) : Out := remote (.radd d a b sz) 2 d a b sz s

/-- RSWP (R349). -/
def execRswp (d a b : Reg) (sz : Size) (s : State) : Out := remote (.rswp d a b sz) 3 d a b sz s

/-- The value that a remote read-modify-write stores (R349). -/
def remoteNew (member : Fin 4) (n old data : Nat) : Nat :=
  if member = 2 then (if n = 8 then Nat.min (old + data) (2 ^ 64 - 1) else (old + data) % 2 ^ 32) else data % 2 ^ (8 * n)

/-- What became of a remote access: its result, its failure code's low byte, or nothing yet (R349, R352, R425). -/
inductive RemoteEnd
  | done (v : Word)
  | failed (code : Nat)
  | waits
  deriving DecidableEq, Repr

/-- A remote access performed at this device, once. It is translated through the TLB of cluster 0: R345 names no TLB of the
target (DESIGN CHOICE, log 99) (R345, R349, R350, R352). -/
def performRemote (s : State) (requester : Nat) (tenant : Fin 16) (priv : Nat) (member : Fin 4) (sz : Size) (va : Nat)
    (data : Word) : RemoteEnd × State :=
  let n := sizeBytes sz
  let k : Kind := if member = 0 then .read else if member = 1 then .write else .rmw
  match resolve s none 0 tenant priv false k va with
  | (.xlate, s) => (.failed 0x04, s)
  | (.prot, s) => (.failed 0x05, s)
  | (.ok p, s) =>
    let pa := placePa p
    if poisoned s pa n then (.failed 0x24, s)
    else if 2 ≤ member.val && !replayOk s pa requester then (.waits, s)
    else
      let (bs, s) := homeRead s p n
      let old := ofBytes bs
      if member = 0 then (.done (sizeExtend sz old), s)
      else if member = 1 then (.done 0, homeWrite s p (toBytes n data.toNat))
      else
        let s := atomicWrite s p (toBytes n (remoteNew member n old data.toNat))
        (.done (sextWord (8 * n) old), replayed (sootLog s pa requester) pa)

/-- The access code of a request's record (R352). -/
def remoteCode (member : Fin 4) : Nat := if member = 0 then 0 else if member = 1 then 1 else 2

/-- A request answered: its token resolves, or fails with a record to the issuing cluster (R349, R352). -/
def answerRemote (s : State) (r : Remote) (e : RemoteEnd) : State :=
  let s' := { s with remotes := s.remotes.filter fun q => q.token != r.token }
  match e with
  | .waits => s
  | .done v => settle s' r.token false v
  | .failed code =>
    post (settle s' r.token true (failCode code)) (clusterOf r.env.core)
      { handle := r.token, addr := r.addr, cause := 0x0B, access := remoteCode r.member, elem := code,
        word := r.env.word, pc := r.env.pc, owner := .other }

/-- A task of another device observes a future of this one, once it has settled: the core on which its task ended writes
back, as for an observer on another core, and the answer is the result, then 1 resolved or 2 failed; `take` drops the one
reference that the observer held. Before that the answer is zeros, and the waiter stays registered there (R230, R245,
R271, R346). -/
def peerObserves (s : State) (h : Word) (take : Bool) : State :=
  if hDev h != s.devid || !handleNames s h || !settled s h then { s with answer := toBytes 8 0 ++ [0] }
  else
    let f := entryAt s h
    let s := if f.edge then (match f.loc with
      | some n => writeBack s n
      | none => s) else s
    let s := { s with answer := toBytes 8 f.result.toNat ++ [if f.st = .failed then 2 else 1] }
    if take then dropRefs s [h] else s

/-- REMOTE_ACCESS: one of this device's own requests to itself, or a request of another device, is performed at this
device's home, or a waiter there observes a future of this one (R346, R349 to R352). A peer's reply is left as the answer: 8 bytes of result, then 0, or the failure code's
low byte. -/
def execRemoteAccess (req : RemoteReq) (s : State) : Out :=
  match req with
  | .own token =>
    match s.remotes.find? fun r => r.token = token && podDev r.addr = s.devid with
    | none => .next s
    | some r =>
      let (e, s) := performRemote s (1024 + s.devid) r.env.tenant r.env.priv r.member r.sz (podLocal r.addr) r.data
      .next (answerRemote s r e)
  | .peer device tenant sys member sz local40 data =>
    match performRemote s (1024 + device.val) tenant sys.toNat member sz local40.toNat data with
    | (.done v, s) => .next { s with answer := toBytes 8 v.toNat ++ [0] }
    | (.failed code, s) => .next { s with answer := toBytes 8 0 ++ [BitVec.ofNat 8 code] }
    | (.waits, s) => .next s
  | .observe _ token take => .next (peerObserves s token take)

/-- Another device tells what has become of a future of its own (R346): the entry that this device knows of it settles,
or a future that it did not know of becomes known (log 20). -/
def peerSettled (s : State) (h : Word) (failed : Bool) (value : Word) : State :=
  if hDev h = s.devid || s.ndev ≤ hDev h then s
  else if (entryAt s h).st = .free || (entryAt s h).st = .block then
    setEntry s h { Fut.reset with st := if failed then .failed else .resolved, kind := hKind h, gen := hGen h,
                                  count := 1, result := value }
  else settle s h failed value

/-- REMOTE_REPLY: the reply of another device to a request sent to it, or its news of a future of its own that a task here
names (R346, R349, R352). -/
def execRemoteReply (token : Word) (failed : Bool) (value : Word) (s : State) : Out :=
  match s.remotes.find? fun r => r.token = token && podDev r.addr != s.devid with
  | none => .next (peerSettled s token failed value)
  | some r => .next (answerRemote s r (if failed then .failed (value.toNat % 256) else .done value))

/-- TARGET_UNREACHABLE: the request fails; its access was performed once or not at all (R352). -/
def execTargetUnreachable (token : Word) (performed : Bool) (s : State) : Out :=
  match s.remotes.find? fun r => r.token = token with
  | none => .next s
  | some r =>
    let s := if performed && podDev r.addr = s.devid then
        (performRemote s (1024 + s.devid) r.env.tenant r.env.priv r.member r.sz (podLocal r.addr) r.data).2
      else s
    .next (answerRemote s r (.failed 0x0B))

/-- RMT_ACCEPT: with fewer than 64 requests outstanding, the waiting RMT instruction is offered again (R348). -/
def execRmtAccept (s : State) : Out :=
  .next (if remoteOut s s.cpu.id < 64 then offeredAgain s else s)

end Sys2Proof.Machine
end

