-- ==== Sys2Proof/Machine/Kiln.lean ====
section
/-!
DEFINITION. The Kiln: its arithmetic, its banks and bank order, and the jobs performed there (R291 to R324).
-/

namespace Sys2Proof.Machine

/-- The arithmetic classes of R292. -/
inductive TileClass | mx | int | bf16
  deriving DecidableEq, Repr

/-- The class, element type and magnitude width of a tile format (R292). -/
def fmtClass (f : Nat) : TileClass := if f = 4 then .int else if f = 5 then .bf16 else .mx
def fmtElem (f : Nat) : Ty :=
  match f with
  | 0 => .e2m1 | 1 => .e4m3 | 2 => .e5m2 | 5 => .bf16 | _ => .i8
def elemWidth (t : Ty) : Nat := if t = .e2m1 then 4 else if t = .bf16 then 16 else 8

/-- Whether a tag may stand for an A operand, and with which class (R293). -/
def rowTag (t : Ty) : Bool :=
  match t with
  | .e2m1 | .e4m3 | .e5m2 | .i8 | .bf16 => true
  | _ => false
def tagFits (t : Ty) (c : TileClass) : Bool :=
  match t, c with
  | .e2m1, .mx | .e4m3, .mx | .e5m2, .mx | .i8, .mx | .i8, .int | .bf16, .bf16 => true
  | _, _ => false

/-- V(x) of an element in the MX and BF16 classes: I8 is MXINT8, an integer × 2^-6 (R139, R315). -/
def elemVal (t : Ty) (v : Nat) : FpVal :=
  if t = .i8 then
    let x := sgn 8 v
    .fin (x < 0) x.natAbs 64
  else tyVal t v

/-- Whether a value is a NaN or an infinity. -/
def notFinite : FpVal → Bool
  | .fin _ _ _ => false
  | _ => true

/-- floor(log2 |v|) of a nonzero finite value. -/
def valLog : FpVal → Option Int
  | .fin _ num den => if num = 0 then none else some (ilog2 num den)
  | _ => none

/-- Align of R315: the kept integers and the weight of their lowest bit. -/
def align (xs : List FpVal) (width : Nat) : List Int × Int :=
  match (xs.filterMap valLog).max? with
  | none => (xs.map fun _ => 0, 0)
  | some e =>
    let u : Int := e - (width - 1 : Nat)
    (xs.map fun x =>
      match x with
      | .fin neg num den =>
        let m := if 0 ≤ u then num / (den * 2 ^ u.toNat) else num * 2 ^ (-u).toNat / den
        if neg then -(m : Int) else m
      | _ => 0, u)

/-- The sum of products of two lists. -/
def dot : List Int → List Int → Int
  | a :: as, b :: bs => a * b + dot as bs
  | _, _ => 0

/-- S × 2^t as a value. -/
def scaled (x t : Int) : FpVal :=
  if 0 ≤ t then .fin (x < 0) (x.natAbs * 2 ^ t.toNat) 1 else .fin (x < 0) x.natAbs (2 ^ (-t).toNat)

/-- BlockValue of R315, as FP32 bits. -/
def blockValue (ta tb : Ty) (a b : List Nat) (xa xb : Nat) : Nat :=
  let va := a.map (elemVal ta)
  let vb := b.map (elemVal tb)
  if va.any notFinite || vb.any notFinite || xa = 255 || xb = 255 then defaultNaN fmt32
  else
    let (as, ua) := align va (elemWidth ta)
    let (bs, ub) := align vb (elemWidth tb)
    let x := dot as bs
    if x = 0 then 0
    else (roundTo fmt32 .rne false (scaled x (ua + ub + ((xa : Int) - 127) + ((xb : Int) - 127)))).1

/-- Accumulate of R315, on FP32 bits. -/
def accumulate (acc v : Nat) : Nat := (roundTo fmt32 .rne false (fpAdd .rne (fpVal fmt32 acc) (fpVal fmt32 v)).1).1

/-- The addition of a block in the integer class (R316). -/
def accumulateInt (acc : Nat) (a b : List Nat) : Nat :=
  trunc 32 (clamp (-(2 ^ 31 : Nat)) ((2 ^ 31 : Nat) - 1) (sgn 32 acc + dot (a.map (sgn 8)) (b.map (sgn 8))))

/-- A number from its bits, lowest first. -/
def ofBits (l : List Bool) : Nat := packSlots 1 (l.map Bool.toNat)

/-- Tile element (k, n) and scale (kb, n) of a bank (R291). -/
def tileAt (b : Bank) (k n : Nat) : Nat := slot b.tile (256 * k + n) 16
def scaleAt (b : Bank) (kb n : Nat) : Nat := slot b.scales (256 * kb + n) 8

/-- One accumulator word after the blocks of a row, in ascending K (R311, R315, R316). -/
def rowWord (b : Bank) (ty : Ty) (a : BitVec 4096) (xa : BitVec 64) (kbs : List Nat) (col acc : Nat) : Nat :=
  kbs.foldl (fun acc kb =>
    let ks := (List.range 32).map (32 * kb + ·)
    let av := ks.map fun k => slot a k 16
    let bv := ks.map fun k => tileAt b k col
    match fmtClass b.fmt with
    | .int => accumulateInt acc av bv
    | .mx => accumulate acc (blockValue ty (fmtElem b.fmt) av bv (slot xa kb 8) (scaleAt b kb col))
    | .bf16 => accumulate acc (blockValue ty (fmtElem b.fmt) av bv 127 127)) acc

/-- The accumulator with a row replaced word by word (R291). -/
def setRow (acc : BitVec 524288) (r : Nat) (f : Nat → Nat) : BitVec 524288 :=
  let old := slot acc r 8192
  let new := packSlots 32 ((List.range 256).map f)
  BitVec.ofNat 524288 (acc.toNat - old * 2 ^ (8192 * r) + new * 2 ^ (8192 * r))

/-- The poison marks of the words of a row set where a condition holds, besides those that `keep` retains (R322). -/
def markRow (p : BitVec 16384) (r : Nat) (keep : Bool) (f : Nat → Bool) : BitVec 16384 :=
  putSlot p r 256 (ofBits ((List.range 256).map fun col => f col || (keep && p.getLsbD (256 * r + col))))

/-- Whether the word of a column is computed from a poisoned tile element or scale of the K blocks (R322). -/
def badColumn (b : Bank) (kbs : List Nat) (col : Nat) : Bool :=
  kbs.any fun kb => (fmtClass b.fmt = .mx && b.poisonScales.getLsbD (256 * kb + col)) ||
    (List.range 32).any fun k => b.poisonTile.getLsbD (256 * (32 * kb + k) + col)

/-- The clearing of accumulator rows (R304). -/
def zeroRows (b : Bank) (r0 n : Nat) : Bank :=
  (span r0 (r0 + n)).foldl (fun b r =>
    { b with acc := setRow b.acc r fun _ => 0, poisonAcc := markRow b.poisonAcc r false fun _ => false }) b

/-- A row job performed at its place in bank order (R310, R311, R322). -/
def doRow (b : Bank) (clear : Bool) (r k0 n : Nat) (ty : Ty) (a : BitVec 4096) (xa : BitVec 64) (issuer : Word) : Bank :=
  if !b.usable then { b with drop := true, failed := if b.failed.contains issuer then b.failed else b.failed ++ [issuer] }
  else
    let b := if clear then zeroRows b r 1 else b
    if n = 0 then b
    else
      let kbs := span (k0 / 32) (cdiv (k0 + n) 32)
      { b with acc := setRow b.acc r fun col => rowWord b ty a xa kbs col (slot b.acc (256 * r + col) 32),
               poisonAcc := if b.poisonTile = 0 && b.poisonScales = 0 then b.poisonAcc
                            else markRow b.poisonAcc r true (badColumn b kbs) }

/-- A bank of a cluster, and the state with it changed. -/
def bankAt (s : State) (cl : Nat) (n : Fin 8) : Bank := (clusterAt s cl).banks.get n
def modBank (s : State) (cl : Nat) (n : Fin 8) (f : Bank → Bank) : State :=
  modCluster s cl fun c => { c with banks := c.banks.set n (f (c.banks.get n)) }

/-- Syncs at the head of the bank order resolve or fail, and a release there frees the bank for clearing (R303, R310,
R320). -/
def popJobs : Nat → State → Nat → Fin 8 → State
  | 0, s, _, _ => s
  | fuel + 1, s, cl, n =>
    match (bankAt s cl n).jobs with
    | .sync token issuer :: rest =>
      let bad := (bankAt s cl n).failed.contains issuer
      let s := modBank s cl n fun b => { b with jobs := rest, failed := b.failed.filter (· != issuer) }
      popJobs fuel (settle s token bad (if bad then failCode 0x0A else 0)) cl n
    | .rel :: rest =>
      popJobs fuel (modBank s cl n fun b =>
        { b with jobs := rest, owner := none, rows := 0, latest := none, usable := false, drop := false,
                 clearing := true }) cl n
    | _ => s

/-- The job at the head of a bank's order taken off, the bank changed, and what then stands at the head settled. -/
def finishJob (s : State) (cl : Nat) (n : Fin 8) (f : Bank → Bank) : State :=
  let s := modBank s cl n fun b => f { b with jobs := b.jobs.tail }
  popJobs ((bankAt s cl n).jobs.length + 1) s cl n

/-- ROW_JOB (R311, R313). -/
def execRowJob (cl : Fin 96) (bank : Fin 8) (s : State) : Out :=
  match (bankAt s cl.val bank).jobs with
  | .row clear r k0 n ty a xa issuer :: _ =>
    .next (finishJob s cl.val bank fun b => doRow b clear r k0 n ty a xa issuer)
  | _ => .next s

/-- ACCUMULATOR_ZERO_JOB (R304). -/
def execAccumulatorZeroJob (cl : Fin 96) (bank : Fin 8) (s : State) : Out :=
  match (bankAt s cl.val bank).jobs with
  | .zero r0 n _ :: _ => .next (finishJob s cl.val bank fun b => zeroRows b r0 n)
  | _ => .next s

/-- BANK_CLEAR: a freed bank is cleared, and may be bound again (R296). -/
def execBankClear (cl : Fin 96) (bank : Fin 8) (s : State) : Out :=
  .next (if (bankAt s cl.val bank).clearing then
      modBank s cl.val bank fun b =>
        { b with tile := 0, scales := 0, acc := 0, fmt := 0, poisonTile := 0, poisonScales := 0, poisonAcc := 0,
                 clearing := false }
    else s)

/-- An engine's address on behalf of a task (R331). -/
def resolveFor (s : State) (e : Env) (k : Kind) (va : Nat) : Resolved × State :=
  resolve s none e.core e.tenant e.priv e.pin k va

/-- One byte read by an engine at its home, with 0xFF if its line is poisoned and else 0, or the failing check's code. The
control range holds no source of a job (R308, R331). -/
def engineByte (s : State) (e : Env) (va : Nat) : (Nat ⊕ (Byte × Byte)) × State :=
  match resolveFor s e .read va with
  | (.xlate, s) | (.ok (.ctl _), s) => (.inl 0x04, s)
  | (.prot, s) => (.inl 0x05, s)
  | (.ok p, s) =>
    let mark := if poisoned s (placePa p) 1 then 0xFF else 0
    let (bs, s) := homeRead s p 1
    (.inr (bs.headD 0, mark), s)

/-- Bytes at listed addresses read by an engine with their poison marks, or the code of the first that fails. The tile's
rows come first in their order, then the scales: R309 does not say which of several codes a load fails with (DESIGN CHOICE,
log 88). -/
def engineBytes (s : State) (e : Env) : List Nat → (Nat ⊕ (List Byte × List Byte)) × State
  | [] => (.inr ([], []), s)
  | va :: vas =>
    match engineByte s e va with
    | (.inl c, s) => (.inl c, s)
    | (.inr (b, p), s) =>
      match engineBytes s e vas with
      | (.inl c, s) => (.inl c, s)
      | (.inr (bs, ps), s) => (.inr (b :: bs, p :: ps), s)

/-- Whether a byte that an engine read is poisoned. -/
def marksAny (ms : List Byte) : Bool := ms.any (· != 0)

/-- Bytes that the elements of a K row take in memory (R307). -/
def rowBytes (fmt nc : Nat) : Nat := cdiv (nc * tyBits (fmtElem fmt)) 8

/-- The addresses of a tile's bytes, row by row, then of its scales (R307). -/
def tileAddrs (taddr stride saddr sstride fmt kb nc : Nat) : List Nat :=
  (((List.range (32 * kb)).map fun k => (List.range (rowBytes fmt nc)).map fun j => taddr + k * stride + j).flatten) ++
  (if fmt < 4 then ((List.range kb).map fun b => (List.range nc).map fun n => saddr + b * sstride + n).flatten else [])

/-- Tile element (k, n) from the bytes read, zero outside the loaded part (R307). -/
def tileElem (bs : List Byte) (fmt kb nc k n : Nat) : Nat :=
  if 32 * kb ≤ k || nc ≤ n then 0
  else
    let row := k * rowBytes fmt nc
    match fmt with
    | 0 => bits (at_ bs (row + n / 2) 1) (4 * (n % 2)) 4
    | 5 => at_ bs (row + 2 * n) 2
    | _ => at_ bs (row + n) 1

/-- Scale (b, n) from the bytes read, 0x7F outside the loaded part and for formats 4 and 5 (R307). -/
def tileScale (bs : List Byte) (fmt kb nc b n : Nat) : Nat :=
  if 4 ≤ fmt || kb ≤ b || nc ≤ n then 127 else at_ bs (32 * kb * rowBytes fmt nc + b * nc + n) 1

/-- TILE_LOAD: the load at the head of the bank order is performed whole (R308 to R310, R322); what it reads from a poisoned
line is poisoned in the bank (log 41). -/
def execTileLoad (cl : Fin 96) (bank : Fin 8) (s : State) : Out :=
  match (bankAt s cl.val bank).jobs with
  | .load taddr stride saddr sstride fmt kb nc token env :: _ =>
    match engineBytes s env (tileAddrs taddr stride saddr sstride fmt kb nc) with
    | (.inl code, s) =>
      let s := settle s token true (failCode code)
      .next (finishJob s cl.val bank fun b =>
        { b with usable := false, fmt := fmt,
                 failed := if b.failed.contains env.handle then b.failed else b.failed ++ [env.handle] })
    | (.inr (bs, marks), s) =>
      let s := settle s token false 0
      .next (finishJob s cl.val bank fun b =>
        { b with
          usable := true, fmt := fmt, drop := false
          poisonTile := if marksAny marks then BitVec.ofNat 65536 (ofBits ((List.range 65536).map fun j =>
            tileElem marks fmt kb nc (j / 256) (j % 256) != 0)) else 0
          poisonScales := if marksAny marks then BitVec.ofNat 2048 (ofBits ((List.range 2048).map fun j =>
            tileScale marks fmt kb nc (j / 256) (j % 256) = 255)) else 0
          tile := BitVec.ofNat 1048576 (packSlots 16 ((List.range 65536).map fun j =>
            tileElem bs fmt kb nc (j / 256) (j % 256)))
          scales := BitVec.ofNat 16384 (packSlots 8 ((List.range 2048).map fun j =>
            tileScale bs fmt kb nc (j / 256) (j % 256))) })
  | _ => .next s

end Sys2Proof.Machine
end

