-- ==== Sys2Proof/Machine/Matrix.lean ====
section
/-!
DEFINITION. The MTX class: its checks, acceptance, and MXRD (R298 to R324).
-/

namespace Sys2Proof.Machine

/-- The attributes of an MTX member (R301). -/
def mtxAttr : Attr := { lend := .refuse, scalar := false, feat := some 0 }

/-- An MTX member on its way through the VIQ, with its g operands captured (R300). -/
def mtx (i : Instr) (grant : Bool) (a b : Reg) (s : State) (body : State → State) : Out :=
  issueV mtxAttr grant grant i [a, b] s body

/-- The lowest code among the conditions that hold (R301). -/
def firstCode : List (Bool × Nat) → Option Nat
  | [] => none
  | (c, n) :: rest => if c then some n else firstCode rest

/-- ENGINE with the lowest code, or go on (R301). -/
def engineCheck (s : State) (cs : List (Bool × Nat)) (k : State → State) : State :=
  match firstCode cs with
  | some n => trap s 0x0A (BitVec.ofNat 64 n)
  | none => k s

/-- The bank that an operand names; bits above it must be zero (R299). -/
def bankOf (v : Word) : Fin 8 := Fin.ofNat 8 v.toNat
def badBank (v : Word) : Bool := v.toNat / 8 != 0

/-- The row range of MXBIND and MXZERO (R299). -/
def rangeRow (v : Word) : Nat := bits v.toNat 0 6
def rangeCount (v : Word) : Nat := bits v.toNat 8 7
def badRange (v : Word) : Bool :=
  bits v.toNat 6 2 != 0 || v.toNat / 2 ^ 15 != 0 || rangeCount v = 0 || 64 < rangeRow v + rangeCount v

/-- The row and column or K fields of MXROW and MXRD (R299). -/
def rowField (v : Word) : Nat := bits v.toNat 0 6
def colField (v : Word) : Nat := bits v.toNat 8 8
def badRowWord (v : Word) : Bool := bits v.toNat 6 2 != 0 || v.toNat / 2 ^ 16 != 0

/-- A job that frees the bank. -/
def isRel : Job → Bool
  | .rel => true
  | _ => false

/-- The bank is bound to a tenant, and no accepted MXREL ends that (R295, R303). -/
def boundTo (b : Bank) (t : Fin 16) : Bool := b.owner = some t && !b.jobs.any isRel

/-- The rows of a range as a set (R302). -/
def rowSet (r0 n : Nat) : BitVec 64 := BitVec.ofNat 64 ((2 ^ n - 1) * 2 ^ r0)

/-- The number of row buffers in use (R291). -/
def rowBuffers (b : Bank) : Nat := (b.jobs.filter fun j => match j with
  | .row _ _ _ _ _ _ _ _ => true
  | _ => false).length

/-- Whether a job writes an accumulator row (R314). -/
def writesRow (r : Nat) : Job → Bool
  | .row _ r' _ _ _ _ _ _ => r' = r
  | .zero r0 n _ => r0 ≤ r && r < r0 + n
  | .rel => true
  | _ => false

/-- The running core's cluster. -/
def here (s : State) : Nat := clusterOf s.cpu.id

/-- A job at the end of a bank's order (R313). -/
def accept (s : State) (n : Fin 8) (j : Job) : State :=
  let s := modBank s (here s) n fun b => { b with jobs := b.jobs ++ [j] }
  popJobs ((bankAt s (here s) n).jobs.length + 1) s (here s) n

/-- The banks of the cluster that a tenant has bound. -/
def bankCount (s : State) (t : Fin 16) : Nat :=
  ((List.finRange 8).filter fun n => (bankAt s (here s) n).owner = some t).length

/-- MXBIND (R302); it waits while the bank is being released and cleared (R296), and powers the Kiln island (R400). -/
def execMxbind (d a b : Reg) (s : State) : Out :=
  mtx (.mxbind d a b) false a b s fun s =>
    let va := capture s false a
    let vb := capture s true b
    engineCheck s [(badBank va || badRange vb, 1)] fun s =>
      let n := bankOf va
      let bk := bankAt s (here s) n
      let t := s.cpu.live.tenant
      if bk.clearing || bk.jobs.any isRel then delay s (.mxbind d a b) [va, vb]
      else if bk.owner.isSome && bk.owner != some t then retire (setG s d 1)
      else if bk.owner.isNone && (s.tenants.get t).bankmax ≤ bankCount s t then retire (setG s d 2)
      else
        let s := modBank s (here s) n fun b =>
          { b with owner := some t, rows := b.rows ||| rowSet (rangeRow vb) (rangeCount vb) }
        retire (setG (modCluster s (here s) fun c => { c with kilnOff := false }) d 0)

/-- The descriptor of MXLOAD is refused (R306). -/
def badTile (ws : List Word) : Bool :=
  let taddr := (ws.getD 0 0).toNat
  let stride := (ws.getD 1 0).toNat
  let last := (ws.getD 3 0).toNat
  let fmt := bits last 32 8
  let kb := bits last 40 8
  let nc := bits last 48 16
  6 ≤ fmt || kb = 0 || 8 < kb || nc = 0 || 256 < nc || (fmt = 5 && taddr % 2 != 0) ||
    (fmt = 5 && stride % 2 != 0) || stride < rowBytes fmt nc

/-- MXLOAD (R301, R306, R308). -/
def execMxload (d a b : Reg) (s : State) : Out :=
  mtx (.mxload d a b) false a b s fun s =>
    let i : Instr := .mxload d a b
    let va := capture s false a
    let vb := capture s true b
    if vb.toNat % 32 != 0 then trap s 0x03 vb
    else
      (loadWords s i vb.toNat 4).done fun ws s =>
        tokenChecks s fun s =>
          let n := bankOf va
          engineCheck s [(badBank va || badTile ws, 1), (!boundTo (bankAt s (here s) n) s.cpu.live.tenant, 2)] fun s =>
            offer s 2 true d false ws fun h s =>
              let last := (ws.getD 3 0).toNat
              let fmt := bits last 32 8
              let s := modBank s (here s) n fun b => { b with latest := some fmt }
              retire (accept s n (.load (ws.getD 0 0).toNat (ws.getD 1 0).toNat (ws.getD 2 0).toNat (bits last 0 32) fmt
                (bits last 40 8) (bits last 48 16) h (envOf s i)))

/-- The ENGINE conditions of a row (R301). -/
def rowCodes (s : State) (bk : Bank) (va vb : Word) (c : Reg) (t : Ty) : List (Bool × Nat) :=
  let cls := (bk.latest.map fmtClass).getD .mx
  let next := s.cpu.live.vec.regs.get (Fin.ofNat 32 (c.val + 1))
  [(badBank va || badRowWord vb, 1),
   (!boundTo bk s.cpu.live.tenant, 2),
   (!bk.rows.getLsbD (rowField vb), 3),
   (colField vb % 32 != 0, 4),
   (bk.latest.isNone, 5),
   (!tagFits t cls, 6),
   (cls = .mx && (c.val = 31 || next.tag != some .e8m0), 7)]

/-- The row job that a register makes (R311). -/
def rowJob (s : State) (clear : Bool) (vb : Word) (c : Reg) (t : Ty) : Job :=
  let v := s.cpu.live.vec
  let k0 := colField vb
  let n := min v.vl (256 - k0)
  let src := (v.regs.get c).img
  let sc := (v.regs.get (Fin.ofNat 32 (c.val + 1))).img
  .row clear (rowField vb) k0 n t
    (BitVec.ofNat 4096 (packSlots 16 ((List.range 256).map fun k =>
      if k0 ≤ k && k < k0 + n then slot src (k - k0) (tyBits t) else 0)))
    (BitVec.ofNat 64 (packSlots 8 ((List.range 8).map fun q =>
      if k0 / 32 ≤ q && q < k0 / 32 + cdiv n 32 then slot sc (q - k0 / 32) 8 else 127)))
    s.cpu.live.tself

/-- MXROW and MXROWZ (R311, R312). -/
def rowInstr (i : Instr) (clear : Bool) (a b c : Reg) (s : State) : Out :=
  mtx i true a b s fun s =>
    let va := capture s false a
    let vb := capture s true b
    let v := s.cpu.live.vec
    match (v.regs.get c).tag with
    | none => trap s 0x07 0
    | some t =>
      if !rowTag t then trap s 0x07 0
      else if grantBits s < v.vl * tyBits t then trap s 0x12 0
      else
        let bk := bankAt s (here s) (bankOf va)
        engineCheck s (rowCodes s bk va vb c t) fun s =>
          if 4 ≤ rowBuffers bk then delay s i [va, vb]
          else retire (accept s (bankOf va) (rowJob s clear vb c t))

/-- MXROW (R311). -/
def execMxrow (a b c : Reg) (s : State) : Out := rowInstr (.mxrow a b c) false a b c s

/-- MXROWZ (R311). -/
def execMxrowz (a b c : Reg) (s : State) : Out := rowInstr (.mxrowz a b c) true a b c s

/-- A task's jobs on a bank that no MXSYNC covers yet, and whether one of its syncs is still pending (R320). -/
def uncovered (h : Word) : List Job → Bool × Bool
  | [] => (false, false)
  | j :: rest =>
    let r := uncovered h rest
    match j with
    | .sync _ q => if q = h then (r.1, true) else r
    | .load _ _ _ _ _ _ _ _ e => if r.2 then r else (r.1 || e.handle = h, r.2)
    | .row _ _ _ _ _ _ _ q => if r.2 then r else (r.1 || q = h, r.2)
    | .zero _ _ q => if r.2 then r else (r.1 || q = h, r.2)
    | .rel => r

/-- MXSYNC (R320): with nothing to cover it resolves at once, or fails for a drop that is still uncovered. It does so also
while jobs of an earlier MXSYNC are queued, where R320 promises too that every earlier job of the task is complete
(DESIGN CHOICE, log 96). -/
def execMxsync (d a : Reg) (s : State) : Out :=
  mtx (.mxsync d a) false a a s fun s =>
    let va := capture s false a
    tokenChecks s fun s =>
      let n := bankOf va
      engineCheck s [(badBank va, 1), (!boundTo (bankAt s (here s) n) s.cpu.live.tenant, 2)] fun s =>
        offer s 2 false d false [] fun h s =>
          let me := s.cpu.live.tself
          let bk := bankAt s (here s) n
          let u := uncovered me bk.jobs
          if u.1 then retire (accept s n (.sync h me))
          else
            let bad := !u.2 && bk.failed.contains me
            let s := if bad then modBank s (here s) n fun b => { b with failed := b.failed.filter (· != me) } else s
            retire (settle s h bad (if bad then failCode 0x0A else 0))

/-- The value that MXRD leaves in its destination (R321, R112). -/
def drainReg (s : State) (bk : Bank) (r col0 : Nat) : VReg :=
  let vl := s.cpu.live.vec.vl
  { tag := some (if (bk.latest.map fmtClass) = some .int then .i32 else .fp32)
    img := BitVec.ofNat 16384 (packSlots 32 ((List.range vl).map fun i =>
      if col0 + i < 256 then slot bk.acc (256 * r + col0 + i) 32 else 0)) }

/-- MXRD (R321, R322): it waits at the head of the VIQ for the row's earlier writers. With vl = 0 neither v[d] nor its tag
changes, as R114 has it, though R321 sets the tag without a condition (DESIGN CHOICE, log 97). -/
def execMxrd (d a b : Reg) (s : State) : Out :=
  mtx (.mxrd d a b) true a b s fun s =>
    let va := capture s false a
    let vb := capture s true b
    let v := s.cpu.live.vec
    if grantBits s < v.vl * 32 then trap s 0x12 0
    else
      let bk := bankAt s (here s) (bankOf va)
      let r := rowField vb
      engineCheck s [(badBank va || badRowWord vb, 1), (!boundTo bk s.cpu.live.tenant, 2), (!bk.rows.getLsbD r, 3)]
        fun s =>
          if bk.jobs.any (writesRow r) then delay s (.mxrd d a b) [va, vb]
          else if (List.range (min v.vl (256 - colField vb))).any fun i =>
              bk.poisonAcc.getLsbD (256 * r + colField vb + i) then poisonTask s
          else if v.vl = 0 then retire (modLive s fun c => { c with vec := { c.vec with vbeg := 0 } })
          else
            retire (modLive s fun c =>
              { c with vec := { c.vec with vbeg := 0, regs := c.vec.regs.set d (drainReg s bk r (colField vb)) } })

/-- MXZERO (R304). -/
def execMxzero (d a b : Reg) (s : State) : Out :=
  mtx (.mxzero d a b) false a b s fun s =>
    let va := capture s false a
    let vb := capture s true b
    let n := bankOf va
    let bk := bankAt s (here s) n
    let set := rowSet (rangeRow vb) (rangeCount vb)
    engineCheck s [(badBank va || badRange vb, 1), (!boundTo bk s.cpu.live.tenant, 2), (bk.rows &&& set != set, 3)]
      fun s =>
        retire (accept (setG s d (BitVec.ofNat 64 (rangeCount vb))) n
          (.zero (rangeRow vb) (rangeCount vb) s.cpu.live.tself))

/-- MXREL (R303): no effect on a bank that is free or bound to another tenant. -/
def execMxrel (a : Reg) (s : State) : Out :=
  mtx (.mxrel a) false a a s fun s =>
    let va := capture s false a
    engineCheck s [(badBank va, 1)] fun s =>
      if boundTo (bankAt s (here s) (bankOf va)) s.cpu.live.tenant then retire (accept s (bankOf va) .rel)
      else retire s

/-- A job that loads a tile. -/
def isLoad : Job → Bool
  | .load _ _ _ _ _ _ _ _ _ => true
  | _ => false

/-- The snapshot of MXQRY. Between the acceptance of an MXREL and its performance the bank keeps its owner, so that BUSY
reads 1 for other tenants, of which R303 and R305 do not speak (R305; DESIGN CHOICE, log 110). -/
def bankStatus (b : Bank) (t : Fin 16) : Nat :=
  if boundTo b t then
    1 + b.latest.isSome.toNat * 2 + (b.jobs.any isLoad).toNat * 4 + b.drop.toNat * 8 + b.latest.getD 7 * 16 +
      rowBuffers b * 256 + popN 64 b.rows.toNat * 2 ^ 16
  else (b.owner.isSome && b.owner != some t).toNat * 2 ^ 24

/-- MXQRY (R305). -/
def execMxqry (d a : Reg) (s : State) : Out :=
  mtx (.mxqry d a) false a a s fun s =>
    let va := capture s false a
    engineCheck s [(badBank va, 1)] fun s =>
      retire (setG s d (BitVec.ofNat 64 (bankStatus (bankAt s (here s) (bankOf va)) s.cpu.live.tenant)))

/-- KILN_ACCEPT: the MTX instruction that waits at the head of the VIQ is offered again; its own step accepts it into its
bank's order (R300). -/
def execKilnAccept (s : State) : Out := .next (offeredAgain s)

end Sys2Proof.Machine
end

