-- ==== Sys2Proof/Machine/Copy.lean ====
section
/-!
DEFINITION. The CPY class and the Flue's jobs, chunk by chunk (R325 to R342).
-/

namespace Sys2Proof.Machine

/-- The source address of a job offset, if it has one; the byte of a fill instead (R332 to R335). -/
inductive Source
  | addr (va : Nat)
  | byte (b : Byte)
  /-- The index names an element outside the window; its source address (R335, R340). -/
  | outside (va : Nat)
  deriving DecidableEq, Repr

/-- Bytes from the first of a 2D job's first row to the last of its last row (R337). -/
def rowsSpan (rows rb stride : Nat) : Nat := rows * stride + rb - stride

/-- The ranges a job writes, reads and takes indices from (R337). -/
def copyDst : Copy → Range
  | .lin dst _ len => (dst, len)
  | .rows dst _ rows rb dstr _ => (dst, rowsSpan rows rb dstr)
  | .fill dst _ len => (dst, len)
  | .gather dst _ _ _ count esz _ => (dst, count * 2 ^ esz)
def copySrc : Copy → List Range
  | .lin _ src len => [(src, len)]
  | .rows _ src rows rb _ sstr => [(src, rowsSpan rows rb sstr)]
  | .fill _ _ _ => []
  | .gather _ src idx slim count _ iw => [(src, slim), (idx, count * 4 * 2 ^ iw)]

/-- The bytes that a job writes (R330). -/
def copyLen : Copy → Nat
  | .lin _ _ len => len
  | .rows _ _ rows rb _ _ => rows * rb
  | .fill _ _ len => len
  | .gather _ _ _ _ count esz _ => count * 2 ^ esz

/-- A range passes 2^64 (R328). -/
def passes (r : Range) : Bool := 2 ^ 64 < r.1 + r.2

/-- A range that the windows refuse: partly in the window region, past the end of its window, or in the TCM window of a
task that is not pinned. An empty range lies in no window, where R328 says nothing of one that begins there (R328 code 3;
DESIGN CHOICE, log 111). -/
def badWindow (pin : Bool) (r : Range) : Bool :=
  let lo := r.1
  let hi := r.1 + r.2
  r.2 != 0 &&
    ((lo < winBase && winBase < hi) || (lo < winEnd && winBase ≤ lo && winEnd < hi) ||
     (winBase ≤ lo && lo < winBase + 0x40000 && winBase + 0x40000 < hi) ||
     (cspWin ≤ lo && lo < cspWin + 0x400000 && cspWin + 0x400000 < hi) ||
     (!pin && winBase ≤ lo && lo < winBase + 0x40000))

/-- The fields of a job that R328 refuses with code 4 or 5. -/
def badFields : Copy → Option Nat
  | .rows _ _ rows rb dstr _ => if 1 < rows && dstr < rb then some 4 else none
  | .gather _ _ idx slim _ esz iw =>
    if 12 < esz || 1 < iw || idx % (4 * 2 ^ iw) != 0 || slim % 2 ^ esz != 0 then some 5 else none
  | _ => none

/-- The ENGINE conditions of a job, lowest code first; a job of length 0 is exempt from the overlap alone (R328, R337). -/
def copyCodes (pin : Bool) (c : Copy) (reserved : Bool) : List (Bool × Nat) :=
  let len := copyLen c
  let rs := copyDst c :: copySrc c
  [(2 ^ 40 ≤ len || reserved || rs.any passes, 1),
   (len != 0 && (copySrc c).any (overlap (copyDst c)), 2),
   (rs.any (badWindow pin), 3),
   (badFields c = some 4, 4),
   (badFields c = some 5, 5)]

/-- Free entries of the job queue of the running core's cluster (R325). -/
def flueFree (s : State) : Nat := 64 - (clusterAt s (here s)).flue.length

/-- Whether this core must wait for an entry: none is left beyond those of the cores that wait already (R329). -/
def flueFull (s : State) : Bool :=
  let q := (clusterAt s (here s)).flueWait
  flueFree s ≤ (q.takeWhile (· != s.cpu.id)).length

/-- A core joins the wait for an entry (R329). -/
def joinFlue (s : State) : State :=
  if (clusterAt s (here s)).flueWait.contains s.cpu.id then s
  else modCluster s (here s) fun c => { c with flueWait := c.flueWait ++ [s.cpu.id] }

/-- A job past its ENGINE checks: HELDOVER and FUTURE, the wait for an entry with the words of its descriptor, and
acceptance. A job of length 0 resolves at once (R328 to R330). -/
def flueOffer (s : State) (i : Instr) (d : Reg) (desc : List Word) (c : Copy) : State :=
  let passed := (offered s).isSome || (s.cpu.live.held.length < 256 && (tokenSlot s).isSome)
  let s := if passed && flueFull s then joinFlue s else s
  offer s 1 true d (flueFull s) desc fun h s =>
    let s := unwait s
    if copyLen c = 0 then retire (settle s h false 0)
    else
      retire (modCluster s (here s) fun k =>
        { k with flue := k.flue ++ [{ copy := c, len := copyLen c, token := h, chunk := 0, active := false,
                                      env := envOf s i }] })

/-- CPY1D (R332). -/
def execCpy1d (d a b c : Reg) (s : State) : Out :=
  issue (engineAttr 3) (.cpy1d d a b c) s fun s =>
    let job : Copy := .lin (getG s a).toNat (getG s b).toNat (getG s c).toNat
    engineCheck s (copyCodes s.cpu.live.pin job false) fun s => flueOffer s (.cpy1d d a b c) d [] job

/-- CPFILL (R334). -/
def execCpfill (d a b c : Reg) (s : State) : Out :=
  issue (engineAttr 3) (.cpfill d a b c) s fun s =>
    let job : Copy := .fill (getG s a).toNat (getG s b) (getG s c).toNat
    engineCheck s (copyCodes s.cpu.live.pin job false) fun s => flueOffer s (.cpfill d a b c) d [] job

/-- A member with a descriptor of n words, aligned to 32. The descriptor is copied when it is read: an instruction that
waits for an entry keeps it (R328, R329). -/
def describedJob (i : Instr) (d a : Reg) (n : Nat) (s : State) (job : List Word → Copy) (reserved : List Word → Bool) :
    Out :=
  issue (engineAttr 3) i s fun s =>
    let ea := getG s a
    match offered s with
    | some ws => flueOffer s i d ws (job ws)
    | none =>
      if ea.toNat % 32 != 0 then trap s 0x03 ea
      else
        (loadWords s i ea.toNat n).done fun ws s =>
          engineCheck s (copyCodes s.cpu.live.pin (job ws) (reserved ws)) fun s => flueOffer s i d ws (job ws)

/-- The job of a CPY2D descriptor (R333). -/
def rowsJob (ws : List Word) : Copy :=
  let x := (ws.getD 2 0).toNat
  let y := (ws.getD 3 0).toNat
  .rows (ws.getD 0 0).toNat (ws.getD 1 0).toNat (bits x 0 32) (bits x 32 32) (bits y 0 32) (bits y 32 32)

/-- CPY2D (R333). -/
def execCpy2d (d a : Reg) (s : State) : Out :=
  describedJob (.cpy2d d a) d a 4 s rowsJob fun _ => false

/-- The job of a CPGATH descriptor, and whether a reserved byte is nonzero (R335). -/
def gatherJob (ws : List Word) : Copy :=
  let x := (ws.getD 4 0).toNat
  .gather (ws.getD 0 0).toNat (ws.getD 1 0).toNat (ws.getD 2 0).toNat (ws.getD 3 0).toNat (bits x 0 32) (bits x 32 8)
    (bits x 40 8)
def gatherReserved (ws : List Word) : Bool := bits (ws.getD 4 0).toNat 48 16 != 0 || ws.getD 5 0 != 0

/-- CPGATH (R335). -/
def execCpgath (d a : Reg) (s : State) : Out :=
  describedJob (.cpgath d a) d a 6 s gatherJob gatherReserved

/-- CPQRY: legal in every context, and never waiting for an entry (R336). -/
def execCpqry (d : Reg) (s : State) : Out :=
  issue { lend := .refuse, feat := some 3, drain := true } (.cpqry d) s fun s =>
    retire (setG s d (BitVec.ofNat 64 (flueFree s)))

/-- The core that a freed entry goes to, whose instruction waits for it and can now be accepted (R329). -/
def entryFreed (s : State) : Option Nat :=
  (s.clusters.map fun p => p.2.flueWait).flatten.find? fun n =>
    let t := turnTo s n
    t.cpu.who = .task && t.cpu.halt = .running && (offered t).isSome && !flueFull t && (tokenSlot t).isSome

/-- FLUE_ACCEPT: a freed entry goes to the core that began to wait first. That core has the turn, and its instruction is
accepted before any other work (R329). -/
def execFlueAccept (s : State) : Out :=
  .next (match entryFreed s with
    | some n => turnTo s n
    | none => s)

/-- The index of element j of a gather, or the code and address of what stops its read (R335). -/
def gatherIndex (s : State) (e : Env) (idx iw j : Nat) : (Nat ⊕ (List Byte × List Byte)) × State :=
  engineBytes s e ((List.range (4 * 2 ^ iw)).map fun k => idx + j * (4 * 2 ^ iw) + k)

/-- What stops a chunk: a failed check with its code, address and access, or poison. -/
inductive Stop
  | fails (va access : Nat)
  | poison
  deriving DecidableEq, Repr

/-- The source of a job offset (R332 to R335). -/
def sourceOf (s : State) (job : FlueJob) (dst i : Nat) : (Source ⊕ Stop) × State :=
  match job.copy with
  | .lin _ src _ => (.inl (.addr (src + i)), s)
  | .rows _ src _ rb _ sstr => (.inl (.addr (src + i / rb * sstr + i % rb)), s)
  | .fill _ p _ => (.inl (.byte (BitVec.ofNat 8 (slot p (dst % 8) 8))), s)
  | .gather _ src idx slim _ esz iw =>
    let e := 2 ^ esz
    match gatherIndex s job.env idx iw (i / e) with
    | (.inl _, s) => (.inr (.fails (idx + i / e * (4 * 2 ^ iw)) 0), s)
    | (.inr (bs, marks), s) =>
      let n := ofBytes bs
      if marksAny marks then (.inr .poison, s)
      else if slim < (n + 1) * e then (.inl (.outside (src + n * e)), s)
      else (.inl (.addr (src + n * e + i % e)), s)

/-- The destination address of a job offset (R332 to R335). -/
def destOf (c : Copy) (i : Nat) : Nat :=
  match c with
  | .lin dst _ _ => dst + i
  | .rows dst _ _ rb dstr _ => dst + i / rb * dstr + i % rb
  | .fill dst _ _ => dst + i
  | .gather dst _ _ _ _ _ _ => dst + i

/-- A byte read by the Flue: only memory has any (R331). -/
def flueRead (s : State) (e : Env) (va : Nat) : (Byte ⊕ Stop) × State :=
  match resolveFor s e .read va with
  | (.ok (.ctl _), s) => (.inr (.fails va 0), s)
  | (.ok p, s) =>
    if poisoned s (placePa p) 1 then (.inr .poison, s)
    else
      let (bs, s) := homeRead s p 1
      (.inl (bs.headD 0), s)
  | (_, s) => (.inr (.fails va 0), s)

/-- The bytes that a chunk writes, a read that stops it, and the offsets that were not read (R338). -/
structure Chunk where
  bytes : List (Nat × Byte)
  stop : Option Stop := none
  unread : List Nat := []
  deriving DecidableEq, Repr

/-- The byte of a job offset (R331 to R335). -/
def readByte (s : State) (job : FlueJob) (i : Nat) : (Byte ⊕ Stop) × State :=
  match sourceOf s job (destOf job.copy i) i with
  | (.inr e, s) => (.inr e, s)
  | (.inl (.outside va), s) => (.inr (.fails va 0), s)
  | (.inl (.byte b), s) => (.inl b, s)
  | (.inl (.addr va), s) => flueRead s job.env va

/-- The reads of a chunk, in offset order, up to the first that stops it. A source byte that an earlier chunk of the job has
written is read as written, one of the two values that R337 allows for aliased bytes (R338; DESIGN CHOICE, log 89). -/
def readChunk (s : State) (job : FlueJob) : List Nat → Chunk × State
  | [] => ({ bytes := [] }, s)
  | i :: is =>
    match readByte s job i with
    | (.inr e, s) => ({ bytes := [], stop := some e, unread := i :: is }, s)
    | (.inl b, s) =>
      let (c, s) := readChunk s job is
      ({ c with bytes := (destOf job.copy i, b) :: c.bytes }, s)

/-- The places that a chunk's bytes go to; an address that fails has none (R331, R340). -/
def placeChunk (s : State) (e : Env) : List (Nat × Byte) → List (Nat × Byte × Option Place) × State
  | [] => ([], s)
  | (va, b) :: rest =>
    let (r, s) := resolveFor s e .write va
    let p := match r with
      | .ok (.ctl _) => none
      | .ok p => some p
      | _ => none
    let (l, s) := placeChunk s e rest
    ((va, b, p) :: l, s)

/-- The writes of a chunk; of one that fails, each 8-byte unit is written or not by free choice (R338, R340). -/
def writeChunk (s : State) (whole : Bool) (l : List (Nat × Byte × Option Place)) : State :=
  let t := s.tick
  l.foldl (fun s x =>
    match x.2.2 with
    | some p => if whole || Config.pick t (16 + x.1 / 8) % 2 = 1 then homeWrite s p [x.2.1] else s
    | none => s) s

/-- A job taken out of a cluster's queue. -/
def dropJob (s : State) (cl : Nat) (h : Word) : State :=
  modCluster s cl fun c => { c with flue := c.flue.filter fun j => j.token != h }

/-- A job that fails: its token, and the record to the cluster's fault-service task (R340, R341). -/
def failJob (s : State) (cl : Nat) (job : FlueJob) (e : Stop) : State :=
  let s := dropJob s cl job.token
  match e with
  | .poison => settle s job.token true (failCode 0x24)
  | .fails va access =>
    post (settle s job.token true (failCode 0x0A)) cl
      { handle := job.token, addr := BitVec.ofNat 64 va, cause := 0x0A, access := access, elem := 0,
        word := job.env.word, pc := job.env.pc, owner := .other }

/-- The bytes of the destination units that a stopped chunk has read whole. -/
def wholeUnits (job : FlueJob) (c : Chunk) : List (Nat × Byte) :=
  c.bytes.filter fun x => !c.unread.any fun j => destOf job.copy j / 8 = x.1 / 8

/-- The course of a job that a chunk's failure ends: each unit that was read is written or not (R340); poison is found
before any write (R341). -/
def stopChunk (s : State) (cl : Nat) (job : FlueJob) (c : Chunk) (e : Stop) : State :=
  match e with
  | .poison => failJob s cl job e
  | .fails _ _ =>
    let (l, s) := placeChunk s job.env (wholeUnits job c)
    failJob (writeChunk s false l) cl job e

/-- The writes of a chunk that was read whole, and the end of the job after its last (R338, R340). -/
def finishChunk (s : State) (cl : Nat) (job : FlueJob) (c : Chunk) : State :=
  let (l, s) := placeChunk s job.env c.bytes
  match l.find? fun x => x.2.2.isNone with
  | some x => failJob (writeChunk s false l) cl job (.fails x.1 1)
  | none =>
    let s := writeChunk s true l
    if job.len ≤ 4096 * (job.chunk + 1) then settle (dropJob s cl job.token) job.token false (BitVec.ofNat 64 job.len)
    else
      modCluster s cl fun c => { c with flue := c.flue.map fun j =>
        if j.token = job.token then { j with chunk := j.chunk + 1, active := true } else j }

/-- The next chunk of a job: its reads come after every write of the chunks below it, where R338 lets them run up to 4
chunks ahead (DESIGN CHOICE, log 89). -/
def doChunk (s : State) (cl : Nat) (job : FlueJob) : State :=
  let (c, s) := readChunk s job (span (4096 * job.chunk) (min (4096 * (job.chunk + 1)) job.len))
  match c.stop with
  | some e => stopChunk s cl job c e
  | none => finishChunk s cl job c

/-- FLUE_CHUNK: the next chunk of a queued job, if it is under way or one of the four places is free (R325, R338). -/
def execFlueChunk (cl : Fin 96) (job : Fin 64) (s : State) : Out :=
  let q := (clusterAt s cl.val).flue
  match q[job.val]? with
  | none => .next s
  | some j => .next (if j.active || (q.filter (·.active)).length < 4 then doChunk s cl.val j else s)

end Sys2Proof.Machine
end

