-- ==== Sys2Proof/Machine/Debug.lean ====
section
/-!
DEFINITION. PFX and the DBG class (R52 to R60, R418, R419).
-/

namespace Sys2Proof.Machine

/-- PFX: the front moves on with the prefix pending for the next word (R52, R53, R58). -/
def execPfx (pg : Reg) (ps : Bool) (pd : Reg) (pc : Bool) (pk : KReg) (s : State) : Out :=
  issue { lend := .refuse } (.pfx pg ps pd pc pk) s fun s =>
    modLive (retire s) fun c => { c with pfx := { v := true, pg := pg, ps := ps, pd := pd, pc := pc, pk := pk } }

/-- DMARK: a trace record of kind 1; a prefix lends it a predicate alone (R418). -/
def execDmark (a : Reg) (s : State) : Out :=
  issue { lend := .predicate } (.dmark a) s fun s => retire (traceRec s 1 0 s.cpu.live.tself (getG s a))

/-- The counter that DSAMPLE reads: 0 for a selector of 12 or more, and at task privilege without SAMPLE (R419). -/
def sampleOf (s : State) (sel : Word) : Word :=
  if s.cpu.priv = 0 && !s.cpu.dctl.getLsbD 4 then 0
  else if sel.toNat < 12 then s.cpu.counters.get (Fin.ofNat 12 sel.toNat)
  else 0

/-- DSAMPLE (R419). -/
def execDsample (d a : Reg) (s : State) : Out :=
  issue { lend := .copyG, drain := true } (.dsample d a) s fun s => retire (result s d (sampleOf s (getG s a)))

end Sys2Proof.Machine
end

