-- ==== Sys2Proof/Machine/Fabric.lean ====
section
/-!
DEFINITION. The FAB class: groups, collectives and barriers, and the events of a matched operation (R353 to R368).
-/

namespace Sys2Proof.Machine

/-- The attributes of a FAB member (R353). -/
def fabAttr : Attr := engineAttr 2

/-- The member that a word of a member list names: pod and device (R354). -/
def memberOf (w : Word) : Nat × Nat := (bits w.toNat 10 9, bits w.toNat 0 10)

/-- Whether a list names a member twice (R355). -/
def twice : List (Nat × Nat) → Bool
  | [] => false
  | m :: ms => ms.contains m || twice ms

/-- The lowest free slot of the group table (R355). -/
def freeGroup (s : State) : Option Nat := firstIn 0 256 fun n => (s.groups.find n).isNone

/-- This device's place in a member list (R355). -/
def rankOf (s : State) (ms : List (Nat × Nat)) : Option Nat :=
  let i := (ms.takeWhile (· != (s.pod, s.devid))).length
  if i < ms.length then some i else none

/-- The status codes that refuse a group (R355). -/
def groupRefusals (s : State) (tagWord : Word) (ws : List Word) : List Nat :=
  let ms := ws.map memberOf
  (if (rankOf s ms).isNone then [1] else []) ++
  (if (freeGroup s).isNone then [2] else []) ++
  (if s.groups.any fun g => g.2.tenant = s.cpu.live.tenant && g.2.tag.toNat = bits tagWord.toNat 0 32 then [3] else []) ++
  (if bits tagWord.toNat 32 32 != 0 || ws.any (fun w => bits w.toNat 19 45 != 0) ||
      ms.any (fun m => m.1 = s.pod && s.ndev ≤ m.2) || twice ms then [4] else [])

/-- The word that a refusal writes; which of several codes that hold is a free choice (R355, log 21). -/
def refusalWord (code : Nat) : Word := BitVec.ofNat 64 (2 ^ 63 + code)

/-- The generation of a group slot (R355). -/
def groupGenOf (s : State) (n : Nat) : Nat := (s.groupGen.find n).getD 0

/-- A group word (R355). -/
def groupWord (n gen rank : Nat) : Word := BitVec.ofNat 64 (n + gen * 2 ^ 8 + rank * 2 ^ 16)

/-- FGRP past its reads: a refusal, or the group created (R355). -/
def makeGroup (s : State) (tagWord : Word) (ws : List Word) : Word × State :=
  let bad := groupRefusals s tagWord ws
  match bad[Config.pick s.tick 5 % bad.length]?, freeGroup s, rankOf s (ws.map memberOf) with
  | none, some n, some r =>
    let g : Group :=
      { tag := BitVec.ofNat 32 tagWord.toNat, members := ws.map memberOf, rank := r, tenant := s.cpu.live.tenant,
        failed := false, joined := false, bulk := [], urgent := [], core := s.cpu.id }
    (groupWord n (groupGenOf s n) r, { s with groups := Tab.put s.groups n g })
  | some c, _, _ => (refusalWord c, s)
  | none, _, _ => (refusalWord 2, s)

/-- FGRP (R354, R355). A count outside its range is refused before the list is read. -/
def execFgrp (d a b : Reg) (s : State) : Out :=
  issue fabAttr (.fgrp d a b) s fun s =>
    let ea := getG s a
    let p := (getG s b).toNat
    if ea.toNat % 8 != 0 then trap s 0x03 ea
    else if p = 0 || 524288 < p then retire (setG s d (refusalWord 5))
    else
      (loadWords s (.fgrp d a b) ea.toNat (p + 1)).done fun ws s =>
        let (v, s) := makeGroup s (ws.headD 0) ws.tail
        retire (setG s d v)

/-- The group that a group word names for a tenant: its slot is in use, its generation current, and its group the tenant's
(R356). -/
def groupFor (s : State) (v : Word) : Option (Nat × Group) :=
  let n := bits v.toNat 0 8
  match s.groups.find n with
  | some g =>
    if g.tenant = s.cpu.live.tenant && bits v.toNat 8 8 = groupGenOf s n then some (n, g) else none
  | none => none

/-- The snapshot of FGQRY (R356). -/
def groupStatus (g : Group) : Nat :=
  g.members.length + g.failed.toNat * 2 ^ 20 + g.joined.toNat * 2 ^ 21 + g.bulk.length * 2 ^ 32 + g.urgent.length * 2 ^ 40

/-- FGQRY (R356). -/
def execFgqry (d a : Reg) (s : State) : Out :=
  issue fabAttr (.fgqry d a) s fun s =>
    match groupFor s (getG s a) with
    | none => trap s 0x0B 2
    | some (_, g) => retire (setG s d (BitVec.ofNat 64 (groupStatus g)))

/-- The bulk and the urgent operations pending on the device (R359). -/
def bulkPending (s : State) : Nat := (s.groups.map fun p => p.2.bulk.length).sum
def urgentPending (s : State) : Nat := (s.groups.map fun p => p.2.urgent.length).sum

/-- An operation accepted on a group: at the end of its sequence, or failed at once on a FAILED group (R361, R367). -/
def joinGroup (s : State) (i : Instr) (n : Nat) (urgent : Bool) (c : Option Coll) (h : Word) : State :=
  match s.groups.find n with
  | none => s
  | some g =>
    let op : GroupOp := { token := h, coll := c, matched := false, done := 0, env := envOf s i, got := [], late := [] }
    let g' := if urgent then { g with urgent := g.urgent ++ [op] } else { g with bulk := g.bulk ++ [op] }
    let t := { s with groups := Tab.put s.groups n g' }
    if g.failed then failGroup t n else t

/-- FBAR (R360); the traps of R348 step 4 come before its own check (R359). One that waits for a place finds its group word
checked again at each turn, so that FGFREE meanwhile ends the wait in FABRIC (DESIGN CHOICE, log 104). -/
def execFbar (d a : Reg) (s : State) : Out :=
  issue fabAttr (.fbar d a) s fun s =>
    (if (offered s).isSome then fun k => k s else tokenChecks s) fun s =>
      match groupFor s (getG s a) with
      | none => trap s 0x0B 2
      | some (n, _) =>
        offer s 5 true d (64 ≤ bulkPending s) [] fun h t => retire (joinGroup t (.fbar d a) n false none h)

/-- The collective of a descriptor (R357). -/
def collOf (ws : List Word) : Coll :=
  let x := (ws.getD 4 0).toNat
  { inp := (ws.getD 0 0).toNat, out := (ws.getD 1 0).toNat, count := (ws.getD 3 0).toNat, chunk := bits x 0 32,
    kind := bits x 32 8, op := bits x 40 8, fmt := bits x 48 8, root := bits (ws.getD 5 0).toNat 0 32 }
def collFlags (ws : List Word) : Nat := bits (ws.getD 4 0).toNat 56 8

/-- The bytes of an element (R358). -/
def elemBytes (c : Coll) : Nat := if c.fmt = 1 then 2 else 4

/-- The elements of OUT (R358, R359). -/
def outCount (c : Coll) (p : Nat) : Nat := if c.kind = 1 then c.count / p else if c.kind = 2 then p * c.count else c.count

/-- FABRIC code 3 of a descriptor. A ROOT below the number of members with another KIND than broadcast is accepted and
ignored: R357 says that it is zero there, and code 3 does not name it (R357, R359; DESIGN CHOICE, log 87). -/
def badColl (ws : List Word) (p : Nat) : Bool :=
  let c := collOf ws
  2 ≤ collFlags ws || bits (ws.getD 5 0).toNat 32 32 != 0 || ws.getD 6 0 != 0 || ws.getD 7 0 != 0 ||
  3 < c.kind || 2 < c.op || 2 < c.fmt || (2 ≤ c.kind && c.op != 0) || c.count = 0 || 2 ^ 36 < c.count ||
  c.chunk = 0 || p ≤ c.root || (c.kind = 1 && c.count % p != 0)

/-- FABRIC code 4 of a descriptor (R358, R359). -/
def badBuffers (c : Coll) (p : Nat) : Bool :=
  let i : Range := (c.inp, c.count * elemBytes c)
  let o : Range := (c.out, outCount c p * elemBytes c)
  let win : Range := (winBase, winEnd - winBase)
  (overlap i o && !(c.inp = c.out && (c.kind = 0 || c.kind = 3))) || passes i || passes o || overlap i win || overlap o win

/-- FCOLL offered with the descriptor that it has read (R359). -/
def offerColl (s : State) (i : Instr) (d : Reg) (ws : List Word) (n : Nat) : State :=
  let urgent := collFlags ws = 1
  offer s 4 true d (if urgent then 16 ≤ urgentPending s else 64 ≤ bulkPending s) ws fun h t =>
    retire (joinGroup t i n urgent (some (collOf ws)) h)

/-- FCOLL past its descriptor read (R359). One that waits for a place keeps its descriptor, and its group must still
stand (R356, R357; DESIGN CHOICE, log 104). -/
def startColl (s : State) (i : Instr) (d : Reg) (ws : List Word) : State :=
  match groupFor s (ws.getD 2 0) with
  | none => trap s 0x0B 2
  | some (n, g) =>
    let p := g.members.length
    if (offered s).isSome then offerColl s i d ws n
    else if badColl ws p then trap s 0x0B 3
    else if badBuffers (collOf ws) p then trap s 0x0B 4
    else offerColl s i d ws n

/-- FCOLL (R357, R359). -/
def execFcoll (d a : Reg) (s : State) : Out :=
  issue fabAttr (.fcoll d a) s fun s =>
    match offered s with
    | some ws => startColl s (.fcoll d a) d ws
    | none =>
      tokenChecks s fun s =>
        let ea := getG s a
        if ea.toNat % 64 != 0 then trap s 0x03 ea
        else (loadWords s (.fcoll d a) ea.toNat 8).done fun ws s => startColl s (.fcoll d a) d ws

/-- COLL_ACCEPT: the instruction that waits for a place is offered again; its step gives it the turn (R359). -/
def execCollAccept (s : State) : Out := .next (offeredAgain s)

/-- The payload format of a floating-point collective (R357). -/
def payload (fmt : Nat) : FloatFmt := if fmt = 1 then fmtFloat .bf16 else fmt32

/-- One level of the tree of R363: neighbours combine, and an odd one out passes unchanged. -/
def pairUp {α : Type} (f : α → α → α) : List α → List α
  | a :: b :: rest => f a b :: pairUp f rest
  | l => l

/-- The tree of R363 over rank order. -/
def treeReduce {α : Type} (f : α → α → α) : Nat → List α → Option α
  | 0, l => l.head?
  | fuel + 1, l => if l.length ≤ 1 then l.head? else treeReduce f fuel (pairUp f l)

/-- A value rounded to FP32 (R364). The sums of R364 whose zero has operands of opposite sign give +0, as R82 has it for
scalar sums: R364 and R142 give no sign (DESIGN CHOICE, log 94). -/
def round32 (x : FpVal) : FpVal := fpVal fmt32 (roundTo fmt32 .rne false x).1

/-- Positive zero. -/
def posZero : FpVal := .fin false 0 1

/-- Combine of a compensated sum (R364). -/
def combineSum (x y : FpVal × FpVal) : FpVal × FpVal :=
  let exact := (fpAdd .rne x.1 y.1).1
  match round32 exact with
  | .fin n a b =>
    let t := (fpAdd .rne exact (fpNeg (.fin n a b))).1
    (.fin n a b, round32 (fpAdd .rne (round32 (fpAdd .rne x.2 y.2).1) t).1)
  | s => (s, posZero)

/-- Final of a compensated sum, in the payload format; of s = −0 and e = +0 it is +0 (R364; DESIGN CHOICE, log 94). -/
def finalSum (f : FloatFmt) (x : FpVal × FpVal) : Nat :=
  match x.1 with
  | .fin _ _ _ => (roundTo f .rne false (fpAdd .rne x.1 x.2).1).1
  | s => (roundTo f .rne false s).1

/-- A floating-point sum of the contributions of one pod (R364). -/
def podSum (f : FloatFmt) (xs : List Nat) : Nat :=
  ((treeReduce combineSum xs.length (xs.map fun x => (fpVal f x, posZero))).map (finalSum f)).getD 0

/-- The ranks' values by pod, subgroups in the order of their lowest rank (R365). -/
def byPod : Nat → List (Nat × Nat) → List (List Nat)
  | 0, _ => []
  | _ + 1, [] => []
  | fuel + 1, (p, v) :: rest =>
    (v :: (rest.filter fun q => q.1 = p).map (·.2)) :: byPod fuel (rest.filter fun q => q.1 != p)

/-- Combine of a floating-point sum across pods (R365). -/
def hopSum (f : FloatFmt) (a b : Nat) : Nat := (roundTo f .rne false (fpAdd .rne (fpVal f a) (fpVal f b)).1).1

/-- The reduction of one element over the contributions of all ranks with their pods (R363 to R365). -/
def reduceElem (op fmt : Nat) (xs : List (Nat × Nat)) : Nat :=
  if fmt = 2 then
    let vs := xs.map fun x => sgn 32 x.2
    trunc 32 (match op with
      | 0 => clamp (-(2 ^ 31 : Nat)) ((2 ^ 31 : Nat) - 1) vs.sum
      | 1 => vs.tail.foldl max (vs.headD 0)
      | _ => vs.tail.foldl min (vs.headD 0))
  else
    let f := payload fmt
    if op = 0 then
      match byPod xs.length xs with
      | [one] => podSum f one
      | pods => (treeReduce (hopSum f) pods.length (pods.map (podSum f))).getD 0
    else
      let vs := xs.map fun x => fpVal f x.2
      (roundTo f .rne false ((treeReduce (fun a b => (fpMinMax (op == 1) a b).1) vs.length vs).getD (.nan false))).1

/-- The chunks that one collective takes at this device (R363). -/
def chunkCount (c : Coll) (p : Nat) : Nat := cdiv (if c.kind = 1 then c.count / p else c.count) c.chunk

/-- The element indexes of chunk j, counted from the start of the buffer or of a segment (R363). -/
def chunkElems (c : Coll) (p j : Nat) : List Nat :=
  span (j * c.chunk) (min ((j + 1) * c.chunk) (if c.kind = 1 then c.count / p else c.count))

/-- The elements of IN that this device contributes with chunk j: of every segment for reduce-scatter, none at a broadcast
rank other than ROOT (R358, R363). -/
def inputElems (c : Coll) (p rank j : Nat) : List Nat :=
  let es := chunkElems c p j
  match c.kind with
  | 1 => ((List.range p).map fun q => es.map fun e => q * (c.count / p) + e).flatten
  | 3 => if rank = c.root then es else []
  | _ => es

/-- The addresses of an element's bytes. -/
def elemAddrs (base n e : Nat) : List Nat := (List.range n).map fun k => base + e * n + k

/-- Bytes as elements of n bytes. -/
def elemsOf (n : Nat) : Nat → List Byte → List Nat
  | 0, _ => []
  | k + 1, bs => ofBytes (bs.take n) :: elemsOf n k (bs.drop n)

/-- What chunk j writes: pairs of an index of OUT and its value. `mine` holds this device's elements of the chunk, and
`inputs` those of every rank (R358, R363). -/
def chunkResult (g : Group) (c : Coll) (j : Nat) (mine : List Nat) (inputs : List (List (BitVec 32))) : List (Nat × Nat) :=
  let p := g.members.length
  let es := chunkElems c p j
  let w := 8 * elemBytes c
  let own := if c.kind = 1 then (mine.drop (g.rank * es.length)).take es.length else mine
  let given (q k : Nat) : Nat :=
    if q = g.rank then own.getD k 0 else ((inputs.getD q []).getD k 0).toNat % 2 ^ w
  match c.kind with
  | 2 => ((List.range p).map fun q => (es.zip (List.range es.length)).map fun x => (q * c.count + x.1, given q x.2)).flatten
  | 3 => (es.zip (List.range es.length)).map fun x => (x.1, given c.root x.2)
  | _ =>
    (es.zip (List.range es.length)).map fun x =>
      (x.1, reduceElem c.op c.fmt ((List.range p).map fun q => ((g.members.getD q (0, 0)).1, given q x.2)))

/-- The bytes that one result writes. -/
def resultBytes (c : Coll) (r : Nat × Nat) : List (Nat × Byte) :=
  (elemAddrs c.out (elemBytes c) r.1).zip (toBytes (elemBytes c) r.2)

/-- Results with the places of their bytes (R358). -/
def placeResults (s : State) (e : Env) (c : Coll) : List (Nat × Nat) → List (Nat × List (Nat × Byte × Option Place)) × State
  | [] => ([], s)
  | r :: rs =>
    let (l, s) := placeChunk s e (resultBytes c r)
    let (ls, s) := placeResults s e c rs
    ((r.1, l) :: ls, s)

/-- Every byte of a result has a place, and none lies in a line with a contained error, of which nothing is written
(R352, R358). -/
def resultFits (s : State) (l : List (Nat × Byte × Option Place)) : Bool :=
  l.all fun x => match x.2.2 with
    | some p => !poisoned s (placePa p) 1
    | none => false

/-- The aligned 8-byte unit of OUT in which an element lies; elements that lie across units count as one (R274). -/
def outUnit (c : Coll) (i : Nat) : Nat := if c.out % elemBytes c = 0 then (c.out + i * elemBytes c) / 8 else 0

/-- Results written; of a chunk that fails, the elements of each aligned 8-byte unit together or not at all, by free choice
(R274, R367). -/
def writeResults (s : State) (whole : Bool) (c : Coll) (ls : List (Nat × List (Nat × Byte × Option Place))) : State :=
  let t := s.tick
  ls.foldl (fun s x =>
    if whole || (resultFits s x.2 && Config.pick t (16 + outUnit c x.1) % 2 = 1) then writeChunk s true x.2 else s) s

/-- The aligned 8-byte units of IN that some addresses lie in, without the bytes outside IN (R274, R358). -/
def inputUnits (c : Coll) (need : List Nat) : List Nat :=
  (((need.map (· / 8)).eraseDups.map fun u => (List.range 8).map (8 * u + ·)).flatten).filter fun a =>
    c.inp ≤ a && a < c.inp + c.count * elemBytes c

/-- Whether every element of OUT that shares an aligned 8-byte unit with element i is among some indexes. Where elements lie
across units, none is before the last chunk (R274). -/
def unitWhole (c : Coll) (p : Nat) (is : List Nat) (i : Nat) : Bool :=
  let m := elemBytes c
  c.out % m = 0 && (List.range (8 / m)).all fun k =>
    let a := outUnit c i * 8 + k * m
    a < c.out || c.out + outCount c p * m ≤ a || is.contains ((a - c.out) / m)

/-- A group's operations of a class, and the group with them replaced. -/
def groupOps (g : Group) (urgent : Bool) : List GroupOp := if urgent then g.urgent else g.bulk
def withOps (g : Group) (urgent : Bool) (ops : List GroupOp) : Group :=
  if urgent then { g with urgent := ops } else { g with bulk := ops }

/-- A bulk chunk gives way to a matched urgent operation (R368). -/
def urgentFirst (s : State) (urgent : Bool) : Bool := !urgent && s.groups.any fun p => p.2.urgent.any (·.matched)

/-- One chunk of the oldest operation of a group: its inputs are read, and its results are written, by the job. A buffer
tears only at aligned 8-byte boundaries: what a chunk reads beside its elements stays for a later one, and results wait
until their unit is whole (R274, R362, R363, R367). -/
def doCollChunk (s : State) (n : Nat) (g : Group) (urgent : Bool) (op : GroupOp) (c : Coll)
    (inputs : List (List (BitVec 32))) : State :=
  let p := g.members.length
  let m := elemBytes c
  let ins := inputElems c p g.rank op.done
  let need := (ins.map (elemAddrs c.inp m)).flatten
  let fresh := inputUnits c (need.filter fun a => !(op.got.map (·.1)).contains a)
  match engineBytes s op.env fresh with
  | (.inl _, s) => failGroup s n
  | (.inr (bs, marks), s) =>
    let read := op.got ++ fresh.zip (bs.zip marks)
    let mine := need.map fun a => ((read.find? fun x => x.1 = a).map (·.2)).getD (0, 0)
    let all := op.late ++ chunkResult g c op.done (elemsOf m ins.length (mine.map (·.1))) inputs
    let last : Bool := chunkCount c p ≤ op.done + 1
    let ready (r : Nat × Nat) : Bool := last || unitWhole c p (all.map (·.1)) r.1
    let (l, s) := placeResults s op.env c (all.filter ready)
    if marksAny (mine.map (·.2)) then failGroup s n
    else if l.any fun x => !resultFits s x.2 then failGroup (writeResults s false c l) n
    else
      let s := writeResults s true c l
      let rest := (groupOps g urgent).tail
      if last then
        settle { s with groups := Tab.put s.groups n (withOps g urgent rest) } op.token false
          (BitVec.ofNat 64 (outCount c p))
      else { s with groups := Tab.put s.groups n (withOps g urgent
        ({ op with done := op.done + 1, got := read.filter fun x => !need.contains x.1,
                   late := all.filter fun r => !ready r } :: rest)) }

/-- The results of an abandoned collective that wait for their 8-byte unit are written: its last chunk completes (R256,
R274, R367). -/
def writeLate (s : State) (g : Group) : State :=
  ((g.bulk ++ g.urgent).filter (abandoned s)).foldl (fun s o =>
    match o.coll with
    | some c =>
      let (l, s) := placeResults s o.env c o.late
      writeResults s (l.all fun x => resultFits s x.2) c l
    | none => s) s

/-- A member leaves a group as failed; a chunk that one of its abandoned collectives has begun completes first (R256,
R367). -/
def leaveGroup (s : State) (n : Nat) : State :=
  match s.groups.find n with
  | some g => failGroup (writeLate s g) n
  | none => s

/-- FGFREE: pending operations fail first (R356, R367). -/
def execFgfree (a : Reg) (s : State) : Out :=
  issue fabAttr (.fgfree a) s fun s =>
    match groupFor s (getG s a) with
    | none => trap s 0x0B 2
    | some (n, g) =>
      let s := if g.bulk.isEmpty && g.urgent.isEmpty then s else leaveGroup s n
      retire { s with groups := Tab.drop s.groups n,
                      groupGen := Tab.put s.groupGen n ((groupGenOf s n + 1) % 256) }

/-- COLL_CHUNK: the other members' contributions to the next chunk arrive; an abandoned operation begins none (R256, R363
to R368). -/
def execCollChunk (slot : Fin 256) (urgent : Bool) (inputs : List (List (BitVec 32))) (s : State) : Out :=
  match s.groups.find slot.val with
  | none => .next s
  | some g =>
    match groupOps g urgent with
    | op :: _ =>
      match op.coll with
      | some c =>
        .next (if leavesLate s slot.val then leaveGroup s slot.val
          else if op.matched && !urgentFirst s urgent then doCollChunk s slot.val g urgent op c inputs else s)
      | none => .next s
    | [] => .next s

/-- The first operation of a sequence that is not matched becomes so; a barrier then leaves the sequence (R360, R361). -/
def matchFirst : List GroupOp → Option (GroupOp × List GroupOp)
  | [] => none
  | o :: os =>
    if o.matched then (matchFirst os).map fun r => (r.1, o :: r.2)
    else some (o, if o.coll.isNone then os else { o with matched := true } :: os)

/-- Whether another member's operation agrees with this device's (R361). -/
def agrees (g : Group) (urgent : Bool) (o : GroupOp) (p : PeerOp) : Bool :=
  p.tag = g.tag && p.members = g.members &&
  (match o.coll, p.coll with
   | none, none => true
   | some c, some q => q = { kind := c.kind, op := c.op, fmt := c.fmt, count := c.count, chunk := c.chunk, root := c.root,
                             urgent := urgent }
   | _, _ => false)

/-- GROUP_MATCH: every other member has accepted its operation of one place in the sequence. They match if all agree, and
else the group fails; while a member has accepted none, this device's operation stays pending (R361, R367). -/
def execGroupMatch (slot : Fin 256) (urgent : Bool) (peers : List PeerOp) (s : State) : Out :=
  match s.groups.find slot.val with
  | none => .next s
  | some g =>
    match matchFirst (groupOps g urgent) with
    | none => .next s
    | some (o, ops) =>
      if peers.length + 1 != g.members.length then .next s
      else if !peers.all (agrees g urgent o) then .next (failGroup s slot.val)
      else
        let s := { s with groups := Tab.put s.groups slot.val { withOps g urgent ops with joined := true } }
        .next (if o.coll.isNone then settle s o.token false 0 else s)

/-- GROUP_FAIL: a member has left the group with FAILED status (R367). -/
def execGroupFail (slot : Fin 256) (s : State) : Out := .next (leaveGroup s slot.val)

end Sys2Proof.Machine
end

