-- ==== Sys2Proof/Machine/System.lean ====
section
/-!
DEFINITION. The SYS class: system calls, breakpoints, the return from a trap, halting, code and TLB maintenance
(R379 to R383, R446).
-/

namespace Sys2Proof.Machine

/-- The attributes of a SYS member that needs a privilege level (R379). -/
def sysAttr (level : Nat) : Attr := { lend := .refuse, level := level }

/-- Whether a handler context runs (R370). -/
def inHandler (s : State) : Bool := s.cpu.who = .sys || s.cpu.who = .fw

/-- TRAPS (R380); `tepc` is the next instruction (R376). -/
def execTraps (n : Fin 64) (s : State) : Out :=
  issue (sysAttr 0) (.traps n) s fun s => trap (retire s) 0x0F (BitVec.ofNat 64 n.val)

/-- BRK (R380, R416). -/
def execBrk (n : Fin 64) (s : State) : Out :=
  issue (sysAttr 0) (.brk n) s fun s => debugStop (retire s) 0x0C (BitVec.ofNat 64 n.val) 0 false false

/-- ERET (R378). -/
def execEret (s : State) : Out :=
  issue (sysAttr 0) .eret s fun s => if inHandler s then returnTrap s else trap s 0x02 0

/-- HALT: the core stops at the next instruction, with every context kept (R380). -/
def execHalt (s : State) : Out :=
  issue (sysAttr 2) .halt s fun s => modCpu (retire s) fun c => { c with halt := .halted }

/-- TIMER is pending (R371). -/
def timerPending (s : State) : Bool :=
  s.cpu.ttimer.getLsbD 63 && s.cpu.ttimer.toNat % 2 ^ 63 ≤ s.devtime.toNat

/-- What `tpend` reads (R371). -/
def tpendBits (s : State) : Nat :=
  (timerPending s).toNat + 2 * s.cpu.pendPreempt.toNat + 4 * s.cpu.pendHost.toNat + 8 * s.cpu.pendError.toNat

/-- What ends a WAITI: `tpend` is nonzero or a context of the core is ready (R380). -/
def wakes (s : State) : Bool := tpendBits s != 0 || s.cpu.recs.any fun r => r.st = .ready

/-- WAITI. With a context ready already it goes on at once, where R380 speaks of one that becomes ready (R380; DESIGN
CHOICE, log 126). -/
def execWaiti (s : State) : Out :=
  issue (sysAttr 0) .waiti s fun s =>
    if !inHandler s then trap s 0x02 0
    else if wakes s then retire s
    else modCpu (retire s) fun c => { c with halt := .waiti }

/-- WAITI_WAKE (R380). -/
def execWaitiWake (s : State) : Out :=
  .next (if s.cpu.halt = .waiti && wakes s then modCpu s fun c => { c with halt := .running } else s)

/-- The physical ranges that a range of virtual addresses of the running context has, page by page; pages without a
translation have none. -/
def rangePieces (s : State) (lo len : Nat) : List (Nat × Nat) :=
  if len = 0 then []
  else (span (lo / 65536) ((min (lo + len) (2 ^ 52) + 65535) / 65536)).filterMap fun pg =>
    match (translate s (some s.cpu.id) (clusterOf s.cpu.id) s.cpu.live.tenant (pg * 65536)).1 with
    | some e =>
      let base := e.pa + (pg * 65536 - e.va)
      some (base + (max lo (pg * 65536) - pg * 65536), base + (min (lo + len) ((pg + 1) * 65536) - pg * 65536))
    | none => none

/-- Whether a physical line holds a byte of one of the ranges (R381, R383). -/
def inPieces (ps : List (Nat × Nat)) (line : Nat) : Bool :=
  ps.any fun p => p.1 < line * 128 + 128 && line * 128 < p.2

/-- Whether an entry is valid and its segment overlaps a fetch range (R443, R446). -/
def mapsRange (lo len : Nat) (b : List Byte) : Bool :=
  (at_ b 12 4).testBit 0 && at_ b 0 8 < lo + len && lo < at_ b 0 8 + 64 * at_ b 8 4

/-- The entries that map a fetch range, by index: as they stand, and as the core's own stores leave them (R446). -/
def segmentsOf (s : State) (lo len : Nat) : List (Nat × List Byte) :=
  let t := writeBack s s.cpu.id
  ((List.range 64).map fun i =>
    ((entryViews s s.cpu.live.tenant i ++ (dirEntry t t.cpu.live.tenant i).toList).filter (mapsRange lo len)).map fun b => (i, b)).flatten

/-- The L1 code lines of a fetch range invalidated on every core (R381, R446). -/
def dropCode (s : State) (lo len : Nat) : State :=
  (coreList s).foldl (fun t n =>
    modCore t n fun c => { c with code := c.code.filter fun l => !(l.line * 64 < lo + len && lo < l.line * 64 + 64) }) s

/-- The physical ranges of the entries of some segments, of the LAT entries that map a fetch range, and of the
dictionaries (R443, R446). -/
def mapPieces (s : State) (lo len : Nat) (segs : List (Nat × List Byte)) : List (Nat × Nat) :=
  (segs.map fun p =>
    let base := at_ p.2 0 8
    let first := (lo - base) / 64
    let last := min (at_ p.2 8 4) (cdiv (lo + len - base) 64)
    rangePieces s (dirVa p.1) 64 ++
    rangePieces s (at_ p.2 16 8 + 4 * first) (4 * (last - first)) ++ rangePieces s (at_ p.2 24 8) 1024).flatten

/-- The lines of directory entries, LAT entries and dictionaries that every cluster drops (R446). -/
def dropMaps (s : State) (ps : List (Nat × Nat)) : State :=
  { s with clusters := s.clusters.map fun q => (q.1, { q.2 with dir := q.2.dir.filter fun l => !inPieces ps (l.1 / 64) }) }

/-- CODESYNC. It waits for the older queued stores, so that their lines are written back too (R381, R446). -/
def execCodesync (a b : Reg) (s : State) : Out :=
  issue (sysAttr 0) (.codesync a b) s fun s =>
    let lo := (getG s a).toNat
    let len := (getG s b).toNat
    if len = 0 then retire s
    else
      let segs := segmentsOf s lo len
      let ps := rangePieces s lo len
      let s := writeBackIf s s.cpu.id fun l => !segs.isEmpty || inPieces ps l
      retire (dropCode (dropMaps s (mapPieces s lo len segs)) lo len)

/-- Whether a held translation matches a TLBINV (R382). -/
def tlbMatch (v : Word) (e : TlbEntry) : Bool :=
  let va := bits v.toNat 16 36 * 65536
  v.getLsbD 5 || (e.tenant.val = bits v.toNat 0 4 && (v.getLsbD 4 || (e.va ≤ va && va < e.va + e.size)))

/-- Held translations removed from every TLB of the device (R382). -/
def dropTlb (s : State) (p : TlbEntry → Bool) : State :=
  let s := (coreList s).foldl (fun t n => modCore t n fun c => { c with tlb := c.tlb.filter fun e => !p e }) s
  { s with clusters := s.clusters.map fun q => (q.1, { q.2 with tlb := q.2.tlb.filter fun e => !p e }) }

/-- The stores that a context has issued and that are not performed yet (R275). -/
def storesOf (c : Ctx) : List HeldStore := heldStores (c.latch.toList ++ c.viq)

/-- A context holds a store whose translation a TLBINV names (R275, R382). -/
def namesStore (v : Word) (c : Ctx) : Bool := (storesOf c).any fun h => h.via.any (tlbMatch v)

/-- The tasks of a core: the running one, the trapped one and those with a record. -/
def tasksOn (c : Core) : List Ctx :=
  (if c.who = .task then [c.live] else []) ++ c.trapped.toList ++ c.recs.map (·.ctx)

/-- A task has a store in progress that holds a translation which a TLBINV names: one that R275 lets be performed only
after older reads, whether its task runs or is stopped (R96, R275, R382; DEDUCED, log 83). -/
def storesPending (s : State) (v : Word) : Bool :=
  (coreList s).any fun n => (tasksOn (coreAt s n)).any (namesStore v)

/-- TLBINV: it waits for the stores in progress that hold a translation which it names (R382). -/
def execTlbinv (a : Reg) (s : State) : Out :=
  issue (sysAttr 1) (.tlbinv a) s fun s =>
    let v := getG s a
    if bits v.toNat 6 10 != 0 || bits v.toNat 52 12 != 0 then trap s 0x0A v
    else if storesPending s v then waitHere s
    else retire (dropTlb s (tlbMatch v))

/-- L1WB (R383). -/
def execL1wb (a b : Reg) (s : State) : Out :=
  issue (sysAttr 0) (.l1wb a b) s fun s =>
    let len := (getG s b).toNat
    let ps := rangePieces s (getG s a).toNat len
    retire (writeBackIf s s.cpu.id fun l => len = 0 || inPieces ps l)

end Sys2Proof.Machine
end

