-- ==== Sys2Proof/Machine/Fetch.lean ====
section
/-!
DEFINITION. Instruction fetch: the code directory, the expansion of a compressed line, and the fetch fault
(R92, R443 to R447).
-/

namespace Sys2Proof.Machine

/-- What stops a line fill (R444, R445, R222). -/
inductive FillStop | xlate | prot | poison
  deriving DecidableEq, Repr

/-- Bytes at one place that a line fill reads at their home, for the fetching context (R445). -/
def fillRead (s : State) (k : Kind) (va n : Nat) : (FillStop ⊕ List Byte) × State :=
  match resolveLive s k va with
  | (.xlate, s) => (.inl .xlate, s)
  | (.prot, s) => (.inl .prot, s)
  | (.ok p, s) =>
    if poisoned s (placePa p) n then (.inl .poison, s)
    else
      let (bs, s) := homeRead s p n
      (.inr bs, s)

/-- A line that a cluster holds for its fills, with its bytes replaced. -/
def holdLine (s : State) (cl tag : Nat) (data : BitVec 1024) : State :=
  modCluster s cl fun c => { c with dir := (tag, data) :: c.dir.filter fun l => l.1 != tag }

/-- Bytes of a directory entry, a LAT entry or a dictionary, which lie in one line: each cluster caches such lines, and a
held one serves the fill or has been given up, by free choice (R444 timing, R446, log 8). -/
def clusterRead (s : State) (k : Kind) (va n : Nat) : (FillStop ⊕ List Byte) × State :=
  match resolveLive s k va with
  | (.ok (.hbm pa key), s) =>
    let cl := clusterOf s.cpu.id
    let tag := pa / 128 * 64 + key.val
    let bytes (d : BitVec 1024) := (List.range n).map fun j => BitVec.ofNat 8 (slot d (pa % 128 + j) 8)
    match (clusterAt s cl).dir.find? fun l => l.1 = tag && Config.pick s.tick (1024 + tag) % 2 = 1 with
    | some l => (.inr (bytes l.2), s)
    | none =>
      if poisoned s pa n then (.inl .poison, s)
      else
        let (bs, s) := readPhys s key (pa / 128 * 128) 128
        let d := BitVec.ofNat 1024 (ofBytes bs)
        (.inr (bytes d), holdLine s cl tag d)
  | _ => fillRead s k va n

/-- Bytes of the compressed stream, which may cross pages. Its addresses are exact sums, and one past the address space
fails (R8, R444). -/
def streamRead (s : State) : Nat → Nat → (FillStop ⊕ List Byte) × State
  | _, 0 => (.inr [], s)
  | va, n + 1 =>
    match fillRead s .fetch va 1 with
    | (.inl e, s) => (.inl e, s)
    | (.inr b, s) =>
      match streamRead s (va + 1) n with
      | (.inl e, s) => (.inl e, s)
      | (.inr bs, s) => (.inr (b ++ bs), s)

/-- The virtual address of the code directory (R443). -/
def codeDir : Nat := 0x000FFD0000000000

/-- A directory entry is valid and covers a fetch address (R444). -/
def covers (e : List Byte) (a : Nat) : Bool :=
  (at_ e 12 4).testBit 0 && at_ e 0 8 ≤ a && a < at_ e 0 8 + 64 * at_ e 8 4

/-- A directory entry that a fill may not use (R443). -/
def badEntry (e : List Byte) : Bool :=
  at_ e 12 4 != 1 || at_ e 40 24 != 0 || at_ e 0 8 % 65536 != 0 || at_ e 8 4 = 0 || 2 ^ 26 < at_ e 8 4 ||
  at_ e 16 8 % 4 != 0 || at_ e 24 8 % 4 != 0

/-- The lowest-indexed entry from i on that covers an address; at most `n` are left (R444). -/
def findEntry (s : State) (a : Nat) : Nat → Nat → (FillStop ⊕ List Byte) × State
  | 0, _ => (.inl .xlate, s)
  | n + 1, i =>
    match clusterRead s .read (codeDir + 64 * i) 64 with
    | (.inl e, s) => (.inl e, s)
    | (.inr e, s) => if covers e a then (.inr e, s) else findEntry s a n (i + 1)

/-- The words of a line from its stream: a literal where its bit of the bitmap is 1, else a dictionary word (R444). -/
def expand (s : State) (dict bm : Nat) : Nat → Nat → Nat → (FillStop ⊕ List (BitVec 32)) × State
  | 0, _, _ => (.inr [], s)
  | n + 1, w, p =>
    let len := if bm.testBit w then 4 else 1
    match streamRead s p len with
    | (.inl e, s) => (.inl e, s)
    | (.inr b, s) =>
      let (word, s) := if bm.testBit w then (.inr b, s) else clusterRead s .fetch (dict + 4 * ofBytes b) 4
      match word with
      | .inl e => (.inl e, s)
      | .inr wb =>
        match expand s dict bm n (w + 1) (p + len) with
        | (.inl e, s) => (.inl e, s)
        | (.inr ws, s) => (.inr (BitVec.ofNat 32 (ofBytes wb) :: ws), s)

/-- The line of a fetch address, expanded (R444). -/
def fillLine (s : State) (a : Nat) : (FillStop ⊕ List (BitVec 32)) × State :=
  if 2 ^ 52 ≤ a then (.inl .xlate, s)
  else
    match findEntry s a 64 0 with
    | (.inl e, s) => (.inl e, s)
    | (.inr e, s) =>
      if badEntry e then (.inl .xlate, s)
      else
        match clusterRead s .fetch (at_ e 16 8 + 4 * ((a - at_ e 0 8) / 64)) 4 with
        | (.inl x, s) => (.inl x, s)
        | (.inr lat, s) =>
          let off := ofBytes lat
          if off = 0xFFFFFFFF then (.inl .xlate, s)
          else
            let p := at_ e 32 8 + off
            match streamRead s p 2 with
            | (.inl x, s) => (.inl x, s)
            | (.inr bm, s) => expand s (at_ e 24 8) (ofBytes bm) 16 0 (p + 2)

/-- The line of the running context's pc, if the L1 code cache holds it (R444). -/
def codeLine (s : State) : Option CodeLine :=
  s.cpu.code.find? fun l => l.line = s.cpu.live.pc.toNat / 64 && l.tenant = s.cpu.live.tenant

/-- The word at the running context's pc, from its line. -/
def wordAt (s : State) (l : CodeLine) : BitVec 32 := l.words.getD (s.cpu.live.pc.toNat % 64 / 4) 0

/-- A line entered into the running core's L1 code cache of 512 lines; a full one gives up a line of free choice
(log 8). -/
def enterLine (s : State) (ws : List (BitVec 32)) : State :=
  let l : CodeLine := { tenant := s.cpu.live.tenant, line := s.cpu.live.pc.toNat / 64, words := ws }
  modCpu s fun c =>
    { c with code := l :: (if c.code.length < 512 then c.code else c.code.eraseIdx (Config.pick s.tick 4 % 512)) }

/-- A fetch fault of the running context at its pc: through the retry latch for a task at task privilege, else a trap;
poisoned code fails its task (R92, R445, R403). -/
def fetchFault (s : State) (e : FillStop) : State :=
  let va := s.cpu.live.pc
  let fault (cause : Nat) : State :=
    if s.cpu.who = .task && s.cpu.live.priv = 0 then latchTask s none false cause va .fetch 0 0 else takeTrap s cause va
  match e with
  | .xlate => fault 0x04
  | .prot => fault 0x05
  | .poison => poisonTask s

/-- A line fill for the running context (R444, R445). -/
def fetchLine (s : State) : State :=
  match fillLine s s.cpu.live.pc.toNat with
  | (.inr ws, s) => enterLine s ws
  | (.inl e, s) => fetchFault s e

/-- CODE_LINE_FILL: the running context's line is brought into L1 when it is not there (R444). -/
def execCodeLineFill (s : State) : Out :=
  .next (if s.cpu.who = .idle || s.cpu.halt != .running || (codeLine s).isSome then s else fetchLine s)

/-- ILLEGAL_WORD: a fetched word that selects no instruction traps with the word in `tval` (R49). -/
def execIllegalWord (word : BitVec 32) (s : State) : Out :=
  .next (if s.cpu.who = .idle then s else trap s 0x01 (word.setWidth 64))

end Sys2Proof.Machine
end

