-- ==== Sys2Proof/Machine/Float.lean ====
section
/-!
DEFINITION. Scalar floating point: the FOP class and FMA (R81 to R89, R101).
-/

namespace Sys2Proof.Machine

/-- The value of a scalar operand in a format: the bits above it are ignored (R81). -/
def fArg (fmt : Fmt) (v : Word) : FpVal := fpVal (fmtFloat fmt) (v.toNat % 2 ^ tyBits (fmtTy fmt))

/-- The bit pattern of a scalar operand (R81). -/
def fBits (fmt : Fmt) (v : Word) : Nat := v.toNat % 2 ^ tyBits (fmtTy fmt)

/-- A scalar FP instruction: a value and the exceptions it raises; a discarded one raises none (R83, R101). -/
def fop (i : Instr) (d : Reg) (s : State) (f : State → Nat × Flags) : Out :=
  issue scalarAttr i s fun s =>
    let r := f s
    retire (result (accrue s r.2) d (BitVec.ofNat 64 r.1))

/-- RoundTo of an exact value with the exceptions of its computation (R82, R142). -/
def rounded (fmt : Fmt) (d : Dir) (x : FpVal × Flags) : Nat × Flags :=
  let r := roundTo (fmtFloat fmt) d false x.1
  (r.1, x.2 ||| r.2)

/-- A two-operand FOP member that rounds (R85). A DYN mode is `fst.RM` of the running context (R83); in a handler context
that is the handler's own `fst`, which no MTS reaches and which holds RNE (DEDUCED, log 13). -/
def fop2 (i : Instr) (d a b : Reg) (fmt : Fmt) (rm : RM) (s : State) (f : Dir → FpVal → FpVal → FpVal × Flags) : Out :=
  fop i d s fun s =>
    let dir := dirOf rm s.cpu.live.fst
    rounded fmt dir (f dir (fArg fmt (getG s a)) (fArg fmt (getG s b)))

/-- A two-operand FOP member that does not round (R85). -/
def fopCmp (i : Instr) (d a b : Reg) (fmt : Fmt) (s : State) (f : FpVal → FpVal → Nat × Flags) : Out :=
  fop i d s fun s => f (fArg fmt (getG s a)) (fArg fmt (getG s b))

/-- A one-operand FOP member on a direction and the operand (R85). -/
def fop1 (i : Instr) (d a : Reg) (rm : RM) (s : State) (f : Dir → Word → Nat × Flags) : Out :=
  fop i d s fun s => f (dirOf rm s.cpu.live.fst) (getG s a)

/-- Invalid when either operand is a NaN (R85). -/
def anyNaN (x y : FpVal) : Bool := x.isNaN || y.isNaN

/-- The integer that FCVTI or FCVTN gives, as a 64-bit pattern (R87). -/
def toWord (x : Int × Flags) : Nat × Flags := (trunc 64 x.1, x.2)

/-- FADD (R85). -/
def execFadd (d a b : Reg) (fmt : Fmt) (rm : RM) (s : State) : Out :=
  fop2 (.fadd d a b fmt rm) d a b fmt rm s fun dir x y => fpAdd dir x y

/-- FSUB (R85). -/
def execFsub (d a b : Reg) (fmt : Fmt) (rm : RM) (s : State) : Out :=
  fop2 (.fsub d a b fmt rm) d a b fmt rm s fun dir x y => fpAdd dir x (fpNeg y)

/-- FMUL (R85). -/
def execFmul (d a b : Reg) (fmt : Fmt) (rm : RM) (s : State) : Out :=
  fop2 (.fmul d a b fmt rm) d a b fmt rm s fun _ x y => fpMul x y

/-- FDIV (R85). -/
def execFdiv (d a b : Reg) (fmt : Fmt) (rm : RM) (s : State) : Out :=
  fop2 (.fdiv d a b fmt rm) d a b fmt rm s fun _ x y => fpDiv x y

/-- FSQRT (R85). -/
def execFsqrt (d a : Reg) (fmt : Fmt) (rm : RM) (s : State) : Out :=
  fop1 (.fsqrt d a fmt rm) d a rm s fun dir v => rounded fmt dir (fpSqrt (fArg fmt v))

/-- FMIN (R85). -/
def execFmin (d a b : Reg) (fmt : Fmt) (s : State) : Out :=
  fopCmp (.fmin d a b fmt) d a b fmt s fun x y => rounded fmt .rne (fpMinMax false x y)

/-- FMAX (R85). -/
def execFmax (d a b : Reg) (fmt : Fmt) (s : State) : Out :=
  fopCmp (.fmax d a b fmt) d a b fmt s fun x y => rounded fmt .rne (fpMinMax true x y)

/-- FCMPEQ (R85). -/
def execFcmpeq (d a b : Reg) (fmt : Fmt) (s : State) : Out :=
  fopCmp (.fcmpeq d a b fmt) d a b fmt s fun x y => ((fpEq x y).toNat, snan x ||| snan y)

/-- FCMPLT (R85). -/
def execFcmplt (d a b : Reg) (fmt : Fmt) (s : State) : Out :=
  fopCmp (.fcmplt d a b fmt) d a b fmt s fun x y =>
    ((!anyNaN x y && fpLt x y).toNat, if anyNaN x y then flagNV else 0)

/-- FCMPLE (R85). -/
def execFcmple (d a b : Reg) (fmt : Fmt) (s : State) : Out :=
  fopCmp (.fcmple d a b fmt) d a b fmt s fun x y =>
    ((!anyNaN x y && !fpLt y x).toNat, if anyNaN x y then flagNV else 0)

/-- FCMPUN (R85). -/
def execFcmpun (d a b : Reg) (fmt : Fmt) (s : State) : Out :=
  fopCmp (.fcmpun d a b fmt) d a b fmt s fun x y => ((anyNaN x y).toNat, snan x ||| snan y)

/-- FCLASS (R86). -/
def execFclass (d a : Reg) (fmt : Fmt) (s : State) : Out :=
  fop1 (.fclass d a fmt) d a .rne s fun _ v => (2 ^ fpClass (fmtFloat fmt) (fBits fmt v), 0)

/-- FCVTI (R87). -/
def execFcvti (d a : Reg) (fmt : Fmt) (rm : RM) (s : State) : Out :=
  fop1 (.fcvti d a fmt rm) d a rm s fun dir v =>
    toWord (fpToInt dir (-(2 ^ 63 : Nat)) ((2 ^ 63 : Nat) - 1) (fArg fmt v))

/-- FCVTN (R87). -/
def execFcvtn (d a : Reg) (fmt : Fmt) (rm : RM) (s : State) : Out :=
  fop1 (.fcvtn d a fmt rm) d a rm s fun dir v => toWord (fpToInt dir 0 ((2 ^ 64 : Nat) - 1) (fArg fmt v))

/-- FCVTFI (R85, R88). -/
def execFcvtfi (d a : Reg) (fmt : Fmt) (rm : RM) (s : State) : Out :=
  fop1 (.fcvtfi d a fmt rm) d a rm s fun dir v => rounded fmt dir (intVal v.toInt, 0)

/-- FCVTFN (R85, R88). -/
def execFcvtfn (d a : Reg) (fmt : Fmt) (rm : RM) (s : State) : Out :=
  fop1 (.fcvtfn d a fmt rm) d a rm s fun dir v => rounded fmt dir (intVal v.toNat, 0)

/-- FCVTF (R85, R88). -/
def execFcvtf (d a : Reg) (src fmt : Fmt) (rm : RM) (s : State) : Out :=
  fop1 (.fcvtf d a src fmt rm) d a rm s fun dir v => rounded fmt dir (fArg src v, snan (fArg src v))

/-- An FMA member: the product exact, its sign turned under N, one rounding (R89). -/
def fmaOp (i : Instr) (d a b c : Reg) (fmt : Fmt) (rm : RM) (neg : Bool) (s : State) : Out :=
  fop i d s fun s =>
    let dir := dirOf rm s.cpu.live.fst
    rounded fmt dir (fpFma dir neg false (fArg fmt (getG s a)) (fArg fmt (getG s b)) (fArg fmt (getG s c)))

/-- FMA (R89). -/
def execFma (d a b c : Reg) (fmt : Fmt) (rm : RM) (s : State) : Out := fmaOp (.fma d a b c fmt rm) d a b c fmt rm false s

/-- FNMA (R89). -/
def execFnma (d a b c : Reg) (fmt : Fmt) (rm : RM) (s : State) : Out := fmaOp (.fnma d a b c fmt rm) d a b c fmt rm true s

end Sys2Proof.Machine
end

