-- ==== Sys2Proof/Machine/Tasks.lean ====
section
/-!
DEFINITION. The TASK and AWT classes: spawning, waiting, ending, references and reclamation points (R234 to R262).
-/

namespace Sys2Proof.Machine

/-- The attributes of a TASK or AWT member: no prefix, no handler context (R237). -/
def taskAttr (drain : Bool) : Attr := { lend := .refuse, scalar := false, drain := drain }

/-- The running task is held at an instruction for want of Woodshed space (R261). -/
def heldHere (s : State) : Bool := s.cpu.who = .task && s.cpu.hold = .wait

/-- The instruction's hold is over (R261). -/
def endHold (s : State) : State :=
  modCpu s fun c => { c with hold := .none, live := { c.live with holdAt := none } }

/-- Ring space has been freed, or the ring enlarged: the save that a held instruction needs no longer finds it full
(R261). -/
def holdRoom (s : State) (h : HoldAt) : Bool :=
  match makeRoomFor (if h.switches then nextUp s else none) (s.cpu.recs.length + 1) s s.cpu.id h.size with
  | .full => false
  | _ => true

/-- What a held wait is waiting for has come about: its token is signalled, or its counter has reached its threshold
(R261, R264, R285). -/
def holdMet (s : State) (wt : Wait) : Bool :=
  match wt with
  | .future h _ => settled s h
  | .any hs _ => (firstSettled s hs).isSome
  | .counted _ _ _ => true
  | _ => false

/-- A reclamation point: a doomed task at RHOLD depth 0 is reclaimed there, and the instruction has no effect (R253). One
that is held goes on in one of two more ways: as newly issued when there is room, or, with what it waits for come about,
by `met`. Nothing of it is tried again before (R261). -/
def atPoint (s : State) (met : Wait → State → State) (k : State → State) : State :=
  if reclaimable s then reclaim s
  else
    match heldHere s, s.cpu.live.holdAt with
    | true, some h => if holdMet s h.wait then met h.wait s else if holdRoom s h then k (endHold s) else waitHere s
    | _, _ => k s

/-- An instruction held at its place for want of Woodshed space, with a record (R261). -/
def holdWait (s : State) (h : HoldAt) : State :=
  waitHere (modCpu (spillRecord s s.cpu.live.tself h.word (pcOf s)) fun c =>
    { c with hold := .wait, live := { c.live with holdAt := some h } })

/-- A save that an instruction needs: it goes on, is held, or takes SPILL (R259, R261, R262). -/
def orHold (s : State) (h : HoldAt) (x : Saved) (k : State → State) : State :=
  match x with
  | .ok s' => k s'
  | .full => holdWait s h
  | .fault va => trap s 0x09 (BitVec.ofNat 64 va)

/-- FUTURE unless every handle names a held future, in index order (R228). -/
def checkHandles (s : State) : List Word → (State → State) → State
  | [], k => k s
  | h :: hs, k => if handleHeld s s.cpu.live h then checkHandles s hs k else trap s 0x08 h

/-- The fields of the options word (R238). -/
def optLevel (o : Word) : Nat := bits o.toNat 0 3
def optArgs (o : Word) : Nat := bits o.toNat 4 3
def optXfer (o : Word) : Nat := bits o.toNat 8 7
def optClass (o : Word) : Nat := bits o.toNat 16 2
def optHint (o : Word) : Nat :=
  match bits o.toNat 18 3 with
  | 1 => 1 | 2 => 2 | 3 => 4 | _ => 8
def optPin (o : Word) : Bool := o.getLsbD 21

/-- The handles that the options word transfers (R238). -/
def transfers (s : State) (o : Word) : List Word :=
  ((List.range 7).filter fun j => (optXfer o).testBit j).map fun j => getG s (Fin.ofNat 32 (2 + j))

/-- A handle that is transferred more often than it is held (R239). -/
def overMoved (s : State) (hs : List Word) : Option Word :=
  hs.find? fun h => s.cpu.live.held.count h < hs.count h

/-- References taken off a held list. -/
def removeAll (held hs : List Word) : List Word := hs.foldl (fun l h => l.erase h) held

/-- The initial context of a child (R239, R225, R238, R439). -/
def childCtx (s : State) (entry o h : Word) : Ctx :=
  let c := s.cpu.live
  { Ctx.reset with
    pc := entry
    g := Vector.ofFn fun i : Fin 32 => if 2 ≤ i.val && i.val < 2 + optArgs o then c.g.get i else 0
    tself := h
    held := transfers s o
    kinds := c.kinds
    level := optLevel o
    pin := optPin o
    domCore := s.cpu.id
    cap := min c.launchCap (optHint o)
    launchCap := c.launchCap
    ceiling := c.ceiling
    cls := min (optClass o) c.limit
    limit := c.limit
    tenant := c.tenant
    priv := c.priv }

/-- The slots that a child takes beside its own: the held-list blocks of its references, and one where the spawner's list,
less what it transfers and with the child's handle, needs one more (R229, log 10). -/
def spawnBlocks (s : State) (moved : Nat) : Nat :=
  let held := s.cpu.live.held.length
  cdiv moved 6 + (cdiv (held + 1 - moved) 6 - cdiv held 6)

/-- The checks of R239, in their order, up to the allocation. -/
def spawnChecks (s : State) (a b : Reg) (k : State → State) : State :=
  let o := getG s b
  let hs := transfers s o
  if (getG s a).toNat % 4 != 0 then trap s 0x03 (getG s a)
  else if s.cpu.live.kinds.length ≤ optLevel o || optXfer o / 2 ^ optArgs o != 0 then trap s 0x08 o
  else
    checkHandles s hs fun s =>
      match overMoved s hs with
      | some h => trap s 0x08 h
      | none =>
        if 256 < s.cpu.live.held.length + 1 - hs.length then trap s 0x10 0
        else if (freeSlotWith s (spawnBlocks s hs.length)).isNone then trap s 0x08 0
        else k s

/-- The spawner after the allocation: the references moved, one to the new future added, and d written (R239). -/
def spawnerWith (s : State) (d : Reg) (o h : Word) : State :=
  let hs := transfers s o
  setG (modLive s fun c => { c with held := removeAll c.held hs ++ [h] }) d h

/-- The record of a SPAWN continuation (R240). -/
def continuation (s : State) : Rec :=
  let c := (retire s).cpu.live
  forcedRec s { c with viq := [], latch := none, once := false } .ready .none (!c.pin) true

/-- SPAWN from its allocation on: the continuation is saved and the child runs at once (R239, R240). Room for the
continuation is made first, so that a trap for want of it comes before any effect (R262). -/
def spawnNow (s : State) (i : Instr) (kind : Nat) (d a b : Reg) : State :=
  let o := getG s b
  let size := recBytes (continuation (setG s d 0))
  orHold s { word := wordOf i, wait := .none, size := size, switches := false }
      (makeRoom (s.cpu.recs.length + 1) s s.cpu.id size) fun s =>
    match allocFut s kind with
    | none => trap s 0x08 0
    | some (h, t) =>
      let child := childCtx s (getG s a) o h
      let t := spawnerWith t d o h
      let r := continuation t
      let t := leaveCoreAt t r.ctx.pc
      begin_ (modCpu t fun c => { c with recs := c.recs ++ [r] }) child

/-- SPAWN (R239, R240). -/
def execSpawn (d a b : Reg) (s : State) : Out :=
  issue (taskAttr true) (.spawn d a b) s fun s =>
    atPoint s (fun _ s => s) fun s => spawnChecks s a b fun s => spawnNow s (.spawn d a b) 0 d a b

/-- The pairs of a gate descriptor: each address checked as an 8-byte load, and observed at its home (R241, R285). -/
def gatePairs (s : State) (i : Instr) : List Word → Acc (List (Nat × Word × Bool))
  | addr :: thr :: rest =>
    (checkAccess s i .read addr.toNat 8).bind fun p s =>
      if poisoned s (placePa p) 8 then .stop (poisonTask s)
      else
        let s := settleL1 s p 8
        let (bs, s) := homeRead s p 8
        let s := atomicPoint s p
        (gatePairs s i rest).bind fun ps s => .ok ((placePa p, thr, decide (thr.toNat ≤ ofBytes bs)) :: ps) s
  | _ => .ok [] s

/-- A gate that is not open: the future is allocated, and the child's context waits at the gate. The spawner goes on
(R241). -/
def spawnGated (s : State) (d a b : Reg) (pairs : List (Nat × Word × Bool)) : State :=
  let o := getG s b
  match allocFut s 6 with
  | none => trap s 0x08 0
  | some (h, t) =>
    let gate : Gate := { token := h, core := s.cpu.id, pairs := pairs, child := childCtx s (getG s a) o h }
    retire { spawnerWith t d o h with gates := t.gates ++ [gate] }

/-- SPAWNG (R241). -/
def execSpawng (d a b c : Reg) (s : State) : Out :=
  issue (taskAttr true) (.spawng d a b c) s fun s =>
    atPoint s (fun _ s => s) fun s =>
      let i : Instr := .spawng d a b c
      let ea := getG s c
      if ea.toNat % 8 != 0 then trap s 0x03 ea
      else
        (loadN s i ea.toNat 8).done fun n s =>
          if n = 0 || 4 < n then trap s 0x08 ea
          else
            (loadWords s i ((ea.toNat + 8) % 2 ^ 64) (2 * n)).done fun ws s =>
              (gatePairs s i ws).done fun ps s =>
                let s := invalidate s s.cpu.id
                spawnChecks s a b fun s =>
                  if ps.all (·.2.2) then spawnNow s i 6 d a b else spawnGated s d a b ps

/-- FINISH (R249). -/
def execFinish (a : Reg) (s : State) : Out :=
  issue (taskAttr true) (.finish a) s fun s => endTask s false (getG s a)

/-- FFAIL (R249). -/
def execFfail (a : Reg) (s : State) : Out :=
  issue (taskAttr true) (.ffail a) s fun s => endTask s true (getG s a)

/-- A member that takes a held handle in a (R251). -/
def withHandle (i : Instr) (a : Reg) (s : State) (k : Word → State → State) : Out :=
  issue (taskAttr false) i s fun s => checkHandles s [getG s a] fun s => k (getG s a) s

/-- FREF (R251, R235); with no slot left for a held-list block that it needs, it raises FUTURE (R229, log 10). A count
that would pass 2^32 - 1 has the handle in `tval`, which R235 does not name (DESIGN CHOICE, log 107). -/
def execFref (a b : Reg) (s : State) : Out :=
  withHandle (.fref a b) a s fun h s =>
    let n := (getG s b).toNat
    let f := entryAt s h
    if 256 < s.cpu.live.held.length + n then trap s 0x10 h
    else if 2 ^ 32 - 1 < f.count + n then trap s 0x08 h
    else if 0 < moreBlocks s n && !slotsLeft s (moreBlocks s n - 1) then trap s 0x08 h
    else
      let s := setEntry s h { f with count := f.count + n }
      retire (modLive s fun c => { c with held := c.held ++ List.replicate n h })

/-- FDROP (R251). -/
def execFdrop (a : Reg) (s : State) : Out :=
  withHandle (.fdrop a) a s fun h s => retire (dropHeld s h)

/-- FPOLL (R251). -/
def execFpoll (d a : Reg) (s : State) : Out :=
  withHandle (.fpoll d a) a s fun h s =>
    let s := if settled s h then completionEdge s h else s
    retire (setG s d (match (entryAt s h).st with
      | .resolved => 1
      | .failed => 2
      | _ => 0))

/-- FTAKE (R251). -/
def execFtake (d a : Reg) (s : State) : Out :=
  withHandle (.ftake d a) a s fun h s =>
    if settled s h then retire (takeFuture s h d 0)
    else retire (modLive (setG s d 0) fun c => { c with tidx := 0x40 })

/-- RPOINT. A doomed task is reclaimed there once its older queued instructions are complete: what it has issued before a
point runs to its end (R252 to R254). -/
def execRpoint (s : State) : Out :=
  issue (taskAttr false) .rpoint s fun s =>
    if reclaimable s then (if queued s then waitHere s else reclaim s) else retire s

/-- RHOLD (R252). -/
def execRhold (s : State) : Out :=
  issue (taskAttr false) .rhold s fun s =>
    if 255 ≤ s.cpu.live.depth then trap s 0x10 0
    else retire (modLive s fun c => { c with depth := c.depth + 1 })

/-- RREL (R252). -/
def execRrel (s : State) : Out :=
  issue (taskAttr false) .rrel s fun s =>
    if s.cpu.live.depth = 0 then trap s 0x08 0
    else retire (modLive s fun c => { c with depth := c.depth - 1 })

/-- TSELF (R252). -/
def execTself (d : Reg) (s : State) : Out :=
  issue (taskAttr false) (.tself d) s fun s => retire (setG s d s.cpu.live.tself)

/-- Another context of the core is ready (R244). -/
def othersReady (s : State) : Bool := s.cpu.recs.any fun r => r.st = .ready

/-- A pre-emption request applies to the running task (R386). -/
def preApplies (s : State) : Bool := s.cpu.who = .task && s.cpu.preMode != 0 && s.cpu.live.cls < s.cpu.preClass

/-- The request register after a request has acted or been discarded. CLASS, of which R386 says nothing then, returns to 0
with MODE (R386; DESIGN CHOICE, log 101). -/
def preDone (s : State) : State := modCpu s fun c => { c with preMode := 0, preClass := 0, preAge := 0 }

/-- The live set applied to the running context, without a save; without live V-state the grant returns (R243, R130). -/
def applyLive (s : State) (lg : Word) (kl : BitVec 7) (vs : Bool) : State :=
  let v := liveState lg kl vs
  let s := modLive s fun c => keepLive c lg kl v
  if v then s else setGrant s s.cpu.id 0

/-- A wait returns without a save: its live set applies, and its result is taken (R244, R261). -/
def returnHere (b : Reg) (kl : BitVec 7) (vs : Bool) (wt : Wait) (s : State) : State :=
  finishWait (retire (applyLive (endHold s) (getG s b) kl vs)) wt

/-- Another context of the core than the one of a handle is ready, and its grant can be met (R107, R244). -/
def otherMayRun (s : State) (h : Word) : Bool :=
  s.cpu.recs.any fun r => r.st = .ready && r.ctx.tself != h && canGrant s s.cpu.id r.ctx.need

/-- What follows the save of a task at its wait or its YIELD: a cooperative pre-emption has acted, and with another context
ready that may run, the core switches to that one (R244, R248, R386). -/
def switched (s t : State) : State :=
  let t := if preApplies s && s.cpu.preMode = 1 then preDone t else t
  modCpu t fun c => { c with passed := if otherMayRun t s.cpu.live.tself then some s.cpu.live.tself else none }

/-- A wait with its live set: it returns without a save when its token is signalled and no other context is ready; else
the context is saved and the core switches. A cooperative pre-emption switches in any case (R244, R261, R386). -/
def waitWith (s : State) (i : Instr) (b : Reg) (kl : BitVec 7) (vs : Bool) (signalled : Bool) (wt : Wait)
    (steal : Bool) : State :=
  let lg := getG s b
  let coop := preApplies s && s.cpu.preMode = 1
  if signalled && !(othersReady s || coop) then returnHere b kl vs wt s
  else
    let c := (retire s).cpu.live
    let r := coopRec s c lg kl (liveState lg kl vs) (if signalled then .ready else .suspended) wt steal
    orHold s { word := wordOf i, wait := wt, size := recBytes r, switches := true } (saveRec s r) (switched s)

/-- AWAIT (R245). -/
def execAwait (d a b : Reg) (kl : BitVec 7) (vs : Bool) (s : State) : Out :=
  issue (taskAttr true) (.await d a b kl vs) s fun s =>
    atPoint s (returnHere b kl vs) fun s =>
      let h := getG s a
      checkHandles s [h] fun s =>
        waitWith s (.await d a b kl vs) b kl vs (settled s h) (.future h d) false

/-- AWAITANY (R246). -/
def execAwaitany (d a b : Reg) (kl : BitVec 7) (vs : Bool) (s : State) : Out :=
  issue (taskAttr true) (.awaitany d a b kl vs) s fun s =>
    atPoint s (returnHere b kl vs) fun s =>
      let i : Instr := .awaitany d a b kl vs
      let n := (getG s d).toNat
      if n = 0 || 16 < n then trap s 0x08 (getG s d)
      else if (getG s a).toNat % 8 != 0 then trap s 0x03 (getG s a)
      else
        (loadWords s i (getG s a).toNat n).done fun hs s =>
          checkHandles s hs fun s => waitWith s i b kl vs (firstSettled s hs).isSome (.any hs d) false

/-- YIELD: saved with its live set and ready at once; it goes on when nothing else takes the core or the task (R248). Where
a cooperative pre-emption acts at it, the task stays stealable as one made ready by YIELD (R268; DESIGN CHOICE, log
95). -/
def execYield (b : Reg) (kl : BitVec 7) (vs : Bool) (s : State) : Out :=
  issue (taskAttr true) (.yield b kl vs) s fun s =>
    atPoint s (fun _ s => s) fun s =>
      let lg := getG s b
      let r := coopRec s (retire s).cpu.live lg kl (liveState lg kl vs) .ready .none (!s.cpu.live.pin)
      orHold s { word := wordOf (.yield b kl vs), wait := .none, size := recBytes r, switches := true } (saveRec s r)
        (switched s)

/-- The value with which a CWAIT that was held has completed at a point of its counter's order, before a handler made its
task ready (R261, R285). -/
def heldValue (s : State) : Option Word :=
  s.cpu.live.holdAt.bind fun h =>
    match h.wait with
    | .counted _ v _ => some v
    | _ => none

/-- CWAIT: the counter is read at its home as an acquiring read; a held one that has completed meanwhile keeps its value
(R247, R261, R285). -/
def execCwait (d a b : Reg) (kl : BitVec 7) (vs : Bool) (s : State) : Out :=
  issue (taskAttr true) (.cwait d a b kl vs) s fun s =>
    atPoint s (returnHere b kl vs) fun s =>
      let i : Instr := .cwait d a b kl vs
      let thr := getG s d
      (checkAccess s i .read (getG s a).toNat 8).done fun p s =>
        if poisoned s (placePa p) 8 then poisonTask s
        else
          let s := settleL1 s p 8
          let (bs, s) := homeRead s p 8
          let s := atomicPoint s p
          let v := (heldValue s).getD (BitVec.ofNat 64 (ofBytes bs))
          if thr ≤ v then waitWith s i b kl vs true (.counted p v d) false
          else waitWith s i b kl vs false (.counter p thr d) false

end Sys2Proof.Machine
end

