-- ==== Sys2Proof/Machine/Interrupts.lean ====
section
/-!
DEFINITION. What comes to a core from outside its instruction stream: interrupts, the quantum, pre-emption, ready
selection, stealing and the end of a hold (R259 to R269, R377, R386).
-/

namespace Sys2Proof.Machine

/-- The interrupt that a core may take now: the highest pending cause, on a core that runs a task or is idle
(R377, R380). -/
def nextInterrupt (s : State) : Option Nat :=
  if s.cpu.halt != .running || inHandler s then none
  else if s.cpu.pendError then some 0x23
  else if s.cpu.pendHost then some 0x22
  else if s.cpu.pendPreempt then some 0x21
  else if timerPending s then some 0x20
  else none

/-- An interrupt taken; it is cleared, but for TIMER (R377). -/
def takeInterrupt (s : State) (cause : Nat) : State :=
  let s := modCpu s fun c =>
    { c with pendError := c.pendError && cause != 0x23, pendHost := c.pendHost && cause != 0x22,
             pendPreempt := c.pendPreempt && cause != 0x21 }
  takeTrap s cause 0

/-- An interrupt of one cause, if it is the one to take (R377). -/
def interrupt (cause : Nat) (s : State) : State := if nextInterrupt s = some cause then takeInterrupt s cause else s

/-- TIMER (R371, R377). -/
def execTimer (s : State) : Out := .next (interrupt 0x20 s)

/-- HOST (R377, R398). -/
def execHost (s : State) : Out := .next (interrupt 0x22 s)

/-- ERROR (R375, R403). -/
def execError (s : State) : Out := .next (interrupt 0x23 s)

/-- The running task may be switched out by force: it runs, and no hold is in progress (R261). -/
def switchable (s : State) : Bool := s.cpu.who = .task && s.cpu.halt = .running && s.cpu.hold = .none

/-- The running task saved in full and made ready with its base class; deferred while the save finds no room (R261, R262,
R266, R386). -/
def forceOut (s : State) (k : State → State) : State :=
  match saveRec s (forcedRec s s.cpu.live .ready .none false false) with
  | .ok s => k s
  | _ => s

/-- A home group that this core holds on loan is called back, which counts as a ready context of class 3 (R102); or groups
of this core are marked, and a ready context of another core of the cluster, with an effective class at or above the
running task's base class, waits for groups (R107, log 29). -/
def groupsWanted (s : State) : Bool :=
  loanCalled s || (marked s s.cpu.id &&& gmap s s.cpu.id) != 0 &&
  (List.range 8).any fun j =>
    let n := clusterOf s.cpu.id * 8 + j
    n != s.cpu.id && (coreAt s n).recs.any fun r =>
      r.st = .ready && s.cpu.live.cls ≤ effClass s r && !canGrant s n r.ctx.need

/-- The quantum has expired: the counter is at `tquant`, and a ready context of the core has an effective class at or
above the task's base class (R266), or one of the cluster waits for marked groups that the task holds (R107). -/
def quantumDue (s : State) : Bool :=
  switchable s && s.cpu.tquant ≤ s.cpu.quantum &&
  ((s.cpu.recs.any fun r => r.st = .ready && s.cpu.live.cls ≤ effClass s r) || groupsWanted s)

/-- QUANTUM_EXPIRY (R266). -/
def execQuantumExpiry (s : State) : Out := .next (if quantumDue s then forceOut s id else s)

/-- A request that finds no running task below its class is discarded (R386). -/
def preStale (s : State) : Bool :=
  s.cpu.preMode != 0 && s.cpu.hold = .none && !inHandler s && s.cpu.halt = .running && !preApplies s

/-- A request of one mode acts, or is discarded (R386). -/
def preempt (mode : Nat) (act : State → State) (s : State) : State :=
  if s.cpu.preMode != mode then s
  else if preStale s then preDone s
  else if switchable s then act s
  else s

/-- PREEMPT_REQ_COOPERATIVE: a request that applies stands until the task's next wait point, whose instruction saves the
task with its live set and clears it; one that does not apply is discarded (R386). -/
def execPreemptReqCooperative (s : State) : Out := .next (preempt 1 id s)

/-- PREEMPT_REQ_FORCED (R386). -/
def execPreemptReqForced (s : State) : Out := .next (preempt 2 (fun s => forceOut s preDone) s)

/-- PREEMPT_REQ_TO_HANDLER: the task is saved as for forced, and PREEMPT is pending on the core that it leaves idle
(R386). -/
def execPreemptReqToHandler (s : State) : Out :=
  .next (preempt 3 (fun s => forceOut s fun s =>
    let s := modCpu (preDone s) fun c => { c with pendPreempt := true }
    interrupt 0x21 s) s)

/-- A cooperative request has found no wait point within `tquant` cycles (R386). -/
def coopLate (s : State) : Bool := s.cpu.preMode = 1 && s.cpu.tquant ≤ s.cpu.preAge

/-- PREEMPT_COOP_TIMEOUT: it acts as forced (R386). -/
def execPreemptCoopTimeout (s : State) : Out :=
  .next (if coopLate s then preempt 1 (fun s => forceOut s preDone) s else s)

/-- The ready records of the running core. -/
def readyRecs (s : State) : List Rec := s.cpu.recs.filter fun r => r.st = .ready

/-- The record of highest rank: one of a task that its wait has just passed over comes after every other (R244,
R265; DESIGN CHOICE, log 119). -/
def pickRec (s : State) (rs : List Rec) : Option Rec :=
  match firstOf (goesBefore s) (rs.filter fun r => some r.ctx.tself != s.cpu.passed) with
  | some r => some r
  | none => firstOf (goesBefore s) rs

/-- The ready record that the core may run first: one whose grant can be met (R107, R244, R265). -/
def choice (s : State) : Option Rec := pickRec s ((readyRecs s).filter fun r => canGrant s s.cpu.id r.ctx.need)

/-- Whether bytes of a Woodshed lie in a line with a contained error, over the walk from `wsroot` (R233, R403). -/
def shedPoisoned (s : State) (core : Nat) : Nat → Nat → Nat → Bool
  | 0, _, _ => false
  | fuel + 1, va, n =>
    n != 0 &&
    ((match walk s 0 va walkLevels (coreAt s core).wsroot with
      | (some e, s) => poisoned s (e.pa + (va - e.va)) (min n 64)
      | (none, _) => false) || shedPoisoned s core fuel (va + 64) (n - 64))

/-- The padded length of the ring slot at an offset (R260). -/
def slotLen (c : Core) (off : Nat) : Nat := ((c.shed.find? fun q => q.off = off).map (·.len)).getD 0

/-- The copy of a spilled record that its refetch or its steal makes: as its bytes in the ring give it, where they are not
those that it was evicted with. One whose bytes hold a contained error is poisoned. Where a page of it no longer
translates, of which R262 does not speak, it comes back as it was evicted (R258, R260, R263, R403, R404; DESIGN CHOICE,
log 121). -/
def fromShed (s : State) (core : Nat) (r : Rec) : Rec × State :=
  match r.spill with
  | none => (r, s)
  | some off =>
    let c := coreAt s core
    let n := slotLen c off
    let bad := shedPoisoned s core (n / 64 + 1) (c.wsbase.toNat + off) n
    let r := { r with spill := none, due := false, poison := r.poison || bad }
    match shedRead core (n / 64 + 1) s (c.wsbase.toNat + off) n with
    | (some bs, s) => (if (bs.drop 16).take (recImage r).length = recImage r then r else recOf r (bs.drop 16), s)
    | (none, s) => (r, s)

/-- A spilled record read back into the context cache, after any eviction that it needs; a corrected event. It is put off
while the ring is full or a Woodshed page fails, which the manual does not say (R259, R260, R263, R403; DESIGN CHOICE,
log 75). -/
def refetch (s : State) (r : Rec) : Option State :=
  match r.spill with
  | none => some s
  | some _ =>
    match makeRoom (s.cpu.recs.length + 1) s s.cpu.id (recBytes r) with
    | .ok s =>
      let (q, s) := fromShed s s.cpu.id r
      let s := takeRec (logError s { cls := 0, unit := s.cpu.id, address := r.ctx.tself }) s.cpu.id r.ctx.tself
      some (modCpu (bump s 6) fun c => { c with recs := c.recs ++ [q] })
    | _ => none

/-- The first record that was signalled in the Woodshed and that can be read back now (R263, log 75). -/
def refetchDue (s : State) : Option Rec :=
  firstOf (goesBefore s) ((readyRecs s).filter fun r => r.due && r.spill.isSome && (refetch s r).isSome)

/-- A record read back runs, where its grant can be met as it stands now (R107, R263). -/
def resumeBack (s : State) (h : Word) : State :=
  match s.cpu.recs.find? fun r => r.ctx.tself = h with
  | some r => if canGrant s s.cpu.id r.ctx.need then resume s r else s
  | none => s

/-- The selected record runs; when it cannot leave the Woodshed, the first resident one does (R259, R265). -/
def selectReady (s : State) : State :=
  match choice s with
  | some r =>
    if r.spill.isNone then resume s r
    else
      match refetch s r with
      | some t => resumeBack t r.ctx.tself
      | none =>
        match pickRec s ((readyRecs s).filter fun r => r.spill.isNone && canGrant s s.cpu.id r.ctx.need) with
        | some r => resume s r
        | none => s
  | none => s

/-- The counters that records, held tasks and gates of the device wait for, with a threshold each (R261, R285). -/
def watchedCounters (s : State) : List (Nat × Nat) :=
  ((coreList s).map fun n =>
    (((coreAt s n).recs.filter fun r => r.st = .suspended).map (·.wait) ++
      ((coreAt s n).live :: (coreAt s n).trapped.toList ++ (coreAt s n).recs.map (·.ctx)).filterMap fun c =>
        c.holdAt.map (·.wait)).filterMap fun w =>
      match w with
      | .counter p t _ => some (placePa p, t.toNat)
      | .strip p t => some (placePa p, t)
      | _ => none).flatten ++
  (s.gates.map fun g => (g.pairs.filter fun p => !p.2.2).map fun p => (p.1, p.2.1.toNat)).flatten

/-- A counter that a plain write has left at or above a waiter's threshold completes its waiters or not, by free choice:
all of them whose threshold is reached together, where R285 leaves each open on its own (R285; DESIGN CHOICE, log 21). -/
def plainWake (s : State) : State :=
  let due := (watchedCounters s).filter fun p => p.2 ≤ ofBytes (memTake s.mem p.1 8)
  match due[Config.pick s.tick 8 % due.length]? with
  | some p =>
    if Config.pick s.tick 9 % 2 = 1 then counterPoint s p.1 (BitVec.ofNat 64 (ofBytes (memTake s.mem p.1 8))) else s
  | none => s

/-- The core is between contexts: it runs none, and it is not halted. -/
def between (s : State) : Bool := s.cpu.who = .idle && s.cpu.halt = .running

/-- READY_SELECTION: a signalled record in the Woodshed comes back first, if it can; then a core with no running task runs
the ready context of highest rank whose grant can be met (R263, R265). -/
def execReadySelection (s : State) : Out :=
  .next (match (refetchDue s).bind (refetch s) with
    | some t => t
    | none => if between s then selectReady s else s)

/-- The cores of the domain that a context is bound to: its one core when it is pinned, else the domain of its level's
kind (R224, R225). -/
def inDomain (c : Ctx) (core : Nat) : Bool :=
  if c.pin then core = c.domCore
  else
    match c.kinds.getD c.level 0 with
    | 0 => core = c.domCore
    | 1 => core / 8 = c.domCore / 8
    | 2 => core / 96 = c.domCore / 96
    | _ => true

/-- The records of a core that another one may steal (R268, R269, R387). -/
def stealable (s : State) (thief victim : Nat) : List Rec :=
  (coreAt s victim).recs.filter fun r =>
    r.st = .ready && r.steal && inDomain r.ctx thief &&
    (s.tenants.get r.ctx.tenant).clusters.getLsbD (clusterOf thief)

/-- The earliest stealable record of the cores of one scope, with its core (R269). -/
def bestSteal (s : State) (scope : Nat → Bool) : Option (Nat × Rec) :=
  let me := s.cpu.id
  ((coreList s).filter fun n => n != me && scope n).foldl (fun best n =>
    match firstOf (fun a b => a.order < b.order || (a.order = b.order && hSlot a.ctx.tself < hSlot b.ctx.tself))
        (stealable s me n), best with
    | none, b => b
    | some r, none => some (n, r)
    | some r, some (m, q) =>
      if r.order < q.order || (r.order = q.order && hSlot r.ctx.tself < hSlot q.ctx.tself) then some (n, r) else some (m, q))
    none

/-- What an idle core may steal: its own cluster first, then its die, then the package (R269). -/
def stealTarget (s : State) : Option (Nat × Rec) :=
  let me := s.cpu.id
  match bestSteal s (fun n => n / 8 = me / 8) with
  | some x => some x
  | none =>
    match bestSteal s (fun n => n / 96 = me / 96) with
    | some x => some x
    | none => bestSteal s fun _ => true

/-- A stolen context that ONCE exempts keeps the core whose ONCE it is (R414). -/
def exemptBy (core : Nat) (c : Ctx) : Ctx := if c.once then { c with onceOn := some (c.onceOn.getD core) } else c

/-- STEAL: the record moves to the idle core's context cache with its signal order, over the steal edge. It is put off
while the eviction that it needs cannot be made; a core whose only ready contexts are spilled ones that cannot be read
back now counts as having one, and steals none (R268, R269, R271; DESIGN CHOICE, log 75). -/
def execSteal (s : State) : Out :=
  .next (if !between s || (choice s).isSome then s
    else
      match stealTarget s with
      | none => s
      | some (n, r) =>
        match makeRoom (s.cpu.recs.length + 1) s s.cpu.id (recBytes r) with
        | .ok s =>
          let (r, s) := fromShed s n r
          let s := takeRec (writeBack s n) n r.ctx.tself
          let s := invalidate s s.cpu.id
          modCpu (bump s 7) fun c => { c with recs := c.recs ++ [{ r with steal := false, ctx := exemptBy n r.ctx }] }
        | _ => s)

/-- SPILL_HOLD_END: an instruction held for want of Woodshed space is offered again, or its doomed task is reclaimed
(R253, R261). The instruction itself ends the hold when the ring has room or its token is signalled. -/
def execSpillHoldEnd (s : State) : Out :=
  .next (if s.cpu.hold = .wait && s.cpu.who = .task then
      (if reclaimable s then reclaim s else modCpu s fun c => { c with stall := none })
    else if s.cpu.hold = .eret then modCpu s fun c => { c with stall := none }
    else s)

end Sys2Proof.Machine
end

