-- ==== Sys2Proof/Machine/Reel.lean ====
section
/-!
DEFINITION. The Reel: queues, arrival, dispatch, completion and cancellation, the draining of a tenant, and the host's
registers (R387 to R399, R429 to R439).
-/

namespace Sys2Proof.Machine

/-- What a host does through its port; in RECOVERY only the mailbox answers (R398, R402). -/
def portDoes (s t : State) : State := if s.boot = .recovery then s else t

/-- DOORBELL: TAIL of a queue (R390, R398). -/
def execDoorbell (host : Fin 2) (queue : Fin 16) (tail : Word) (s : State) : Out :=
  let q := queueSlot (.host host queue)
  .next (portDoes s { s with queues := s.queues.set q { s.queues.get q with tail := tail.toNat } })

/-- HOST_SIGNAL: HOST is pending on the core that the host's route names (R388, R398). -/
def execHostSignal (host : Fin 2) (s : State) : Out :=
  let n := (s.hostRoute.get host).toNat
  .next (portDoes s (if n < 768 then modCore s n fun c => { c with pendHost := true } else s))

/-- The entry of a queue's 64 bytes, arriving now (R390, R391). A TIER above 3 counts as a reserved field (log 25). -/
def entryFrom (s : State) (q : QueueId) (b : List Byte) : Entry :=
  { queue := q, lrec := BitVec.ofNat 64 (at_ b 0 8), deadline := BitVec.ofNat 64 (at_ b 8 8),
    compl := BitVec.ofNat 64 (at_ b 16 8), tier := if q = .mgmt then 0 else at_ b 24 1,
    reserved := at_ b 25 3 != 0 || at_ b 32 32 != 0 || 3 < at_ b 24 1, seq := BitVec.ofNat 32 (at_ b 28 4),
    arrival := s.devtime, readAt := s.clock }

/-- The tenant drains: its entries complete as CANCELLED (R389). -/
def draining (s : State) (t : Fin 16) : Bool := (s.tenants.get t).state = 2

/-- Whether a queue has an entry that the Reel has not read (R390, R402; log 26). -/
def entryWaits (s : State) (q : Queue) : Bool := q.en && q.head != q.tail && s.boot != .recovery

/-- The place of a queue among those that the Reel reads in one cycle: management, then by host and queue number (R391,
R399). -/
def queueRank : QueueId → Nat
  | .mgmt => 0
  | .host h t => 1 + 16 * h.val + t.val

/-- An entry put into the arrival order: after those of earlier cycles, and among those of its cycle by its queue (R391). -/
def insertEntry (e : Entry) : List Entry → List Entry
  | [] => [e]
  | x :: xs => if x.readAt = e.readAt && queueRank e.queue < queueRank x.queue then e :: x :: xs else x :: insertEntry e xs

/-- The next entry of a queue read into the arrival order (R391). The ring is read under key slot 0: R390 names no key
(DESIGN CHOICE, log 67). -/
def arrive (s : State) (id : QueueId) : State :=
  let i := queueSlot id
  let q := s.queues.get i
  if !entryWaits s q then s
  else
    let (b, s) := readPhys s 0 (q.base.toNat + 64 * (q.head % 2 ^ q.log2n)) 64
    let e := entryFrom s id b
    let s := { s with queues := s.queues.set i { q with head := (q.head + 1) % 2 ^ 64 } }
    if draining s (queueTenant id) then complete s (unrun s e 3)
    else { s with reel := { s.reel with pending := insertEntry e s.reel.pending } }

/-- Every entry that a doorbell has covered read in order, at most `fuel`. -/
def arriveAll : Nat → State → QueueId → State
  | 0, s, _ => s
  | fuel + 1, s, q => if entryWaits s (s.queues.get (queueSlot q)) then arriveAll fuel (arrive s q) q else s

/-- The entries of a queue that the Reel has not read, at most what the ring holds. -/
def unread (q : Queue) : Nat := min (2 ^ q.log2n) ((q.tail + 2 ^ 64 - q.head) % 2 ^ 64)

/-- The management queue is read before every host queue (R399). -/
def mgmtFirst (s : State) : State := arriveAll (unread (s.queues.get 32)) s .mgmt

/-- ENTRY_ARRIVAL (R391, R399). -/
def execEntryArrival (queue : QueueId) (s : State) : Out :=
  .next (match queue with
    | .mgmt => arrive s .mgmt
    | .host h t => arrive (mgmtFirst s) (.host h t))

/-- The first entry of a list that is best under a strict order; earlier arrivals come first. -/
def bestEntry (before : Entry → Entry → Bool) : List Entry → Option Entry
  | [] => none
  | e :: es =>
    match bestEntry before es with
    | some f => if before f e then some f else some e
    | none => some e

/-- The entry that a dispatch takes; a draining tenant's are not dispatched (R389, R392). -/
def pickEntry (s : State) : Option Entry :=
  let es := s.reel.pending.filter fun e => !draining s (queueTenant e.queue)
  let best := bestEntry (fun a b => a.tier < b.tier || (a.tier = b.tier && a.deadline < b.deadline)) es
  match es.find? fun e => e.tier = 3 with
  | some old => if old.arrival.toNat + 1000000 ≤ s.devtime.toNat && 15 ≤ s.reel.since3 then some old else best
  | none => best

/-- A picked entry leaves the pending ones, and takes a dispatch slot (R392, R393). -/
def takeEntry (s : State) (e : Entry) : State :=
  let r := s.reel
  { s with reel := { r with pending := r.pending.erase e, since3 := if e.tier = 3 then 0 else r.since3 + 1,
                            next := s.clock + 100 } }

/-- A launch record that R437 refuses, by its bytes and the entry's tier. It names KIND and LHINT values of 5 to 7; the
larger ones of their bytes, and an NARGS above 7, are refused too (R437; DESIGN CHOICE, log 137). -/
def badRecord (b : List Byte) (tier : Nat) : Bool :=
  let n := at_ b 8 1
  n = 0 || 8 < n || n ≤ at_ b 9 1 || 1 < at_ b 10 1 || 4 < at_ b 11 1 || 64 < at_ b 12 1 || 8 < at_ b 13 1 ||
  3 < at_ b 14 1 || 7 < at_ b 15 1 || (List.range 8).any (fun j => if j < n then 4 < at_ b (16 + j) 1 else at_ b (16 + j) 1 != 0) ||
  (List.range 7).any (fun j => at_ b 15 1 ≤ j && at_ b (40 + 8 * j) 8 != 0) || at_ b 96 32 != 0 ||
  at_ b 0 8 % 64 != 0 || tier < at_ b 14 1

/-- An object header that R431 refuses. -/
def badHeader (b : List Byte) : Bool :=
  at_ b 0 4 != 0x4B4F4B48 || at_ b 4 2 != 1 || at_ b 6 1 = 0 || 8 < at_ b 6 1 || at_ b 7 1 != 0 || at_ b 16 48 != 0 ||
  at_ b 8 8 % 64 != 0

/-- An image descriptor is eligible for a tenant's launch (R434). -/
def eligible (t : Tenant) (d : List Byte) : Bool :=
  at_ d 0 1 = 1 && 9 ≤ at_ d 1 1 && at_ d 1 1 ≤ 11 && 11 ≤ at_ d 2 1 && at_ d 2 1 ≤ 16 && at_ d 3 1 ≤ 1 &&
  at_ d 4 4 < 16 && Nat.land (at_ d 4 4) t.featmask.toNat = 0 && at_ d 8 1 ≤ 64 && at_ d 9 1 ≤ 8 && at_ d 11 1 = 0 &&
  at_ d 24 8 % 8 = 0 && at_ d 36 28 = 0 && (at_ d 3 1 = 1 || at_ d 10 1 = 0)

/-- An eligible image fits a launch record (R435). -/
def fits (t : Tenant) (l d : List Byte) : Bool :=
  let c := max (at_ l 12 1) (at_ d 8 1)
  c ≤ 64 && c * at_ d 12 4 ≤ 131072 && max (at_ l 13 1) (at_ d 9 1) ≤ t.bankmax &&
  max (at_ l 28 4) (at_ d 16 4) ≤ 4194304 && at_ d 20 4 ≤ 262144 && at_ l 24 4 < at_ d 32 4

/-- The image that a launch takes: at feature level 1 every eligible one ranks by its index (R436). -/
def chooseImage (t : Tenant) (l : List Byte) (ds : List (List Byte)) : Option (List Byte) :=
  ds.find? fun d => eligible t d && fits t l d

/-- The image table of an object: its descriptors (R429). -/
def readImages (s : State) (tenant : Fin 16) (imgt : Nat) : Nat → Option (List (List Byte)) × State
  | 0 => (some [], s)
  | n + 1 =>
    match reelRead s tenant imgt 64 with
    | (none, s) => (none, s)
    | (some d, s) =>
      match readImages s tenant (imgt + 64) n with
      | (some ds, s) => (some (d :: ds), s)
      | (none, s) => (none, s)

/-- What a dispatch finds out from memory: the status that refuses the entry, with the launch record once it is read, or
the launch record, the image and the entry point (R393, R431, R436, R437). -/
inductive Plan
  | refuse (status : Nat) (record : Option (List Byte))
  | run (record image : List Byte) (entry : Word)
  deriving DecidableEq, Repr

/-- The object of a launch record read, and its image chosen (R431, R436). -/
def planImage (s : State) (tenant : Fin 16) (l : List Byte) : Plan × State :=
  match reelRead s tenant (at_ l 0 8) 64 with
  | (none, s) => (.refuse 4 (some l), s)
  | (some h, s) =>
    if badHeader h then (.refuse 4 (some l), s)
    else
      match readImages s tenant (at_ h 8 8) (at_ h 6 1) with
      | (none, s) => (.refuse 4 (some l), s)
      | (some ds, s) =>
        match chooseImage (s.tenants.get tenant) l ds with
        | none => (.refuse 2 (some l), s)
        | some d =>
          match reelRead s tenant (at_ d 24 8 + 8 * at_ l 24 4) 8 with
          | (none, s) => (.refuse 4 (some l), s)
          | (some e, s) => (.run l d (BitVec.ofNat 64 (ofBytes e)), s)

/-- The completion record of an entry can be written (R393). -/
def complOk (s : State) (tenant : Fin 16) (compl : Word) : Bool × State :=
  match reelPlace s tenant .write compl.toNat with
  | (some _, s) => (compl.toNat % 32 = 0, s)
  | (none, s) => (false, s)

/-- The checks of an entry and of what it names (R393, R399). -/
def planEntry (s : State) (e : Entry) : Plan × State :=
  let t := queueTenant e.queue
  let x := s.tenants.get t
  if e.reserved || e.tier < x.tiermin || x.state != 1 || e.lrec.toNat % 64 != 0 then (.refuse 4 none, s)
  else
    match complOk s t e.compl with
    | (false, s) => (.refuse 4 none, s)
    | (true, s) =>
      match reelRead s t e.lrec.toNat 128 with
      | (none, s) => (.refuse 4 none, s)
      | (some l, s) => if badRecord l e.tier then (.refuse 4 (some l), s) else planImage s t l

/-- A core that may take a root task of a tenant: in a permitted cluster, with a record to spare (R393). -/
def mayTake (s : State) (t : Fin 16) (n : Nat) : Bool :=
  let c := coreAt s n
  (s.tenants.get t).clusters.getLsbD (clusterOf n) && (c.recs.filter fun r => r.spill.isNone).length < c.ctxlim

/-- The permitted core with the fewest ready contexts, the lowest `coreid` on a tie (R393). -/
def dispatchCore (s : State) (t : Fin 16) : Option Nat :=
  let ready (n : Nat) : Nat := ((coreAt s n).recs.filter fun r => r.st = .ready).length
  ((List.range 768).filter (mayTake s t)).foldl (fun best n =>
    match best with
    | none => some n
    | some m => if ready n < ready m then some n else some m) none

/-- The launch cap of an image and a record (R439). -/
def launchCapOf (l d : List Byte) : Nat :=
  let c := match at_ l 11 1 with
    | 1 => 1 | 2 => 2 | 3 => 4 | _ => 8
  min 8 (min c (2 ^ at_ d 2 1 / 2048))

/-- The initial context of a root task on a core (R393, R438, R439). -/
def rootCtx (e : Entry) (l d : List Byte) (pc h : Word) (core : Nat) : Ctx :=
  { Ctx.reset with
    pc := pc
    g := Vector.ofFn fun i : Fin 32 =>
      if 2 ≤ i.val && i.val < 2 + at_ l 15 1 then BitVec.ofNat 64 (at_ l (40 + 8 * (i.val - 2)) 8) else 0
    tself := h
    kinds := (List.range (at_ l 8 1)).map fun j => at_ l (16 + j) 1
    level := at_ l 9 1
    pin := at_ l 10 1 = 1
    domCore := core
    cap := launchCapOf l d
    launchCap := launchCapOf l d
    ceiling := min 8 (2 ^ at_ d 2 1 / 2048)
    cls := 3 - e.tier
    limit := 3 - e.tier
    tenant := queueTenant e.queue
    priv := if e.queue = .mgmt then 1 else 0 }

/-- The deadline that MISSED compares with (R438). -/
def deadlineOf (e : Entry) (l : List Byte) : Word :=
  if e.deadline = BitVec.allOnes 64 && at_ l 32 8 != 0 then
    BitVec.ofNat 64 (Nat.min (e.arrival.toNat + at_ l 32 8) (2 ^ 64 - 1))
  else e.deadline

/-- The completion of an entry for which nothing runs, with the deadline of its launch record once that is read (R393,
R438). -/
def refused (s : State) (e : Entry) (status : Nat) (l : Option (List Byte)) : Completion :=
  unrun s { e with deadline := (l.map (deadlineOf e)).getD e.deadline } status

/-- The root task created on a core: its future, whose one reference the Reel holds, and its record in the ready set. It
begins without the clean bytes that the core's L1 holds, so that it reads the launch's initial write. Where the eviction
that its record needs finds the ring full or a page failing, of which R393 does not speak, the dispatch is put off and has
no effect (R272, R393, R394, R438; DESIGN CHOICE, log 123). -/
def startRoot (s : State) (e : Entry) (l d : List Byte) (pc : Word) (core : Nat) : State :=
  match allocFut s 0 with
  | none => complete (takeEntry s e) (refused s e 2 (some l))
  | some (h, t) =>
    let r := readyRec t (rootCtx e l d pc h core) .gate false
    match makeRoom ((coreAt s core).recs.length + 1) t core (recBytes r) with
    | .ok t =>
      let lim := max (at_ l 12 1) (at_ d 8 1)
      let t := takeEntry t e
      let t := modCore t core fun c => { c with recs := c.recs ++ [r], ctxlim := if lim = 0 then c.ctxlim else lim }
      { t with reel := { t.reel with launches := t.reel.launches ++
          [{ queue := e.queue, seq := e.seq, compl := e.compl, deadline := deadlineOf e l, dispatched := t.devtime,
             root := h, cancelled := false, ended := none }] } }
    | _ => s

/-- A picked entry dispatched, refused, or left waiting for a core. R386 names the Reel among the writers of a pre-emption
request and no rule says when it writes one: a dispatch writes none (R393; DESIGN CHOICE, log 125). -/
def dispatchEntry (s : State) (e : Entry) : State :=
  match planEntry s e with
  | (.refuse st l, s) => complete (takeEntry s e) (refused s e st l)
  | (.run l d pc, s) =>
    if (freeSlot s).isNone then complete (takeEntry s e) (refused s e 2 (some l))
    else
      match dispatchCore s (queueTenant e.queue) with
      | none => s
      | some n => startRoot s e l d pc n

/-- Whether the Reel may dispatch now: 100 cycles after its last dispatch, with an entry pending (R393). -/
def dispatchDue (s : State) : Bool := s.reel.next ≤ s.clock && !s.reel.pending.isEmpty

/-- DISPATCH (R392, R393). -/
def execDispatch (s : State) : Out :=
  .next (if dispatchDue s then
      match pickEntry s with
      | some e => dispatchEntry s e
      | none => s
    else s)

/-- A launch taken off the list. -/
def dropLaunch (s : State) (root : Word) : State :=
  { s with reel := { s.reel with launches := s.reel.launches.filter fun l => l.root != root } }

/-- The completion of a launch whose root has ended (R395, R396). -/
def finishLaunch (s : State) (l : Launch) : State :=
  let f := futAt s (hSlot l.root)
  if l.cancelled then complete (dropLaunch s l.root) (cutOff s l 3)
  else
    let s := match f.loc with
      | some n => writeBack s n
      | none => s
    let c : Completion := { cutOff s l (if f.st = .failed then 1 else 0) with result := f.result }
    dropRefs (complete (dropLaunch s l.root) c) [l.root]

/-- LAUNCH_COMPLETION (R395, R396). -/
def execLaunchCompletion (root : Word) (s : State) : Out :=
  .next (match s.reel.launches.find? fun l => l.root = root && l.ended.isSome with
    | some l => finishLaunch s l
    | none => s)

/-- The Reel gives up a launch: it drops the root's reference, and the root is doomed (R389, R396). One whose root has
ended already completes as it ended. -/
def giveUp (s : State) (l : Launch) : State :=
  if l.cancelled || l.ended.isSome then s
  else
    let s := { s with reel := { s.reel with launches := s.reel.launches.map fun m =>
      if m.root = l.root then { m with cancelled := true } else m } }
    dropRefs s [l.root]

/-- Entries and launches that meet a condition cancelled (R389, R396). -/
def cancelAll (s : State) (p : QueueId → BitVec 32 → Bool) : State :=
  let gone := s.reel.pending.filter fun e => p e.queue e.seq
  let s := { s with reel := { s.reel with pending := s.reel.pending.filter fun e => !p e.queue e.seq } }
  let s := completeAll s (gone.map fun e => unrun s e 3)
  (s.reel.launches.filter fun l => p l.queue l.seq).foldl giveUp s

/-- CANCEL: every entry of the queue with this SEQ that has not completed, those included that a doorbell has covered and
the Reel has not read (R396). -/
def execCancel (host : Fin 2) (queue : Fin 16) (seq : BitVec 32) (s : State) : Out :=
  let id : QueueId := .host host queue
  let t := arriveAll (unread (s.queues.get (queueSlot id))) (mgmtFirst s) id
  .next (portDoes s (cancelAll t fun i n => i = id && n = seq))

/-- TENANT_DRAIN: with STATE 2, the tenant's entries are cancelled and its root futures dropped (R389). -/
def execTenantDrain (tenant : Fin 16) (s : State) : Out :=
  .next (if draining s tenant then cancelAll s fun i _ => queueTenant i = tenant else s)

/-- Whether a task of a tenant remains: on a core, in a trap, in a record or at a gate (R389). -/
def tenantRuns (s : State) (t : Fin 16) : Bool :=
  (coreList s).any (fun n =>
    let c := coreAt s n
    (c.who = .task && c.live.tenant = t) || ((c.trapped.map fun x => x.tenant) = some t) ||
    c.recs.any fun r => r.ctx.tenant = t) ||
  s.gates.any fun g => g.child.tenant = t

/-- Whether a bank of a tenant still has jobs in its order (R303, R389). -/
def tenantJobs (s : State) (t : Fin 16) : Bool :=
  s.clusters.any fun p => p.2.banks.toList.any fun b => b.owner = some t && !b.jobs.isEmpty

/-- A tenant's banks freed and cleared (R296, R389). -/
def freeBanks (s : State) (t : Fin 16) : State :=
  { s with clusters := s.clusters.map fun p =>
      (p.1, { p.2 with banks := p.2.banks.map fun b => if b.owner = some t then Bank.reset else b }) }

/-- Whether an entry or a launch of a tenant is still to be completed or given up: undispatched, unread, or running and
not cancelled (R389). -/
def tenantWaits (s : State) (t : Fin 16) : Bool :=
  (s.reel.pending.any fun e => queueTenant e.queue = t) ||
  (s.reel.launches.any fun l => queueTenant l.queue = t && !l.cancelled) ||
  ((if t = 0 then [QueueId.mgmt] else []) ++ (List.finRange 2).map fun h => QueueId.host h t).any fun q =>
    entryWaits s (s.queues.get (queueSlot q))

/-- TENANT_DRAIN_END: once the tenant's entries are completed and no task of it remains, its banks and TLB entries go, and
STATE becomes 0 (R389). -/
def execTenantDrainEnd (tenant : Fin 16) (s : State) : Out :=
  .next (if draining s tenant && !tenantWaits s tenant && !tenantRuns s tenant && !tenantJobs s tenant then
      let s := dropTlb (freeBanks s tenant) fun e => e.tenant = tenant
      { s with tenants := s.tenants.set tenant { s.tenants.get tenant with state := 0 } }
    else s)

end Sys2Proof.Machine
end

