-- ==== Sys2Proof/Machine/Manage.lean ====
section
/-!
DEFINITION. Boot and keys, measurements, control registers and the BAR2 aperture, errors, power and wear
(R388, R398 to R404).
-/

namespace Sys2Proof.Machine

/-- An address of a TCM or a CSP (R23). -/
def inSram (pa : Nat) : Bool :=
  (tcmBase ≤ pa && pa < tcmBase + 0x40000 * 768) || (cspBase ≤ pa && pa < cspBase + 0x400000 * 96)

/-- Physical bytes at their homes under a key index, each at its own: HBM; the TCMs and CSPs, for an agent that reaches
them (`sram`); or a range of control registers. A byte of none of these is free (R388, R398, R428, log 21). -/
def physRead (sram : Bool) (s : State) (key : Fin 64) (pa n : Nat) : List Byte × State :=
  if ctlBase ≤ pa && pa + n ≤ ctlEnd then (ctlRead s pa n, s)
  else
    let h := min n (hbmEnd - pa)
    let (bs, s) := readPhys s key pa h
    (bs ++ (span h n).map fun i => if sram && inSram (pa + i) then memGet s.mem (pa + i) else Config.byte s.tick i, s)

/-- Physical bytes written at their homes, each at its own; an address of none of these keeps nothing. -/
def physWrite (sram : Bool) (s : State) (key : Fin 64) (pa : Nat) (bs : List Byte) : State :=
  if ctlBase ≤ pa && pa + bs.length ≤ ctlEnd then ctlWrite s pa bs
  else
    let h := min bs.length (hbmEnd - pa)
    let put (t : State) (p : Nat × Byte) : State :=
      if sram && inSram p.1 then { t with mem := memPut t.mem p.1 [p.2], poison := unpoison t.poison p.1 1 } else t
    (((span h bs.length).map (pa + ·)).zip (bs.drop h)).foldl put (writePhys s key pa (bs.take h))

/-- A physical range lies in one that firmware has opened to a host (R398). -/
def openedTo (s : State) (host : Fin 2) (pa n : Nat) : Bool :=
  s.opened.any fun r => r.1 = host && r.2.1 ≤ pa && pa + n ≤ r.2.1 + r.2.2

/-- BAR2_ACCESS: a host access through the aperture, in plaintext under key slot 0. One outside the opened ranges reaches
nothing: a write is dropped, and a read has free bytes (R398, log 21). The TCMs and CSPs are reached by the windows and
the Flue alone (R19, R186, R190), so an address of theirs in an opened range keeps nothing and reads free bytes (DESIGN
CHOICE, log 106). In RECOVERY the aperture does not answer (R402). -/
def execBar2Access (host : Fin 2) (offset : BitVec 36) (access : PortAccess) (s : State) : Out :=
  let pa := (s.bar2.get host).toNat * 2 ^ 36 + offset.toNat
  if s.boot = .recovery then .next s
  else match access with
  | .read n =>
    if openedTo s host pa n then
      let (bs, s) := physRead false s 0 pa n
      .next { s with answer := bs }
    else .next { s with answer := (List.range n).map (Config.byte s.tick) }
  | .write bs => .next (if openedTo s host pa bs.length then physWrite false s 0 pa bs else s)

/-- A byte of a host's BAR0: the aperture base, the mailbox window and the MSI-X table; the offsets of R398 that read 0;
and free bytes at the others (R398, log 27). -/
def bar0Byte (s : State) (host : Fin 2) (off : Nat) : Byte :=
  if 0x100 ≤ off && off < 0x108 then BitVec.ofNat 8 (bits ((s.bar2.get host).toNat * 2 ^ 36) (8 * (off - 0x100)) 8)
  else if 0x2000 ≤ off && off < 0x3200 then memGet s.bar0 (2 ^ 26 * host.val + off)
  else if 0x1000 ≤ off && off < 0x1200 && 0x80 ≤ (off - 0x1000) % 0x100 then 0
  else Config.byte s.tick off

/-- Bytes written in a host's BAR0: the mailbox window, the MSI-X table and the aperture base (R398). -/
def bar0Write (s : State) (host : Fin 2) (off : Nat) (bs : List Byte) : State :=
  if 0x2000 ≤ off && off + bs.length ≤ 0x3200 then { s with bar0 := memPut s.bar0 (2 ^ 26 * host.val + off) bs }
  else if off = 0x100 then { s with bar2 := s.bar2.set host (BitVec.ofNat 4 (bits (ofBytes bs) 36 4)) }
  else s

/-- A wear gauge as the management interface reads it, AGE and EOL in two bytes each (R401). -/
def gaugeByte (s : State) (off : Nat) : Byte :=
  let w := (s.wear.find (off / 4)).getD (0, 0xFFFF)
  BitVec.ofNat 8 (bits (w.1.toNat + w.2.toNat * 2 ^ 16) (8 * (off % 4)) 8)

/-- A byte that the management interface reads: a control register, a BAR0 window at host times 2^26, or one of the 256
gauges from 2^27 (R388, R398, R401, log 27). -/
def portByte (s : State) (a : Nat) : Byte :=
  if ctlBase ≤ a then (ctlRead s a 1).headD 0
  else if a < 0x8000000 then bar0Byte s (Fin.ofNat 2 (a / 0x4000000)) (a % 0x4000000)
  else if a < 0x8000400 then gaugeByte s (a - 0x8000000)
  else Config.byte s.tick a

/-- In RECOVERY only the mailbox answers (R402). -/
def mailboxOnly (s : State) (a : Nat) : Bool :=
  s.boot = .recovery && !(a < 0x8000000 && 0x2000 ≤ a % 0x4000000 && a % 0x4000000 < 0x3000)

/-- REGISTER_WRITE: a write, or a read, of a register that has no event of its own: of the control range at its physical
address, and below 2^27 of the BAR0 windows of the hosts; from 2^27 the gauges (R388, R398, R401, log 27). -/
def execRegisterWrite (pa : BitVec 40) (access : PortAccess) (s : State) : Out :=
  let a := pa.toNat
  if mailboxOnly s a then .next s
  else
    match access with
    | .read n => .next { s with answer := (List.range n).map fun i => portByte s (a + i) }
    | .write bs =>
      .next (if ctlBase ≤ a && a < ctlEnd then ctlWrite s a bs
        else if a < 0x8000000 then bar0Write s (Fin.ofNat 2 (a / 0x4000000)) (a % 0x4000000) bs
        else s)

/-- What the management core answers through the mailbox: it stands in `answer`, and vector 30 goes to both hosts (R398,
R402, log 27). -/
def mailAnswer (s : State) (bs : List Byte) : State := { s with answer := bs, msix := s.msix ++ [(0, 30), (1, 30)] }

/-- A measurement register extended (R402). -/
def extend (s : State) (m : Fin 8) (d : BitVec 384) : State :=
  { s with meas := s.meas.set m (sha384 (toBytes 48 (s.meas.get m).toNat ++ toBytes 48 d.toNat)) }

/-- The measurement of an image (R402). -/
def measure (s : State) (m : Fin 8) (image : List Byte) : State := extend s m (sha384 image)

/-- A firmware image may run: both its signatures verify against the fused keys, and its security version is at least the
fused minimum (R402 steps 3 and 4). -/
def accepted (x : SignedImage) : Bool := Config.verifies Config.fusedKeys x.content && Config.fusedVersion ≤ x.version

/-- System software may run: both its signatures verify against the keys in the manifest of the firmware that checks it
(R402 step 5, log 23). -/
def acceptedBy (firmware x : SignedImage) : Bool := Config.verifies (Config.manifestKeys firmware.content) x.content

/-- The future table written to zero under key slot 0, at the place and with the size that its registers give it (R229,
R402). -/
def zeroTable (s : State) : State :=
  let hi := min (s.ftbase + 64 * futCount s) hbmEnd
  let inside (line : Nat) : Bool := s.ftbase / 128 ≤ line && line < hi / 128
  { s with
    futs := []
    mem := s.mem.filter fun c => !(s.ftbase ≤ c.1 && c.1 < hi)
    lineKey := s.lineKey.filter fun p => !inside p.1
    poison := s.poison.filter fun p => !inside p.1
    zeroed := some (s.ftbase / 128, hi / 128, s.keys.get 0) }

/-- The registers that firmware sets while it boots: tenant 0 is active with TIERMIN 0 before the management queue is
written, through which firmware starts the system tasks (R402, R388, R398, R399). -/
def bootRegs (s : State) (x : BootImages) : State :=
  let s := zeroTable { s with ftbase := bits x.ftbase.toNat 16 24 * 2 ^ 16 }
  let s := { s with
    devid := x.device.val
    ndev := max 1 x.ndev.val
    pod := x.pod.val
    opened := x.opened
    versions := [x.firmware, x.baseDie, x.ioDie, x.system].map (·.version)
    identity := x.identity
    tenants := s.tenants.set 0
      { (if x.tenant.isEmpty then s.tenants.get 0 else tenantOf x.tenant) with state := 1, tiermin := 0 }
    queues := if x.mgmt.isEmpty then s.queues else s.queues.set 32 (queueOf (s.queues.get 32) x.mgmt) }
  (List.range 768).foldl (fun t n => modCore t n fun c => { c with fvec := x.fvec &&& ~~~0x3F }) s

/-- BOOT: images verified and measured in their order; a failure leaves the device in RECOVERY, and success is reported
through the mailbox, in bytes that the manual does not give (R402, log 21). -/
def execBoot (images : BootImages) (s : State) : Out :=
  let down (s : State) : State := { s with boot := .recovery }
  .next (if s.boot != .off then s
    else if !accepted images.firmware then down s
    else
      let s := { measure s 0 images.firmware.content with firmware := true }
      if !accepted images.baseDie || !accepted images.ioDie then down s
      else
        let s := measure (measure s 1 images.baseDie.content) 1 images.ioDie.content
        let s := { s with devtime := images.devtime, keys := s.keys.set 0 (Config.random s.tick) }
        if !acceptedBy images.firmware images.system then down s
        else mailAnswer { bootRegs (measure s 2 images.system.content) images with boot := .ready } [Config.byte s.tick 0])

/-- KEY_SLOT_WRITE: the lines written under the old key value keep it until they are written again. An access under this
index decrypts them with the new key from then on, also one that finds its line in L2: neither R191 nor R402 says whether
a line that is written back stays resident there as clear text (R191, R402; DESIGN CHOICE, log 120). -/
def execKeySlotWrite (slot : Fin 64) (key : BitVec 512) (s : State) : Out :=
  .next { s with keys := s.keys.set slot key }

/-- A mailbox command that firmware carries out: nothing does while none has been accepted (R402). -/
def byFirmware (s : State) (f : State → State) : Out := .next (if s.firmware then f s else s)

/-- TENANT_KEY_LOAD: a wrapped key that verifies goes into one of slots 1 to 63 (R402). -/
def execTenantKeyLoad (slot : Fin 64) (wrapped : List Byte) (s : State) : Out :=
  byFirmware s fun s =>
    match Config.unwrap wrapped with
    | some k => if slot.val = 0 then s else { s with keys := s.keys.set slot k }
    | none => s

/-- MEASUREMENT_EXTEND: M3 to M7 alone (R402). -/
def execMeasurementExtend (reg : Fin 8) (digest : BitVec 384) (s : State) : Out :=
  byFirmware s fun s => if 3 ≤ reg.val then extend s reg digest else s

/-- What an attestation signs: the nonce, M0 to M7, the security versions and the device identity (R402, log 23). -/
def quoted (s : State) (nonce : BitVec 256) : List Byte :=
  toBytes 32 nonce.toNat ++ (s.meas.toList.map fun m => toBytes 48 m.toNat).flatten ++
  (s.versions.map fun v => toBytes 4 v).flatten ++ s.identity

/-- ATTESTATION_REQUEST: the response carries the measurements, the security versions and the device identity with both
signatures (R402). -/
def execAttestationRequest (nonce : BitVec 256) (s : State) : Out :=
  byFirmware s fun s => mailAnswer s (quoted s nonce ++ Config.attest (quoted s nonce))

/-- DEBUG_AUTHORIZATION: one that firmware finds to verify makes the debug commands available, and extends M7 (R426). -/
def execDebugAuthorization (request : List Byte) (s : State) : Out :=
  byFirmware s fun s =>
    if Config.verifies Config.fusedKeys request then { measure s 7 request with debugOk := true } else s

/-- CORRECTED_ERROR: logged, with no effect on architectural state (R403, R404). -/
def execCorrectedError (unit : Nat) (address : Word) (s : State) : Out :=
  .next (logError s { cls := 0, unit := unit, address := address })

/-- The line, record or word of a contained error marked (R403). -/
def markSite (s : State) (site : PoisonSite) : State :=
  match site with
  | .line pa => { s with poison := Tab.put s.poison (pa.toNat / 128) 0 }
  | .context core handle =>
    modCore s core.val fun c =>
      { c with recs := c.recs.map fun r => if r.ctx.tself = handle then { r with poison := true } else r
               trapPoison := c.trapPoison || (c.trapped.map fun x => x.tself) = some handle }
  | .tile cl bank k col =>
    modBank s cl.val bank fun b =>
      { b with poisonTile := b.poisonTile ||| (1 : BitVec 65536) <<< (256 * k.val + col.val) }
  | .scale cl bank kb col =>
    modBank s cl.val bank fun b =>
      { b with poisonScales := b.poisonScales ||| (1 : BitVec 2048) <<< (256 * kb.val + col.val) }
  | .accumulator cl bank row col =>
    modBank s cl.val bank fun b =>
      { b with poisonAcc := b.poisonAcc ||| (1 : BitVec 16384) <<< (256 * row.val + col.val) }

/-- The address that a contained error is logged with (log 16). -/
def siteAddress : PoisonSite → Word
  | .line pa => pa.setWidth 64
  | .context _ handle => handle
  | .tile _ bank k col => BitVec.ofNat 64 (bank.val * 2 ^ 16 + k.val * 256 + col.val)
  | .scale _ bank kb col => BitVec.ofNat 64 (bank.val * 2 ^ 16 + kb.val * 256 + col.val)
  | .accumulator _ bank row col => BitVec.ofNat 64 (bank.val * 2 ^ 14 + row.val * 256 + col.val)

/-- CONTAINED_ERROR (R403). -/
def execContainedError (error : ContainedError) (s : State) : Out :=
  .next (logError (markSite s error.site) { cls := 1, unit := error.unit, address := siteAddress error.site })

/-- UNCONTAINED_ERROR (R403). -/
def execUncontainedError (unit : Nat) (address : Word) (s : State) : Out := .next (goFatal s unit address)

/-- The islands of a die: of a compute die the front and the Kiln of its twelve clusters and its six shared ones, of an
I/O die four, of a base die one (R27, log 17). -/
def onDie (die : Die) (n : Nat) : Bool :=
  match die with
  | .compute d =>
    if n < 96 then n / 12 = d.val
    else if n < 192 then (n - 96) / 12 = d.val
    else n < 240 && (n - 192) / 6 = d.val
  | .io d => 240 ≤ n && n < 248 && (n - 240) / 4 = d.val
  | .base d => n = 248 + d.val

/-- The number of a die in an error record: the compute dies, the I/O dies, then the base dies (log 17). -/
def dieNumber : Die → Nat
  | .compute d => d.val
  | .io d => 8 + d.val
  | .base d => 10 + d.val

/-- THERMAL_THROTTLE (R400). -/
def execThermalThrottle (die : Die) (s : State) : Out :=
  .next { s with points := Vector.ofFn fun i : Fin 256 => if onDie die i.val then 0 else s.points.get i }

/-- THERMAL_TRIP: an uncontained error (R400, R403). -/
def execThermalTrip (die : Die) (s : State) : Out := .next (goFatal s 3 (BitVec.ofNat 64 (dieNumber die)))

/-- An island turned off, if it holds no state: lane group n of a cluster while no core's grant has it, or with n = 8 the
Kiln island while no bank is bound. A grant and MXBIND turn it on again (R400). -/
def turnOff (s : State) (cl n : Nat) : State :=
  let c := clusterAt s cl
  if n < 8 then
    (if c.grants.toList.any (·.getLsbD n) then s
     else setCluster s cl { c with gated := c.gated ||| (1 : BitVec 8) <<< n })
  else if c.banks.toList.any fun b => b.owner.isSome || b.clearing then s
  else setCluster s cl { c with kilnOff := true }

/-- Whether the package draws at most PLIMIT: its power is a free function of its points, entitlements and islands
(R400, log 98). -/
def withinLimit (s : State) : Bool :=
  let cs := (List.range 96).map (clusterAt s)
  Config.watts s.tick (s.points.toList.map (·.val)) (cs.map (·.ent))
    (cs.map fun c => c.gated.toNat + if c.kilnOff then 256 else 0) ≤ s.plimit

/-- POWER_ADJUST: island points, then lane-group entitlements from 1 to 8, then islands turned off. The controller makes
no adjustment that leaves the package above PLIMIT. It lowers island points first: an entitlement is lowered only with
every island at point 0, where that does not keep the limit (R29, R400; DESIGN CHOICE, log 98). -/
def execPowerAdjust (points : List (Fin 256 × Fin 8)) (lanes : LanePower) (s : State) : Out :=
  let t := points.foldl (fun s p => { s with points := s.points.set p.1 p.2 }) s
  let u := lanes.entitlements.foldl (fun s e => modCluster s e.1.val fun c => { c with ent := max 1 e.2.val }) t
  let v := lanes.off.foldl (fun s e => turnOff s e.1.val e.2.val) u
  let lowers := (List.range 96).any fun n => (clusterAt u n).ent < (clusterAt s n).ent
  .next (if withinLimit v && !(lowers && (withinLimit t || t.points.toList.any (· != 0))) then v else s)

/-- WEAR_UPDATE (R401). -/
def execWearUpdate (island : Fin 256) (age eol : BitVec 16) (s : State) : Out :=
  .next { s with wear := Tab.put s.wear island.val (age, eol) }

end Sys2Proof.Machine
end

