-- ==== Sys2Proof/Machine/Registers.lean ====
section
/-!
DEFINITION. The special registers by name: what each reads, what a write of each does, and the privilege each needs
(R98 to R100, R116, R117, R143, R58, R192, R193, R231, R232, R297, R336, R344, R370 to R372, R409, R410).
-/

namespace Sys2Proof.Machine

/-- The privilege that a read needs (R99). -/
def readLevel : Spr → Nat
  | .ftbase | .ftsize | .wsbase | .wssize | .wsstat | .wsroot | .ptroot => 1
  | .tcause | .tval | .tepc | .tevc | .tstatus | .tvec | .ttimer | .tpend | .fsring | .fsack => 1
  | .tsel | .tgval | .tact => 1
  | .fvec => 2
  | .dctl | .dstat | .dstask | .dstep | .dbten | .ibrk _ | .wtch _ | .wctl _ => 1
  | .drsel | .drprod | .drcons | .drcyc | .drlost | .trring | .trhead | .soot | .sootst => 1
  | _ => 0

/-- The privilege that a write needs (R99). Where a chapter gives a read-only register a level for reads alone, no level
holds a write back, and it changes nothing (R6, R372, log 35). -/
def writeLevel : Spr → Nat
  | .vl | .vgrant | .vwidth | .vqlen | .vbeg | .vred | .efr | .fst | .tidx | .tprio => 0
  | .tcmbase | .cspbase | .tenant | .kbind | .cpstat | .podcfg | .rmtstat => 0
  | .cycle | .devtime | .coreid | .clusterid | .devid | .wear | .islst => 0
  | .fvec => 2
  | _ => 1

/-- The registers that a handler context alone reaches (R372). -/
def handlerOnly : Spr → Bool
  | .tsel | .tgval | .tact => true
  | _ => false

/-- The registers that act on the trapped context while a handler context runs (R370). -/
def ofTrapped : Spr → Bool
  | .vl | .vbeg | .vred | .efr | .fst | .pfxl => true
  | _ => false

/-- Whether MFS and MTS of a register see the VIQ drained (R100). -/
def sprDrains (r : Spr) : Bool := r.code < 0x40

/-- The trap registers that the current level reaches (R371). -/
def handlerOf (s : State) : Handler := if s.cpu.who = .fw then s.cpu.fw else s.cpu.sys

/-- The trap registers of the current level changed. -/
def modHandler (s : State) (f : Handler → Handler) : State :=
  modCpu s fun c => if c.who = .fw then { c with fw := f c.fw } else { c with sys := f c.sys }

/-- The context that the current handler interrupted: the system handler's under NEST, none under IDLE (R371). -/
def trappedCtx (s : State) : Option Ctx :=
  let h := handlerOf s
  if s.cpu.who = .fw && h.nest then some s.cpu.sys.ctx
  else if inHandler s && h.idle then none
  else s.cpu.trapped

/-- The context that a register of R370's list belongs to: a task's own, or in a handler or a halted core the trapped
one. -/
def viewCtx (s : State) : Ctx := if s.cpu.who = .task then s.cpu.live else (trappedCtx s).getD Ctx.reset

/-- That context changed. -/
def modView (s : State) (f : Ctx → Ctx) : State :=
  if s.cpu.who = .task then modLive s f
  else
    let h := handlerOf s
    if s.cpu.who = .fw && h.nest then modCpu s fun c => { c with sys := { c.sys with ctx := f c.sys.ctx } }
    else if inHandler s && h.idle then s
    else modCpu s fun c => { c with trapped := c.trapped.map f }

/-- The context whose task registers are read: the running one, or a halted core's saved one. -/
def taskCtx (s : State) : Ctx := if s.cpu.who = .idle then s.cpu.trapped.getD Ctx.reset else s.cpu.live

/-- The task registers' context changed. -/
def modTask (s : State) (f : Ctx → Ctx) : State :=
  if s.cpu.who = .idle then modCpu s fun c => { c with trapped := c.trapped.map f } else modLive s f

/-- A number as a register value. -/
def w (n : Nat) : Word := BitVec.ofNat 64 n

/-- The code of a lane-group cap (R231, R439); 0 in a handler context, and on a core that holds no task. -/
def hintCode (s : State) (c : Ctx) : Nat :=
  if inHandler s || (s.cpu.who = .idle && s.cpu.trapped.isNone) then 0 else if 8 ≤ c.cap then 4 else if 4 ≤ c.cap then 3 else if 2 ≤ c.cap then 2 else 1

/-- Reads of the vector registers and `fst` (R116, R143, R58). -/
def readVector (s : State) (r : Spr) : Word :=
  let v := (viewCtx s).vec
  match r with
  | .vl => w v.vl
  | .vgrant => w (grantBits s + (gmap s s.cpu.id).toNat * 2 ^ 16 + groupCount s s.cpu.id * 2 ^ 24)
  | .vbeg => w v.vbeg
  | .vred => v.vred
  | .efr => v.efr.setWidth 64
  | .fst => fstRead (viewCtx s).fst
  | .vslip => w s.cpu.vslip
  | .vwidth => w (taskCtx s).vec.wc.val
  | .pfxl => if s.cpu.who = .task then 0 else w (pfxBits (viewCtx s).pfx)
  | _ => w (taskCtx s).vec.vq.length

/-- Reads of the task and context registers (R231). -/
def readTask (s : State) (r : Spr) : Word :=
  let c := taskCtx s
  let k := s.cpu
  match r with
  | .tself => c.tself
  | .tidx => c.tidx.setWidth 64
  | .tprio => w (c.cls + c.limit * 4 + c.cls * 16)
  | .tlevel => w (c.level + c.kinds.getD c.level 0 * 16 + c.pin.toNat * 256 + hintCode s c * 2 ^ 16)
  | .thold => w (c.held.length + c.depth * 2 ^ 16)
  | .tquant => w k.tquant
  | .ctxlim => w k.ctxlim
  | .ftbase => w s.ftbase
  | .ftsize => w s.ftsize
  | .wsbase => k.wsbase
  | .wssize => w (k.wssize * 2 ^ 16)
  | .wsstat => w (ringUsed k + k.press.toNat * 2 ^ 32 + (k.hold = .wait || k.hold = .eret).toNat * 2 ^ 33)
  | _ => w k.wsroot

/-- Reads of the memory, engine and fabric registers (R192, R297, R336, R344). -/
def readUnit (s : State) (r : Spr) : Word :=
  let c := taskCtx s
  let cl := clusterAt s (clusterOf s.cpu.id)
  let t := s.tenants.get c.tenant
  match r with
  | .tcmbase => 0x000FFE0000000000
  | .cspbase => 0x000FFE0001000000
  | .tenant => w c.tenant.val
  | .ptroot => w (bits t.root.toNat 16 24 * 2 ^ 16)
  | .kbind =>
    w (((List.finRange 8).filter fun n => (cl.banks.get n).owner = some c.tenant).foldl (fun a n => a + 2 ^ n.val) 0 +
       t.bankmax * 256)
  | .cpstat =>
    w (64 - cl.flue.length + (cl.flue.filter fun j => j.env.core = s.cpu.id).length * 256 +
       (cl.flue.filter fun j => j.active).length * 2 ^ 16)
  | .podcfg => w (s.ndev + s.pod * 2 ^ 16)
  | _ => w (remoteOut s s.cpu.id + s.groups.length * 256)

/-- What `tgval` reads (R371). -/
def readTgval (s : State) : Word :=
  let sel := (handlerOf s).tsel.toNat
  match trappedCtx s with
  | none => 0
  | some c =>
    if sel = 0 then 0
    else if sel < 32 then c.g.get (Fin.ofNat 32 sel)
    else if sel = 32 then c.tself
    else if sel = 33 then w c.tenant.val
    else 0

/-- Reads of the trap registers (R371). -/
def readTrap (s : State) (r : Spr) : Word :=
  let h := handlerOf s
  match r with
  | .tcause => h.tcause.setWidth 64
  | .tval => h.tval
  | .tepc => h.tepc
  | .tevc => h.tevc
  | .tstatus => w (s.cpu.priv.toNat + h.tpriv.toNat * 4 + h.nest.toNat * 16 + h.idle.toNat * 32)
  | .tvec => s.cpu.tvec
  | .fvec => s.cpu.fvec
  | .tsel => h.tsel.setWidth 64
  | .tgval => readTgval s
  | .tact => h.tact.setWidth 64
  | .ttimer => s.cpu.ttimer
  | _ => w (tpendBits s)

/-- Reads of the system registers that are not a handler's (R17, R371). -/
def readSystem (s : State) (r : Spr) : Word :=
  let n := clusterOf s.cpu.id
  let cl := clusterAt s n
  match r with
  | .cycle => cyclesOf s n
  | .devtime => s.devtime
  | .coreid => w s.cpu.id
  | .clusterid => w n
  | .devid => w s.devid
  | .fsring => w (cl.fsLog + cl.fsBase)
  | .fsack => w (cl.ackSeq.toNat + cl.ackAction.toNat * 2 ^ 32 + cl.ackErr.toNat * 2 ^ 63)
  | .wear =>
    let g := (s.wear.find n).getD (0, 0xFFFF)
    w (g.1.toNat + g.2.toNat * 2 ^ 16)
  | _ => w ((s.points.get (Fin.ofNat 256 n)).val + (s.points.get (Fin.ofNat 256 (96 + n))).val * 16 + cl.ent * 256)

/-- Reads of the debug registers (R409). -/
def readDebug (s : State) (r : Spr) : Word :=
  let k := s.cpu
  let d := s.dbg
  let sel := k.draughts.get (Fin.ofNat 16 k.drsel.toNat)
  match r with
  | .dctl => k.dctl.setWidth 64
  | .dstat => k.dstat.setWidth 64
  | .dstask => d.dstask
  | .dstep => w d.dstep.toNat
  | .dbten => d.dbten.setWidth 64
  | .ibrk n => d.ibrk.get n
  | .wtch n => d.wtch.get n
  | .wctl n => (d.wctl.get n).setWidth 64
  | .drsel => w (k.drsel.toNat + (sel.map fun e => e.tenant.val * 256 + 4096).getD 0)
  | .drprod => (sel.map fun e => e.prod).getD 0
  | .drcons => (sel.map fun e => e.cons).getD 0
  | .drcyc => (sel.map fun e => w (e.cyc.toNat + e.lag.toNat * 2 ^ 48)).getD 0
  | .drlost => k.drlost
  | .trring => w (k.trlog + k.trbase)
  | .trhead => k.trhead
  | .soot => w (s.soot.en.toNat + s.soot.replay.toNat * 2 + s.soot.log2 * 4 + s.soot.base)
  | _ => s.soot.ovf

/-- Which group of registers a register belongs to, by its number. -/
inductive SprGroup | vector | task | unit | trap | system | debug
  deriving DecidableEq, Repr

/-- The group of a register. -/
def groupOfSpr (r : Spr) : SprGroup :=
  if r.code < 0x40 then .vector
  else if r.code < 0x80 then .task
  else if r.code < 0x100 then .unit
  else if 0x200 ≤ r.code then .debug
  else
    match r with
    | .cycle | .devtime | .coreid | .clusterid | .devid | .fsring | .fsack | .wear | .islst => .system
    | _ => .trap

/-- The value that MFS reads of a register. -/
def readSpr (s : State) (r : Spr) : Word :=
  match groupOfSpr r with
  | .vector => readVector s r
  | .task => readTask s r
  | .unit => readUnit s r
  | .trap => readTrap s r
  | .system => readSystem s r
  | .debug => readDebug s r

/-- A value kept within limits. -/
def lim (lo hi v : Nat) : Nat := max lo (min hi v)

/-- Writes of the vector registers and `fst` (R117, R144, R58). -/
def writeVector (s : State) (r : Spr) (v : Word) : State :=
  match r with
  | .vbeg => modView s fun c => { c with vec := { c.vec with vbeg := min v.toNat 2047 } }
  | .vred => modView s fun c => { c with vec := { c.vec with vred := v } }
  | .efr => modView s fun c => { c with vec := { c.vec with efr := v.setWidth 32 } }
  | .fst => modView s fun c => { c with fst := fstWrite v }
  | .vslip => modCpu s fun c => { c with vslip := v.toNat % 16 }
  | .pfxl => if s.cpu.who = .task then s else modView s fun c => { c with pfx := pfxOf (v.toNat % 2 ^ 16) }
  | _ => s

/-- Writes of the task and context registers (R231). -/
def writeTask (s : State) (r : Spr) (v : Word) : State :=
  let n := v.toNat
  match r with
  | .tidx => modTask s fun c => { c with tidx := BitVec.ofNat 7 n }
  | .tprio => modTask s fun c => { c with cls := min (n % 4) c.limit }
  | .tquant => modCpu s fun c => { c with tquant := max 256 (n % 2 ^ 24) }
  | .ctxlim => modCpu s fun c => { c with ctxlim := lim 1 64 (n % 128) }
  | .ftbase => { s with ftbase := bits n 16 24 * 2 ^ 16 }
  | .ftsize => { s with ftsize := lim 16 30 (n % 32) }
  | .wsbase => modCpu s fun c => { c with wsbase := w (bits n 16 36 * 2 ^ 16) }
  | .wssize => modCpu s fun c => { c with wssize := max 1 (bits n 16 14) }
  | .wsstat => if n.testBit 32 then modCpu s fun c => { c with press := false } else s
  | .wsroot => modCpu s fun c => { c with wsroot := bits n 16 24 * 2 ^ 16 }
  | _ => s

/-- Writes of the memory registers; the others of the range are read only. `ptroot` is the ROOT of the running context's
tenant, or of a halted core's saved task (R192, R387, R427). -/
def writeUnit (s : State) (r : Spr) (v : Word) : State :=
  match r with
  | .ptroot =>
    let t := (taskCtx s).tenant
    { s with tenants := s.tenants.set t { s.tenants.get t with root := w (bits v.toNat 16 24 * 2 ^ 16) } }
  | _ => s

/-- A write of `tgval` (R371). -/
def writeTgval (s : State) (v : Word) : State :=
  let sel := (handlerOf s).tsel.toNat
  if 0 < sel && sel < 32 then modView s fun c => { c with g := c.g.set (Fin.ofNat 32 sel) v } else s

/-- Writes of the trap registers (R371). -/
def writeTrap (s : State) (r : Spr) (v : Word) : State :=
  let n := v.toNat
  match r with
  | .tcause => modHandler s fun h => { h with tcause := BitVec.ofNat 9 n }
  | .tval => modHandler s fun h => { h with tval := v }
  | .tepc => modHandler s fun h => { h with tepc := v }
  | .tstatus => modHandler s fun h => { h with tpriv := BitVec.ofNat 2 (n / 4) }
  | .tvec => modCpu s fun c => { c with tvec := v &&& ~~~0x3F }
  | .fvec => modCpu s fun c => { c with fvec := v &&& ~~~0x3F }
  | .tsel => modHandler s fun h => { h with tsel := BitVec.ofNat 6 n }
  | .tgval => writeTgval s v
  | .tact => modHandler s fun h => { h with tact := BitVec.ofNat 2 n }
  | .ttimer => modCpu s fun c => { c with ttimer := v }
  | _ => s

/-- Writes of the other system registers (R371, R385). -/
def writeSystem (s : State) (r : Spr) (v : Word) : State :=
  let cl := clusterOf s.cpu.id
  let n := v.toNat
  match r with
  | .fsring => modCluster s cl fun k => { k with fsLog := lim 4 16 (n % 32), fsBase := bits n 12 28 * 2 ^ 12 }
  | .fsack => acknowledge (writeBack s s.cpu.id) cl (n % 2 ^ 32) (bits n 32 2)
  | _ => s

/-- A write of `drsel`: CLR clears every entry and `drlost` (R409). -/
def writeDrsel (s : State) (n : Nat) : State :=
  modCpu s fun c =>
    { c with drsel := BitVec.ofNat 4 n,
             draughts := if n.testBit 4 then Vector.replicate 16 none else c.draughts,
             drlost := if n.testBit 4 then 0 else c.drlost }

/-- A write of `soot`: a log that starts has no record in any of the 64 slices, and slot 0 of each says so (R409, R422). -/
def writeSoot (s : State) (n : Nat) : State :=
  let o := s.soot
  let starts := n.testBit 0 && !o.en
  let log2 := lim 8 24 (bits n 2 5)
  let base := bits n 12 28 * 2 ^ 12
  let s := { s with soot := { o with
    en := n.testBit 0, replay := n.testBit 1, log2 := log2, base := base
    counts := if starts then [] else o.counts
    runs := if starts then [] else o.runs
    done := if n.testBit 1 && !o.replay then [] else o.done } }
  if starts then (List.range 64).foldl (fun t i => writePhys t 0 (base + i * 2 ^ (log2 + 4)) (toBytes 16 0)) s else s

/-- Stepping ends: no STEP is due any more for a task that was stepped, wherever its context is (R415). -/
def endSteps (s : State) : State :=
  (coreList s).foldl (fun t n => modCore t n fun c =>
    let off (x : Ctx) : Ctx := { x with stepDue := false }
    { c with live := off c.live, trapped := c.trapped.map off,
             recs := c.recs.map fun r => { r with ctx := off r.ctx } }) s

/-- Writes of the debug registers (R409). -/
def writeDebug (s : State) (r : Spr) (v : Word) : State :=
  let n := v.toNat
  match r with
  | .dctl => modCpu s fun c => { c with dctl := BitVec.ofNat 6 n }
  | .dstat => if n.testBit 4 then modCpu s fun c => { c with dstat := c.dstat &&& 0x0F } else s
  | .dstask => { (if v = s.dbg.dstask then s else endSteps s) with dbg := { s.dbg with dstask := v } }
  | .dstep => { (if n.testBit 0 then s else endSteps s) with dbg := { s.dbg with dstep := n.testBit 0 } }
  | .dbten => { s with dbg := { s.dbg with dbten := BitVec.ofNat 5 n } }
  | .ibrk i => { s with dbg := { s.dbg with ibrk := s.dbg.ibrk.set i v } }
  | .wtch i => { s with dbg := { s.dbg with wtch := s.dbg.wtch.set i (v &&& ~~~7) } }
  | .wctl i =>
    { s with dbg := { s.dbg with wctl := s.dbg.wctl.set i (BitVec.ofNat 9 (n % 16 + lim 3 31 (bits n 4 5) * 16)) } }
  | .drsel => writeDrsel s n
  | .trring => modCpu s fun c => { c with trlog := lim 6 20 (n % 32), trbase := bits n 12 28 * 2 ^ 12 }
  | .trhead => modCpu s fun c => { c with trhead := v }
  | .soot => writeSoot s n
  | .sootst => { s with soot := { s.soot with ovf := s.soot.ovf &&& ~~~v } }
  | _ => s

/-- A write of a register; a field that is read only ignores it (R6). -/
def writeSpr (s : State) (r : Spr) (v : Word) : State :=
  match groupOfSpr r with
  | .vector => writeVector s r v
  | .task => writeTask s r v
  | .unit => writeUnit s r v
  | .trap => writeTrap s r v
  | .system => writeSystem s r v
  | .debug => writeDebug s r v

/-- What a read clears (R6 RC, R371 ERR). -/
def afterRead (s : State) (r : Spr) : State :=
  match r with
  | .fsack => modCluster s (clusterOf s.cpu.id) fun k => { k with ackErr := false }
  | _ => s

/-- MFS (R98 to R100). -/
def execMfs (d : Reg) (spr : Spr) (s : State) : Out :=
  issue { lend := .refuse, drain := sprDrains spr, level := readLevel spr } (.mfs d spr) s fun s =>
    if handlerOnly spr && !inHandler s then trap s 0x02 0
    else retire (setG (afterRead s spr) d (readSpr s spr))

/-- MTS (R98 to R100). -/
def execMts (a : Reg) (spr : Spr) (s : State) : Out :=
  issue { lend := .refuse, drain := sprDrains spr, level := writeLevel spr } (.mts a spr) s fun s =>
    if handlerOnly spr && !inHandler s then trap s 0x02 0
    else retire (writeSpr s spr (getG s a))

end Sys2Proof.Machine
end

