-- ==== Sys2Proof/Machine/Spedy.lean ====
section
/-!
DEFINITION. Single step, the draught table and the Spedy port (R414 to R416, R421, R426 to R428).
-/

namespace Sys2Proof.Machine

/-- The breakpoint that the running context's next word matches: of several the lowest, which R412 leaves open (R411, R412,
R414; DESIGN CHOICE, log 127). -/
def breakHit (s : State) : Option (Fin 4) :=
  let d := s.dbg
  let c := s.cpu.live
  if s.cpu.who = .task && !exempt s && (d.dbten.getLsbD 4 || d.dbten.toNat % 16 = c.tenant.val) then
    (List.finRange 4).find? fun i =>
      let b := d.ibrk.get i
      b.getLsbD 0 && b.toNat / 4 = c.pc.toNat / 4 && (!b.getLsbD 1 || c.tself = d.dstask)
  else none

/-- STEP is due: the stepped task's last instruction is complete, with nothing of it left in the latch or the VIQ
(R415). -/
def stepReady (s : State) : Bool :=
  stepping s && s.cpu.live.stepDue && s.cpu.live.latch.isNone && s.cpu.live.viq.isEmpty && s.cpu.hold = .none &&
  s.cpu.halt = .running

/-- STEP, with BHIT when a breakpoint matches the same instruction (R415). -/
def takeStep (s : State) : State :=
  let b := breakHit s
  debugStop (modLive s fun c => { c with stepDue := false }) 0x0D 0 ((b.map fun i => i.val).getD 0) b.isSome false

/-- SINGLE_STEP (R415). -/
def execSingleStep (s : State) : Out := .next (if stepReady s then takeStep s else s)

/-- The breakpoint trap (R412). -/
def takeBreak (s : State) (n : Fin 4) : State := debugStop s 0x0C (BitVec.ofNat 64 (64 + n.val)) n.val true false

/-- DRAUGHT_CLEAR: the draught table and `drlost` of the running core (R409). -/
def execDraughtClear (s : State) : Out := .next (writeDrsel s (s.cpu.drsel.toNat + 16))

/-- A charge of some cycles to a pair of addresses (R420, R421). -/
def charge (c : Core) (tenant : Fin 16) (prod cons : Word) (cycles lag : Nat) : Core :=
  let c := { c with counters := c.counters.set 10 (c.counters.get 10 + BitVec.ofNat 64 cycles) }
  let new (e : Draught) : Draught :=
    { e with cyc := BitVec.ofNat 48 (Nat.min (e.cyc.toNat + cycles) (2 ^ 48 - 1)),
             lag := BitVec.ofNat 16 (max e.lag.toNat (Nat.min lag 65535)) }
  let hit := (List.finRange 16).find? fun i =>
    match c.draughts.get i with
    | some e => e.tenant = tenant && e.prod = prod && e.cons = cons
    | none => false
  let fresh : Draught := new { tenant := tenant, prod := prod, cons := cons, cyc := 0, lag := 0 }
  match hit with
  | some i => { c with draughts := c.draughts.set i ((c.draughts.get i).map new) }
  | none =>
    match (List.finRange 16).find? fun i => (c.draughts.get i).isNone with
    | some i => { c with draughts := c.draughts.set i (some fresh) }
    | none =>
      let cyc (i : Fin 16) : Nat := ((c.draughts.get i).map fun e => e.cyc.toNat).getD 0
      let v := (List.finRange 16).foldl (fun b i => if cyc i < cyc b then i else b) 0
      { c with draughts := c.draughts.set v (some fresh), drlost := c.drlost + BitVec.ofNat 64 (cyc v) }

/-- A debug command, once the commands are available. The port is reached through the mailbox, which answers in RECOVERY
too (R402, R426). -/
def withPort (s : State) (f : State → State) : Out := .next (if s.debugOk then f s else s)

/-- A core halted at its next instruction boundary, with a full save of its task. A core that waits in WAITI executes
that again when it runs (R380, R416, R427). -/
def haltCore (s : State) : State :=
  if s.cpu.halt = .debug then s
  else
    match s.cpu.who with
    | .task => haltTask s id
    | .idle => modCpu s fun k => { k with halt := .debug, passed := none }
    | _ =>
      modCpu s fun k =>
        { k with halt := .debug, live := if k.halt = .waiti then { k.live with pc := k.live.pc - 4 } else k.live }

/-- SPEDY_HALT (R427). -/
def execSpedyHalt (core : Fin 768) (s : State) : Out := withPort s fun s => onCore s core.val haltCore

/-- A halted core: it issues nothing until a restart, or until a RUN (R380, R416, R427). -/
def isHalted (c : Core) : Bool := c.halt = .halted || c.halt = .debug

/-- A halted core resumed: its task fails, returns to the core, or becomes ready while its grant is not available
(R378, R427); of a task and of a handler the first instruction that it issues is the one that ONCE exempts (R414). A task
that HALT has stopped on its core fails as one out of the trap save store does, its queue lost with it. Where the eviction
for a ready record finds the ring full or a page failing, the core stays halted, and RUN has no effect: R374 gives the
wait of an ERET alone. A handler that is halted goes on whatever FAIL says, as it is no task (DESIGN CHOICE, log 136). -/
def runCore (s : State) (fail : Bool) : State :=
  if !isHalted s.cpu then s
  else
    let s := modCpu s fun k => { k with halt := .running }
    match s.cpu.who, s.cpu.trapped with
    | .idle, some c =>
      let h := s.cpu.sys
      if fail then endTrapped s c (failCode (h.tcause.toNat % 256))
      else if canGrant s s.cpu.id c.need then putTrapped s c h
      else
        let r := trappedRec s c h.tepc
        match makeRoom (s.cpu.recs.length + 1) s s.cpu.id (recBytes r) with
        | .ok s => modCpu s fun k => { k with trapped := none, trapPoison := false, recs := k.recs ++ [r] }
        | _ => modCpu s fun k => { k with halt := .debug }
    | .idle, none => s
    | .task, _ =>
      if fail then endTask s true (failCode (s.cpu.sys.tcause.toNat % 256))
      else modCpu s fun k => { k with live := markOnce (k.dctl.getLsbD 1) k.live }
    | _, _ => modCpu s fun k => { k with live := markOnce (k.dctl.getLsbD 1) k.live }

/-- SPEDY_RUN (R427). -/
def execSpedyRun (core : Fin 768) (fail : Bool) (s : State) : Out :=
  withPort s fun s => onCore s core.val fun t => runCore t fail

/-- CORE_RESTART: a core that HALT stopped goes on at its next instruction; one stopped for the Spedy port waits for RUN
(R380, R416, R427). -/
def execCoreRestart (core : Fin 768) (s : State) : Out :=
  .next (modCore s core.val fun c =>
    if c.halt = .halted then { c with halt := .running } else c)

/-- The handle and the record of a context (R258, R427). -/
def ctxAnswer (r : Rec) : List Byte := toBytes 8 r.ctx.tself.toNat ++ recImage r

/-- The context that stands halted on a core: its saved task, or the handler context that it was halted in (R416, R427). -/
def haltedCtx (c : Core) : Option Ctx :=
  if !isHalted c then none else if c.who = .idle then c.trapped else some c.live

/-- RDCTX: the context halted on the core, else one of the core's suspended contexts by free choice (R427, log 21). -/
def execRdctx (core : Fin 768) (s : State) : Out :=
  withPort s fun s =>
    let c := coreAt s core.val
    let susp := c.recs.filter fun r => r.st != .ready
    match haltedCtx c, susp[Config.pick s.tick 10 % susp.length]? with
    | some x, _ => { s with answer := ctxAnswer (trappedRec s x x.pc) }
    | none, some r => { s with answer := ctxAnswer r }
    | none, none => { s with answer := [] }

/-- RDSPR: a register of a halted core, without privilege checks (R427). -/
def execRdspr (core : Fin 768) (spr : Spr) (s : State) : Out :=
  withPort s fun s =>
    if isHalted (coreAt s core.val) then
      onCore s core.val fun t => afterRead { t with answer := toBytes 8 (readSpr t spr).toNat } spr
    else s

/-- WRSPR (R427). -/
def execWrspr (core : Fin 768) (spr : Spr) (value : Word) (s : State) : Out :=
  withPort s fun s =>
    if isHalted (coreAt s core.val) then onCore s core.val fun t => writeSpr t spr value else s

/-- Whether a line of HBM is taken as it stands, since it was written under this key or is resident in L2; residence is a
free choice (R191, R428, log 15, 21). -/
def takenPlain (s : State) (key : Fin 64) (line : Nat) : Bool :=
  keyOf s line = s.keys.get key || Config.pick s.tick (32 + line) % 2 = 1

/-- A byte of a line as a reader under a key index sees it without moving the line (R191, R428). -/
def peekByte (s : State) (key : Fin 64) (pa : Nat) : Byte :=
  let line := pa / 128
  if takenPlain s key line then memGet s.mem pa
  else
    let v := recrypt (keyOf s line) (s.keys.get key) line
      (BitVec.ofNat 1024 (ofBytes (memTake s.mem (line * 128) 128)))
    BitVec.ofNat 8 (slot v (pa % 128) 8)

/-- A byte written into a resident line, or at its home under a key index (R191, R428). -/
def pokeByte (s : State) (key : Fin 64) (pa : Nat) (b : Byte) : State :=
  if takenPlain s key (pa / 128) then { s with mem := memPut s.mem pa [b], poison := unpoison s.poison pa 1 }
  else writePhys s key pa [b]

/-- RDPA, each byte at its home (R428). -/
def execRdpa (pa : BitVec 40) (count : Nat) (key : Fin 64) (s : State) : Out :=
  withPort s fun s =>
    let a := pa.toNat
    let h := min count (hbmEnd - a)
    { s with answer := ((List.range h).map fun i => peekByte s key (a + i)) ++ (physRead true s key (a + h) (count - h)).1 }

/-- WRPA, each byte at its home (R428). -/
def execWrpa (pa : BitVec 40) (bytes : List Byte) (key : Fin 64) (s : State) : Out :=
  withPort s fun s =>
    let a := pa.toNat
    let h := min bytes.length (hbmEnd - a)
    physWrite true (((List.range h).zip bytes).foldl (fun t p => pokeByte t key (a + p.1) p.2) s) key (a + h) (bytes.drop h)

/-- RDFT: the 64 bytes of an entry (R229, R427). -/
def execRdft (n : BitVec 32) (s : State) : Out :=
  withPort s fun s => { s with answer := futBytes s n.toNat }

end Sys2Proof.Machine
end

