-- ==== Sys2Proof/Machine/Vector.lean ====
section
/-!
DEFINITION. The common frame of vector instructions: their checks, active elements, destinations, tails and copies
(R108 to R115, R129, R157 to R163).
-/

namespace Sys2Proof.Machine

/-- The vector state of the running context, and the state with it changed. -/
def vecOf (s : State) : VecState := s.cpu.live.vec
def modVec (s : State) (f : VecState → VecState) : State := modLive s fun c => { c with vec := f c.vec }

/-- A vector register of the running context. -/
def vreg (s : State) (r : Reg) : VReg := (vecOf s).regs.get r

/-- The mask register that a k field names under the instruction's prefix (R54, R163). -/
def effK (s : State) (k : KReg) : KReg :=
  let p := prefixOf s
  if p.v && p.pk != 0 then p.pk else k

/-- Bit i of a mask register; k0 reads as ones (R46, R176). -/
def maskBit (s : State) (k : KReg) (i : Nat) : Bool :=
  if k = 0 then true else ((vecOf s).masks.get (Fin.ofNat 7 (k.val - 1))).getLsbD i

/-- Whether element i is active under an instruction's k field (R112). -/
def active (s : State) (k : KReg) (i : Nat) : Bool := maskBit s (effK s k) i

/-- An image whose elements of width w are listed, element 0 first, with zeros above (R109, R112). -/
def imgOf (w : Nat) (vs : List Nat) : BitVec 16384 := BitVec.ofNat 16384 (packSlots w vs)

/-- A vector register written, and the copy that a prefix with pc = 1 asks for (R55). -/
def putV (s : State) (d : Reg) (v : VReg) : State :=
  let p := prefixOf s
  modVec s fun x =>
    let r := x.regs.set d v
    { x with regs := if p.v && p.pc then r.set p.pd v else r }

/-- A vector register is written by an instruction with destination d: it is that one, or the one that the prefix of the
instruction copies to (R55). -/
def overwrites (s : State) (d r : Reg) : Bool :=
  d = r || ((prefixOf s).v && (prefixOf s).pc && (prefixOf s).pd = r)

/-- The element at which a forced save stops the executing instruction, if one does: a multiple of the elements that it
performs together (R129, R217, R220). -/
def cutAt (s : State) (grain : Nat) : Option Nat :=
  (s.cpu.cut.map fun k => k / grain * grain).filter fun k => (vecOf s).vbeg < k && k < (vecOf s).vl

/-- `vbeg` at a stop (R129). -/
def setBeg (s : State) (k : Nat) : State := modVec s fun v => { v with vbeg := k }

/-- The instruction stops at element k and stays where it is, for a forced save to take (R129, R183, R220). -/
def stayAt (s : State) (k : Nat) : State := modCpu (setBeg s k) fun c => { c with lane := none, stall := none }

/-- `vbeg` set to zero at completion (R129). -/
def clearBeg (s : State) : State := modVec s fun x => { x with vbeg := 0 }

/-- A vector instruction completes (R129, R131). -/
def retireV (s : State) : State := retire (clearBeg s)

/-- The checks of TAG and then VLEN at the lanes: the instruction's tags are legal, and vl elements of each width fit the
grant. R162 gives this order for the instructions of its chapter; those of R147 have it too, for which no rule gives one
(R111, R147, R162; DESIGN CHOICE, log 132). -/
def lanes (s : State) (tagsOk : Bool) (widths : List Nat) (k : State → State) : State :=
  if !tagsOk then trap s 0x07 0
  else if widths.any fun w => grantBits s < (vecOf s).vl * w then trap s 0x12 0
  else k s

/-- The attributes of a vector instruction: what a prefix lends it, and whether a pk may stand before it. -/
def vecAttr (l : Lend) (hasK : Bool := true) : Attr := { lend := l, hasK := hasK, scalar := false }

/-- A vector instruction that needs a grant, through the VIQ with its captured g operands (R131, R162). -/
def vector (a : Attr) (i : Instr) (caps : List Reg) (s : State) (body : State → State) : Out :=
  issueV a true true i caps s body

/-- An element result with the exceptions it raises. -/
abbrev Elt := Nat × Flags

/-- The exceptions of a list of results together (R145). -/
def allFlags (l : List Elt) : Flags := l.foldl (fun a x => a ||| x.2) 0

/-- A destination written element by element: active ones from `f`, the others as they were; flags accrue; with vl = 0
nothing changes (R112, R114, R145, R160). -/
def writeElems (s : State) (d : Reg) (t : Ty) (act : Nat → Bool) (f : Nat → Elt) : State :=
  let vl := (vecOf s).vl
  if vl = 0 then retireV s
  else
    let w := tyBits t
    let old := (vreg s d).img
    let l := (List.range vl).map fun i => if act i then f i else (slot old i w, 0)
    retireV (putV (accrue s (allFlags l)) d { tag := some t, img := imgOf w (l.map (·.1)) })

/-- A mask register written bit by bit under k; with vl = 0 nothing changes (R112, R114, R176). -/
def writeMask (s : State) (d k : KReg) (f : Nat → Bool × Flags) : State :=
  let vl := (vecOf s).vl
  if vl = 0 then retireV s
  else
    let l := (List.range vl).map fun i => if active s k i then f i else (maskBit s d i, 0)
    let m := BitVec.ofNat 2048 (packSlots 1 (l.map fun x => x.1.toNat))
    let fl := l.foldl (fun (a : Flags) x => a ||| x.2) 0
    retireV (modVec (accrue s fl) fun x => { x with masks := x.masks.set (Fin.ofNat 7 (d.val - 1)) m })

/-- A 64-bit g value as one element of a tag (R157). -/
def scOf (t : Ty) (v : Word) : Nat := v.toNat % 2 ^ tyBits t

/-- A form 10 immediate as one element of a tag (R157). -/
def immOf (t : Ty) (b : Reg) : Nat :=
  let x := sgn 5 b.val
  match t with
  | .fp64 => (roundTo (fmtFloat .fp64) .rne false (intVal x)).1
  | .fp32 => (roundTo fmt32 .rne false (intVal x)).1
  | .fp16 => (roundTo (fmtFloat .fp16) .rne false (intVal x)).1
  | .bf16 => (roundTo (fmtFloat .bf16) .rne false (intVal x)).1
  | _ => trunc (tyBits t) x

/-- The second operand of a binary member: element i, as bits of a type (R157, R158). -/
structure Second where
  ty : Ty
  elem : Nat → Nat

/-- The second operand under its form; the g operand was captured (R46, R157, R158). None is a register tagged NONE. -/
def second (s : State) (form : VForm) (ta : Ty) (b : Reg) : Option Second :=
  match form with
  | .vv =>
    match (vreg s b).tag with
    | some t => some { ty := t, elem := fun i => slot (vreg s b).img i (tyBits t) }
    | none => none
  | .vs => let v := scOf ta (capture s false b); some { ty := ta, elem := fun _ => v }
  | .vi => some { ty := ta, elem := fun _ => immOf ta b }

/-- The tag that two operand tags combine to (R158). -/
def combine (a b : Ty) : Option Ty :=
  if a = b then some a
  else if (a = .fp32 && (b = .fp16 || b = .bf16)) || (b = .fp32 && (a = .fp16 || a = .bf16)) then some .fp32
  else none

/-- The widths of the operands read as elements: va's, and vb's in form 00 (R162). -/
def readWidths (form : VForm) (ta tb : Ty) : List Nat :=
  match form with
  | .vv => [tyBits ta, tyBits tb]
  | _ => [tyBits ta]

/-- What the elements of a binary member are: their combined tag and each operand under its own. -/
structure Pair where
  ty : Ty
  ta : Ty
  tb : Ty
  x : Nat → Nat
  y : Nat → Nat

/-- The operands of a binary member, if their tags combine to one that it accepts (R158, R162). -/
def pairOf (s : State) (form : VForm) (a b : Reg) (ok : Ty → Bool) : Option Pair :=
  match (vreg s a).tag with
  | none => none
  | some ta =>
    match second s form ta b with
    | none => none
    | some y =>
      match combine ta y.ty with
      | some t =>
        if ok t && ok ta && ok y.ty then
          some { ty := t, ta := ta, tb := y.ty, x := fun i => slot (vreg s a).img i (tyBits ta), y := y.elem }
        else none
      | none => none

/-- The TAG, VLEN and operands of a binary member with a result width (R162). -/
def withPair (s : State) (form : VForm) (a b : Reg) (ok : Ty → Bool) (more : Ty → List Nat) (k : Pair → State → State) :
    State :=
  match pairOf s form a b ok with
  | none => trap s 0x07 0
  | some p => lanes s true (more p.ty ++ readWidths form p.ta p.tb) (k p)

/-- The captures that a form makes (R46). -/
def formCaps (form : VForm) (b : Reg) : List Reg := formReg form b

/-- Integer and floating-point tags of element arithmetic (R165). -/
def tyArith (t : Ty) : Bool := tyInt t || tyFp t

end Sys2Proof.Machine
end

