-- ==== Sys2Proof/Machine/Vcfg.lean ====
section
/-!
DEFINITION. The VCFG class and the grant of a VSETL (R102 to R107, R118 to R128).
-/

namespace Sys2Proof.Machine

/-- The element width of a width code (R116). -/
def codeBits (wc : Fin 4) : Nat := 8 * 2 ^ wc.val

/-- The groups that the Bridle grants for a request of n elements of a width (R104). -/
def bridle (s : State) (n w : Nat) : Nat :=
  let c := s.cpu.live
  let cl := clusterAt s (clusterOf s.cpu.id)
  let need := max 1 (cdiv (n * w) 2048)
  let top := min (min (min 8 (s.tenants.get c.tenant).lanemax) (min cl.ent c.cap))
    (1 + popN 8 (freeShared s s.cpu.id).toNat)
  pow2Floor (min need top)

/-- The steps of VSETL up to its g result (R120, R121). -/
def setLength (s : State) (n : Nat) (wc : Fin 4) : State :=
  let g := bridle s n (codeBits wc)
  modVec (grantTo s g) fun v =>
    { resizeImages v (2048 * g) with vl := min n (2048 * g / codeBits wc), wc := wc, vbeg := 0 }

/-- VSETL, VSETLW and VMAXQ: a predicate and a copy with pc = 0, in a task context alone (R119). -/
def lengthAttr (drain : Bool) : Attr := { lend := .copyG, scalar := false, drain := drain }

/-- VSETL (R120, R123). -/
def execVsetl (d a : Reg) (wc : Fin 4) (s : State) : Out :=
  issue (lengthAttr true) (.vsetl d a wc) s fun s =>
    atPoint s (fun _ s => s) fun s =>
      let s := setLength s (getG s a).toNat wc
      retire (result s d (BitVec.ofNat 64 (vecOf s).vl))

/-- A VSETLW whose counter is below its threshold: a full save, from which the instruction executes again, so that no
step of it is complete (R122, R130, R415). -/
def stripWait (s t : State) (i : Instr) (p : Place) (thr : Nat) : State :=
  let coop := preApplies s && s.cpu.preMode = 1
  let r := forcedRec t { t.cpu.live with stepDue := false } .suspended (.strip p thr) false true
  orHold s { word := wordOf i, wait := .strip p thr, size := recBytes r, switches := true } (saveRec t r) fun s =>
    if coop then preDone s else s

/-- The VSETL steps of VSETLW and its look at the counter at its place: it returns when the counter is at its threshold,
and else does what is given (R122). -/
def stripLook (s : State) (p : Place) (d a : Reg) (wc : Fin 4) (below : State → State → Nat → State) : State :=
  if poisoned s (placePa p) 8 then poisonTask s
  else
    let s := settleL1 s p 8
    let (bs, s) := homeRead s p 8
    let s := atomicPoint s p
    let t := setLength s (getG s a).toNat wc
    let thr := (getG s d).toNat + (vecOf t).vl
    if thr ≤ ofBytes bs then
      let t := invalidate (endHold t) t.cpu.id
      retire (result t d (BitVec.ofNat 64 (vecOf t).vl))
    else below s t thr

/-- A held VSETLW re-reads its counter at its home; below the threshold it waits for room, and is then as newly issued
(R261). -/
def heldStrip (s : State) (d a : Reg) (wc : Fin 4) (k : State → State) : State :=
  match heldHere s, s.cpu.live.holdAt with
  | true, some h =>
    match h.wait with
    | .strip p _ => stripLook s p d a wc fun s _ _ => if holdRoom s h then k (endHold s) else waitHere s
    | _ => k s
  | _, _ => k s

/-- VSETLW (R122, R123). -/
def execVsetlw (d a b : Reg) (wc : Fin 4) (s : State) : Out :=
  issue (lengthAttr true) (.vsetlw d a b wc) s fun s =>
    if reclaimable s then reclaim s
    else
      heldStrip s d a wc fun s =>
        let i : Instr := .vsetlw d a b wc
        (checkAccess s i .read (getG s b).toNat 8).done fun p s =>
          stripLook s p d a wc fun s t thr => stripWait s t i p thr

/-- VTAG (R125). -/
def execVtag (d : Reg) (t : Tag) (s : State) : Out :=
  vector (vecAttr .predicate false) (.vtag d t) [] s fun s =>
    retireV (modVec s fun v => { v with regs := v.regs.set d { v.regs.get d with tag := t } })

/-- VCLR (R125). -/
def execVclr (d : Reg) (s : State) : Out :=
  vector (vecAttr .predicate false) (.vclr d) [] s fun s =>
    retireV (modVec s fun v => { v with regs := v.regs.set d { tag := none, img := 0 } })

/-- The sum of two elements of an arithmetic tag under VADD (R126, R161, R165). -/
def addElem (t : Ty) (x y : Nat) : Elt :=
  match floatFmt t with
  | some f =>
    let e := fpAdd .rne (fpVal f x) (fpVal f y)
    let r := roundTo f .rne false e.1
    (r.1, e.2 ||| r.2)
  | none => ((x + y) % 2 ^ tyBits t, 0)

/-- Element i of a fold: its own value plus those at ascending multiples of L (R126). -/
def foldElem (t : Ty) (img : BitVec 16384) (vl l i : Nat) : Elt :=
  let w := tyBits t
  ((span 1 (cdiv (vl - i) l)).map fun m => slot img (i + m * l) w).foldl
    (fun a y => let r := addElem t a.1 y; (r.1, a.2 ||| r.2)) (slot img i w, 0)

/-- VFOLD (R126): TAG, then VLEN for L = 0 and for the tag's width. -/
def execVfold (d a : Reg) (s : State) : Out :=
  vector (vecAttr .predicate false) (.vfold d a) [a] s fun s =>
    let l := (capture s false a).toNat
    let r := vreg s d
    match r.tag with
    | none => trap s 0x07 0
    | some t =>
      if !tyArith t then trap s 0x07 0
      else if l = 0 then trap s 0x12 0
      else
        lanes s true [tyBits t] fun s =>
          let vl := (vecOf s).vl
          if vl ≤ l then retireV s
          else
            let es := (List.range l).map (foldElem t r.img vl l)
            retireV (modVec (accrue s (allFlags es)) fun v =>
              { v with regs := v.regs.set d { tag := some t, img := imgOf (tyBits t) (es.map (·.1)) } })

/-- VMAXQ (R124). -/
def execVmaxq (d : Reg) (wc : Fin 4) (s : State) : Out :=
  issueV (lengthAttr false) false false (.vmaxq d wc) [] s fun s =>
    let g := bridle s 2048 (codeBits wc)
    retire (result s d (BitVec.ofNat 64 (2048 * g / codeBits wc)))

end Sys2Proof.Machine
end

