-- ==== Sys2Proof/Machine/Varith.lean ====
section
/-!
DEFINITION. Element arithmetic: the VARITH and VFMA classes (R164 to R169).
-/

namespace Sys2Proof.Machine

/-- The layout of a floating-point tag. -/
def fmtOf (t : Ty) : FloatFmt := (floatFmt t).getD fmt32

/-- An exact value with its exceptions, rounded once under RNE (R161). -/
def roundElt (t : Ty) (x : FpVal × Flags) : Elt :=
  let r := roundTo (fmtOf t) .rne false x.1
  (r.1, x.2 ||| r.2)

/-- A binary member: its tags, and the result of a pair of elements (R158, R162, R165). -/
def vbin (i : Instr) (form : VForm) (d a b : Reg) (k : KReg) (s : State) (ok : Ty → Bool)
    (f : Pair → Nat → Nat → Elt) : Out :=
  vector (vecAttr .copyV) i (formCaps form b) s fun s =>
    withPair s form a b ok (fun t => [tyBits t]) fun p s =>
      writeElems s d p.ty (active s k) fun j => f p (p.x j) (p.y j)

/-- A unary member (R164, R165). -/
def vun (i : Instr) (d a : Reg) (k : KReg) (s : State) (ok : Ty → Bool) (f : Ty → Nat → Elt) : Out :=
  vector (vecAttr .copyV) i [] s fun s =>
    match (vreg s a).tag with
    | none => trap s 0x07 0
    | some t =>
      lanes s (ok t) [tyBits t] fun s =>
        writeElems s d t (active s k) fun j => f t (slot (vreg s a).img j (tyBits t))

/-- An integer result of two elements read under their tag, truncated (R165). -/
def intElt (f : Int → Int → Int) (p : Pair) (x y : Nat) : Elt :=
  (trunc (tyBits p.ty) (f (tyIntVal p.ty x) (tyIntVal p.ty y)), 0)

/-- A floating-point result of two elements (R161, R167). -/
def fpElt (f : FpVal → FpVal → FpVal × Flags) (p : Pair) (x y : Nat) : Elt :=
  roundElt p.ty (f (tyVal p.ta x) (tyVal p.tb y))

/-- A member defined on integers and on floating-point values (R165). -/
def arith (fi : Int → Int → Int) (ff : FpVal → FpVal → FpVal × Flags) (p : Pair) (x y : Nat) : Elt :=
  if tyInt p.ty then intElt fi p x y else fpElt ff p x y

/-- A member on the bits of two integer elements of width t (R165). -/
def bitElt (f : Nat → Nat → Nat → Nat) (p : Pair) (x y : Nat) : Elt :=
  (f (tyBits p.ty) x y % 2 ^ tyBits p.ty, 0)

/-- A member on integers whose result depends on the tag (R165). -/
def tagElt (f : Ty → Int → Int → Int) (p : Pair) (x y : Nat) : Elt := intElt (f p.ty) p x y

/-- A unary member on integers and on floating-point values (R165, R167). -/
def arith1 (fi : Int → Int) (ff : FpVal → FpVal × Flags) (t : Ty) (x : Nat) : Elt :=
  if tyInt t then (trunc (tyBits t) (fi (tyIntVal t x)), 0) else roundElt t (ff (tyVal t x))

/-- The tags of VEXP2 (R165). -/
def tyExp2 (t : Ty) : Bool := t = .fp32 || t = .fp16 || t = .bf16

/-- VADD (R165, R167). -/
def execVadd (form : VForm) (d a b : Reg) (k : KReg) (s : State) : Out :=
  vbin (.vadd form d a b k) form d a b k s tyArith (arith (fun x y => x + y) (fpAdd .rne))

/-- VSUB (R165, R167). -/
def execVsub (form : VForm) (d a b : Reg) (k : KReg) (s : State) : Out :=
  vbin (.vsub form d a b k) form d a b k s tyArith (arith (fun x y => x - y) fun x y => fpAdd .rne x (fpNeg y))

/-- VRSUB (R165, R167). -/
def execVrsub (form : VForm) (d a b : Reg) (k : KReg) (s : State) : Out :=
  vbin (.vrsub form d a b k) form d a b k s tyArith (arith (fun x y => y - x) fun x y => fpAdd .rne y (fpNeg x))

/-- VMUL (R165, R167). -/
def execVmul (form : VForm) (d a b : Reg) (k : KReg) (s : State) : Out :=
  vbin (.vmul form d a b k) form d a b k s tyArith (arith (fun x y => x * y) fpMul)

/-- VMULH (R165). -/
def execVmulh (form : VForm) (d a b : Reg) (k : KReg) (s : State) : Out :=
  vbin (.vmulh form d a b k) form d a b k s tyInt (tagElt fun t x y => x * y / (2 ^ tyBits t : Nat))

/-- VMIN (R165, R167). -/
def execVmin (form : VForm) (d a b : Reg) (k : KReg) (s : State) : Out :=
  vbin (.vmin form d a b k) form d a b k s tyArith (arith (fun x y => if y < x then y else x) (fpMinMax false))

/-- VMAX (R165, R167). -/
def execVmax (form : VForm) (d a b : Reg) (k : KReg) (s : State) : Out :=
  vbin (.vmax form d a b k) form d a b k s tyArith (arith (fun x y => if x < y then y else x) (fpMinMax true))

/-- VABS (R165, R167). -/
def execVabs (d a : Reg) (k : KReg) (s : State) : Out :=
  vun (.vabs d a k) d a k s tyArith (arith1 (fun x => x.natAbs) fun x => (fpAbs x, snan x))

/-- VNEG (R165, R167). -/
def execVneg (d a : Reg) (k : KReg) (s : State) : Out :=
  vun (.vneg d a k) d a k s tyArith (arith1 (fun x => -x) fun x => (fpNeg x, snan x))

/-- VDIV (R165 to R167). -/
def execVdiv (form : VForm) (d a b : Reg) (k : KReg) (s : State) : Out :=
  vbin (.vdiv form d a b k) form d a b k s tyArith (arith divS fpDiv)

/-- VREM (R165, R166). -/
def execVrem (form : VForm) (d a b : Reg) (k : KReg) (s : State) : Out :=
  vbin (.vrem form d a b k) form d a b k s tyInt (tagElt fun _ => remS)

/-- VSQRT (R165, R167). -/
def execVsqrt (d a : Reg) (k : KReg) (s : State) : Out :=
  vun (.vsqrt d a k) d a k s tyFp (arith1 id fpSqrt)

/-- VEXP2 (R165, R167). -/
def execVexp2 (d a : Reg) (k : KReg) (s : State) : Out :=
  vun (.vexp2 d a k) d a k s tyExp2 (fun t x => fpExp2 (fmtOf t) x)

/-- VAND (R165). -/
def execVand (form : VForm) (d a b : Reg) (k : KReg) (s : State) : Out :=
  vbin (.vand form d a b k) form d a b k s tyInt (bitElt fun _ x y => x &&& y)

/-- VOR (R165). -/
def execVor (form : VForm) (d a b : Reg) (k : KReg) (s : State) : Out :=
  vbin (.vor form d a b k) form d a b k s tyInt (bitElt fun _ x y => x ||| y)

/-- VXOR (R165). -/
def execVxor (form : VForm) (d a b : Reg) (k : KReg) (s : State) : Out :=
  vbin (.vxor form d a b k) form d a b k s tyInt (bitElt fun _ x y => x ^^^ y)

/-- VSHL (R165, R166). -/
def execVshl (form : VForm) (d a b : Reg) (k : KReg) (s : State) : Out :=
  vbin (.vshl form d a b k) form d a b k s tyInt (bitElt fun n x y => x * 2 ^ (y % n))

/-- VSHR (R165, R166). -/
def execVshr (form : VForm) (d a b : Reg) (k : KReg) (s : State) : Out :=
  vbin (.vshr form d a b k) form d a b k s tyInt (bitElt fun n x y => x / 2 ^ (y % n))

/-- VSHA (R165, R166). -/
def execVsha (form : VForm) (d a b : Reg) (k : KReg) (s : State) : Out :=
  vbin (.vsha form d a b k) form d a b k s tyInt (bitElt fun n x y => trunc n (sgn n x / (2 ^ (y % n) : Nat)))

/-- VSADD (R165). -/
def execVsadd (form : VForm) (d a b : Reg) (k : KReg) (s : State) : Out :=
  vbin (.vsadd form d a b k) form d a b k s tyInt (tagElt fun t x y => clamp (tyMin t) (tyMax t) (x + y))

/-- VSSUB (R165). -/
def execVssub (form : VForm) (d a b : Reg) (k : KReg) (s : State) : Out :=
  vbin (.vssub form d a b k) form d a b k s tyInt (tagElt fun t x y => clamp (tyMin t) (tyMax t) (x - y))

/-- VAVG (R165). -/
def execVavg (form : VForm) (d a b : Reg) (k : KReg) (s : State) : Out :=
  vbin (.vavg form d a b k) form d a b k s tyInt (tagElt fun _ x y => (x + y + 1) / 2)

/-- Whether VFMA may accumulate products of a tag into an addend's tag (R169). -/
def fmaTags (t td : Ty) : Bool := td = t || (td = .fp32 && (t = .fp16 || t = .bf16))

/-- One element of a VFMA member: the product exact, one rounding (R169). -/
def fmaElt (negP negZ : Bool) (td : Ty) (p : Pair) (x y z : Nat) : Elt :=
  if tyInt td then
    let m := tyIntVal td x * tyIntVal td y
    let c := tyIntVal td z
    (trunc (tyBits td) ((if negP then -m else m) + if negZ then -c else c), 0)
  else roundElt td (fpFma .rne negP negZ (tyVal p.ta x) (tyVal p.tb y) (tyVal td z))

/-- A VFMA member (R168, R169). -/
def vfmaOp (i : Instr) (negP negZ : Bool) (form : VForm) (d a b : Reg) (k : KReg) (s : State) : Out :=
  vector (vecAttr .copyV) i (formCaps form b) s fun s =>
    match (vreg s d).tag, pairOf s form a b tyArith with
    | some td, some p =>
      lanes s (fmaTags p.ty td) (tyBits td :: readWidths form p.ta p.tb) fun s =>
        writeElems s d td (active s k) fun j =>
          fmaElt negP negZ td p (p.x j) (p.y j) (slot (vreg s d).img j (tyBits td))
    | _, _ => trap s 0x07 0

/-- VFMA (R169). -/
def execVfma (form : VForm) (d a b : Reg) (k : KReg) (s : State) : Out :=
  vfmaOp (.vfma form d a b k) false false form d a b k s

/-- VFMS (R169). -/
def execVfms (form : VForm) (d a b : Reg) (k : KReg) (s : State) : Out :=
  vfmaOp (.vfms form d a b k) false true form d a b k s

/-- VFNMA (R169). -/
def execVfnma (form : VForm) (d a b : Reg) (k : KReg) (s : State) : Out :=
  vfmaOp (.vfnma form d a b k) true false form d a b k s

/-- VFNMS (R169). -/
def execVfnms (form : VForm) (d a b : Reg) (k : KReg) (s : State) : Out :=
  vfmaOp (.vfnms form d a b k) true true form d a b k s

end Sys2Proof.Machine
end

