-- ==== Sys2Proof/Machine/Vcvt.lean ====
section
/-!
DEFINITION. The VCVT class: conversions, error feedback, MX packing and unpacking (R146 to R155).
-/

namespace Sys2Proof.Machine

/-- The formats with a sign, an exponent and a mantissa (R135). -/
def tyFloat (t : Ty) : Bool := (floatFmt t).isSome

/-- The pairs of source and target that VCVT and VCVTS take (R149). -/
def cvtOk (src tgt : Ty) : Bool :=
  if tgt = .e8m0 then false
  else if src = .e8m0 then tgt = .fp64 || tgt = .fp32 || tgt = .bf16
  else true

/-- The pairs that error-feedback rounding takes (R151). -/
def efOk (src tgt : Ty) : Bool :=
  (src = .fp32 || src = .fp16 || src = .bf16) &&
  (tgt = .fp16 || tgt = .bf16 || tgt = .e4m3 || tgt = .e5m2 || tgt = .e2m1)

/-- The exceptions of a source value that is a NaN or an infinity (R150). -/
def nonFiniteFlags (f : FloatFmt) (x : FpVal) : Flags :=
  match x with
  | .nan s => if s || f.nan.isNone then flagNV else 0
  | .inf _ => if f.inf.isNone then flagNV else 0
  | .fin _ _ _ => 0

/-- A value converted to a floating-point target, saturating under VCVTS (R149, R150). -/
def cvtFp (sat : Bool) (dir : Dir) (tgt : Ty) (x : FpVal) : Elt :=
  let f := fmtOf tgt
  let r := roundTo f dir sat x
  (r.1, r.2 ||| nonFiniteFlags f x)

/-- One element converted (R149, R150). -/
def cvtElt (sat : Bool) (dir : Dir) (src tgt : Ty) (x : Nat) : Elt :=
  if tyInt tgt then
    if tyInt src then
      let v := tyIntVal src x
      (trunc (tyBits tgt) (if sat then clamp (tyMin tgt) (tyMax tgt) v else v), 0)
    else
      let r := fpToInt dir (tyMin tgt) (tyMax tgt) (tyVal src x)
      (trunc (tyBits tgt) r.1, r.2)
  else cvtFp sat dir tgt (if tyInt src then intVal (tyIntVal src x) else tyVal src x)

/-- One element of an error-feedback conversion with the residual before it: the result and the residual after. A sum
or a difference that is an exact zero is +0, as R82 has it for scalar sums: of −0 and a residual of +0, of an x and a
residual that cancel, and of t − y where the result is exact. R151 gives no sign (R151; DESIGN CHOICE, log 94). Where t − y
rounds to an infinity, after saturated residuals have piled up, that is the residual, as the pseudocode has it; the same
rule says that only an MTS can leave a value in `efr` that is not finite (R151; DESIGN CHOICE, log 131). -/
def efElt (sat : Bool) (tgt : Ty) (x : FpVal) (efr : Nat) : Elt × Nat :=
  let e := fpVal fmt32 efr
  if notFinite x then (cvtFp sat .rne tgt x, 0)
  else if notFinite e then (cvtFp sat .rne tgt e, 0)
  else
    let t := (fpAdd .rne x e).1
    let y := roundTo (fmtOf tgt) .rne sat t
    let v := fpVal (fmtOf tgt) y.1
    (y, if notFinite v then 0 else (roundTo fmt32 .rne false (fpAdd .rne t (fpNeg v)).1).1)

/-- The elements of an error-feedback conversion in ascending order, with the residual after them (R151). -/
def efRun (act : Nat → Bool) (f : Nat → Nat → Elt × Nat) : List Nat → Nat → List Elt × Nat
  | [], efr => ([], efr)
  | i :: is, efr =>
    let r := if act i then f i efr else ((0, 0), efr)
    let rest := efRun act f is r.2
    (r.1 :: rest.1, rest.2)

/-- The elements of an EF conversion from `vbeg` up to an element, with the residual after them (R150 to R152). -/
def efTo (s : State) (sat : Bool) (a : Reg) (src tgt : Ty) (k : KReg) (hi : Nat) : List Elt × Nat :=
  efRun (active s k) (fun j e => efElt sat tgt (tyVal src (slot (vreg s a).img j (tyBits src))) e)
    (span (vecOf s).vbeg hi) (vecOf s).efr.toNat

/-- An EF conversion that a forced save stops at element n: the elements below it are converted, their flags set and the
residual kept. One that writes its source, also through the copy of a prefix, runs to its end instead (R55, R129, R145,
R152; DEDUCED, log 91). -/
def efStop (s : State) (d : Reg) (tgt : Ty) (k : KReg) (run : List Elt × Nat) (n : Nat) : State :=
  let v := vecOf s
  let img := imgOf (tyBits tgt) ((List.range v.vl).map fun j =>
    if v.vbeg ≤ j && j < n && active s k j then (run.1.getD (j - v.vbeg) (0, 0)).1 else slot (vreg s d).img j (tyBits tgt))
  let flags := allFlags (((span v.vbeg n).filter (active s k)).map fun j => run.1.getD (j - v.vbeg) (0, 0))
  stayAt (putV (modVec (accrue s flags) fun v => { v with efr := BitVec.ofNat 32 run.2 }) d
    { tag := some tgt, img := img }) n

/-- VCVT and VCVTS (R148 to R152). An EF conversion with `vbeg` at or above vl > 0 sets the tag and zeroes the image from
vl on, as R148 and R112 have it of every conversion; R129 says only that it has no element effect (DESIGN CHOICE, log
130). -/
def convert (i : Instr) (sat : Bool) (d a : Reg) (tgt : Ty) (k : KReg) (rm : RM) (s : State) : Out :=
  vector (vecAttr .copyV) i [] s fun s =>
    match (vreg s a).tag with
    | none => trap s 0x07 0
    | some src =>
      let x (s : State) (j : Nat) : Nat := slot (vreg s a).img j (tyBits src)
      lanes s (if rm = .ef then efOk src tgt else cvtOk src tgt) [tyBits tgt, tyBits src] fun s =>
        if rm = .ef then
          match if overwrites s d a then none else cutAt s 1 with
          | some n => efStop s d tgt k (efTo s sat a src tgt k n) n
          | none =>
          let v := vecOf s
          let run := efTo s sat a src tgt k v.vl
          let efr := if v.vl = 0 then v.efr else BitVec.ofNat 32 run.2
          writeElems (modVec s fun v => { v with efr := efr }) d tgt (fun j => v.vbeg ≤ j && active s k j)
            fun j => run.1.getD (j - v.vbeg) (0, 0)
        else writeElems s d tgt (active s k) fun j => cvtElt sat (dirOf rm s.cpu.live.fst) src tgt (x s j)

/-- VCVT (R149). -/
def execVcvt (d a : Reg) (t : Ty) (k : KReg) (rm : RM) (s : State) : Out :=
  convert (.vcvt d a t k rm) false d a t k rm s

/-- VCVTS (R149). -/
def execVcvts (d a : Reg) (t : Ty) (k : KReg) (rm : RM) (s : State) : Out :=
  convert (.vcvts d a t k rm) true d a t k rm s

/-- The attributes of the pair instructions: a predicate alone (R147). -/
def pairAttr : Attr := vecAttr .predicate false

/-- The register after one, the second of a pair (R48). -/
def nextReg (r : Reg) : Reg := Fin.ofNat 32 (r.val + 1)

/-- The formats of packing and unpacking (R153, R155). -/
def packSource (t : Ty) : Bool := t = .fp32 || t = .fp16 || t = .bf16
def packTarget (t : Ty) : Bool := t = .e4m3 || t = .e5m2 || t = .e2m1 || t = .i8

/-- The largest finite value of a packed format, as a fraction (R153). -/
def packMax (t : Ty) : Nat × Nat :=
  match t with
  | .e4m3 => (448, 1) | .e5m2 => (57344, 1) | .e2m1 => (6, 1) | _ => (127, 64)

/-- x × 2^k. -/
def scale2 (k : Int) (x : FpVal) : FpVal :=
  match x with
  | .fin neg num den => if 0 ≤ k then .fin neg (num * 2 ^ k.toNat) den else .fin neg num (den * 2 ^ (-k).toNat)
  | v => v

/-- The smallest integer n with num / den ≤ Q × 2^n, for num > 0 (R153). -/
def packExp (q : Nat × Nat) (num den : Nat) : Int :=
  let l := ilog2 (num * q.2) (den * q.1)
  let exact := if 0 ≤ l then num * q.2 == den * q.1 * 2 ^ l.toNat else num * q.2 * 2 ^ (-l).toNat == den * q.1
  if exact then l else l + 1

/-- The greatest magnitude of a block, as a fraction (R153). -/
def blockMax (xs : List FpVal) : Nat × Nat :=
  xs.foldl (fun m x => match x with
    | .fin _ num den => if m.1 * den < num * m.2 then (num, den) else m
    | _ => m) (0, 1)

/-- The exponent that a block is scaled by (R153). -/
def blockExp (t : Ty) (xs : List FpVal) : Int :=
  let m := blockMax xs
  if m.1 = 0 then -127 else max (-127) (packExp (packMax t) m.1 m.2)

/-- One packed element (R153). -/
def packElt (t : Ty) (dir : Dir) (e : Int) (x : FpVal) : Elt :=
  if t = .i8 then
    match scale2 (6 - e) x with
    | .fin neg num den =>
      let r := roundAt dir neg num den 0
      (trunc 8 (clamp (-127) 127 (if neg then -(r.1 : Int) else r.1)), if r.2 then flagNX else 0)
    | _ => (0, 0)
  else roundTo (fmtOf t) dir false (scale2 (-e) x)

/-- A packed block: its scale, and its elements with their exceptions (R153). -/
def packBlock (t : Ty) (dir : Dir) (xs : List FpVal) : Nat × List Elt :=
  if xs.any notFinite then (255, (xs.map fun _ => (0, 0)) ++ [(0, flagNV)])
  else
    let e := blockExp t xs
    ((e + 127).toNat, xs.map (packElt t dir e))

/-- VPACKMX (R153, R154). -/
def execVpackmx (d a : Reg) (t : Ty) (rm : RM) (s : State) : Out :=
  vector pairAttr (.vpackmx d a t rm) [] s fun s =>
    match (vreg s a).tag with
    | none => trap s 0x07 0
    | some src =>
      lanes s (packSource src && packTarget t) [tyBits t, tyBits src] fun s =>
        let vl := (vecOf s).vl
        if vl = 0 then retireV s
        else
          let blocks := (List.range (cdiv vl 32)).map fun b =>
            let xs := (span (32 * b) (min vl (32 * b + 32))).map fun j => tyVal src (slot (vreg s a).img j (tyBits src))
            (xs.length, packBlock t (dirOf rm s.cpu.live.fst) xs)
          let es := (blocks.map fun q => q.2.2.take q.1).flatten
          let s := accrue s (allFlags (blocks.map fun q => q.2.2).flatten)
          let elems : VReg := { tag := some t, img := imgOf (tyBits t) (es.map (·.1)) }
          let scales : VReg := { tag := some .e8m0, img := imgOf 8 (blocks.map fun q => q.2.1) }
          retireV (modVec s fun v => { v with regs := (v.regs.set d elems).set (nextReg d) scales })

/-- One unpacked element (R155). -/
def unpackElt (src tgt : Ty) (dir : Dir) (x scale : Nat) : Elt :=
  if scale = 255 then (defaultNaN (fmtOf tgt), 0)
  else cvtFp false dir tgt (scale2 ((scale : Int) - 127) (elemVal src x))

/-- VUNPKMX (R155). -/
def execVunpkmx (d a : Reg) (t : Ty) (rm : RM) (s : State) : Out :=
  vector pairAttr (.vunpkmx d a t rm) [] s fun s =>
    match (vreg s a).tag with
    | none => trap s 0x07 0
    | some src =>
      let sc := vreg s (nextReg a)
      lanes s (packTarget src && packSource t && sc.tag = some .e8m0) [tyBits t, tyBits src] fun s =>
        writeElems s d t (fun _ => true) fun j =>
          unpackElt src t (dirOf rm s.cpu.live.fst) (slot (vreg s a).img j (tyBits src)) (slot sc.img (j / 32) 8)

end Sys2Proof.Machine
end

