-- ==== Sys2Proof/Machine/Vmem.lean ====
section
/-!
DEFINITION. Vector loads and stores, VSAVE and VRESTORE (R127, R128, R204 to R222).
-/

namespace Sys2Proof.Machine

/-- One access of a vector memory instruction: the element that a stop there leaves in `vbeg`, its address, and its
bytes in pieces that each lie in one line. -/
structure Unit_ where
  elem : Nat
  va : Nat
  pieces : List (Nat × Nat)
  deriving DecidableEq, Repr

/-- An access of n bytes, aligned to its size. -/
def oneUnit (elem va n : Nat) : Unit_ := { elem := elem, va := va, pieces := [(va, n)] }

/-- What the checks of an access give (R209 step 5, R413). -/
inductive Probe
  | ok (places : List (Place × Nat))
  | watch (n : Fin 4)
  | bad (cause : Nat)

/-- The translations that an instruction has obtained, with one more (R200). -/
def obtained (s : State) (got : List TlbEntry) (va : Nat) (e : Option TlbEntry) : List TlbEntry :=
  match e, tlbFind got s.cpu.live.tenant va with
  | some x, none => x :: got
  | _, _ => got

/-- The places of an access's pieces, with the translations that the instruction has obtained by then (R200). -/
def probePieces (s : State) (got : List TlbEntry) (k : Kind) : List (Nat × Nat) → Probe × List TlbEntry × State
  | [] => (.ok [], got, s)
  | (va, n) :: rest =>
    let (r, e, s) := resolveLiveWith s got k va
    let got := obtained s got va e
    match r with
    | .xlate => (.bad 0x04, got, s)
    | .prot => (.bad 0x05, got, s)
    | .ok p =>
      match probePieces s got k rest with
      | (.ok ps, got, s) => (.ok ((p, n) :: ps), got, s)
      | r => r

/-- The bytes of an access. -/
def unitBytes (u : Unit_) : Nat := (u.pieces.map (·.2)).sum

/-- The watchpoint of an access, then its translation and permissions (R413). -/
def probe (s : State) (got : List TlbEntry) (k : Kind) (u : Unit_) : Probe × List TlbEntry × State :=
  match watchHit s u.va (unitBytes u) (kindRd k) (kindWr k) with
  | some w => (.watch w, got, s)
  | none => probePieces s got k u.pieces

/-- Every access checked, in element order, one translation serving all accesses to its page (R200, R212). -/
def probeFrom (s : State) (got : List TlbEntry) (k : Kind) : List Unit_ → List (Unit_ × Probe) × List TlbEntry × State
  | [] => ([], got, s)
  | u :: us =>
    let (p, got, s) := probe s got k u
    let (ps, got, s) := probeFrom s got k us
    ((u, p) :: ps, got, s)

/-- Every access of an instruction checked. -/
def probeAll (s : State) (k : Kind) (us : List Unit_) : List (Unit_ × Probe) × State :=
  let r := probeFrom s [] k us
  (r.1, r.2.2)

/-- Whether an access passed its checks. -/
def passed (p : Probe) : Bool :=
  match p with
  | .ok _ => true
  | _ => false

/-- The first access that fails, the lowest element's. -/
def firstFail (l : List (Unit_ × Probe)) : Option (Unit_ × Probe) := l.find? fun x => !passed x.2

/-- The accesses before the first that fails. -/
def beforeFail (l : List (Unit_ × Probe)) : List (Unit_ × Probe) := l.takeWhile fun x => passed x.2

/-- The accesses after it that pass and that the model's free choice performs early (R212, log 21). -/
def afterFail (s : State) (l : List (Unit_ × Probe)) : List (Unit_ × Probe) :=
  (l.dropWhile fun x => passed x.2).filter fun x => passed x.2 && Config.pick s.tick (32 + x.1.elem) % 2 = 1

/-- The stop at a failing access: WATCH, or XLATE or PROT with the element. For VSAVE and VRESTORE, which have no element k,
`tval` of WATCH is the address of the 64-byte piece that matches (R202, R212, R413; DESIGN CHOICE, log 105). -/
def stopAt (s : State) (i : Instr) (caps : List Word) (k : Kind) (u : Unit_) (p : Probe) : State :=
  match p with
  | .watch w => debugStop s 0x0E (BitVec.ofNat 64 u.va) w.val false true
  | .bad c => memFault s i caps c (BitVec.ofNat 64 u.va) k u.elem
  | .ok _ => s

/-- The accesses that a stop at element k performs: those below it, and by free choice some of the others (R212, R220,
log 21). -/
def cutUnits (s : State) (ordered : Bool) (k : Nat) (l : List (Unit_ × Probe)) : List (Unit_ × Probe) :=
  l.filter fun x => x.1.elem < k || (!ordered && Config.pick s.tick (32 + x.1.elem) % 2 = 1)

/-- Pieces of one access that lie in more than one line (R217, R274). -/
def crosses (ps : List (Place × Nat)) : Bool :=
  match ps with
  | [] => false
  | p :: rest => rest.any fun q => placePa q.1 / 128 != placePa p.1 / 128

/-- An access over two lines is one indivisible write: it leaves both at their homes (R217, R274, log 79). -/
def settleAll (s : State) (ps : List (Place × Nat)) : State :=
  if crosses ps then ps.foldl (fun t p => settleL1 t p.1 p.2) s else s

/-- The bytes of a place are valid in the running core's L1, or the place is not cached there (R187). -/
def pieceHeld (s : State) (p : Place × Nat) : Bool :=
  match p.1 with
  | .hbm pa k =>
    match l1Find s k (pa / 128) with
    | some l => l.valid &&& byteMask (pa % 128) p.2 == byteMask (pa % 128) p.2
    | none => false
  | _ => true

/-- An access of several pieces is one indivisible read also where L1 holds some of them alone: unless it holds all, it
takes all from their homes (R217, R274, log 79). -/
def settleRead (s : State) (ps : List (Place × Nat)) : State :=
  if crosses ps || (1 < ps.length && !ps.all (pieceHeld s)) then ps.foldl (fun t p => settleL1 t p.1 p.2) s else s

/-- The bytes of places in order, or none when one consumes poison (R222). -/
def loadPlaces (s : State) (nt : Bool) : List (Place × Nat) → Option (List Byte) × State
  | [] => (some [], s)
  | (p, n) :: rest =>
    match loadAt s nt p n with
    | (none, s) => (none, s)
    | (some bs, s) =>
      match loadPlaces s nt rest with
      | (some more, s) => (some (bs ++ more), s)
      | r => r

/-- The bytes of accesses that passed, each with its access; none when one consumes poison. -/
def loadUnits (s : State) (nt : Bool) : List (Unit_ × Probe) → Option (List (Unit_ × List Byte)) × State
  | [] => (some [], s)
  | (u, p) :: rest =>
    match p with
    | .ok ps =>
      match loadPlaces (settleRead s ps) nt ps with
      | (none, s) => (none, s)
      | (some bs, s) =>
        match loadUnits s nt rest with
        | (some more, s) => (some ((u, bs) :: more), s)
        | r => r
    | _ => loadUnits s nt rest

/-- Bytes stored at places in order. -/
def storePlaces (s : State) (nt : Bool) : List (Place × Nat) → List Byte → State
  | [], _ => s
  | (p, n) :: rest, bs => storePlaces (storeAt s nt p (bs.take n)) nt rest (bs.drop n)

/-- The accesses that passed, stored in order with the bytes each takes (R208). -/
def storeUnits (s : State) (nt : Bool) (bytes : Unit_ → List Byte) (l : List (Unit_ × Probe)) : State :=
  l.foldl (fun s x => match x.2 with
    | .ok ps => settleAll (storePlaces s nt ps (bytes x.1)) ps
    | _ => s) s

/-- Trunc of a base and an offset (R206). -/
def ea (base : Word) (off : Int) : Nat := (base + BitVec.ofInt 64 off).toNat

/-- The active elements in [vbeg, vl) (R207). -/
def memElems (s : State) (k : KReg) : List Nat := (span (vecOf s).vbeg (vecOf s).vl).filter (active s k)

/-- The accesses of listed elements at their addresses (R206). -/
def elemUnits (t : Ty) (addr : Nat → Nat) (es : List Nat) : List Unit_ :=
  es.map fun i => oneUnit i (addr i) (max 1 (tyBits t / 8))

/-- The address of element i of a unit form (R206). -/
def unitAddr (t : Ty) (base : Word) (i : Nat) : Nat := ea base ((i * tyBits t / 8 : Nat) : Int)

/-- The first misaligned access, by element (R209 step 4). -/
def misaligned (us : List Unit_) : Option Unit_ := us.find? fun u => u.va % max 1 (unitBytes u) != 0

/-- A loaded element from its byte or bytes (R207, R211). -/
def loadedElem (t : Ty) (i : Nat) (bs : List Byte) : Nat :=
  if t = .e2m1 then bits (ofBytes bs) (4 * (i % 2)) 4 else ofBytes bs

/-- A load's destination: loaded elements under the new tag, the others as they were, and a zero tail (R112, R207). The
copy of a prefix is written with it (R55). -/
def putLoaded (s : State) (d : Reg) (t : Ty) (l : List (Unit_ × List Byte)) : State :=
  let vl := (vecOf s).vl
  let w := tyBits t
  let old := (vreg s d).img
  putV s d { tag := some t, img := imgOf w ((List.range vl).map fun i =>
    match l.find? fun x => x.1.elem = i with
    | some x => loadedElem t i x.2
    | none => slot old i w) }

/-- How a load treats a failing element (R212, R213, R215). -/
inductive OnFail | stop | shorten | keep
  deriving DecidableEq, Repr

/-- The bytes of a load's accesses, or its task's failure on poison (R222). -/
def withBytes (s : State) (nt : Bool) (l : List (Unit_ × Probe)) (k : List (Unit_ × List Byte) → State → State) : State :=
  match loadUnits s nt l with
  | (none, s) => poisonTask s
  | (some bs, s) => k bs s

/-- A load whose accesses all pass: it completes, or stops at the element that a forced save chooses, unless a restart
could not read its index again (R207, R215, R220). -/
def loadAll (s : State) (nt : Bool) (mode : OnFail) (grain : Nat) (l : List (Unit_ × Probe))
    (put : State → List (Unit_ × List Byte) → State) : State :=
  match if mode = .keep then none else cutAt s grain with
  | some k => withBytes s nt (cutUnits s false k l) fun bs s => stayAt (put s bs) k
  | none => withBytes s nt l fun bs s => retireV (put s bs)

/-- A load's accesses: checked, performed, and written by `put`, with the stop at a failing element (R207, R209, R212,
R213, R215). -/
def loadVec (s : State) (i : Instr) (caps : List Word) (nt : Bool) (mode : OnFail) (grain : Nat) (us : List Unit_)
    (put : State → List (Unit_ × List Byte) → State) : State :=
  let (l, s) := probeAll s .read us
  let first := (us.head?.map (·.elem)).getD 0
  match firstFail l with
  | none => loadAll s nt mode grain l put
  | some (u, p) =>
    if mode = .keep then stopAt s i caps .read u p
    else if mode = .shorten && u.elem != first && !(match p with
        | .watch _ => true
        | _ => false) then
      withBytes s nt (beforeFail l) fun bs s => retireV (put (modVec s fun v => { v with vl := u.elem }) bs)
    else
      withBytes s nt (beforeFail l ++ afterFail s l) fun bs s =>
        stopAt (setBeg (put s bs) u.elem) i caps .read u p

/-- A VLD past its TAG and VLEN checks (R114, R209). -/
def loadElems (s : State) (i : Instr) (caps : List Word) (d : Reg) (t : Ty) (k : KReg) (nt : Bool) (mode : OnFail)
    (addr : Nat → Nat) : State :=
  if (vecOf s).vl = 0 then retireV s
  else
    let us := elemUnits t addr (memElems s k)
    match misaligned us with
    | some u => trap s 0x03 (BitVec.ofNat 64 u.va)
    | none => loadVec s i caps nt mode 1 us fun s l => putLoaded s d t l

/-- A VLD (R209, R221). -/
def vld (i : Instr) (caps : List Reg) (t : Ty) (s : State) (body : State → List Word → State) : Out :=
  vector (vecAttr .copyV) i caps s fun s =>
    lanes s true [tyBits t] fun s =>
      body s ((caps.zip [false, true]).map fun c => capture s c.2 c.1)

/-- VLD, unit (R206, R207). -/
def execVldUnit (d a : Reg) (k : KReg) (nt : Bool) (t : Ty) (s : State) : Out :=
  let i : Instr := .vldUnit d a k nt t
  vld i [a] t s fun s c => loadElems s i c d t k nt .stop (unitAddr t (c.getD 0 0))

/-- VLD, first-fault (R213). -/
def execVldFirstFault (d a : Reg) (k : KReg) (nt : Bool) (t : Ty) (s : State) : Out :=
  let i : Instr := .vldFirstFault d a k nt t
  vld i [a] t s fun s c => loadElems s i c d t k nt .shorten (unitAddr t (c.getD 0 0))

/-- The address of element i of a strided form (R206). -/
def stridedAddr (base stride : Word) (i : Nat) : Nat := ea base (stride.toInt * i)

/-- VLD, strided (R206, R207). -/
def execVldStrided (d a b : Reg) (k : KReg) (nt : Bool) (t : Ty) (s : State) : Out :=
  let i : Instr := .vldStrided d a b k nt t
  vld i [a, b] t s fun s c => loadElems s i c d t k nt .stop (stridedAddr (c.getD 0 0) (c.getD 1 0))

/-- The index register of a form 00 transfer, if it carries an integer tag (R206). -/
def indexTag (s : State) (b : Reg) : Option Ty :=
  match (vreg s b).tag with
  | some t => if tyInt t then some t else none
  | none => none

/-- The address of element i of an indexed form (R206). -/
def indexedAddr (s : State) (b : Reg) (tb : Ty) (base : Word) (i : Nat) : Nat :=
  ea base (tyIntVal tb (slot (vreg s b).img i (tyBits tb)))

/-- VLD, indexed. One that writes its index register, as destination or through the copy of a prefix, performs no element
until every access has passed, so that a restart still reads it: R215 says so of vd = vb (R55, R206, R207, R215, R216;
DEDUCED, log 91). -/
def execVldIndexed (d a b : Reg) (k : KReg) (nt : Bool) (t : Ty) (s : State) : Out :=
  let i : Instr := .vldIndexed d a b k nt t
  vector (vecAttr .copyV) i [a] s fun s =>
    match indexTag s b with
    | none => trap s 0x07 0
    | some tb =>
      lanes s true [tyBits t, tyBits tb] fun s =>
        let base := capture s false a
        loadElems s i [base] d t k nt (if overwrites s d b then .keep else .stop) (indexedAddr s b tb base)

/-- The bytes of a segment (R140). -/
def segBytes (t : Ty) : Nat := if t = .e2m1 then 20 else 36

/-- The segments of a transfer, from the one that holds `vbeg` (R217). -/
def segUnits (s : State) (t : Ty) (base : Word) : List Unit_ :=
  (span ((vecOf s).vbeg / 32) ((vecOf s).vl / 32)).map fun b =>
    let va := ea base ((b * segBytes t : Nat) : Int)
    { elem := 32 * b, va := va, pieces := (List.range (segBytes t / 4)).map fun j => (ea base ((b * segBytes t + 4 * j : Nat) : Int), 4) }

/-- The attributes of a segment-MX load: a pk raises PREFIX (R221). -/
def segAttr : Attr := vecAttr .copyV false

/-- The register pair of a segment load (R141, R217). The scale register keeps its elements from vl / 32 up to vl
(log 59). Under a prefix whose pd is the scale register the copy is written over the scales: R55 and R217 name no order
(DESIGN CHOICE, log 93). -/
def putSegments (s : State) (d : Reg) (t : Ty) (l : List (Unit_ × List Byte)) : State :=
  let vl := (vecOf s).vl
  let w := tyBits t
  let old := (vreg s d).img
  let e := nextReg' d
  let olds := (vreg s e).img
  let seg (b : Nat) : Option (List Byte) := (l.find? fun x => x.1.elem = 32 * b).map (·.2)
  let scales : VReg := { tag := some .e8m0, img := imgOf 8 ((List.range vl).map fun b =>
    match seg b with
    | some bs => at_ bs 0 1
    | none => slot olds b 8) }
  let s := modVec s fun v => { v with regs := v.regs.set e scales }
  putV s d { tag := some t, img := imgOf w ((List.range vl).map fun i =>
    match seg (i / 32) with
    | some bs => bits (ofBytes (bs.drop 4)) (i % 32 * w) w
    | none => slot old i w) }
where
  nextReg' (r : Reg) : Reg := Fin.ofNat 32 (r.val + 1)

/-- The checks of a segment-MX transfer past TAG: VLEN, then a base aligned to 4. `tval` is the base whatever `vbeg` is,
though the first segment to move may be a later one (R209; DESIGN CHOICE, log 76). -/
def segChecks (s : State) (t : Ty) (base : Word) (k : State → State) : State :=
  lanes s true [tyBits t] fun s =>
    if (vecOf s).vl % 32 != 0 then trap s 0x12 0
    else if (vecOf s).vl = 0 then retireV s
    else if base.toNat % 4 != 0 then trap s 0x03 base
    else k s

/-- VLD, segment-MX (R217). -/
def execVldSegmentMx (d a : Reg) (t : Ty) (s : State) : Out :=
  let i : Instr := .vldSegmentMx d a t
  vector segAttr i [a] s fun s =>
    let base := capture s false a
    segChecks s t base fun s =>
      loadVec s i [base] false .stop 32 (segUnits s t base) fun s l => putSegments s d t l

/-- A store's accesses: checked, then performed in element order; at a failing element an ordered store has performed
exactly those below, and so it has where a forced save stops it (R208, R212, R214, R220). With grain 0 it is performed
whole and keeps `vbeg` at a stop (R127). -/
def storeVec (s : State) (i : Instr) (caps : List Word) (nt ordered : Bool) (grain : Nat) (us : List Unit_)
    (bytes : Unit_ → List Byte) : State :=
  let (l, s) := probeAll s .write us
  match firstFail l with
  | none =>
    match if grain = 0 then none else cutAt s grain with
    | some k => stayAt (storeUnits s nt bytes (cutUnits s ordered k l)) k
    | none => retireV (storeUnits s nt bytes l)
  | some (u, p) =>
    let done := beforeFail l ++ (if ordered then [] else afterFail s l)
    let s := storeUnits s nt bytes done
    stopAt (if grain = 0 then s else setBeg s u.elem) i caps .write u p

/-- The attributes of a store: no prefix (R221). -/
def storeAttr : Attr := vecAttr .refuse

/-- The accesses of a unit store of E2M1: one for each byte with an active element, at the lower of them (R210). -/
def nibbleUnits (base : Word) (es : List Nat) : List Unit_ :=
  ((es.zip (none :: es.map some)).filter fun x =>
    match x.2 with
    | some j => x.1 / 2 != j / 2
    | none => true).map fun x => oneUnit x.1 (ea base ((x.1 / 2 : Nat) : Int)) 1

/-- The bytes that an element's access stores; for E2M1 both nibbles of its byte (R208, R210). -/
def storedBytes (img : BitVec 16384) (t : Ty) (u : Unit_) : List Byte :=
  if t = .e2m1 then toBytes 1 (slot img (u.elem / 2) 8)
  else toBytes (tyBits t / 8) (slot img u.elem (tyBits t))

/-- A VST past its TAG and VLEN checks (R114, R209). -/
def storeElems (s : State) (i : Instr) (caps : List Word) (d : Reg) (t : Ty) (k : KReg) (nt ordered : Bool)
    (addr : Nat → Nat) : State :=
  if (vecOf s).vl = 0 then retireV s
  else
    let es := memElems s k
    let us := if t = .e2m1 then nibbleUnits (caps.getD 0 0) es else elemUnits t addr es
    match misaligned us with
    | some u => trap s 0x03 (BitVec.ofNat 64 u.va)
    | none =>
      let img := (vreg s d).img
      storeVec s i caps nt ordered (if t = .e2m1 then 2 else 1) us (storedBytes img t)

/-- A VST: the tag of v[d] is that of the type (R208, R209). -/
def vst (i : Instr) (caps : List Reg) (d : Reg) (t : Ty) (s : State) (body : State → List Word → State) : Out :=
  vector storeAttr i caps s fun s =>
    lanes s ((vreg s d).tag = some t) [tyBits t] fun s =>
      body s ((caps.zip [false, true]).map fun c => capture s c.2 c.1)

/-- VST, unit (R208). -/
def execVstUnit (d a : Reg) (k : KReg) (nt : Bool) (t : Ty) (s : State) : Out :=
  let i : Instr := .vstUnit d a k nt t
  vst i [a] d t s fun s c => storeElems s i c d t k nt false (unitAddr t (c.getD 0 0))

/-- VST, ordered (R214). -/
def execVstOrdered (d a : Reg) (k : KReg) (nt : Bool) (t : Ty) (s : State) : Out :=
  let i : Instr := .vstOrdered d a k nt t
  vst i [a] d t s fun s c => storeElems s i c d t k nt true (unitAddr t (c.getD 0 0))

/-- VST, strided (R208). -/
def execVstStrided (d a b : Reg) (k : KReg) (nt : Bool) (t : Ty) (s : State) : Out :=
  let i : Instr := .vstStrided d a b k nt t
  vst i [a, b] d t s fun s c => storeElems s i c d t k nt false (stridedAddr (c.getD 0 0) (c.getD 1 0))

/-- VST, indexed (R208). -/
def execVstIndexed (d a b : Reg) (k : KReg) (nt : Bool) (t : Ty) (s : State) : Out :=
  let i : Instr := .vstIndexed d a b k nt t
  vector storeAttr i [a] s fun s =>
    match indexTag s b with
    | none => trap s 0x07 0
    | some tb =>
      lanes s ((vreg s d).tag = some t) [tyBits t, tyBits tb] fun s =>
        let base := capture s false a
        storeElems s i [base] d t k nt false (indexedAddr s b tb base)

/-- The bytes of a stored segment: the scale, three zero bytes, the 32 elements (R140). -/
def segmentBytes (img scales : BitVec 16384) (t : Ty) (u : Unit_) : List Byte :=
  toBytes 4 (slot scales (u.elem / 32) 8) ++ toBytes (segBytes t - 4) (slot img (u.elem / 32) (32 * tyBits t))

/-- VST, segment-MX (R217). -/
def execVstSegmentMx (d a : Reg) (t : Ty) (s : State) : Out :=
  let i : Instr := .vstSegmentMx d a t
  vector storeAttr i [a] s fun s =>
    let base := capture s false a
    let e := vreg s (Fin.ofNat 32 (d.val + 1))
    if (vreg s d).tag != some t || e.tag != some .e8m0 then trap s 0x07 0
    else
      segChecks s t base fun s =>
        storeVec s i [base] false false 32 (segUnits s t base) (segmentBytes (vreg s d).img e.img t)

/-- The bytes of a register image under the grant (R127). -/
def imageBytes (s : State) : Nat := 256 * groupCount s s.cpu.id

/-- The vector state image of R127. -/
def vsaveImage (s : State) : List Byte :=
  let v := vecOf s
  let gn := groupCount s s.cpu.id
  toBytes 8 v.vl ++ toBytes 8 v.vbeg ++ toBytes 8 v.vred.toNat ++ toBytes 4 v.efr.toNat ++ toBytes 1 v.wc.val ++
  toBytes 1 gn ++ toBytes 1 1 ++ toBytes 1 0 ++ (v.regs.toList.map fun r => BitVec.ofNat 8 (tagNum r.tag)) ++
  (v.masks.toList.map fun m => toBytes 256 m.toNat).flatten ++
  (v.regs.toList.map fun r => toBytes (256 * gn) r.img.toNat).flatten

/-- Accesses of 64 bytes that cover a range aligned to 64. -/
def rangeUnits (base : Word) (off n : Nat) : List Unit_ :=
  (List.range (n / 64)).map fun j => oneUnit 0 (ea base ((off + 64 * j : Nat) : Int)) 64

/-- VSAVE: an unordered store of the whole image, performed again in full after a fault (R127). -/
def execVsave (a : Reg) (s : State) : Out :=
  issueV { storeAttr with hasK := false, drain := true } true true (.vsave a) [a] s fun s =>
    let base := capture s false a
    if base.toNat % 64 != 0 then trap s 0x03 base
    else
      let img := vsaveImage s
      storeVec s (.vsave a) [base] false false 0 (rangeUnits base 0 img.length)
        fun u => (img.drop ((BitVec.ofNat 64 u.va - base).toNat)).take 64

/-- A header that VRESTORE refuses (R128). -/
def badImage (s : State) (h : List Byte) : Bool :=
  at_ h 30 1 != 1 || at_ h 29 1 != groupCount s s.cpu.id || (List.range 32).any (fun n => 16 < at_ h (32 + n) 1) ||
  grantBits s / (8 * 2 ^ (at_ h 28 1 % 4)) < at_ h 0 8 || 2047 < at_ h 8 8

/-- The vector state of an image (R127, R128); `vq` is not part of it. -/
def restoreImage (s : State) (b : List Byte) : State :=
  let gb := imageBytes s
  modVec s fun v =>
    { v with
      vl := at_ b 0 8, vbeg := at_ b 8 8, vred := BitVec.ofNat 64 (at_ b 16 8), efr := BitVec.ofNat 32 (at_ b 24 4)
      wc := Fin.ofNat 4 (at_ b 28 1)
      masks := Vector.ofFn fun m : Fin 7 => BitVec.ofNat 2048 (at_ b (64 + 256 * m.val) 256)
      regs := Vector.ofFn fun r : Fin 32 =>
        { tag := tagOf (at_ b (32 + r.val) 1), img := BitVec.ofNat 16384 (at_ b (1856 + gb * r.val) gb) } }

/-- Accesses loaded whole for VRESTORE, with the translations obtained by then, or the stop at the first that fails (R128,
R200). -/
def loadWhole (s : State) (i : Instr) (base : Word) (got : List TlbEntry) (us : List Unit_)
    (k : List Byte → List TlbEntry → State → State) : State :=
  let (l, got, s) := probeFrom s got .read us
  match firstFail l with
  | some (u, p) => stopAt s i [base] .read u p
  | none => withBytes s false l fun bs s => k (bs.map (·.2)).flatten got s

/-- VRESTORE: VLEN before any state is written (R128). -/
def execVrestore (a : Reg) (s : State) : Out :=
  vector (vecAttr .predicate false) (.vrestore a) [a] s fun s =>
    let i : Instr := .vrestore a
    let base := capture s false a
    if base.toNat % 64 != 0 then trap s 0x03 base
    else
      loadWhole s i base [] (rangeUnits base 0 64) fun h got s =>
        if badImage s h then trap s 0x12 0
        else
          loadWhole s i base got (rangeUnits base 64 (1792 + 32 * imageBytes s)) fun b _ s =>
            retire (restoreImage s (h ++ b))

end Sys2Proof.Machine
end

