-- ==== Sys2Proof/Machine/Vperm.lean ====
section
/-!
DEFINITION. Permutations, compares and mask registers: the VPERM and VMASK classes (R174 to R177).
-/

namespace Sys2Proof.Machine

/-- A member that moves elements of va under its own tag, whatever it is (R138, R174). -/
def permute (i : Instr) (caps : List Reg) (d a : Reg) (k : KReg) (s : State)
    (f : State → Ty → Nat → (Nat → Nat) → Nat → Nat) : Out :=
  vector (vecAttr .copyV) i caps s fun s =>
    match (vreg s a).tag with
    | none => trap s 0x07 0
    | some t =>
      lanes s true [tyBits t] fun s =>
        let x := fun j => slot (vreg s a).img j (tyBits t)
        writeElems s d t (active s k) fun j => (f s t (vecOf s).vl x j, 0)

/-- A slide by n, up for a positive n and down for a negative one (R174). -/
def slide (n : Int) (vl fill : Nat) (x : Nat → Nat) (j : Nat) : Nat :=
  let src := (j : Int) - n
  if 0 ≤ src ∧ src < vl then x src.toNat else fill

/-- VSLUP (R174). -/
def execVslup (form : VForm) (d a b : Reg) (k : KReg) (s : State) : Out :=
  permute (.vslup form d a b k) (formCaps form b) d a k s fun s t vl x j =>
    if form = .vs then slide 1 vl (scOf t (capture s false b)) x j else slide (sgn 5 b.val) vl 0 x j

/-- VSLDN (R174). -/
def execVsldn (form : VForm) (d a b : Reg) (k : KReg) (s : State) : Out :=
  permute (.vsldn form d a b k) (formCaps form b) d a k s fun s t vl x j =>
    if form = .vs then slide (-1) vl (scOf t (capture s false b)) x j else slide (-sgn 5 b.val) vl 0 x j

/-- VRGATH (R174, R175). -/
def execVrgath (d a b : Reg) (k : KReg) (s : State) : Out :=
  vector (vecAttr .copyV) (.vrgath d a b k) [] s fun s =>
    match (vreg s a).tag, (vreg s b).tag with
    | some t, some tb =>
      lanes s (tyInt tb) [tyBits t, tyBits tb] fun s =>
        writeElems s d t (active s k) fun j =>
          let n := slot (vreg s b).img j (tyBits tb)
          (if n < (vecOf s).vl then slot (vreg s a).img n (tyBits t) else 0, 0)
    | _, _ => trap s 0x07 0

/-- The active indexes in [0, vl). -/
def activeIdx (s : State) (k : KReg) : List Nat := (List.range (vecOf s).vl).filter (active s k)

/-- VCOMPR: k selects, and every element in [0, vl) is written (R174). -/
def execVcompr (d a : Reg) (k : KReg) (s : State) : Out :=
  vector (vecAttr .copyV) (.vcompr d a k) [] s fun s =>
    match (vreg s a).tag with
    | none => trap s 0x07 0
    | some t =>
      lanes s true [tyBits t] fun s =>
        let l := (activeIdx s k).map fun i => slot (vreg s a).img i (tyBits t)
        writeElems s d t (fun _ => true) fun j => (l.getD j 0, 0)

/-- VEXPND (R174). -/
def execVexpnd (d a : Reg) (k : KReg) (s : State) : Out :=
  permute (.vexpnd d a k) [] d a k s fun s _ _ x j => x ((activeIdx s k).takeWhile (· < j)).length

/-- A member with an integer target tag and no vector source (R174). -/
def indexed (i : Instr) (d : Reg) (t : Ty) (k : KReg) (s : State) (f : State → Nat → Nat) : Out :=
  vector (vecAttr .copyV) i [] s fun s =>
    lanes s (tyInt t) [tyBits t] fun s => writeElems s d t (active s k) fun j => (f s j % 2 ^ tyBits t, 0)

/-- VIOTA (R174). -/
def execViota (d : Reg) (m : KReg) (t : Ty) (k : KReg) (s : State) : Out :=
  indexed (.viota d m t k) d t k s fun s j => ((List.range j).filter (maskBit s m)).length

/-- VIDX (R174). -/
def execVidx (d : Reg) (t : Ty) (k : KReg) (s : State) : Out :=
  indexed (.vidx d t k) d t k s fun _ j => j

/-- VBCAST (R174, R175). -/
def execVbcast (form : VForm) (d a b : Reg) (k : KReg) (s : State) : Out :=
  permute (.vbcast form d a b k) (formCaps form b) d a k s fun s _ vl x _ =>
    let n := if form = .vs then (capture s false b).toNat else b.val
    if n < vl then x n else 0

/-- An element moved under its own tag, or widened to FP32, which reads it as FP: a signalling NaN raises the invalid
exception (R82, R156, R158, R161; DEDUCED, log 59). -/
def widen (src tgt : Ty) (x : Nat) : Elt :=
  if src = tgt then (x, 0) else ((roundTo (fmtOf tgt) .rne false (tyVal src x)).1, snan (tyVal src x))

/-- VMERGE: k selects, and every element in [0, vl) is written (R174). -/
def execVmerge (form : VForm) (d a b : Reg) (k : KReg) (s : State) : Out :=
  vector (vecAttr .copyV) (.vmerge form d a b k) (formCaps form b) s fun s =>
    withPair s form a b (fun _ => true) (fun t => [tyBits t]) fun p s =>
      writeElems s d p.ty (fun _ => true) fun j =>
        if active s k j then widen p.ta p.ty (p.x j) else widen p.tb p.ty (p.y j)

/-- VREV (R174). -/
def execVrev (d a : Reg) (k : KReg) (s : State) : Out :=
  permute (.vrev d a k) [] d a k s fun _ _ vl x j => x (vl - 1 - j)

/-- VZIP (R174). -/
def execVzip (d a : Reg) (k : KReg) (s : State) : Out :=
  permute (.vzip d a k) [] d a k s fun _ _ vl x j => if j % 2 = 0 then x (j / 2) else x (cdiv vl 2 + j / 2)

/-- VUNZIP (R174). -/
def execVunzip (d a : Reg) (k : KReg) (s : State) : Out :=
  permute (.vunzip d a k) [] d a k s fun _ _ vl x j =>
    let h := cdiv vl 2
    if j < h then x (2 * j) else x (2 * (j - h) + 1)

/-- A compare: the result bit and exceptions of a pair of elements (R176, R177). -/
def compare (i : Instr) (form : VForm) (d : KReg) (a b : Reg) (k : KReg) (s : State) (ok : Ty → Bool)
    (fi : Int → Int → Bool) (ff : FpVal → FpVal → Bool) (anyInvalid : Bool) : Out :=
  vector (vecAttr .predicate) i (formCaps form b) s fun s =>
    withPair s form a b ok (fun _ => []) fun p s =>
      writeMask s d k fun j =>
        if tyInt p.ty then (fi (tyIntVal p.ty (p.x j)) (tyIntVal p.ty (p.y j)), 0)
        else
          let x := tyVal p.ta (p.x j)
          let y := tyVal p.tb (p.y j)
          (ff x y, if anyInvalid && (x.isNaN || y.isNaN) then flagNV else snan x ||| snan y)

/-- x ≤ y, for values that are not NaNs. -/
def fpLe (x y : FpVal) : Bool := !x.isNaN && !y.isNaN && !fpLt y x

/-- VCEQ (R176). -/
def execVceq (form : VForm) (d : KReg) (a b : Reg) (k : KReg) (s : State) : Out :=
  compare (.vceq form d a b k) form d a b k s tyArith (fun x y => x = y) fpEq false

/-- VCNE (R176). -/
def execVcne (form : VForm) (d : KReg) (a b : Reg) (k : KReg) (s : State) : Out :=
  compare (.vcne form d a b k) form d a b k s tyArith (fun x y => x ≠ y) (fun x y => !fpEq x y) false

/-- VCLT (R176). -/
def execVclt (form : VForm) (d : KReg) (a b : Reg) (k : KReg) (s : State) : Out :=
  compare (.vclt form d a b k) form d a b k s tyArith (fun x y => x < y) (fun x y => fpLt x y) true

/-- VCLE (R176). -/
def execVcle (form : VForm) (d : KReg) (a b : Reg) (k : KReg) (s : State) : Out :=
  compare (.vcle form d a b k) form d a b k s tyArith (fun x y => x ≤ y) fpLe true

/-- VCGT (R176). -/
def execVcgt (form : VForm) (d : KReg) (a b : Reg) (k : KReg) (s : State) : Out :=
  compare (.vcgt form d a b k) form d a b k s tyArith (fun x y => y < x) (fun x y => fpLt y x) true

/-- VCGE (R176). -/
def execVcge (form : VForm) (d : KReg) (a b : Reg) (k : KReg) (s : State) : Out :=
  compare (.vcge form d a b k) form d a b k s tyArith (fun x y => y ≤ x) (fun x y => fpLe y x) true

/-- VCUN: floating-point tags alone (R176). -/
def execVcun (form : VForm) (d : KReg) (a b : Reg) (k : KReg) (s : State) : Out :=
  compare (.vcun form d a b k) form d a b k s tyFp (fun _ _ => false) (fun x y => x.isNaN || y.isNaN) false

/-- VCLASS (R176, R177). -/
def execVclass (d : KReg) (a b : Reg) (k : KReg) (s : State) : Out :=
  vector (vecAttr .predicate) (.vclass d a b k) [b] s fun s =>
    match (vreg s a).tag with
    | none => trap s 0x07 0
    | some t =>
      lanes s (tyFp t) [tyBits t] fun s =>
        writeMask s d k fun j =>
          ((capture s false b).getLsbD (fpClass (fmtOf t) (slot (vreg s a).img j (tyBits t))), 0)

/-- A member on masks alone: it raises no TAG and no VLEN (R176). -/
def maskOp (i : Instr) (d k : KReg) (s : State) (f : State → Nat → Bool) : Out :=
  vector (vecAttr .predicate) i [] s fun s => writeMask s d k fun j => (f s j, 0)

/-- KAND (R176). -/
def execKand (d a b k : KReg) (s : State) : Out :=
  maskOp (.kand d a b k) d k s fun s j => maskBit s a j && maskBit s b j

/-- KOR (R176). -/
def execKor (d a b k : KReg) (s : State) : Out :=
  maskOp (.kor d a b k) d k s fun s j => maskBit s a j || maskBit s b j

/-- KXOR (R176). -/
def execKxor (d a b k : KReg) (s : State) : Out :=
  maskOp (.kxor d a b k) d k s fun s j => maskBit s a j != maskBit s b j

/-- KNOT (R176). -/
def execKnot (d a k : KReg) (s : State) : Out :=
  maskOp (.knot d a k) d k s fun s j => !maskBit s a j

/-- KANDN (R176). -/
def execKandn (d a b k : KReg) (s : State) : Out :=
  maskOp (.kandn d a b k) d k s fun s j => maskBit s a j && !maskBit s b j

/-- KMOV (R176). -/
def execKmov (d a k : KReg) (s : State) : Out :=
  maskOp (.kmov d a k) d k s fun s j => maskBit s a j

/-- The lowest set bit of a mask in [0, vl), or vl (R176). -/
def firstSet (s : State) (a : KReg) : Nat := (firstIn 0 (vecOf s).vl (maskBit s a)).getD (vecOf s).vl

/-- KSBF (R176). -/
def execKsbf (d a k : KReg) (s : State) : Out :=
  maskOp (.ksbf d a k) d k s fun s j => j < firstSet s a

/-- KSIF (R176). -/
def execKsif (d a k : KReg) (s : State) : Out :=
  maskOp (.ksif d a k) d k s fun s j => j ≤ firstSet s a

/-- A member with a g result from a mask ANDed with k (R176, R177). -/
def maskCount (i : Instr) (d : Reg) (a k : KReg) (s : State) (f : List Nat → Word) : Out :=
  vector (vecAttr .copyG) i [] s fun s =>
    retireV (result s d (f ((List.range (vecOf s).vl).filter fun j => maskBit s a j && active s k j)))

/-- KPOPC (R176). -/
def execKpopc (d : Reg) (a k : KReg) (s : State) : Out :=
  maskCount (.kpopc d a k) d a k s fun l => BitVec.ofNat 64 l.length

/-- KFIRST (R176). -/
def execKfirst (d : Reg) (a k : KReg) (s : State) : Out :=
  maskCount (.kfirst d a k) d a k s fun l =>
    match l with
    | j :: _ => BitVec.ofNat 64 j
    | [] => BitVec.allOnes 64

end Sys2Proof.Machine
end

