-- ==== Sys2Proof/Machine/Vred.lean ====
section
/-!
DEFINITION. Reductions and the vector-to-scalar queue: the VRED class and the VMOV class (R132, R170 to R173, R178 to
R180).
-/

namespace Sys2Proof.Machine

/-- The g register of a queued VQPOP. -/
def popDest (e : VEntry) : Option Reg :=
  match entryInstr e with
  | some (.vqpop d) => some d
  | _ => none

/-- The oldest entry of `vq` taken off; 0 from an empty queue (R180). -/
def takeOldest (s : State) : Word × State :=
  ((vecOf s).vq.headD 0, modVec s fun v => { v with vq := v.vq.tail })

/-- The oldest queued VQPOP executes ahead of a push that finds `vq` full (R180); none when there is none. -/
def overtake (s : State) : Option State :=
  match s.cpu.live.viq.find? fun e => (popDest e).isSome with
  | some e =>
    let (v, s) := takeOldest s
    let s := match popDest e with
      | some d => setG s d v
      | none => s
    let s := if e.pfx.v && !e.pfx.pc then setG s e.pfx.pd v else s
    some (modLive s fun c => { c with viq := c.viq.erase e })
  | none => none

/-- A value at the end of `vq` (R132). -/
def pushVq (s : State) (v : Word) : State := modVec s fun x => { x with vq := x.vq ++ [v] }

/-- A push, which waits in the lanes while `vq` is full (R132, R171, R180). -/
def withPush (s : State) (i : Instr) (caps : List Word) (q : Bool) (v : Word) (k : State → State) : State :=
  if !q then k s
  else if (vecOf s).vq.length < 8 then k (pushVq s v)
  else
    match overtake s with
    | some t => k (pushVq t v)
    | none => delay s i caps

/-- The value that a reduction pushes (R171). -/
def pushWord (t : Ty) (r : Nat) : Word := if tySigned t then sextWord (tyBits t) r else BitVec.ofNat 64 r

/-- A reduction's result: element 0 of v[d], with every other bit zero (R171). -/
def reduceTo (s : State) (i : Instr) (caps : List Word) (d : Reg) (q : Bool) (t : Ty) (r : Elt) (more : State → State) :
    State :=
  withPush s i caps q (pushWord t r.1) fun s =>
    retireV (more (putV (accrue s r.2) d { tag := some t, img := imgOf (tyBits t) [r.1] }))

/-- The elements that take part, with their indexes (R171). -/
def activeElems (s : State) (a : Reg) (t : Ty) (k : KReg) : List (Nat × Nat) :=
  ((List.range (vecOf s).vl).filter (active s k)).map fun i => (i, slot (vreg s a).img i (tyBits t))

/-- A reduction other than VRSUMO (R170, R171). -/
def reduce (i : Instr) (d a : Reg) (q : Bool) (s : State) (ok : Ty → Bool) (res : Ty → Ty)
    (f : State → Ty → Elt) : Out :=
  vector (vecAttr .copyV) i [] s fun s =>
    match (vreg s a).tag with
    | none => trap s 0x07 0
    | some t => lanes s (ok t) [tyBits (res t), tyBits t] fun s => reduceTo s i [] d q (res t) (f s t) id

/-- The identity of a sum: 0, or -0.0 (R170). -/
def sumIdentity (t : Ty) : Nat := if tyInt t then 0 else signed (fmtOf t) true 0

/-- One level of the tree of R172. -/
def sumLevel (t : Ty) : List Elt → List Elt
  | x :: y :: rest => (let r := addElem t x.1 y.1; (r.1, x.2 ||| y.2 ||| r.2)) :: sumLevel t rest
  | l => l

/-- A number that a sum gives or starts from is rounded to its format, so that a NaN is the default one, and a signalling
NaN raises the invalid exception (R82, R136, R161). -/
def sumLeaf (t : Ty) (x : Nat) : Elt :=
  if tyFp t && (tyVal t x).isNaN then (defaultNaN (fmtOf t), snan (tyVal t x)) else (x, 0)

/-- The tree of R172 over a power of two of leaves. -/
def sumTree (t : Ty) : Nat → List Elt → Elt
  | 0, l => l.headD (0, 0)
  | fuel + 1, l => sumTree t fuel (sumLevel t l)

/-- VRSUM's result (R172). -/
def sumOf (s : State) (a : Reg) (k : KReg) (t : Ty) : Elt :=
  let vl := (vecOf s).vl
  let p := pow2Ceil 11 1 (max vl 1)
  sumTree t (Nat.log2 p) ((List.range p).map fun i =>
    sumLeaf t (if i < vl && active s k i then slot (vreg s a).img i (tyBits t) else sumIdentity t))

/-- VRSUM (R172). -/
def execVrsum (d a : Reg) (k : KReg) (q : Bool) (s : State) : Out :=
  reduce (.vrsum d a k q) d a q s tyArith id fun s t => sumOf s a k t

/-- VRSUMO's running sum (R173). -/
def orderedSum (t : Ty) (init : Nat) (xs : List Nat) : Elt :=
  xs.foldl (fun acc x => let r := addElem t acc.1 x; (r.1, acc.2 ||| r.2)) (sumLeaf t init)

/-- VRSUMO's sum of the active elements from `vbeg` up to an element (R173). -/
def orderedTo (s : State) (a b : Reg) (k : KReg) (t : Ty) (hi : Nat) : Elt :=
  let v := vecOf s
  orderedSum t (if v.vbeg = 0 then scOf t (capture s false b) else scOf t v.vred)
    (((activeElems s a t k).filter fun e => v.vbeg ≤ e.1 && e.1 < hi).map (·.2))

/-- VRSUMO that a forced save stops at element n: `vred` holds the sum so far, and its flags are set (R129, R173, R183). -/
def sumStop (s : State) (r : Elt) (n : Nat) : State :=
  stayAt (modVec (accrue s r.2) fun v => { v with vred := BitVec.ofNat 64 r.1 }) n

/-- VRSUMO (R173). -/
def execVrsumo (d a b : Reg) (k : KReg) (q : Bool) (s : State) : Out :=
  let i : Instr := .vrsumo d a b k q
  vector (vecAttr .copyV) i [b] s fun s =>
    match (vreg s a).tag with
    | none => trap s 0x07 0
    | some t =>
      lanes s (tyArith t) [tyBits t] fun s =>
        match cutAt s 1 with
        | some n => sumStop s (orderedTo s a b k t n) n
        | none =>
          let r := orderedTo s a b k t (vecOf s).vl
          reduceTo s i [capture s false b] d q t r fun s => modVec s fun v => { v with vred := BitVec.ofNat 64 r.1 }

/-- The greatest or least of floating-point values, or none (R172). -/
def fpExtreme (greater : Bool) : List FpVal → Option FpVal
  | [] => none
  | x :: xs => some (xs.foldl (fun a y => (fpMinMax greater a y).1) x)

/-- The greatest or least of integers, or none (R172). -/
def intExtreme (greater : Bool) : List Int → Option Int
  | [] => none
  | x :: xs => some (xs.foldl (fun a y => if (a < y) = greater then y else a) x)

/-- Invalid for each signalling NaN that takes part (R172). -/
def snanFlags (xs : List FpVal) : Flags := xs.foldl (fun a x => a ||| snan x) 0

/-- VRMAX's and VRMIN's result (R170, R172). -/
def extremeOf (greater : Bool) (s : State) (a : Reg) (k : KReg) (t : Ty) : Elt :=
  let xs := (activeElems s a t k).map (·.2)
  if tyInt t then
    (trunc (tyBits t) ((intExtreme greater (xs.map (tyIntVal t))).getD (if greater then tyMin t else tyMax t)), 0)
  else
    let vs := xs.map (tyVal t)
    ((roundTo (fmtOf t) .rne false ((fpExtreme greater vs).getD (.inf greater))).1, snanFlags vs)

/-- VRMAX (R172). -/
def execVrmax (d a : Reg) (k : KReg) (q : Bool) (s : State) : Out :=
  reduce (.vrmax d a k q) d a q s tyArith id fun s t => extremeOf true s a k t

/-- VRMIN (R172). -/
def execVrmin (d a : Reg) (k : KReg) (q : Bool) (s : State) : Out :=
  reduce (.vrmin d a k q) d a q s tyArith id fun s t => extremeOf false s a k t

/-- VRMAXI's result: the lowest index of an element equal to the greatest, or -1 (R172). -/
def maxIndex (s : State) (a : Reg) (k : KReg) (t : Ty) : Elt :=
  let m := extremeOf true s a k t
  let es := activeElems s a t k
  let hit := es.find? fun e => e.2 = m.1 && !(tyFp t && (tyVal t e.2).isNaN)
  ((hit.map (·.1)).getD (2 ^ 32 - 1), m.2)

/-- VRMAXI (R172). -/
def execVrmaxi (d a : Reg) (k : KReg) (q : Bool) (s : State) : Out :=
  reduce (.vrmaxi d a k q) d a q s tyArith (fun _ => .i32) fun s t => maxIndex s a k t

/-- A bitwise reduction (R172). -/
def bitReduce (s : State) (a : Reg) (k : KReg) (t : Ty) (init : Nat) (f : Nat → Nat → Nat) : Elt :=
  ((activeElems s a t k).foldl (fun x e => f x e.2) init, 0)

/-- VRAND (R172). -/
def execVrand (d a : Reg) (k : KReg) (q : Bool) (s : State) : Out :=
  reduce (.vrand d a k q) d a q s tyInt id fun s t => bitReduce s a k t (2 ^ tyBits t - 1) fun x y => x &&& y

/-- VROR (R172). -/
def execVror (d a : Reg) (k : KReg) (q : Bool) (s : State) : Out :=
  reduce (.vror d a k q) d a q s tyInt id fun s t => bitReduce s a k t 0 fun x y => x ||| y

/-- VRXOR (R172). -/
def execVrxor (d a : Reg) (k : KReg) (q : Bool) (s : State) : Out :=
  reduce (.vrxor d a k q) d a q s tyInt id fun s t => bitReduce s a k t 0 fun x y => x ^^^ y

/-- VMVSX: element 0 alone, where the mask that a pk names has bit 0 set (R163, R178). -/
def execVmvsx (d b : Reg) (s : State) : Out :=
  vector (vecAttr .copyV) (.vmvsx d b) [b] s fun s =>
    match (vreg s d).tag with
    | none => trap s 0x07 0
    | some t => lanes s true [tyBits t] fun s => writeElems s d t (fun j => j == 0 && active s 0 j) fun _ => (scOf t (capture s false b), 0)

/-- The element that VMVXS moves, extended (R178). -/
def moveWord (t : Ty) (x : Nat) : Word := if tySigned t then sextWord (tyBits t) x else BitVec.ofNat 64 x

/-- VMVXS. The VLEN check of R162 is made on `vl` elements of va's width, though element 0 alone is read whatever `vl` is
(R178; DESIGN CHOICE, log 77). -/
def execVmvxs (d a : Reg) (s : State) : Out :=
  vector (vecAttr .copyG) (.vmvxs d a) [] s fun s =>
    match (vreg s a).tag with
    | none => trap s 0x07 0
    | some t =>
      lanes s true [tyBits t] fun s => retireV (result s d (moveWord t (slot (vreg s a).img 0 (tyBits t))))

/-- VQPOP: at the head of the VIQ no older push remains, so an empty queue gives 0 (R178, R180). -/
def execVqpop (d : Reg) (s : State) : Out :=
  issueV (vecAttr .copyG) false false (.vqpop d) [] s fun s =>
    let (v, s) := takeOldest s
    retireV (result s d v)

/-- VQLEN (R178). -/
def execVqlen (d : Reg) (s : State) : Out :=
  issueV (vecAttr .copyG) false false (.vqlen d) [] s fun s =>
    retireV (result s d (BitVec.ofNat 64 (vecOf s).vq.length))

/-- VMV: a register's elements under its tag, or a scalar under v[d]'s own tag (R178). -/
def execVmv (form : VForm) (d a b : Reg) (k : KReg) (s : State) : Out :=
  vector (vecAttr .copyV) (.vmv form d a b k) (formCaps form b) s fun s =>
    match (vreg s (if form = .vv then a else d)).tag with
    | none => trap s 0x07 0
    | some t =>
      lanes s true [tyBits t] fun s =>
        writeElems s d t (active s k) fun j =>
          (match form with
           | .vv => slot (vreg s a).img j (tyBits t)
           | .vs => scOf t (capture s false b)
           | .vi => immOf t b, 0)

end Sys2Proof.Machine
end

