-- ==== Sys2Proof/Machine/Dispatch.lean ====
section
/-!
DEFINITION. The meaning of every instruction and event, one arm each.
-/

namespace Sys2Proof.Machine

/-- What executing an instruction, or an event coming about, does to the state. -/
def exec (i : Instr) (s : State) : Host.Outcome State Fault Refusal :=
  match i with
  | .add d a b w => Sys2Proof.Machine.execAdd d a b w s
  | .sub d a b w => Sys2Proof.Machine.execSub d a b w s
  | .and d a b w => Sys2Proof.Machine.execAnd d a b w s
  | .or d a b w => Sys2Proof.Machine.execOr d a b w s
  | .xor d a b w => Sys2Proof.Machine.execXor d a b w s
  | .andn d a b w => Sys2Proof.Machine.execAndn d a b w s
  | .orn d a b w => Sys2Proof.Machine.execOrn d a b w s
  | .shl d a b w => Sys2Proof.Machine.execShl d a b w s
  | .shr d a b w => Sys2Proof.Machine.execShr d a b w s
  | .sha d a b w => Sys2Proof.Machine.execSha d a b w s
  | .ror d a b w => Sys2Proof.Machine.execRor d a b w s
  | .mul d a b w => Sys2Proof.Machine.execMul d a b w s
  | .mulh d a b w => Sys2Proof.Machine.execMulh d a b w s
  | .mulhn d a b w => Sys2Proof.Machine.execMulhn d a b w s
  | .div d a b w => Sys2Proof.Machine.execDiv d a b w s
  | .divn d a b w => Sys2Proof.Machine.execDivn d a b w s
  | .rem d a b w => Sys2Proof.Machine.execRem d a b w s
  | .remn d a b w => Sys2Proof.Machine.execRemn d a b w s
  | .min d a b w => Sys2Proof.Machine.execMin d a b w s
  | .max d a b w => Sys2Proof.Machine.execMax d a b w s
  | .minn d a b w => Sys2Proof.Machine.execMinn d a b w s
  | .maxn d a b w => Sys2Proof.Machine.execMaxn d a b w s
  | .slt d a b w => Sys2Proof.Machine.execSlt d a b w s
  | .sltn d a b w => Sys2Proof.Machine.execSltn d a b w s
  | .clz d a w => Sys2Proof.Machine.execClz d a w s
  | .ctz d a w => Sys2Proof.Machine.execCtz d a w s
  | .popc d a w => Sys2Proof.Machine.execPopc d a w s
  | .brev d a w => Sys2Proof.Machine.execBrev d a w s
  | .addi d a imm => Sys2Proof.Machine.execAddi d a imm s
  | .andi d a imm => Sys2Proof.Machine.execAndi d a imm s
  | .ori d a imm => Sys2Proof.Machine.execOri d a imm s
  | .xori d a imm => Sys2Proof.Machine.execXori d a imm s
  | .slti d a imm => Sys2Proof.Machine.execSlti d a imm s
  | .sltni d a imm => Sys2Proof.Machine.execSltni d a imm s
  | .shli d a w n => Sys2Proof.Machine.execShli d a w n s
  | .shri d a w n => Sys2Proof.Machine.execShri d a w n s
  | .shai d a w n => Sys2Proof.Machine.execShai d a w n s
  | .rori d a w n => Sys2Proof.Machine.execRori d a w n s
  | .liw d imm => Sys2Proof.Machine.execLiw d imm s
  | .lis d imm => Sys2Proof.Machine.execLis d imm s
  | .addpc d imm => Sys2Proof.Machine.execAddpc d imm s
  | .sel d a b c => Sys2Proof.Machine.execSel d a b c s
  | .lea d a b sh => Sys2Proof.Machine.execLea d a b sh s
  | .fadd d a b fmt rm => Sys2Proof.Machine.execFadd d a b fmt rm s
  | .fsub d a b fmt rm => Sys2Proof.Machine.execFsub d a b fmt rm s
  | .fmul d a b fmt rm => Sys2Proof.Machine.execFmul d a b fmt rm s
  | .fdiv d a b fmt rm => Sys2Proof.Machine.execFdiv d a b fmt rm s
  | .fsqrt d a fmt rm => Sys2Proof.Machine.execFsqrt d a fmt rm s
  | .fmin d a b fmt => Sys2Proof.Machine.execFmin d a b fmt s
  | .fmax d a b fmt => Sys2Proof.Machine.execFmax d a b fmt s
  | .fcmpeq d a b fmt => Sys2Proof.Machine.execFcmpeq d a b fmt s
  | .fcmplt d a b fmt => Sys2Proof.Machine.execFcmplt d a b fmt s
  | .fcmple d a b fmt => Sys2Proof.Machine.execFcmple d a b fmt s
  | .fcmpun d a b fmt => Sys2Proof.Machine.execFcmpun d a b fmt s
  | .fclass d a fmt => Sys2Proof.Machine.execFclass d a fmt s
  | .fcvti d a fmt rm => Sys2Proof.Machine.execFcvti d a fmt rm s
  | .fcvtn d a fmt rm => Sys2Proof.Machine.execFcvtn d a fmt rm s
  | .fcvtfi d a fmt rm => Sys2Proof.Machine.execFcvtfi d a fmt rm s
  | .fcvtfn d a fmt rm => Sys2Proof.Machine.execFcvtfn d a fmt rm s
  | .fcvtf d a src fmt rm => Sys2Proof.Machine.execFcvtf d a src fmt rm s
  | .fma d a b c fmt rm => Sys2Proof.Machine.execFma d a b c fmt rm s
  | .fnma d a b c fmt rm => Sys2Proof.Machine.execFnma d a b c fmt rm s
  | .j imm => Sys2Proof.Machine.execJ imm s
  | .jl imm => Sys2Proof.Machine.execJl imm s
  | .jrl d a => Sys2Proof.Machine.execJrl d a s
  | .beq a b imm => Sys2Proof.Machine.execBeq a b imm s
  | .bne a b imm => Sys2Proof.Machine.execBne a b imm s
  | .blt a b imm => Sys2Proof.Machine.execBlt a b imm s
  | .bge a b imm => Sys2Proof.Machine.execBge a b imm s
  | .bltn a b imm => Sys2Proof.Machine.execBltn a b imm s
  | .bgen a b imm => Sys2Proof.Machine.execBgen a b imm s
  | .ld d a sz imm => Sys2Proof.Machine.execLd d a sz imm s
  | .st d a sz imm => Sys2Proof.Machine.execSt d a sz imm s
  | .xld d a b sh sz => Sys2Proof.Machine.execXld d a b sh sz s
  | .xst d a b sh sz => Sys2Proof.Machine.execXst d a b sh sz s
  | .amoSwap d a b rel acq x => Sys2Proof.Machine.execAmoSwap d a b rel acq x s
  | .amoAdd d a b rel acq x => Sys2Proof.Machine.execAmoAdd d a b rel acq x s
  | .amoAnd d a b rel acq x => Sys2Proof.Machine.execAmoAnd d a b rel acq x s
  | .amoOr d a b rel acq x => Sys2Proof.Machine.execAmoOr d a b rel acq x s
  | .amoXor d a b rel acq x => Sys2Proof.Machine.execAmoXor d a b rel acq x s
  | .amoMin d a b rel acq x => Sys2Proof.Machine.execAmoMin d a b rel acq x s
  | .amoMax d a b rel acq x => Sys2Proof.Machine.execAmoMax d a b rel acq x s
  | .amoMinn d a b rel acq x => Sys2Proof.Machine.execAmoMinn d a b rel acq x s
  | .amoMaxn d a b rel acq x => Sys2Proof.Machine.execAmoMaxn d a b rel acq x s
  | .amoCas d a b rel acq x => Sys2Proof.Machine.execAmoCas d a b rel acq x s
  | .cinit a b => Sys2Proof.Machine.execCinit a b s
  | .cadd a b => Sys2Proof.Machine.execCadd a b s
  | .cread d a => Sys2Proof.Machine.execCread d a s
  | .ctest d a b => Sys2Proof.Machine.execCtest d a b s
  | .rld d a sz => Sys2Proof.Machine.execRld d a sz s
  | .rst d a b sz => Sys2Proof.Machine.execRst d a b sz s
  | .radd d a b sz => Sys2Proof.Machine.execRadd d a b sz s
  | .rswp d a b sz => Sys2Proof.Machine.execRswp d a b sz s
  | .traps n => Sys2Proof.Machine.execTraps n s
  | .brk n => Sys2Proof.Machine.execBrk n s
  | .eret => Sys2Proof.Machine.execEret s
  | .halt => Sys2Proof.Machine.execHalt s
  | .waiti => Sys2Proof.Machine.execWaiti s
  | .codesync a b => Sys2Proof.Machine.execCodesync a b s
  | .tlbinv a => Sys2Proof.Machine.execTlbinv a s
  | .l1wb a b => Sys2Proof.Machine.execL1wb a b s
  | .mfs d spr => Sys2Proof.Machine.execMfs d spr s
  | .mts a spr => Sys2Proof.Machine.execMts a spr s
  | .pfx pg ps pd pc pk => Sys2Proof.Machine.execPfx pg ps pd pc pk s
  | .spawn d a b => Sys2Proof.Machine.execSpawn d a b s
  | .spawng d a b c => Sys2Proof.Machine.execSpawng d a b c s
  | .finish a => Sys2Proof.Machine.execFinish a s
  | .fref a b => Sys2Proof.Machine.execFref a b s
  | .fdrop a => Sys2Proof.Machine.execFdrop a s
  | .fpoll d a => Sys2Proof.Machine.execFpoll d a s
  | .ftake d a => Sys2Proof.Machine.execFtake d a s
  | .rpoint => Sys2Proof.Machine.execRpoint s
  | .rhold => Sys2Proof.Machine.execRhold s
  | .rrel => Sys2Proof.Machine.execRrel s
  | .tself d => Sys2Proof.Machine.execTself d s
  | .ffail a => Sys2Proof.Machine.execFfail a s
  | .await d a b kl vs => Sys2Proof.Machine.execAwait d a b kl vs s
  | .awaitany d a b kl vs => Sys2Proof.Machine.execAwaitany d a b kl vs s
  | .yield b kl vs => Sys2Proof.Machine.execYield b kl vs s
  | .cwait d a b kl vs => Sys2Proof.Machine.execCwait d a b kl vs s
  | .cpy1d d a b c => Sys2Proof.Machine.execCpy1d d a b c s
  | .cpy2d d a => Sys2Proof.Machine.execCpy2d d a s
  | .cpfill d a b c => Sys2Proof.Machine.execCpfill d a b c s
  | .cpgath d a => Sys2Proof.Machine.execCpgath d a s
  | .cpqry d => Sys2Proof.Machine.execCpqry d s
  | .mxbind d a b => Sys2Proof.Machine.execMxbind d a b s
  | .mxload d a b => Sys2Proof.Machine.execMxload d a b s
  | .mxrow a b c => Sys2Proof.Machine.execMxrow a b c s
  | .mxrowz a b c => Sys2Proof.Machine.execMxrowz a b c s
  | .mxsync d a => Sys2Proof.Machine.execMxsync d a s
  | .mxrd d a b => Sys2Proof.Machine.execMxrd d a b s
  | .mxzero d a b => Sys2Proof.Machine.execMxzero d a b s
  | .mxrel a => Sys2Proof.Machine.execMxrel a s
  | .mxqry d a => Sys2Proof.Machine.execMxqry d a s
  | .fgrp d a b => Sys2Proof.Machine.execFgrp d a b s
  | .fcoll d a => Sys2Proof.Machine.execFcoll d a s
  | .fbar d a => Sys2Proof.Machine.execFbar d a s
  | .fgqry d a => Sys2Proof.Machine.execFgqry d a s
  | .fgfree a => Sys2Proof.Machine.execFgfree a s
  | .dmark a => Sys2Proof.Machine.execDmark a s
  | .dsample d a => Sys2Proof.Machine.execDsample d a s
  | .vsetl d a wc => Sys2Proof.Machine.execVsetl d a wc s
  | .vsetlw d a b wc => Sys2Proof.Machine.execVsetlw d a b wc s
  | .vtag d t => Sys2Proof.Machine.execVtag d t s
  | .vclr d => Sys2Proof.Machine.execVclr d s
  | .vfold d a => Sys2Proof.Machine.execVfold d a s
  | .vsave a => Sys2Proof.Machine.execVsave a s
  | .vrestore a => Sys2Proof.Machine.execVrestore a s
  | .vmaxq d wc => Sys2Proof.Machine.execVmaxq d wc s
  | .vadd form d a b k => Sys2Proof.Machine.execVadd form d a b k s
  | .vsub form d a b k => Sys2Proof.Machine.execVsub form d a b k s
  | .vrsub form d a b k => Sys2Proof.Machine.execVrsub form d a b k s
  | .vmul form d a b k => Sys2Proof.Machine.execVmul form d a b k s
  | .vmulh form d a b k => Sys2Proof.Machine.execVmulh form d a b k s
  | .vmin form d a b k => Sys2Proof.Machine.execVmin form d a b k s
  | .vmax form d a b k => Sys2Proof.Machine.execVmax form d a b k s
  | .vabs d a k => Sys2Proof.Machine.execVabs d a k s
  | .vneg d a k => Sys2Proof.Machine.execVneg d a k s
  | .vdiv form d a b k => Sys2Proof.Machine.execVdiv form d a b k s
  | .vrem form d a b k => Sys2Proof.Machine.execVrem form d a b k s
  | .vsqrt d a k => Sys2Proof.Machine.execVsqrt d a k s
  | .vexp2 d a k => Sys2Proof.Machine.execVexp2 d a k s
  | .vand form d a b k => Sys2Proof.Machine.execVand form d a b k s
  | .vor form d a b k => Sys2Proof.Machine.execVor form d a b k s
  | .vxor form d a b k => Sys2Proof.Machine.execVxor form d a b k s
  | .vshl form d a b k => Sys2Proof.Machine.execVshl form d a b k s
  | .vshr form d a b k => Sys2Proof.Machine.execVshr form d a b k s
  | .vsha form d a b k => Sys2Proof.Machine.execVsha form d a b k s
  | .vsadd form d a b k => Sys2Proof.Machine.execVsadd form d a b k s
  | .vssub form d a b k => Sys2Proof.Machine.execVssub form d a b k s
  | .vavg form d a b k => Sys2Proof.Machine.execVavg form d a b k s
  | .vfma form d a b k => Sys2Proof.Machine.execVfma form d a b k s
  | .vfms form d a b k => Sys2Proof.Machine.execVfms form d a b k s
  | .vfnma form d a b k => Sys2Proof.Machine.execVfnma form d a b k s
  | .vfnms form d a b k => Sys2Proof.Machine.execVfnms form d a b k s
  | .vcvt d a t k rm => Sys2Proof.Machine.execVcvt d a t k rm s
  | .vcvts d a t k rm => Sys2Proof.Machine.execVcvts d a t k rm s
  | .vpackmx d a t rm => Sys2Proof.Machine.execVpackmx d a t rm s
  | .vunpkmx d a t rm => Sys2Proof.Machine.execVunpkmx d a t rm s
  | .vrsum d a k q => Sys2Proof.Machine.execVrsum d a k q s
  | .vrsumo d a b k q => Sys2Proof.Machine.execVrsumo d a b k q s
  | .vrmax d a k q => Sys2Proof.Machine.execVrmax d a k q s
  | .vrmin d a k q => Sys2Proof.Machine.execVrmin d a k q s
  | .vrand d a k q => Sys2Proof.Machine.execVrand d a k q s
  | .vror d a k q => Sys2Proof.Machine.execVror d a k q s
  | .vrxor d a k q => Sys2Proof.Machine.execVrxor d a k q s
  | .vrmaxi d a k q => Sys2Proof.Machine.execVrmaxi d a k q s
  | .vslup form d a b k => Sys2Proof.Machine.execVslup form d a b k s
  | .vsldn form d a b k => Sys2Proof.Machine.execVsldn form d a b k s
  | .vrgath d a b k => Sys2Proof.Machine.execVrgath d a b k s
  | .vcompr d a k => Sys2Proof.Machine.execVcompr d a k s
  | .vexpnd d a k => Sys2Proof.Machine.execVexpnd d a k s
  | .viota d m t k => Sys2Proof.Machine.execViota d m t k s
  | .vidx d t k => Sys2Proof.Machine.execVidx d t k s
  | .vbcast form d a b k => Sys2Proof.Machine.execVbcast form d a b k s
  | .vmerge form d a b k => Sys2Proof.Machine.execVmerge form d a b k s
  | .vrev d a k => Sys2Proof.Machine.execVrev d a k s
  | .vzip d a k => Sys2Proof.Machine.execVzip d a k s
  | .vunzip d a k => Sys2Proof.Machine.execVunzip d a k s
  | .vceq form d a b k => Sys2Proof.Machine.execVceq form d a b k s
  | .vcne form d a b k => Sys2Proof.Machine.execVcne form d a b k s
  | .vclt form d a b k => Sys2Proof.Machine.execVclt form d a b k s
  | .vcle form d a b k => Sys2Proof.Machine.execVcle form d a b k s
  | .vcgt form d a b k => Sys2Proof.Machine.execVcgt form d a b k s
  | .vcge form d a b k => Sys2Proof.Machine.execVcge form d a b k s
  | .vcun form d a b k => Sys2Proof.Machine.execVcun form d a b k s
  | .vclass d a b k => Sys2Proof.Machine.execVclass d a b k s
  | .kand d a b k => Sys2Proof.Machine.execKand d a b k s
  | .kor d a b k => Sys2Proof.Machine.execKor d a b k s
  | .kxor d a b k => Sys2Proof.Machine.execKxor d a b k s
  | .knot d a k => Sys2Proof.Machine.execKnot d a k s
  | .kandn d a b k => Sys2Proof.Machine.execKandn d a b k s
  | .ksbf d a k => Sys2Proof.Machine.execKsbf d a k s
  | .ksif d a k => Sys2Proof.Machine.execKsif d a k s
  | .kpopc d a k => Sys2Proof.Machine.execKpopc d a k s
  | .kfirst d a k => Sys2Proof.Machine.execKfirst d a k s
  | .kmov d a k => Sys2Proof.Machine.execKmov d a k s
  | .vldUnit d a k nt t => Sys2Proof.Machine.execVldUnit d a k nt t s
  | .vldStrided d a b k nt t => Sys2Proof.Machine.execVldStrided d a b k nt t s
  | .vldIndexed d a b k nt t => Sys2Proof.Machine.execVldIndexed d a b k nt t s
  | .vldFirstFault d a k nt t => Sys2Proof.Machine.execVldFirstFault d a k nt t s
  | .vldSegmentMx d a t => Sys2Proof.Machine.execVldSegmentMx d a t s
  | .vstUnit d a k nt t => Sys2Proof.Machine.execVstUnit d a k nt t s
  | .vstStrided d a b k nt t => Sys2Proof.Machine.execVstStrided d a b k nt t s
  | .vstIndexed d a b k nt t => Sys2Proof.Machine.execVstIndexed d a b k nt t s
  | .vstOrdered d a k nt t => Sys2Proof.Machine.execVstOrdered d a k nt t s
  | .vstSegmentMx d a t => Sys2Proof.Machine.execVstSegmentMx d a t s
  | .vmvsx d b => Sys2Proof.Machine.execVmvsx d b s
  | .vmvxs d a => Sys2Proof.Machine.execVmvxs d a s
  | .vqpop d => Sys2Proof.Machine.execVqpop d s
  | .vqlen d => Sys2Proof.Machine.execVqlen d s
  | .vmv form d a b k => Sys2Proof.Machine.execVmv form d a b k s
  | .timer => Sys2Proof.Machine.execTimer s
  | .host => Sys2Proof.Machine.execHost s
  | .error => Sys2Proof.Machine.execError s
  | .quantumExpiry => Sys2Proof.Machine.execQuantumExpiry s
  | .preemptReqCooperative => Sys2Proof.Machine.execPreemptReqCooperative s
  | .preemptReqForced => Sys2Proof.Machine.execPreemptReqForced s
  | .preemptReqToHandler => Sys2Proof.Machine.execPreemptReqToHandler s
  | .preemptCoopTimeout => Sys2Proof.Machine.execPreemptCoopTimeout s
  | .readySelection => Sys2Proof.Machine.execReadySelection s
  | .spillHoldEnd => Sys2Proof.Machine.execSpillHoldEnd s
  | .steal => Sys2Proof.Machine.execSteal s
  | .codeLineFill => Sys2Proof.Machine.execCodeLineFill s
  | .faultRecordDelivery cl => Sys2Proof.Machine.execFaultRecordDelivery cl s
  | .fsackRetry cl seq => Sys2Proof.Machine.execFsackRetry cl seq s
  | .fsackFail cl seq => Sys2Proof.Machine.execFsackFail cl seq s
  | .fsackNote cl seq => Sys2Proof.Machine.execFsackNote cl seq s
  | .fsackInvalid cl seq => Sys2Proof.Machine.execFsackInvalid cl seq s
  | .flueAccept => Sys2Proof.Machine.execFlueAccept s
  | .flueChunk cl job => Sys2Proof.Machine.execFlueChunk cl job s
  | .kilnAccept => Sys2Proof.Machine.execKilnAccept s
  | .tileLoad cl bank => Sys2Proof.Machine.execTileLoad cl bank s
  | .rowJob cl bank => Sys2Proof.Machine.execRowJob cl bank s
  | .accumulatorZeroJob cl bank => Sys2Proof.Machine.execAccumulatorZeroJob cl bank s
  | .bankClear cl bank => Sys2Proof.Machine.execBankClear cl bank s
  | .rmtAccept => Sys2Proof.Machine.execRmtAccept s
  | .remoteAccess req => Sys2Proof.Machine.execRemoteAccess req s
  | .remoteReply token failed value => Sys2Proof.Machine.execRemoteReply token failed value s
  | .collAccept => Sys2Proof.Machine.execCollAccept s
  | .groupMatch slot urgent peers => Sys2Proof.Machine.execGroupMatch slot urgent peers s
  | .collChunk slot urgent inputs => Sys2Proof.Machine.execCollChunk slot urgent inputs s
  | .groupFail slot => Sys2Proof.Machine.execGroupFail slot s
  | .doorbell host queue tail => Sys2Proof.Machine.execDoorbell host queue tail s
  | .cancel host queue seq => Sys2Proof.Machine.execCancel host queue seq s
  | .hostSignal host => Sys2Proof.Machine.execHostSignal host s
  | .bar2Access host offset access => Sys2Proof.Machine.execBar2Access host offset access s
  | .entryArrival queue => Sys2Proof.Machine.execEntryArrival queue s
  | .dispatch => Sys2Proof.Machine.execDispatch s
  | .launchCompletion root => Sys2Proof.Machine.execLaunchCompletion root s
  | .tenantDrain tenant => Sys2Proof.Machine.execTenantDrain tenant s
  | .tenantDrainEnd tenant => Sys2Proof.Machine.execTenantDrainEnd tenant s
  | .keySlotWrite slot key => Sys2Proof.Machine.execKeySlotWrite slot key s
  | .attestationRequest nonce => Sys2Proof.Machine.execAttestationRequest nonce s
  | .measurementExtend reg digest => Sys2Proof.Machine.execMeasurementExtend reg digest s
  | .tenantKeyLoad slot wrapped => Sys2Proof.Machine.execTenantKeyLoad slot wrapped s
  | .debugAuthorization request => Sys2Proof.Machine.execDebugAuthorization request s
  | .spedyHalt core => Sys2Proof.Machine.execSpedyHalt core s
  | .spedyRun core fail => Sys2Proof.Machine.execSpedyRun core fail s
  | .rdctx core => Sys2Proof.Machine.execRdctx core s
  | .rdspr core spr => Sys2Proof.Machine.execRdspr core spr s
  | .wrspr core spr value => Sys2Proof.Machine.execWrspr core spr value s
  | .rdpa pa count key => Sys2Proof.Machine.execRdpa pa count key s
  | .wrpa pa bytes key => Sys2Proof.Machine.execWrpa pa bytes key s
  | .rdft slot => Sys2Proof.Machine.execRdft slot s
  | .singleStep => Sys2Proof.Machine.execSingleStep s
  | .draughtClear => Sys2Proof.Machine.execDraughtClear s
  | .registerWrite pa access => Sys2Proof.Machine.execRegisterWrite pa access s
  | .boot images => Sys2Proof.Machine.execBoot images s
  | .coreRestart core => Sys2Proof.Machine.execCoreRestart core s
  | .waitiWake => Sys2Proof.Machine.execWaitiWake s
  | .correctedError unit address => Sys2Proof.Machine.execCorrectedError unit address s
  | .containedError error => Sys2Proof.Machine.execContainedError error s
  | .uncontainedError unit address => Sys2Proof.Machine.execUncontainedError unit address s
  | .thermalThrottle die => Sys2Proof.Machine.execThermalThrottle die s
  | .thermalTrip die => Sys2Proof.Machine.execThermalTrip die s
  | .powerAdjust points lanes => Sys2Proof.Machine.execPowerAdjust points lanes s
  | .wearUpdate island age eol => Sys2Proof.Machine.execWearUpdate island age eol s
  | .illegalWord word => Sys2Proof.Machine.execIllegalWord word s
  | .targetUnreachable token performed => Sys2Proof.Machine.execTargetUnreachable token performed s

end Sys2Proof.Machine
end

