-- ==== Sys2Proof/Machine/Draught.lean ====
section
/-!
DEFINITION. The registers that instructions read and write, and the last writer of each in the running context: what a
stall is charged to (R71, R420).
-/

namespace Sys2Proof.Machine

/-- A scalar or engine instruction whose first g operand is no destination (R44, R45). -/
def noDest : Instr → Bool
  | .st _ _ _ _ | .xst _ _ _ _ _ | .beq _ _ _ | .bne _ _ _ | .blt _ _ _ | .bge _ _ _ | .bltn _ _ _
  | .bgen _ _ _ | .cinit _ _ | .cadd _ _ | .codesync _ _ | .tlbinv _ | .l1wb _ _ | .mts _ _ | .pfx _ _ _ _ _
  | .finish _ | .fref _ _ | .fdrop _ | .ffail _ | .yield _ _ _ | .mxrow _ _ _ | .mxrowz _ _ _ | .mxrd _ _ _
  | .mxrel _ | .fgfree _ | .dmark _ => true
  | _ => false

/-- The g registers that an instruction writes, without the copy of a prefix (R44 to R47). -/
def gWrites (i : Instr) : List Reg :=
  match i with
  | .vsetl d _ _ | .vsetlw d _ _ _ => [d]
  | _ => if 0x30 ≤ majorOp i then (gDest i).toList else if noDest i then [] else (gRegs i).take 1

/-- An instruction that reads its destination too. -/
def readsDest : Instr → Bool
  | .lis _ _ | .amoCas _ _ _ _ _ _ | .awaitany _ _ _ _ _ | .cwait _ _ _ _ _ | .vsetlw _ _ _ _ => true
  | _ => false

/-- The g registers that an instruction reads (R44 to R47). -/
def gReads (i : Instr) : List Reg :=
  if (gWrites i).isEmpty || readsDest i then gRegs i else (gRegs i).drop 1

/-- The k field of an instruction; k0 where it has none (R46). -/
def kField : Instr → KReg
  | .vadd _ _ _ _ k | .vsub _ _ _ _ k | .vrsub _ _ _ _ k | .vmul _ _ _ _ k | .vmulh _ _ _ _ k | .vmin _ _ _ _ k
  | .vmax _ _ _ _ k | .vdiv _ _ _ _ k | .vrem _ _ _ _ k | .vand _ _ _ _ k | .vor _ _ _ _ k | .vxor _ _ _ _ k
  | .vshl _ _ _ _ k | .vshr _ _ _ _ k | .vsha _ _ _ _ k | .vsadd _ _ _ _ k | .vssub _ _ _ _ k | .vavg _ _ _ _ k
  | .vslup _ _ _ _ k | .vsldn _ _ _ _ k | .vbcast _ _ _ _ k | .vmerge _ _ _ _ k | .vfma _ _ _ _ k
  | .vfms _ _ _ _ k | .vfnma _ _ _ _ k | .vfnms _ _ _ _ k | .vceq _ _ _ _ k | .vcne _ _ _ _ k | .vclt _ _ _ _ k
  | .vcle _ _ _ _ k | .vcgt _ _ _ _ k | .vcge _ _ _ _ k | .vcun _ _ _ _ k | .vmv _ _ _ _ k | .vabs _ _ k
  | .vneg _ _ k | .vsqrt _ _ k | .vexp2 _ _ k | .vexpnd _ _ k | .vrev _ _ k | .vzip _ _ k | .vunzip _ _ k
  | .vcompr _ _ k | .vrsum _ _ k _ | .vrmax _ _ k _ | .vrmin _ _ k _ | .vrand _ _ k _ | .vror _ _ k _
  | .vrxor _ _ k _ | .vrmaxi _ _ k _ | .vrsumo _ _ _ k _ | .vcvt _ _ _ k _ | .vcvts _ _ _ k _ | .vrgath _ _ _ k
  | .viota _ _ _ k | .vidx _ _ k | .vclass _ _ _ k | .kand _ _ _ k | .kor _ _ _ k | .kxor _ _ _ k | .knot _ _ k
  | .kandn _ _ _ k | .ksbf _ _ k | .ksif _ _ k | .kpopc _ _ k | .kfirst _ _ k | .kmov _ _ k
  | .vldUnit _ _ k _ _ | .vldFirstFault _ _ k _ _ | .vstUnit _ _ k _ _ | .vstOrdered _ _ k _ _
  | .vldStrided _ _ _ k _ _ | .vldIndexed _ _ _ k _ _ | .vstStrided _ _ _ k _ _ | .vstIndexed _ _ _ k _ _ => k
  | _ => 0

/-- The vector registers that an instruction reads as operands (R46, R126, R178, R206 to R208, R217). -/
def vOperands : Instr → List Reg
  | .vadd .vv _ a b _ | .vsub .vv _ a b _ | .vrsub .vv _ a b _ | .vmul .vv _ a b _ | .vmulh .vv _ a b _
  | .vmin .vv _ a b _ | .vmax .vv _ a b _ | .vdiv .vv _ a b _ | .vrem .vv _ a b _ | .vand .vv _ a b _
  | .vor .vv _ a b _ | .vxor .vv _ a b _ | .vshl .vv _ a b _ | .vshr .vv _ a b _ | .vsha .vv _ a b _
  | .vsadd .vv _ a b _ | .vssub .vv _ a b _ | .vavg .vv _ a b _ | .vslup .vv _ a b _ | .vsldn .vv _ a b _
  | .vbcast .vv _ a b _ | .vmerge .vv _ a b _ | .vceq .vv _ a b _ | .vcne .vv _ a b _ | .vclt .vv _ a b _
  | .vcle .vv _ a b _ | .vcgt .vv _ a b _ | .vcge .vv _ a b _ | .vcun .vv _ a b _ => [a, b]
  | .vadd _ _ a _ _ | .vsub _ _ a _ _ | .vrsub _ _ a _ _ | .vmul _ _ a _ _ | .vmulh _ _ a _ _ | .vmin _ _ a _ _
  | .vmax _ _ a _ _ | .vdiv _ _ a _ _ | .vrem _ _ a _ _ | .vand _ _ a _ _ | .vor _ _ a _ _ | .vxor _ _ a _ _
  | .vshl _ _ a _ _ | .vshr _ _ a _ _ | .vsha _ _ a _ _ | .vsadd _ _ a _ _ | .vssub _ _ a _ _ | .vavg _ _ a _ _
  | .vslup _ _ a _ _ | .vsldn _ _ a _ _ | .vbcast _ _ a _ _ | .vmerge _ _ a _ _ | .vceq _ _ a _ _
  | .vcne _ _ a _ _ | .vclt _ _ a _ _ | .vcle _ _ a _ _ | .vcgt _ _ a _ _ | .vcge _ _ a _ _ | .vcun _ _ a _ _
  | .vabs _ a _ | .vneg _ a _ | .vsqrt _ a _ | .vexp2 _ a _ | .vexpnd _ a _ | .vrev _ a _ | .vzip _ a _
  | .vunzip _ a _ | .vcompr _ a _ | .vrsum _ a _ _ | .vrmax _ a _ _ | .vrmin _ a _ _ | .vrand _ a _ _
  | .vror _ a _ _ | .vrxor _ a _ _ | .vrmaxi _ a _ _ | .vrsumo _ a _ _ _ | .vcvt _ a _ _ _ | .vcvts _ a _ _ _
  | .vpackmx _ a _ _ | .vclass _ a _ _ | .vmvxs _ a | .vmv .vv _ a _ _ => [a]
  | .vfma .vv d a b _ | .vfms .vv d a b _ | .vfnma .vv d a b _ | .vfnms .vv d a b _ => [d, a, b]
  | .vfma _ d a _ _ | .vfms _ d a _ _ | .vfnma _ d a _ _ | .vfnms _ d a _ _ => [d, a]
  | .vrgath _ a b _ => [a, b]
  | .vunpkmx _ a _ _ => [a, Fin.ofNat 32 (a.val + 1)]
  | .vmv _ d _ _ _ | .vmvsx d _ | .vtag d _ | .vfold d _ | .vstUnit d _ _ _ _ | .vstOrdered d _ _ _ _
  | .vstStrided d _ _ _ _ _ => [d]
  | .vstIndexed d _ b _ _ _ => [d, b]
  | .vldIndexed _ _ b _ _ _ => [b]
  | .vstSegmentMx d _ _ => [d, Fin.ofNat 32 (d.val + 1)]
  | .mxrow _ _ c | .mxrowz _ _ c => [c]
  | .vsave _ => allV
  | _ => []

/-- The mask registers that an instruction reads as operands (R174, R176). -/
def kOperands : Instr → List KReg
  | .kand _ a b _ | .kor _ a b _ | .kxor _ a b _ | .kandn _ a b _ => [a, b]
  | .knot _ a _ | .ksbf _ a _ | .ksif _ a _ | .kpopc _ a _ | .kfirst _ a _ | .kmov _ a _ => [a]
  | .viota _ m _ _ => [m]
  | .vsave _ => List.finRange 8
  | _ => []

/-- An instruction of whose vector destination masked-off elements are not kept: every element of [0, vl) is written, or
every other bit becomes zero (R171, R174). -/
def writesWhole : Instr → Bool
  | .vmerge _ _ _ _ _ | .vcompr _ _ _ | .vrsum _ _ _ _ | .vrmax _ _ _ _ | .vrmin _ _ _ _ | .vrand _ _ _ _
  | .vror _ _ _ _ | .vrxor _ _ _ _ | .vrmaxi _ _ _ _ | .vrsumo _ _ _ _ _ => true
  | _ => false

/-- A conversion with error feedback, which reads and writes the residual `efr` (R151). -/
def feedsBack : Instr → Bool
  | .vcvt _ _ _ _ rm | .vcvts _ _ _ _ rm => rm = .ef
  | _ => false

/-- The g registers that an instruction needs under its prefix: its operands and the predicate (R54, R71). -/
def gSources (p : Pfx) (i : Instr) : List RegName :=
  ((gReads i ++ (if p.v then [p.pg] else [])).filter (· != 0)).map .g

/-- An instruction that takes what older pushes leave in `vq` (R178, R180). -/
def readsVq : Instr → Bool
  | .vqpop _ | .vqlen _ => true
  | _ => false

/-- The vector and mask registers that an instruction needs under its prefix, `vq` and `efr`: its operands, its mask, and
what masked-off elements keep (R54, R112, R151, R180). -/
def vSources (p : Pfx) (i : Instr) : List RegName :=
  let k := if p.v && p.pk != 0 then p.pk else kField i
  (if readsVq i then [.vq] else []) ++ (if feedsBack i then [.efr] else []) ++
  (vOperands i ++ (if k = 0 || writesWhole i then [] else vWrites i)).map .v ++
  ((k :: kOperands i ++ (if k = 0 then [] else kWrites i)).filter (· != 0)).map .k

/-- The g registers that an instruction writes under its prefix (R55). -/
def gResults (p : Pfx) (i : Instr) : List RegName :=
  ((gWrites i ++ (if p.v && !p.pc then [p.pd] else [])).filter (· != 0)).map .g

/-- The vector and mask registers that an instruction writes under its prefix, and `vq` for a push (R55, R132). -/
def vResults (p : Pfx) (i : Instr) : List RegName :=
  (if isPush i then [.vq] else []) ++ (if feedsBack i then [.efr] else []) ++
  (vWrites i ++ (if p.v && p.pc then [p.pd] else [])).map .v ++ (kWrites i).map .k

/-- An instruction that takes a pushed value (R180). -/
def pops : Instr → Bool
  | .vqpop _ => true
  | _ => false

/-- The writer of `vq` that a VQPOP takes the value of, the oldest, given up (R180). -/
def popWriter (ws : List (RegName × Word)) : List (RegName × Word) :=
  (ws.reverse.eraseP fun w => w.1 == .vq).reverse

/-- Registers noted as written by the instruction at an address, while its context still runs: the last writer of each
register, and of `vq` every push that no VQPOP has taken yet (R180, R420). -/
def wroteBy (popped : Bool) (s t : State) (pc : Word) (rs : List RegName) : State :=
  if t.cpu.who = s.cpu.who && t.cpu.live.tself = s.cpu.live.tself then
    modCpu t fun c =>
      { c with writers := (rs.map fun r => (r, pc)) ++
          (if popped then popWriter c.writers else c.writers).filter fun w => w.1 == .vq || !rs.contains w.1 }
  else t

/-- The writers whose results an instruction may take: for a VQPOP, of the pushes the oldest (R180). -/
def writersFor (s : State) (i : Instr) : List (RegName × Word) :=
  if pops i then (s.cpu.writers.filter fun w => w.1 == .vq).getLast?.toList else s.cpu.writers

/-- The oldest of some writers that wrote a source and is still in flight. The model has every effect already, so that
which writers are in flight is a free choice (R420, log 28). -/
def oldestProducer (s : State) (ws : List (RegName × Word)) (sources : List RegName) : Option Word :=
  (((ws.zip (List.range ws.length)).filter fun w =>
    sources.contains w.1.1 && Config.pick s.tick (64 + w.2) % 2 = 1).getLast?).map fun w => w.1.2

end Sys2Proof.Machine
end

