-- ==== Sys2Proof/Machine/Schedule.lean ====
section
/-!
DEFINITION. What happens next when nothing on the agenda says so: the turn of the running core, its front and its VIQ,
the engines and the Reel, and the passing of time (R13, R28, R131, R377, R407, R415, log 1, 2).
-/

namespace Sys2Proof.Machine

/-- A change of the state that an outcome goes on to. -/
def onNext (o : Out) (f : State → State) : Out :=
  match o with
  | .next s => .next (f s)
  | .fault r => .fault r
  | .refused r => .refused r

/-- Rows of the table that are no instruction words. -/
def isEvent (i : Instr) : Bool := (encode i).isNone

/-- What the device can do on its own beside its cores, each the event of the table that its meaning names. -/
inductive Deed
  | delivery (cl : Fin 96)
  | flueChunk (cl : Fin 96) (job : Fin 64)
  | bankClear (cl : Fin 96) (bank : Fin 8)
  | tileLoad (cl : Fin 96) (bank : Fin 8)
  | rowJob (cl : Fin 96) (bank : Fin 8)
  | zeroJob (cl : Fin 96) (bank : Fin 8)
  | groupMatch (slot : Fin 256) (urgent : Bool)
  | collChunk (slot : Fin 256) (urgent : Bool)
  | groupFail (slot : Fin 256)
  | remote (token : Word)
  | completion (root : Word)
  | arrival (queue : QueueId)
  | drain (tenant : Fin 16)
  | drainEnd (tenant : Fin 16)
  | dispatch
  deriving DecidableEq, Repr

/-- The event of a deed. -/
def Deed.run (x : Deed) (s : State) : Out :=
  match x with
  | .delivery cl => execFaultRecordDelivery cl s
  | .flueChunk cl j => execFlueChunk cl j s
  | .bankClear cl b => execBankClear cl b s
  | .tileLoad cl b => execTileLoad cl b s
  | .rowJob cl b => execRowJob cl b s
  | .zeroJob cl b => execAccumulatorZeroJob cl b s
  | .groupMatch n u => execGroupMatch n u [] s
  | .collChunk n u => execCollChunk n u [] s
  | .groupFail n => execGroupFail n s
  | .remote h => execRemoteAccess (.own h) s
  | .completion r => execLaunchCompletion r s
  | .arrival q => execEntryArrival q s
  | .drain t => execTenantDrain t s
  | .drainEnd t => execTenantDrainEnd t s
  | .dispatch => execDispatch s

/-- The first bank of a cluster with something to do (R296, R310). -/
def bankJob (cl : Fin 96) (c : Cluster) : Option Deed :=
  (List.finRange 8).findSome? fun n =>
    let b := c.banks.get n
    if b.clearing then some (.bankClear cl n)
    else
      match b.jobs with
      | .load _ _ _ _ _ _ _ _ _ :: _ => some (.tileLoad cl n)
      | .row _ _ _ _ _ _ _ _ :: _ => some (.rowJob cl n)
      | .zero _ _ _ :: _ => some (.zeroJob cl n)
      | _ => none

/-- What a cluster's fault ring and engines can do next (R325, R338, R384, R425). -/
def clusterJob (s : State) (n : Nat) (c : Cluster) : Option Deed :=
  let cl : Fin 96 := Fin.ofNat 96 n
  if !c.deliveries.isEmpty && c.outstanding.length < 2 ^ c.fsLog && replayOk s c.fsBase 2048 then some (.delivery cl)
  else if !c.flue.isEmpty then
    some (.flueChunk cl (Fin.ofNat 64 (if c.flue.any (·.active) then (c.flue.takeWhile fun j => !j.active).length else 0)))
  else bankJob cl c

/-- A request of this device to itself that can be performed now (R349, R425). -/
def ownRemote (s : State) : Option Deed :=
  (s.remotes.find? fun r => podDev r.addr = s.devid &&
    (r.member.val < 2 || !s.soot.replay ||
      (performRemote s (1024 + s.devid) r.env.tenant r.env.priv r.member r.sz (podLocal r.addr) r.data).1 != .waits)).map
    fun r => .remote r.token

/-- What a group of which this device is the only member does next with its operations of a class; other groups need what
their members send. A bulk chunk gives way to a matched urgent operation (R361, R363, R368). -/
def classJob (s : State) (urgent : Bool) (n : Nat) (g : Group) : Option Deed :=
  let slot : Fin 256 := Fin.ofNat 256 n
  match groupOps g urgent with
  | o :: _ =>
    if g.members.length != 1 || (o.matched && urgentFirst s urgent) then none
    else some (if o.matched then .collChunk slot urgent else .groupMatch slot urgent)
  | [] => none

/-- What the groups do next: one leaves that has only its last results to write, then the urgent operations of every group
go before the bulk ones of any (R256, R367, R368). -/
def groupJob (s : State) : Option Deed :=
  match s.groups.find? fun p => leavesLate s p.1 with
  | some p => some (.groupFail (Fin.ofNat 256 p.1))
  | none =>
    match s.groups.findSome? fun p => classJob s true p.1 p.2 with
    | some x => some x
    | none => s.groups.findSome? fun p => classJob s false p.1 p.2

/-- The launch queues in the order in which the Reel reads them (R391, R399). -/
def queueOrder : List QueueId :=
  .mgmt :: ((List.finRange 2).map fun h => (List.finRange 16).map fun t => QueueId.host h t).flatten

/-- Whether a dispatch would now complete or start its entry (R393). -/
def dispatchable (s : State) : Bool :=
  dispatchDue s &&
  match pickEntry s with
  | none => false
  | some e =>
    match (planEntry s e).1 with
    | .refuse _ _ => true
    | .run _ _ _ => (freeSlot s).isNone || (dispatchCore s (queueTenant e.queue)).isSome

/-- What the Reel can do next (R389 to R395). -/
def reelJob (s : State) : Option Deed :=
  match s.reel.launches.find? fun l => l.ended.isSome with
  | some l => some (.completion l.root)
  | none =>
    match queueOrder.find? fun q => entryWaits s (s.queues.get (queueSlot q)) with
    | some q => some (.arrival q)
    | none =>
      match (List.finRange 16).find? fun t => draining s t &&
          ((s.reel.pending.any fun e => queueTenant e.queue = t) ||
           s.reel.launches.any fun l => queueTenant l.queue = t && !l.cancelled) with
      | some t => some (.drain t)
      | none =>
        match (List.finRange 16).find? fun t =>
            draining s t && !tenantWaits s t && !tenantRuns s t && !tenantJobs s t with
        | some t => some (.drainEnd t)
        | none => if dispatchable s then some .dispatch else none

/-- The next thing that the device does on its own beside its cores, if there is one. -/
def nextJob (s : State) : Option Deed :=
  match s.clusters.findSome? fun p => clusterJob s p.1 p.2 with
  | some i => some i
  | none =>
    match groupJob s with
    | some i => some i
    | none =>
      match ownRemote s with
      | some i => some i
      | none => reelJob s

/-- A refetch that can be made now (R263). -/
def refetchReady (s : State) : Bool := (refetchDue s).isSome

/-- A core that would do something with the turn. -/
def wantsTurn (s : State) (n : Nat) : Bool :=
  let t := turnTo s n
  refetchReady t || match t.cpu.halt with
  | .halted | .debug => false
  | .waiti => wakes t
  | .running =>
    (nextInterrupt t).isSome || (choice t).isSome ||
    (if t.cpu.who = .idle then (stealTarget t).isSome else !(t.cpu.who = .task && t.cpu.hold = .inPlace))

/-- The lowest core that still stands as reset left it and may steal a context that is ready (R269). -/
def freshThief (s : State) : Option Nat :=
  if (coreList s).any fun n => (coreAt s n).recs.any fun r => r.st = .ready && r.steal then
    (List.range 768).find? fun n => !(coreList s).contains n && wantsTurn s n
  else none

/-- The core that gets the turn from one with nothing to do: the next in number that would do something. A core that still
stands as reset left it comes last: R269 leaves open which idle core steals (DESIGN CHOICE, log 1). -/
def nextCore (s : State) : Option Nat :=
  let ns := (s.parked.map (·.1)).filter (wantsTurn s)
  match ns.find? fun n => s.cpu.id < n with
  | some n => some n
  | none =>
    match ns.head? with
    | some n => some n
    | none => freshThief s

/-- Another core that a freed Flue entry goes to, which gets the turn before the engines go on (R329). -/
def waiterElsewhere (s : State) : Option Nat := (entryFreed s).filter (· != s.cpu.id)

/-- A core with nothing to do: the engines and the Reel go on, or another core gets the turn. A plain write completes a
waiter at no earlier moment than one at which no core and no engine has work: R285 leaves open whether and when it does
(DESIGN CHOICE, log 21). -/
def restStep (s : State) : Out :=
  match waiterElsewhere s with
  | some n => .next (turnTo s n)
  | none =>
    match nextJob s with
    | some x => x.run s
    | none =>
      match nextCore s with
      | some n => .next (turnTo s n)
      | none => .next (plainWake s)

/-- An instruction whose trap comes after it is complete (R376). -/
def trapsAfter : Instr → Bool
  | .traps _ | .brk _ => true
  | _ => false

/-- A memory fault has placed the running task in its retry latch, or holds it in place (R202, R261). -/
def faulted (s t : State) : Bool :=
  (t.cpu.hold = .inPlace && s.cpu.hold != .inPlace) ||
  t.cpu.recs.any fun r => r.st = .latched && r.ctx.tself = s.cpu.live.tself

/-- A VSETLW has left its task to wait for its counter (R122). -/
def stripped (i : Instr) (t : State) : Bool :=
  match i with
  | .vsetlw _ _ _ _ => t.cpu.who != .task
  | _ => false

/-- A trap has been taken: a handler runs that did not run before, and none returned to it. -/
def entersHandler (s t : State) : Bool :=
  (t.cpu.who = .sys && !inHandler s) || (t.cpu.who = .fw && s.cpu.who != .fw)

/-- The executing instruction did not complete: it waits, it trapped, halted its core or faulted, or a forced save stopped
it at an element (R202, R407, R414 to R416). -/
def unfinished (i : Instr) (s t : State) : Bool :=
  t.cpu.stall.isSome ||
  (!trapsAfter i && (entersHandler s t || (isHalted t.cpu && t.cpu.who = .idle))) ||
  (s.cpu.who = .task && (faulted s t || stripped i t)) || (s.cpu.cut.isSome && t.cpu.live.pc = s.cpu.live.pc)

/-- The stepped task before an instruction that STEP follows; a prefix is stepped with its successor (R415). -/
def armed (i : Instr) (s : State) : State :=
  match i with
  | .pfx _ _ _ _ _ => s
  | _ => if stepping s then modLive s fun c => { c with stepDue := true } else s

/-- No STEP follows an instruction that did not complete (R415). -/
def disarm (t : State) : State :=
  modCpu t fun c =>
    { c with live := if c.who = .task then { c.live with stepDue := false } else c.live,
             trapped := c.trapped.map fun x => { x with stepDue := false } }

/-- The instruction that ONCE exempts is complete: the hardware clears ONCE (R414). -/
def onceDone (t : State) : State :=
  modCpu t fun c => { c with dctl := c.dctl &&& ~~~2, live := { c.live with once := false } }

/-- An instruction has entered the VIQ. -/
def entered (i : Instr) (s t : State) : Bool := viaQueue i && s.cpu.live.viq.length < t.cpu.live.viq.length

/-- A wait has saved its task, and the wait is not complete until it returns (R414, R415). -/
def suspends (s t : State) : Bool :=
  t.cpu.recs.any fun r => r.ctx.tself = s.cpu.live.tself && r.ctx.once && !r.forced

/-- What the front notes of ONCE after an instruction that it exempted: a queued one takes the exemption with it, and a
suspended wait keeps it. A PFX is an instruction of its own here, so that its successor is not exempt any more (R414;
DESIGN CHOICE, log 102). -/
def onceNoted (i : Instr) (s t : State) : State :=
  if !exempt s || suspends s t then t
  else if entered i s t then modLive t fun c => { c with once := false }
  else onceDone t

/-- The registers that an instruction of the front has written, or leaves pending in the VIQ (R71, R179, R420). -/
def frontWrote (i : Instr) (s t : State) : State :=
  let p := s.cpu.live.pfx
  if predFalse s then t
  else
    let e := entered i s t
    wroteBy (pops i && !e) s t s.cpu.live.pc (gResults p i ++ if e then [] else vResults p i)

/-- A waiting instruction keeps its word, so that no fetch and no breakpoint stops it any more (R261, R329). -/
def keepWord (i : Instr) (t : State) : State :=
  modCpu t fun c => { c with stall := c.stall.map fun x => { x with word := some (wordOf i) } }

/-- The word of the instruction that the front has issued already, and that waits or is held at its place (R261, R329). -/
def issuedWord (s : State) : Option (BitVec 32) :=
  match s.cpu.stall.bind (·.word), heldHere s with
  | some w, _ => some w
  | none, true => s.cpu.live.holdAt.map (·.word)
  | none, false => none

/-- A trap that R50 has a word raise before any other check, so that the instruction did not issue. -/
def unissued (s t : State) : Bool :=
  entersHandler s t && [0x01, 0x02, 0x11].contains (if t.cpu.who = .fw then t.cpu.fw else t.cpu.sys).tcause.toNat

/-- The front has issued an instruction, whatever came of it: one that waits has not issued yet, nor has one that R50 turns
away. What is issued again counts again (R50, R131, R327, R377, R419; DESIGN CHOICE, log 118). -/
def countIssue (s t : State) : State := if t.cpu.stall.isSome || unissued s t then t else bump t 0

/-- What the front notes after an instruction: the counters of R419, ONCE, the step and the writer of its results. A
discarded successor is no VIQ instruction (R54, R414, R415, R419, R420). -/
def noted (i : Instr) (s t : State) : State :=
  let t := countIssue s t
  if unfinished i s t then keepWord i (if stepping s then disarm t else t)
  else
    let t := if viaQueue i && !predFalse s && !entered i s t then bump t 1 else t
    onceNoted i s (frontWrote i s t)

/-- The front issues the instruction of a word (R48). -/
def issueWord (s : State) (word : BitVec 32) : Out :=
  match decode word.toNat with
  | .ok i => onNext (exec i (armed i s)) (noted i s)
  | .error _ => execIllegalWord word s

/-- The front fetches at its pc: with SYNC it first waits for the VIQ; then STEP, the fetch, a breakpoint, and the word
(R408, R411 to R415, R444). -/
def fetchStep (s : State) : Out :=
  if synced s && !s.cpu.live.viq.isEmpty then .next (waitHere s)
  else if stepReady s then exec .singleStep s
  else if s.cpu.live.pc.toNat % 4 != 0 then .next (trap s 0x03 s.cpu.live.pc)
  else
    match codeLine s with
    | none => exec .codeLineFill s
    | some l =>
      match breakHit s with
      | some n => .next (takeBreak s n)
      | none => issueWord s (wordAt s l)

/-- The front at its pc. An instruction that it has issued, and that waits there, is tried again (R261, R329). -/
def frontStep (s : State) : Out :=
  match issuedWord s with
  | some w => issueWord s w
  | none => fetchStep s

/-- A vector state with what a queued instruction leaves by reads that have returned their values already (R97, R273, log
83). -/
def withEarly (i : Instr) (e : VEntry) (v : VecState) : VecState :=
  match e.early with
  | none => v
  | some p =>
    match i with
    | .vrestore _ => { p with vq := v.vq }
    | _ =>
      { v with
        regs := (vWrites i ++ if e.pfx.v && e.pfx.pc then [e.pfx.pd] else []).foldl
          (fun (x : Vector VReg 32) (r : Reg) => x.set r (p.regs.get r)) v.regs
        vl := match i with
          | .vldFirstFault _ _ _ _ _ => p.vl
          | _ => v.vl }

/-- What the lanes note after the oldest queued instruction: one that left the VIQ of the running context is complete
(R414, R419, R420). -/
def laneNoted (i : Instr) (e : VEntry) (s t : State) : State :=
  let q := s.cpu.live.viq
  let r := t.cpu.live.viq
  if t.cpu.who = s.cpu.who && (r.length < q.length || r.head? != q.head?) then
    let t := modVec t (withEarly i e)
    let t := wroteBy (pops i) s (if viaQueue i then bump t 1 else t) e.pc (vResults e.pfx i)
    if e.once then onceDone t else t
  else t

/-- The state in which the lanes would take an entry, were it the oldest of the queue and its turn come: with room in `vq`
and the home group back (R102, R180). -/
def laneTurn (s : State) (e : VEntry) : State :=
  let c := modCluster s (clusterOf s.cpu.id) fun k =>
    { k with grants := Vector.ofFn fun j : Fin 8 =>
        if j.val = s.cpu.id % 8 then k.grants.get j else k.grants.get j &&& ~~~(homeSet s.cpu.id) }
  modCpu c fun k => { k with lane := some e, live := { k.live with vec := { k.live.vec with vq := [] } } }

/-- The state that the lanes would leave after such an entry. None where it would not complete. -/
def tried (s : State) (e : VEntry) (i : Instr) : Option State :=
  match exec i (laneTurn s e) with
  | .next t =>
    if t.cpu.lane.isNone && t.cpu.who = s.cpu.who && t.cpu.live.viq.length < s.cpu.live.viq.length then
      some (modVec t (withEarly i e))
    else none
  | _ => none

/-- An instruction that reads a bank at its own place in bank order, which no one knows before its turn (R313, R321). -/
def drains : Instr → Bool
  | .mxrd _ _ _ => true
  | _ => false

/-- No older entry has still to write what a queued instruction works on, and it reads no bank. -/
def sourcesKnown (u : Unsure) (e : VEntry) (i : Instr) : Bool :=
  !u.len && !u.late && !drains i &&
  (vSources e.pfx i).all fun r => match r with
    | .v n => !u.regs.contains n
    | .k n => !u.masks.contains n
    | _ => true

/-- An instruction whose result comes from memory. -/
def readsEarly (t : Option Touch) : Bool := t.any (·.reads)

/-- The state after an entry whose effect can be computed ahead of its turn: its sources are known, and the memory that it
reads (R97; DEDUCED, log 83). -/
def computed (s : State) (u : Unsure) (e : VEntry) (t : Option Touch) : Option (Instr × State) :=
  (entryInstr e).bind fun i =>
    if sourcesKnown u e i && !(u.stores && readsEarly t) then (tried s e i).map fun n => (i, n) else none

/-- What an entry does to memory. While the queue waits for the front, one that reads bytes which no register gives yet
holds nothing back: no value depends on the order of two reads (R180, R273; DEDUCED, log 83). -/
def touchAhead (waits : Bool) (u : Unsure) (e : VEntry) (t : Touch) : Touch :=
  if waits && !t.writes && !((entryInstr e).any (sourcesKnown u e)) then { t with bytes := [] } else t

/-- What the entries of a queue will do to memory, each found on a copy of the state in which those before it that can be
computed ahead have been, and the entries with what their reads have returned (R97, R273, log 83). -/
def foreseen (waits : Bool) : State → Unsure → List VEntry → List Touch × List VEntry
  | _, _, [] => ([], [])
  | s, u, e :: es =>
    let t := touchIn s.cpu.live.vec (groupCount s s.cpu.id) true u e
    let (e, ts, q) :=
      match computed s u e t with
      | some (i, n) =>
        let (ts, q) := foreseen waits n (u.drop e i) es
        ({ e with early := if readsEarly t then some (e.early.getD n.cpu.live.vec) else none }, ts, q)
      | none =>
        let s := performHeld (modLive s fun c => { c with viq := es, vec := { c.vec with vbeg := 0 } }) e.stores
        let (ts, q) := foreseen waits s (u.add e) es
        (e, ts, q)
    (t.toList.map (touchAhead waits u e) ++ ts, e :: q)

/-- The state in which the front goes on while the oldest queued instruction waits: it knows what the queue will do to
memory, and the reads that this rests on have returned their values (R97, R273). -/
def foresee (s : State) : State :=
  let (ts, q) := foreseen (pushWaits s) s {} s.cpu.live.viq
  modCpu s fun c => { c with ahead := some ts, live := { c.live with viq := q } }

/-- The same knowledge given up after the front's instruction. -/
def forget (s : State) : State := modCpu s fun c => { c with ahead := none }

/-- The lanes take the oldest queued instruction; while that waits, or with none queued, the front goes on (R131). -/
def lanesFirst (s : State) (front : State → Out) : Out :=
  match s.cpu.live.viq with
  | [] => front s
  | e :: _ =>
    match entryInstr e with
    | none => front s
    | some i =>
      match exec i (modCpu s fun c => { c with lane := some e }) with
      | .next t => if t.cpu.lane.isSome then onNext (front (foresee s)) forget else .next (laneNoted i e s t)
      | o => o

/-- The lanes, and the front at its pc. -/
def laneStep (s : State) : Out := lanesFirst s frontStep

/-- A resumed task's latched instruction executes again: at the head of the VIQ, or in the front, which the queued ones
come before (R202, R407). -/
def latchStep (s : State) (e : VEntry) : Out :=
  let free (s : State) : State := modLive s fun c => { c with latch := none, latchQ := false }
  if s.cpu.live.latchQ then laneStep (modLive (free s) fun c => { c with viq := e :: c.viq })
  else lanesFirst s fun s => issueWord (free s) e.word

/-- The end of a task that an `fsack` with FAIL has failed at its instruction: the older queued instructions complete
first, as before an FFAIL there (R249, R385). -/
def failStep (s : State) (code : Word) : Out :=
  lanesFirst s fun s => .next (if s.cpu.live.viq.isEmpty then endTask s true code else waitHere s)

/-- The running context's next step. -/
def contextStep (s : State) : Out :=
  match s.cpu.live.latch, s.cpu.live.failWith with
  | some e, some code => if s.cpu.live.latchQ then latchStep s e else failStep s code
  | none, some code => failStep s code
  | some e, none => latchStep s e
  | none, none => laneStep s

/-- The state after a step of a core that waits, with the turn handed on when another core wants it (log 1). -/
def yieldTurn (t : State) : State :=
  if t.cpu.stall.isSome then
    match nextCore t with
    | some n => turnTo t n
    | none => t
  else t

/-- The engines go on while a front waits. With no work for them, what the core does itself, and the turn handed on when it
waits still. -/
def enginesFirst (s : State) (own : State → Out) : Out :=
  match waiterElsewhere s with
  | some n => .next (turnTo s n)
  | none =>
    match nextJob s with
    | some x => x.run s
    | none => onNext (own s) yieldTurn

/-- A core that runs a context. An instruction that waits at its engine is offered before the engines go on, so that it is
accepted as soon as there is room (R300, R329, R348, R359). -/
def runStep (s : State) : Out :=
  if s.cpu.who = .task && s.cpu.hold = .inPlace then restStep s
  else if (offered s).isSome then
    match contextStep s with
    | .next t => if (offered t).isSome then enginesFirst t .next else .next t
    | o => o
  else if s.cpu.stall.isSome then enginesFirst s contextStep
  else contextStep s

/-- A core without a context: it selects, it steals, or it rests. Once it has found nothing to select, no task is passed
over any more (R244, R265, R269). -/
def idleStep (s : State) : Out :=
  if (choice s).isSome then exec .readySelection s
  else
    let s := modCpu s fun c => { c with passed := none }
    if (stealTarget s).isSome then exec .steal s else restStep s

/-- The forced save of the running task would find room (R261, R262). -/
def canLeave (s : State) : Bool :=
  match saveRec s (forcedRec s s.cpu.live .ready .none false false) with
  | .ok _ => true
  | _ => false

/-- The event that takes the running task off its core at this boundary, if one is due (R266, R386). -/
def switchEvent (s : State) : Option Instr :=
  if s.cpu.preMode != 0 && preStale s then
    some (match s.cpu.preMode with
      | 1 => .preemptReqCooperative
      | 2 => .preemptReqForced
      | _ => .preemptReqToHandler)
  else if s.cpu.preMode = 2 && switchable s && canLeave s then some .preemptReqForced
  else if s.cpu.preMode = 3 && switchable s && canLeave s then some .preemptReqToHandler
  else if coopLate s && switchable s && canLeave s then some .preemptCoopTimeout
  else if quantumDue s && canLeave s then some .quantumExpiry
  else none

/-- The event of an interrupt's cause (R373). -/
def interruptStep (s : State) (cause : Nat) : Out :=
  match cause with
  | 0x20 => exec .timer s
  | 0x22 => exec .host s
  | 0x23 => exec .error s
  | _ => .next (takeInterrupt s 0x21)

/-- The elements that an instruction performs together, if a forced save may stop it between elements (R152, R173, R183,
R217, R220). -/
def grainOf : Instr → Option Nat
  | .vldUnit _ _ _ _ _ | .vldStrided _ _ _ _ _ _ | .vldFirstFault _ _ _ _ _ => some 1
  | .vldIndexed d _ b _ _ _ => if d = b then none else some 1
  | .vstUnit _ _ _ _ t | .vstOrdered _ _ _ _ t => some (if t = .e2m1 then 2 else 1)
  | .vstStrided _ _ _ _ _ _ | .vstIndexed _ _ _ _ _ _ => some 1
  | .vldSegmentMx _ _ _ | .vstSegmentMx _ _ _ => some 32
  | .vrsumo _ _ _ _ _ => some 1
  | .vcvt d a _ _ rm | .vcvts d a _ _ rm => if rm = .ef && d != a then some 1 else none
  | _ => none

/-- The instruction that the lanes take next: the oldest of the VIQ, or the front's when the VIQ is empty and nothing comes
before it. -/
def nextInLanes (s : State) : Option Instr :=
  match s.cpu.live.viq with
  | e :: _ => entryInstr e
  | [] =>
    if stepReady s || (breakHit s).isSome then none
    else (codeLine s).bind fun l =>
      match decode (wordAt s l).toNat with
      | .ok i => some i
      | .error _ => none

/-- The event that would now take the running task off its core finds an instruction in the lanes, and stops it at an
element of free choice (R129, R183, R220, log 30). -/
def cutDue (s : State) : Option State :=
  if s.cpu.who = .task && s.cpu.hold = .none && s.cpu.live.latch.isNone && !lanesWait s &&
      ((nextInterrupt s).isSome || (switchEvent s).isSome) then
    (nextInLanes s).bind fun i =>
      (grainOf i).bind fun g =>
        let t := modCpu s fun c => { c with cut := some (Config.pick s.tick 15) }
        if (cutAt t g).isSome then some t else none
  else none

/-- The running core at an instruction boundary. A refetch begins at once, whatever the core does meanwhile (R13, R263,
R377). -/
def boundary (s : State) : Out :=
  if refetchReady s then exec .readySelection s
  else
    match s.cpu.halt with
    | .halted | .debug => restStep s
    | .waiti => if wakes s then exec .waitiWake s else restStep s
    | .running =>
      match cutDue s with
      | some t => onNext (contextStep t) fun t => modCpu t fun c => { c with cut := none }
      | none =>
        match nextInterrupt s with
        | some c => interruptStep s c
        | none =>
          match switchEvent s with
          | some i => exec i s
          | none => if s.cpu.who = .idle then idleStep s else runStep s

/-- The first item of the agenda, or the running core's own next step. An instruction is no event (log 1). -/
def choose (s : State) : Out :=
  match s.agenda with
  | .turn n :: rest => .next (turnTo { s with agenda := rest } n.val)
  | .event i :: rest => if isEvent i then exec i { s with agenda := rest } else .next { s with agenda := rest }
  | [] => boundary s

/-- The consumer of a stall: its address, whether it is a vector one, the registers that it waits for, and the writers
whose results it may take. -/
structure Consumer where
  pc : Word
  vector : Bool
  sources : List RegName
  writers : List (RegName × Word)

/-- The queue with a result that an instruction of the front reads no longer pending: an entry that leaves one of these g
registers stands as one that writes none (R71, R179). -/
def unpending (rs : List RegName) (s : State) : State :=
  let read (e : VEntry) : Bool := (pendingG [e]).any fun r => rs.contains (.g r)
  let plain (e : VEntry) : VEntry := if read e then { e with word := wordOf (.vclr 0), pfx := Pfx.none } else e
  modLive s fun c => { c with viq := c.viq.map plain }

/-- Nothing but a source that is still to be written keeps the front from issuing its next instruction: with no pending
source it would not wait (R420). -/
def frontFree (s : State) (sources : List RegName) : Bool :=
  match frontStep (unpending sources (foresee s)) with
  | .next t => t.cpu.stall.isNone
  | _ => true

/-- Nothing but a source keeps the oldest queued instruction from its next beat: it would not wait for `vq`, for its home
group or for a bank (R102, R132, R321, R420). -/
def headFree (s : State) (e : VEntry) (i : Instr) : Bool :=
  match exec i (modCpu s fun c => { c with lane := some e }) with
  | .next t => t.cpu.lane.isNone
  | _ => true

/-- The front's next instruction as a consumer, where nothing but a source holds it back: before it enters the VIQ it needs
its g registers alone (R131, R420). -/
def frontConsumer (s : State) : Option Consumer :=
  let c := s.cpu.live
  if c.latch.isSome || c.failWith.isSome then none
  else
    (codeLine s).bind fun l =>
      match decode (wordAt s l).toNat with
      | .ok i =>
        if frontFree s (gSources c.pfx i) then
          some { pc := c.pc, vector := viaQueue i,
                 sources := gSources c.pfx i ++ if c.viq.isEmpty then vSources c.pfx i else [], writers := writersFor s i }
        else none
      | .error _ => none

/-- The oldest instruction of the VIQ as a consumer, where nothing but a source holds it back; its g operands were captured
(R46, R420). -/
def headConsumer (s : State) : Option Consumer :=
  s.cpu.live.viq.head?.bind fun e =>
    (entryInstr e).bind fun i =>
      if headFree s e i then
        some { pc := e.pc, vector := true, sources := vSources e.pfx i, writers := writersFor s i }
      else none

/-- The consumer that a stall of free choice meets: the instruction at the head of the lanes, or the front's (R420). -/
def stalledAt (s : State) : Option Consumer :=
  if Config.pick s.tick 16 % 2 = 1 then headConsumer s else frontConsumer s

/-- The cycles that pass on the cores of a cluster in this step. -/
def cyclesOn (s : State) (core : Nat) : Nat := Config.cycles s.tick (clusterOf core)

/-- A charge of free size, within the cycles that pass, to a producer and its consumer while draught accounting is on and
the core issues, where an older instruction that may still be in flight wrote a source of the consumer. The lag of a scalar
consumer is 0 (R420, log 28). -/
def draughtTick (s : State) : State :=
  let n := min (Config.pick s.tick 12) (cyclesOn s s.cpu.id)
  if s.cpu.dctl.getLsbD 5 && s.cpu.who != .idle && s.cpu.halt = .running && s.cpu.hold = .none && (offered s).isNone &&
      n != 0 then
    match stalledAt s with
    | some k =>
      match oldestProducer s k.writers k.sources with
      | some prod =>
        modCpu s fun c =>
          charge c c.live.tenant prod k.pc n (if k.vector then Config.pick s.tick 14 else 0)
      | none => s
    | none => s
  else s

/-- Counts of cycles on a core whose island has passed n of them (R28, R266, R386, R419). While a handler runs, the
trapped task's quantum counter stands still (DESIGN CHOICE, log 74). -/
def passCore (n : Nat) (c : Core) : Core :=
  let runs := c.who != .idle
  let i : Fin 12 := if runs then 2 else 3
  { c with
    quantum := if c.who = .task then c.quantum + n else c.quantum
    preAge := if c.preMode = 0 then 0 else c.preAge + n
    counters := c.counters.set i (c.counters.get i + BitVec.ofNat 64 n) }

/-- Time passes by free amounts, on every core of the device (R28, log 2); a gate's child that found no room tries again
(R241), the slots of held-list blocks follow the held lists (R229), and groups are marked for the contexts that wait for
them (R107). -/
def pass (s : State) : State :=
  let t := markReady (settleBlocks (enterGates (draughtTick s)))
  { t with
    cpu := passCore (cyclesOn s t.cpu.id) t.cpu
    parked := t.parked.map fun p => (p.1, passCore (cyclesOn s p.1) p.2)
    cycles := Vector.ofFn fun i : Fin 96 => t.cycles.get i + BitVec.ofNat 64 (Config.cycles s.tick i.val)
    tick := s.tick + 1
    clock := s.clock + Config.cycles s.tick 96
    devtime := s.devtime + BitVec.ofNat 64 (Config.nanos s.tick) }

/-- The end of a step that began in a state: time passes, and the future table in memory shows what has changed (R28,
R229). -/
def endStep (s t : State) : State := keepTable s (pass t)

end Sys2Proof.Machine
end

