-- ==== Sys2Proof/Machine/Step.lean ====
section
/-!
DEFINITION. One step of the machine, and the placing of an instruction where the next step fetches it.
-/

namespace Sys2Proof.Machine

/-- One step: the agenda, an event, or an instruction of the running core; then time passes. A device that is FATAL has
stopped (R403). -/
def step (s : State) : Host.Outcome State Fault Refusal :=
  if s.fatal then .fault .deviceFatal else onNext (choose s) (endStep s)

/-- The 16 words of a line with one of them at its place, and the others `nop`. -/
def lineWith (pc w : Nat) : List (BitVec 32) :=
  (List.range 16).map fun i => if i = pc % 64 / 4 then BitVec.ofNat 32 w else 0x04000000

/-- The state with an instruction in the line of the L1 code cache that the next step fetches from. A core without a
context gets a task context, as a dispatch would give it one; what would come before the fetch is taken away
(log 5). -/
def State.withFetchWord (s : State) (_nbits w : Nat) : State :=
  let c := s.cpu
  let ctx := if c.who = .idle then { Ctx.reset with pc := 0x40 } else c.live
  let live := { ctx with latch := none, latchQ := false, viq := [], stepDue := false, once := true, holdAt := none, failWith := none,
                         pc := BitVec.ofNat 64 (ctx.pc.toNat / 4 * 4) }
  let l : CodeLine := { tenant := live.tenant, line := live.pc.toNat / 64, words := lineWith live.pc.toNat w }
  { s with
    fatal := false
    agenda := []
    cpu := { c with
      who := if c.who = .idle then .task else c.who
      priv := if c.who = .idle then 0 else c.priv
      live := live
      halt := .running
      hold := .none
      stall := none
      cut := none
      lane := none
      recs := c.recs.filter fun r => r.spill.isNone
      preMode := 0
      quantum := 0
      pendHost := false
      pendPreempt := false
      pendError := false
      ttimer := c.ttimer &&& ~~~0x8000000000000000
      dctl := c.dctl ||| 2
      code := l :: c.code.filter fun q => !(q.line = l.line && q.tenant = l.tenant) } }

end Sys2Proof.Machine
end

