-- ==== Sys2Proof/Safety.lean ====
section
/-!
DEFINITION. The terms that claims are stated in: a safe state and run, when an instruction goes ahead, and what an
instruction with a g result leaves.
-/

namespace Sys2Proof.Machine

/-- The memory is in its canonical form. -/
def State.memOk (s : State) : Prop := Memory.wf s.mem = true

/-- A step goes on. -/
def goesOn (o : Out) : Prop := ∃ t, o = .next t

/-- A run of k steps from a state neither faults nor is refused. -/
def State.safeFor (s : State) (k : Nat) : Prop :=
  ∃ t, Sys2Proof.core.run k s = .next t

/-- Nothing before the operands turns an instruction of the front away: its tenant may use it, its prefix is one that it
takes, its privilege level suffices, its context may execute it, and no queued instruction holds it back
(R50, R53, R71, R97, R131, R370, R433). -/
structure Runs (a : Attr) (i : Instr) (s : State) : Prop where
  front : s.cpu.lane = none
  feature : masked s a = false
  pfx : s.cpu.live.pfx.v = true → badPrefix a.lend a.hasK s.cpu.live.pfx = false
  level : a.level ≤ s.cpu.priv.toNat
  context : a.scalar = false → s.cpu.who ≠ .sys ∧ s.cpu.who ≠ .fw
  queue : s.cpu.live.viq = [] ∨ (a.drain = false ∧ synced s = false ∧ busy s i = false ∧
    (s.cpu.live.pfx.v = true → (pendingG s.cpu.live.viq).contains s.cpu.live.pfx.pg = false))

/-- A vector instruction may begin in the lanes: out of the VIQ, or from the front with nothing queued before it; its core
has a grant, and its home group is not on loan (R16, R102, R131). -/
structure Begins (a : Attr) (grant lanes : Bool) (s : State) : Prop where
  feature : s.cpu.lane = none → masked s a = false
  pfx : s.cpu.lane = none → s.cpu.live.pfx.v = true → badPrefix a.lend a.hasK s.cpu.live.pfx = false
  context : s.cpu.lane = none → a.scalar = false → s.cpu.who ≠ .sys ∧ s.cpu.who ≠ .fw
  queue : s.cpu.lane = none → s.cpu.live.viq = []
  shown : s.cpu.lane = none → predFalse s = false
  granted : grant = true → s.cpu.lane = none → groupCount s s.cpu.id ≠ 0
  home : lanes = true → lanesWait s = false

/-- A g register as an instruction reads it (R69). -/
def reg (s : State) (r : Reg) : Word := if r = 0 then 0 else s.cpu.live.g.get r

/-- The front moves on to the next word, with no prefix pending (R57, R90). -/
def advance (s : State) : State :=
  { s with cpu := { s.cpu with stall := none, live := { s.cpu.live with pc := s.cpu.live.pc + 4, pfx := Pfx.none } } }

/-- A g register written; a write of g0 is discarded (R69). -/
def writeReg (s : State) (r : Reg) (v : Word) : State :=
  if r = 0 then s else { s with cpu := { s.cpu with live := { s.cpu.live with g := s.cpu.live.g.set r v } } }

/-- The prefix of the front's instruction is a predicate that is false (R54). -/
def discarded (s : State) : Bool :=
  let p := s.cpu.live.pfx
  p.v && p.pg != 0 && (reg s p.pg != 0) == p.ps

/-- What an instruction with one g result leaves: the result and the copy that a prefix asks for, or nothing under a false
predicate (R54, R55, R70). -/
def lands (s : State) (d : Reg) (v : Word) : State :=
  let p := s.cpu.live.pfx
  if discarded s then advance s
  else advance (if p.v && !p.pc then writeReg (writeReg s d v) p.pd v else writeReg s d v)

/-- What an instruction leaves that a prefix lends a predicate alone, or no prefix at all (R53, R54). -/
def does (s t : State) : State := if discarded s then advance s else t

/-- An operation on n-bit operands, at 64 bits, or at 32 bits with a sign-extended result under W (R75). -/
def sized (w : Bool) (f : (n : Nat) → BitVec n → BitVec n → BitVec n) (x y : Word) : Word :=
  if w then (f 32 (x.setWidth 32) (y.setWidth 32)).signExtend 64 else f 64 x y

/-- 1 for a true condition, else 0. -/
def flag (n : Nat) (b : Bool) : BitVec n := if b then 1 else 0

end Sys2Proof.Machine
end

