-- ==== Sys2Proof/Certificates/Slice0/Obligations.lean ====
section
/-!
DEFINITION. What is claimed of the machine, rule by rule of the manual. Nothing is proved here.
-/

namespace Sys2Proof.Claims

open Sys2Proof.Machine

/-- An instruction that takes a copy with pc = 0 leaves a value in d, whenever nothing turns it away (R54, R55, R70). -/
def Gives (i : Instr) (s : State) (d : Reg) (v : Word) : Prop :=
  Runs scalarAttr i s → exec i s = .next (lands s d v)

/-- An ALU member gives f of its operands at its width. -/
def Alu (i : Instr) (s : State) (d a b : Reg) (w : Bool) (f : (n : Nat) → BitVec n → BitVec n → BitVec n) : Prop :=
  Gives i s d (sized w f (reg s a) (reg s b))

end Sys2Proof.Claims

open Sys2Proof Sys2Proof.Machine Sys2Proof.Claims
namespace Sys2Proof.Claims

/-- A scalar floating-point instruction leaves a value in d and accrues its exceptions; a discarded one does neither
(R54, R83, R101). -/
def GivesFp (i : Instr) (s : State) (d : Reg) (r : Nat × Flags) : Prop :=
  Runs scalarAttr i s → exec i s = .next (does s (lands (accrue s r.2) d (BitVec.ofNat 64 r.1)))

/-- An exact value rounded once, with its own exceptions and those of the rounding (R82, R142). -/
def onceRounded (fmt : Fmt) (dir : Dir) (x : FpVal × Flags) : Nat × Flags :=
  ((roundTo (fmtFloat fmt) dir false x.1).1, x.2 ||| (roundTo (fmtFloat fmt) dir false x.1).2)

/-- The front goes on at an address (R90). -/
def goTo (s : State) (t : Word) : State :=
  { s with cpu := { s.cpu with stall := none, live := { s.cpu.live with pc := t, pfx := Pfx.none } } }

/-- The target of a displacement in words (R90). -/
def away {n : Nat} (s : State) (disp : BitVec n) : Word := s.cpu.live.pc + disp.signExtend 64 * 4

/-- A branch goes to its target when the condition holds, and else to the next word. -/
def Branches (i : Instr) (s : State) (imm : BitVec 16) (c : Bool) : Prop :=
  Runs plainAttr i s → exec i s = .next (if c then goTo s (away s imm) else advance s)

end Sys2Proof.Claims

namespace Sys2Proof.Claims

/-- An access of n bytes at an address passes its checks: it is aligned, no watchpoint matches, and it resolves to a place
(R95, R413). -/
structure Reaches (s : State) (k : Kind) (va n : Nat) (p : Place) (t : State) : Prop where
  aligned : va % n = 0
  unwatched : watchHit s va n (kindRd k) (kindWr k) = none
  resolved : resolveLive s k va = (.ok p, t)

/-- A load of n bytes at an address gives a number: the bytes at its place, each replaced by the youngest older store of
the task that still waits for a queued read (R95, R97, R222, R275). -/
structure Loads (s : State) (va n : Nat) (v : Nat) (t : State) : Prop where
  ok : ∃ p u bs, Reaches s .read va n p u ∧ loadAt u false p n = (some bs, t) ∧
    v = ofBytes ((waiting t).foldl (overlay (placePa p)) bs)

/-- A scalar load leaves its extended value in d. -/
def LoadsTo (i : Instr) (s : State) (d : Reg) (sz : Size) (va : Nat) : Prop :=
  Runs scalarAttr i s → (discarded s = true → exec i s = .next (advance s)) ∧
    (discarded s = false → ∀ v t, Loads s va (sizeBytes sz) v t → exec i s = .next (retire (result t d (sizeExtend sz v))))

/-- A scalar store puts the low bytes of d at its place. While a queued instruction has still to access memory, the store
completes too, and is held with the last such instruction (R97, R275, R447). -/
def StoresFrom (i : Instr) (s : State) (d : Reg) (sz : Size) (va : Nat) : Prop :=
  Runs plainAttr i s → ∀ p t, Reaches s .write va (sizeBytes sz) p t →
    let bs := toBytes (sizeBytes sz) (reg s d).toNat
    (t.cpu.live.viq.any usesMemory = false → exec i s = .next (retire (storeAt t false p bs))) ∧
    (t.cpu.live.viq.any usesMemory = true → exec i s = .next (retire
      (modLive t fun c =>
        { c with viq := holdStore ⟨p, bs, tlbFind t.cpu.tlb t.cpu.live.tenant va⟩ c.viq })))

/-- One atomic access of n bytes at a place: one that may write sends the core's dirty lines home first, which a release
needs and which the model does for the others too (log 81), and an acquiring one drops its clean bytes after; the bytes are
read at the home, and written there when `new` gives a value; written or not, it is a point of the location's atomic order,
at which its waiters look; the access is logged and replayed (R276, R282, R283, R285, R288, R422, R425). -/
def atomically (s : State) (p : Place) (n : Nat) (may acq : Bool) (new : Nat → Option Nat) : Nat × State :=
  let s := settleL1 (if may then writeBack s s.cpu.id else s) p n
  let old := ofBytes (homeRead s p n).1
  let s := (homeRead s p n).2
  let s := match new old with
    | some v => atomicWrite s p (toBytes n v)
    | none => atomicPoint s p
  let s := replayed (sootLog s (placePa p) s.cpu.id) (placePa p)
  (old, if acq then invalidate s s.cpu.id else s)

/-- An atomic access at an address goes ahead: it passes its checks, replay gives it its turn, and one that reads meets no
poison (R222, R270). -/
structure Acts (s : State) (k : Kind) (va n : Nat) (p : Place) (t : State) : Prop where
  reaches : Reaches s k va n p t
  turn : replayOk t (placePa p) t.cpu.id = true
  sound : k = .write ∨ poisoned t (placePa p) n = false

/-- What a memory fault leaves that an instruction meets in state t: for a task at privilege 0 the record of R203 waits for
its cluster's fault-service task, and the task is saved in full with the instruction and its captured values in the retry
latch, which counter 11 counts, or held in place with a record of its own when the save finds no room; any other context
traps (R202, R203, R261, R262, R375, R419). -/
def FaultLeaves (i : Instr) (caps : List Word) (cause : Nat) (va : Word) (k : Kind) (elem : Nat) (t o : State) : Prop :=
  let c := t.cpu
  let pc := match c.lane with
    | some e => e.pc
    | none => c.live.pc
  let entry : VEntry := match c.lane with
    | some e => e
    | none =>
      { word := wordOf i, pc := c.live.pc, cap0 := caps[0]?, cap1 := caps[1]?, pfx := c.live.pfx, once := c.live.once,
        stores := [] }
  let p := post t (clusterOf c.id)
    { handle := c.live.tself, addr := va, cause := cause, access := accessCode k, elem := elem, word := wordOf i,
      pc := if k = .fetch then va else pc, owner := .task c.id c.live.tself }
  let ctx := { c.live with latch := some entry, latchQ := c.lane.isSome,
                           viq := if c.lane.isSome then c.live.viq.tail else c.live.viq }
  let q := modCpu p fun x => { x with lane := none }
  let saved := saveRec q (forcedRec p ctx .latched .none false (isPoint i))
  (c.who = .task → c.live.priv = 0 →
    (∀ v, saved = .ok v → o = bump v 11) ∧
    ((∀ v, saved ≠ .ok v) → o = spillRecord (modCpu q fun x => { x with hold := .inPlace }) c.live.tself (wordOf i) pc)) ∧
  (¬(c.who = .task ∧ c.live.priv = 0) → o = takeTrap t cause va)

/-- The accesses of a scalar or atomic instruction that are refused, each with no other effect: an address that its size
does not divide traps ALIGN with it, a watchpoint stops it, and the translation or the permissions fault it (R95, R198,
R202, R413). -/
def Stops (a : Attr) (i : Instr) (s : State) (k : Kind) (va n : Nat) : Prop :=
  Runs a i s → discarded s = false →
    (va % n ≠ 0 → exec i s = .next (takeTrap s 0x03 (BitVec.ofNat 64 va))) ∧
    (va % n = 0 → ∀ w, watchHit s va n (kindRd k) (kindWr k) = some w →
      exec i s = .next (debugStop s 0x0E (BitVec.ofNat 64 va) w.val false true)) ∧
    (va % n = 0 → watchHit s va n (kindRd k) (kindWr k) = none → ∀ t cause,
      (resolveLive s k va = (.xlate, t) ∧ cause = 4) ∨ (resolveLive s k va = (.prot, t) ∧ cause = 5) →
      ∃ o, exec i s = .next o ∧ FaultLeaves i [] cause (BitVec.ofNat 64 va) k 0 t o)

/-- An AMO gives d the old value, and its place the new one (R288). -/
def Amo (i : Instr) (s : State) (d a b : Reg) (rel acq x : Bool) (new : Nat → Nat → Nat → Option Nat) : Prop :=
  let w := 8 * amoBytes x
  let y := (reg s b).toNat % 2 ^ w
  Runs (releaseAttr rel) i s → ∀ p t, Acts s .rmw (reg s a).toNat (amoBytes x) p t →
    let r := atomically t p (amoBytes x) true acq fun old => new w old y
    exec i s = .next (retire (setG r.2 d (sextWord w r.1)))

end Sys2Proof.Claims

/-- R75, R76: the result of every ALU member, with the division corners. -/
def Obligations.AluResults : Prop :=
  ∀ (s : State) (d a b : Reg) (w : Bool),
    Alu (.add d a b w) s d a b w (fun _ x y => x + y) ∧
    Alu (.sub d a b w) s d a b w (fun _ x y => x - y) ∧
    Alu (.and d a b w) s d a b w (fun _ x y => x &&& y) ∧
    Alu (.or d a b w) s d a b w (fun _ x y => x ||| y) ∧
    Alu (.xor d a b w) s d a b w (fun _ x y => x ^^^ y) ∧
    Alu (.andn d a b w) s d a b w (fun _ x y => x &&& ~~~y) ∧
    Alu (.orn d a b w) s d a b w (fun _ x y => x ||| ~~~y) ∧
    Alu (.shl d a b w) s d a b w (fun n x y => x <<< (y.toNat % n)) ∧
    Alu (.shr d a b w) s d a b w (fun n x y => x >>> (y.toNat % n)) ∧
    Alu (.sha d a b w) s d a b w (fun n x y => x.sshiftRight (y.toNat % n)) ∧
    Alu (.mul d a b w) s d a b w (fun _ x y => x * y) ∧
    Alu (.mulh d a b w) s d a b w (fun n x y => ((x.signExtend (2 * n) * y.signExtend (2 * n)) >>> n).setWidth n) ∧
    Alu (.mulhn d a b w) s d a b w (fun n x y => ((x.setWidth (2 * n) * y.setWidth (2 * n)) >>> n).setWidth n) ∧
    Alu (.div d a b w) s d a b w (fun n x y => if y = 0 then BitVec.allOnes n else x.sdiv y) ∧
    Alu (.divn d a b w) s d a b w (fun n x y => if y = 0 then BitVec.allOnes n else x / y) ∧
    Alu (.rem d a b w) s d a b w (fun _ x y => if y = 0 then x else x.srem y) ∧
    Alu (.remn d a b w) s d a b w (fun _ x y => if y = 0 then x else x % y) ∧
    Alu (.min d a b w) s d a b w (fun _ x y => if x.slt y then x else y) ∧
    Alu (.max d a b w) s d a b w (fun _ x y => if x.slt y then y else x) ∧
    Alu (.minn d a b w) s d a b w (fun _ x y => if x < y then x else y) ∧
    Alu (.maxn d a b w) s d a b w (fun _ x y => if x < y then y else x) ∧
    Alu (.slt d a b w) s d a b w (fun n x y => flag n (x.slt y)) ∧
    Alu (.sltn d a b w) s d a b w (fun n x y => flag n (x.ult y)) ∧
    Alu (.ror d a b w) s d a b w (fun n x y => x.rotateRight (y.toNat % n)) ∧
    Alu (.clz d a w) s d a a w (fun _ x _ => x.clz) ∧
    Alu (.ctz d a w) s d a a w (fun _ x _ => x.ctz) ∧
    Alu (.popc d a w) s d a a w (fun _ x _ => x.cpop) ∧
    Alu (.brev d a w) s d a a w (fun _ x _ => x.reverse)

/-- R77 to R80: immediates, shifts by a constant, constants, SEL and LEA. -/
def Obligations.ImmediateResults : Prop :=
  ∀ (s : State) (d a b c : Reg) (w : Bool) (imm : BitVec 16) (big : BitVec 21) (k : Fin 64) (sh : Fin 4),
    Gives (.addi d a imm) s d (reg s a + imm.signExtend 64) ∧
    Gives (.andi d a imm) s d (reg s a &&& imm.signExtend 64) ∧
    Gives (.ori d a imm) s d (reg s a ||| imm.setWidth 64) ∧
    Gives (.xori d a imm) s d (reg s a ^^^ imm.setWidth 64) ∧
    Gives (.slti d a imm) s d (flag 64 ((reg s a).slt (imm.signExtend 64))) ∧
    Gives (.sltni d a imm) s d (flag 64 ((reg s a).ult (imm.signExtend 64))) ∧
    Alu (.shli d a w k) s d a a w (fun n x _ => x <<< (k.val % n)) ∧
    Alu (.shri d a w k) s d a a w (fun n x _ => x >>> (k.val % n)) ∧
    Alu (.shai d a w k) s d a a w (fun n x _ => x.sshiftRight (k.val % n)) ∧
    Alu (.rori d a w k) s d a a w (fun n x _ => x.rotateRight (k.val % n)) ∧
    Gives (.liw d big) s d (big.signExtend 64) ∧
    Gives (.lis d big) s d (reg s d <<< 21 ||| big.setWidth 64) ∧
    Gives (.addpc d big) s d (s.cpu.live.pc + big.signExtend 64 * 4) ∧
    Gives (.sel d a b c) s d (if reg s c ≠ 0 then reg s a else reg s b) ∧
    Gives (.lea d a b sh) s d (reg s a + reg s b <<< sh.val)

/-- R82 to R85, R89: the FOP members and FMA that round, under the mode that their rounding field or `fst` names.
In a handler context `fst` is the handler's own, in which the flags accrue too (log 13). -/
def Obligations.FpArithmeticResults : Prop :=
  ∀ (s : State) (d a b c : Reg) (fmt : Fmt) (rm : RM),
    let dir := dirOf rm s.cpu.live.fst
    let x := fArg fmt (reg s a)
    let y := fArg fmt (reg s b)
    let z := fArg fmt (reg s c)
    GivesFp (.fadd d a b fmt rm) s d (onceRounded fmt dir (fpAdd dir x y)) ∧
    GivesFp (.fsub d a b fmt rm) s d (onceRounded fmt dir (fpAdd dir x (fpNeg y))) ∧
    GivesFp (.fmul d a b fmt rm) s d (onceRounded fmt dir (fpMul x y)) ∧
    GivesFp (.fdiv d a b fmt rm) s d (onceRounded fmt dir (fpDiv x y)) ∧
    GivesFp (.fsqrt d a fmt rm) s d (onceRounded fmt dir (fpSqrt x)) ∧
    GivesFp (.fma d a b c fmt rm) s d (onceRounded fmt dir (fpFma dir false false x y z)) ∧
    GivesFp (.fnma d a b c fmt rm) s d (onceRounded fmt dir (fpFma dir true false x y z))

/-- R85, R86: the FOP members that select, compare or classify; in a handler context the flags accrue in its own `fst`
(log 13). -/
def Obligations.FpCompareResults : Prop :=
  ∀ (s : State) (d a b : Reg) (fmt : Fmt),
    let x := fArg fmt (reg s a)
    let y := fArg fmt (reg s b)
    let nan := x.isNaN || y.isNaN
    GivesFp (.fmin d a b fmt) s d (onceRounded fmt .rne (fpMinMax false x y)) ∧
    GivesFp (.fmax d a b fmt) s d (onceRounded fmt .rne (fpMinMax true x y)) ∧
    GivesFp (.fcmpeq d a b fmt) s d (if fpEq x y then 1 else 0, snan x ||| snan y) ∧
    GivesFp (.fcmplt d a b fmt) s d (if !nan && fpLt x y then 1 else 0, if nan then flagNV else 0) ∧
    GivesFp (.fcmple d a b fmt) s d (if !nan && !fpLt y x then 1 else 0, if nan then flagNV else 0) ∧
    GivesFp (.fcmpun d a b fmt) s d (if nan then 1 else 0, snan x ||| snan y) ∧
    GivesFp (.fclass d a fmt) s d (2 ^ fpClass (fmtFloat fmt) (fBits fmt (reg s a)), 0)

/-- R87, R88: the FOP conversions; in a handler context `fst` is the handler's own (log 13). -/
def Obligations.FpConversionResults : Prop :=
  ∀ (s : State) (d a : Reg) (src fmt : Fmt) (rm : RM),
    let dir := dirOf rm s.cpu.live.fst
    let v := reg s a
    let toI := fpToInt dir (-(2 ^ 63 : Int)) (2 ^ 63 - 1) (fArg fmt v)
    let toN := fpToInt dir 0 (2 ^ 64 - 1) (fArg fmt v)
    GivesFp (.fcvti d a fmt rm) s d (trunc 64 toI.1, toI.2) ∧
    GivesFp (.fcvtn d a fmt rm) s d (trunc 64 toN.1, toN.2) ∧
    GivesFp (.fcvtfi d a fmt rm) s d (onceRounded fmt dir (intVal v.toInt, 0)) ∧
    GivesFp (.fcvtfn d a fmt rm) s d (onceRounded fmt dir (intVal (v.toNat : Int), 0)) ∧
    GivesFp (.fcvtf d a src fmt rm) s d (onceRounded fmt dir (fArg src v, snan (fArg src v)))

/-- R90, R91: the conditional branches, and the jumps, with the link that is written before the jump is made; an
unaligned target traps and changes no register. -/
def Obligations.ControlTransfers : Prop :=
  ∀ (s : State) (d a b : Reg) (imm : BitVec 26) (off : BitVec 16),
    (Runs plainAttr (.j imm) s → exec (.j imm) s = .next (goTo s (away s imm))) ∧
    (Runs plainAttr (.jl imm) s →
      exec (.jl imm) s = .next (goTo (writeReg s 1 (s.cpu.live.pc + 4)) (away s imm))) ∧
    (Runs plainAttr (.jrl d a) s → (reg s a).toNat % 4 = 0 →
      exec (.jrl d a) s = .next (goTo (writeReg s d (s.cpu.live.pc + 4)) (reg s a))) ∧
    (Runs plainAttr (.jrl d a) s → (reg s a).toNat % 4 ≠ 0 →
      exec (.jrl d a) s = .next (takeTrap s 0x03 (reg s a))) ∧
    let x := reg s a
    let y := reg s b
    Branches (.beq a b off) s off (x == y) ∧
    Branches (.bne a b off) s off (x != y) ∧
    Branches (.blt a b off) s off (x.slt y) ∧
    Branches (.bge a b off) s off (!x.slt y) ∧
    Branches (.bltn a b off) s off (x.ult y) ∧
    Branches (.bgen a b off) s off (!x.ult y)


/-- R93, R94, R95: scalar loads and stores whose access passes its checks. -/
def Obligations.ScalarAccess : Prop :=
  ∀ (s : State) (d a b : Reg) (sz : Size) (imm : BitVec 13) (sh : Fin 4),
    LoadsTo (.ld d a sz imm) s d sz (reg s a + imm.signExtend 64).toNat ∧
    StoresFrom (.st d a sz imm) s d sz (reg s a + imm.signExtend 64).toNat ∧
    LoadsTo (.xld d a b sh sz) s d sz (reg s a + reg s b <<< sh.val).toNat ∧
    StoresFrom (.xst d a b sh sz) s d sz (reg s a + reg s b <<< sh.val).toNat

/-- R95, R198, R202, R203, R413: the scalar and atomic accesses that are refused, and what a save leaves: the core idle
and the record among those of its core. -/
def Obligations.ScalarAndAtomicFaults : Prop :=
  (∀ (s : State) (d a b : Reg) (sz : Size) (imm : BitVec 13) (sh : Fin 4) (rel acq x : Bool),
    let off := (reg s a + imm.signExtend 64).toNat
    let idx := (reg s a + reg s b <<< sh.val).toNat
    let va := (reg s a).toNat
    Stops scalarAttr (.ld d a sz imm) s .read off (sizeBytes sz) ∧
    Stops plainAttr (.st d a sz imm) s .write off (sizeBytes sz) ∧
    Stops scalarAttr (.xld d a b sh sz) s .read idx (sizeBytes sz) ∧
    Stops plainAttr (.xst d a b sh sz) s .write idx (sizeBytes sz) ∧
    (∀ i ∈ [Instr.amoSwap d a b rel acq x, .amoAdd d a b rel acq x, .amoAnd d a b rel acq x, .amoOr d a b rel acq x,
        .amoXor d a b rel acq x, .amoMin d a b rel acq x, .amoMax d a b rel acq x, .amoMinn d a b rel acq x,
        .amoMaxn d a b rel acq x, .amoCas d a b rel acq x], Stops (releaseAttr rel) i s .rmw va (amoBytes x)) ∧
    Stops (releaseAttr true) (.cinit a b) s .write va 8 ∧
    Stops (releaseAttr true) (.cadd a b) s .rmw va 8 ∧
    (∀ i ∈ [Instr.cread d a, .ctest d a b], Stops scalarAttr i s .read va 8)) ∧
  (∀ (s v : State) (r : Rec), saveRec s r = .ok v → v.cpu.who = .idle ∧ r ∈ v.cpu.recs)

/-- R190, R198: in the TCM and the CSP a store puts its bytes at its place and nowhere else, and a load that follows reads
them. -/
def Obligations.SramStoreThenLoad : Prop :=
  ∀ (s : State) (pa : Nat) (bs : List Byte), s.memOk → poisoned s pa bs.length = false →
    let t := storeAt s false (.sram pa) bs
    t.memOk ∧ t.cpu = s.cpu ∧
    (∀ x, x < pa ∨ pa + bs.length ≤ x → memGet t.mem x = memGet s.mem x) ∧
    (poisoned t pa bs.length = false → loadAt t false (.sram pa) bs.length = (some bs, t))

/-- R187, R191: a store to HBM whose line the core's L1 holds under its key, or has room for with the line at home under
that key: no byte of memory at its home, no other line and no other core changes, the line holds the stored bytes valid and
dirty and its others as they were, and a load of the same bytes reads them back. Where the line's set is full, one of its
lines leaves L1 first. If that one is clean, no byte at home changes; if it is dirty, the dirty bytes of the core go home,
those of its other lines too, which is the model's reading (log 81), and no other byte there changes. Which lines form a
set is log 8. -/
def Obligations.CachedStoreFrame : Prop :=
  ∀ (s : State) (pa : Nat) (key : Fin 64) (bs : List Byte), pa % 128 + bs.length ≤ 128 →
    ((∀ l ∈ s.cpu.l1, l.line = pa / 128 → l.key = key) →
     ((∃ l ∈ s.cpu.l1, l.line = pa / 128) ∨
       ((s.cpu.l1.filter fun l => l.line % 128 = pa / 128 % 128).length < 4 ∧
         keyOf s (pa / 128) = s.keys.get key)) →
     let t := storeAt s false (.hbm pa key) bs
     t.mem = s.mem ∧ t.parked = s.parked ∧ t.cpu = { s.cpu with l1 := t.cpu.l1, counters := t.cpu.counters } ∧
     (∀ l ∈ s.cpu.l1, l.line ≠ pa / 128 → l ∈ t.cpu.l1) ∧
     (∃ l ∈ t.cpu.l1, l.line = pa / 128 ∧ l.key = key ∧
       l.valid &&& byteMask (pa % 128) bs.length = byteMask (pa % 128) bs.length ∧
       l.dirty &&& byteMask (pa % 128) bs.length = byteMask (pa % 128) bs.length ∧
       (∀ i, i < bs.length → slot l.data (pa % 128 + i) 8 = (bs.getD i 0).toNat) ∧
       (∀ o ∈ s.cpu.l1, o.line = pa / 128 → ∃ l ∈ t.cpu.l1, l.line = pa / 128 ∧
         ∀ i, i < 128 → (i < pa % 128 ∨ pa % 128 + bs.length ≤ i) → slot l.data i 8 = slot o.data i 8)) ∧
     loadAt t false (.hbm pa key) bs.length = (some bs, t)) ∧
    ((∀ l ∈ s.cpu.l1, l.line ≠ pa / 128) → 4 ≤ (s.cpu.l1.filter fun l => l.line % 128 = pa / 128 % 128).length →
      keyOf s (pa / 128) = s.keys.get key → (∀ l ∈ s.cpu.l1, l.dirty ≠ 0 → keyOf s l.line = s.keys.get l.key) → s.memOk →
      let t := storeAt s false (.hbm pa key) bs
      ∃ v ∈ s.cpu.l1, v.line % 128 = pa / 128 % 128 ∧ (∀ l ∈ t.cpu.l1, l.line ≠ v.line) ∧
        t.parked = s.parked ∧ t.cpu = { s.cpu with l1 := t.cpu.l1, counters := t.cpu.counters } ∧
        (v.dirty = 0 → t.mem = s.mem ∧ ∀ l ∈ s.cpu.l1, l.line ≠ v.line → l ∈ t.cpu.l1) ∧
        (v.dirty ≠ 0 →
          (∀ before l after i, s.cpu.l1 = before ++ l :: after → i < 128 → l.dirty.getLsbD i = true →
            (∀ m ∈ after, m.line = l.line → m.dirty.getLsbD i = false) →
            memGet t.mem (l.line * 128 + i) = BitVec.ofNat 8 (slot l.data i 8)) ∧
          (∀ x, (∀ l ∈ s.cpu.l1, l.line = x / 128 → l.dirty.getLsbD (x % 128) = false) →
            memGet t.mem x = memGet s.mem x) ∧
          ∀ l ∈ s.cpu.l1, l.line ≠ v.line → { l with dirty := 0 } ∈ t.cpu.l1) ∧
        (∃ l ∈ t.cpu.l1, l.line = pa / 128 ∧ l.key = key ∧
          l.valid &&& byteMask (pa % 128) bs.length = byteMask (pa % 128) bs.length ∧
          l.dirty &&& byteMask (pa % 128) bs.length = byteMask (pa % 128) bs.length ∧
          ∀ i, i < bs.length → slot l.data (pa % 128 + i) 8 = (bs.getD i 0).toNat) ∧
        loadAt t false (.hbm pa key) bs.length = (some bs, t))

/-- R288: the AMO members. That an AMO without REL sends the core's dirty lines home first too is the model's reading of R447
(log 81). -/
def Obligations.AmoResults : Prop :=
  ∀ (s : State) (d a b : Reg) (rel acq x : Bool),
    Amo (.amoSwap d a b rel acq x) s d a b rel acq x (fun _ _ y => some y) ∧
    Amo (.amoAdd d a b rel acq x) s d a b rel acq x (fun w old y => some ((old + y) % 2 ^ w)) ∧
    Amo (.amoAnd d a b rel acq x) s d a b rel acq x (fun _ old y => some (old &&& y)) ∧
    Amo (.amoOr d a b rel acq x) s d a b rel acq x (fun _ old y => some (old ||| y)) ∧
    Amo (.amoXor d a b rel acq x) s d a b rel acq x (fun _ old y => some (old ^^^ y)) ∧
    Amo (.amoMin d a b rel acq x) s d a b rel acq x (fun w old y => some (if sgn w old < sgn w y then old else y)) ∧
    Amo (.amoMax d a b rel acq x) s d a b rel acq x (fun w old y => some (if sgn w old < sgn w y then y else old)) ∧
    Amo (.amoMinn d a b rel acq x) s d a b rel acq x (fun _ old y => some (min old y)) ∧
    Amo (.amoMaxn d a b rel acq x) s d a b rel acq x (fun _ old y => some (max old y)) ∧
    Amo (.amoCas d a b rel acq x) s d a b rel acq x
      (fun w old y => if old = (reg s d).toNat % 2 ^ w then some y else none)

/-- R281 to R283: the counter instructions; CADD saturates, CREAD and CTEST are acquiring reads that take a copy. -/
def Obligations.CounterResults : Prop :=
  ∀ (s : State) (d a b : Reg),
    let va := (reg s a).toNat
    let read (i : Instr) (v : Nat → Word) := Runs scalarAttr i s →
      (discarded s = true → exec i s = .next (advance s)) ∧
      (discarded s = false → ∀ p t, Acts s .read va 8 p t →
        let r := atomically t p 8 false true fun _ => none
        exec i s = .next (retire (result r.2 d (v r.1))))
    (Runs (releaseAttr true) (.cinit a b) s → ∀ p t, Acts s .write va 8 p t →
      exec (.cinit a b) s = .next (retire (atomically t p 8 true false fun _ => some (reg s b).toNat).2)) ∧
    (Runs (releaseAttr true) (.cadd a b) s → ∀ p t, Acts s .rmw va 8 p t →
      exec (.cadd a b) s =
        .next (retire (atomically t p 8 true false fun old => some (min (old + (reg s b).toNat) (2 ^ 64 - 1))).2)) ∧
    read (.cread d a) (fun old => BitVec.ofNat 64 old) ∧
    read (.ctest d a b) (fun old => if (reg s b).toNat ≤ old then 1 else 0)
namespace Sys2Proof.Claims

/-- An instruction that nothing turns away leaves t. -/
def Leaves (a : Attr) (i : Instr) (s t : State) : Prop := Runs a i s → exec i s = .next t

/-- The cause register of a trap or an interrupt: its code, with bit 8 set for an interrupt (R371). -/
def causeBits (cause : Nat) : BitVec 9 := if 0x20 ≤ cause then BitVec.ofNat 9 (cause + 0x100) else BitVec.ofNat 9 cause

/-- A handler's trap registers as an entry leaves them (R371, R374). -/
structure Entered (h : Handler) (cause : Nat) (tval tepc tevc : Word) (tpriv : BitVec 2) (nest idle : Bool) : Prop where
  cause : h.tcause = causeBits cause
  value : h.tval = tval
  pc : h.tepc = tepc
  commit : h.tevc = tevc
  from_ : h.tpriv = tpriv
  nest : h.nest = nest
  idle : h.idle = idle
  act : h.tact = 0

/-- A handler's context as it starts at a vector (R374). -/
def startsAt (h : Handler) (vec : Word) : Ctx := { h.ctx with pc := vec &&& ~~~0x3F, pfx := Pfx.none }

/-- A context of which the first instruction that the core issues is the one that ONCE exempts: the latched one that came
out of the VIQ, else the oldest of the VIQ, else the front's (R202, R414). -/
def exempted (c : Ctx) (one : Bool) : Ctx :=
  let mark (e : VEntry) : VEntry := { e with once := one }
  let first := c.latchQ && c.latch.isSome
  { c with
    latch := if first then c.latch.map mark else c.latch
    viq := match c.viq with
      | e :: es => (if first then e else mark e) :: es
      | [] => []
    once := !first && c.viq.isEmpty && one }

/-- A context as it goes on at an address and a privilege level, its first instruction exempt with ONCE; a CWAIT that has
completed while it was held stands only for its own address (R202, R285, R378, R414). -/
def goesOnAt (c : Ctx) (pc : Word) (priv : Nat) (one : Bool) : Ctx :=
  { exempted c one with pc := pc, priv := priv, holdAt := if pc = c.pc then c.holdAt else none }

/-- Two handles that name one future: the same device, slot and generation (R227). -/
def SameFuture (x h : Word) : Prop := hDev x = hDev h ∧ hSlot x = hSlot h ∧ hGen x = hGen h

/-- A set of handles that holds every one that the end of a task drops: its held references, and with the handle of a
recorded or gated task the references that this task holds (R234, R255). -/
structure EndDrops (s : State) (held : List Word) (dropped : Word → Prop) : Prop where
  held : ∀ h ∈ held, dropped h
  records : ∀ n, ∀ r ∈ (coreAt s n).recs, dropped r.ctx.tself → ∀ h ∈ r.ctx.held, dropped h
  gates : ∀ g ∈ s.gates, dropped g.token → ∀ h ∈ g.child.held, dropped h

/-- The task in the trap save store: it keeps everything but its grant, whose size it needs again and its record holds as
GN, and of its vector registers what a forced save keeps (R130, R374). -/
def TaskSaved (s t : State) : Prop :=
  t.cpu.trapped = some { s.cpu.live with need := groupCount s s.cpu.id, gn := groupCount s s.cpu.id,
                                           vec := keepForced s.cpu.live.vec } ∧
    groupCount t t.cpu.id = 0

/-- Every vector instruction but those of VCFG and VMASK, and the members of VMASK that take vector sources, each once,
with a list of the operands that it may name. -/
def vectorMembers (form : VForm) (d a b : Reg) (kd ka kb k : KReg) (t : Ty) (rm : RM) (q nt : Bool) : List Instr :=
  [.vadd form d a b k, .vsub form d a b k, .vrsub form d a b k, .vmul form d a b k, .vmulh form d a b k,
   .vmin form d a b k, .vmax form d a b k, .vabs d a k, .vneg d a k, .vdiv form d a b k, .vrem form d a b k, .vsqrt d a k,
   .vexp2 d a k, .vand form d a b k, .vor form d a b k, .vxor form d a b k, .vshl form d a b k, .vshr form d a b k,
   .vsha form d a b k, .vsadd form d a b k, .vssub form d a b k, .vavg form d a b k, .vfma form d a b k,
   .vfms form d a b k, .vfnma form d a b k, .vfnms form d a b k, .vcvt d a t k rm, .vcvts d a t k rm, .vpackmx d a t rm,
   .vunpkmx d a t rm, .vrsum d a k q, .vrsumo d a b k q, .vrmax d a k q, .vrmin d a k q, .vrand d a k q, .vror d a k q,
   .vrxor d a k q, .vrmaxi d a k q, .vslup form d a b k, .vsldn form d a b k, .vrgath d a b k, .vcompr d a k,
   .vexpnd d a k, .viota d ka t k, .vidx d t k, .vbcast form d a b k, .vmerge form d a b k, .vrev d a k, .vzip d a k,
   .vunzip d a k, .vceq form kd a b k, .vcne form kd a b k, .vclt form kd a b k, .vcle form kd a b k,
   .vcgt form kd a b k, .vcge form kd a b k, .vcun form kd a b k, .vclass kd a b k, .kand kd ka kb k, .kor kd ka kb k,
   .kxor kd ka kb k, .knot kd ka k, .kandn kd ka kb k, .ksbf kd ka k, .ksif kd ka k, .kpopc d ka k, .kfirst d ka k,
   .kmov kd ka k, .vldUnit d a k nt t, .vldStrided d a b k nt t, .vldIndexed d a b k nt t, .vldFirstFault d a k nt t,
   .vldSegmentMx d a t, .vstUnit d a k nt t, .vstStrided d a b k nt t, .vstIndexed d a b k nt t, .vstOrdered d a k nt t,
   .vstSegmentMx d a t, .vmvsx d b, .vmvxs d a, .vqpop d, .vqlen d, .vmv form d a b k]

/-- The instructions of VCFG (R118). -/
def lengthMembers (d a b : Reg) (tag : Tag) (w : Fin 4) : List Instr :=
  [.vsetl d a w, .vsetlw d a b w, .vtag d tag, .vclr d, .vfold d a, .vsave a, .vrestore a, .vmaxq d w]

/-- The instructions of TASK and AWT (R236). -/
def taskMembers (d a b c : Reg) (kl : BitVec 7) (vs : Bool) : List Instr :=
  [.spawn d a b, .spawng d a b c, .finish a, .ffail a, .fref a b, .fdrop a, .fpoll d a, .ftake d a, .rpoint, .rhold, .rrel,
   .tself d, .await d a b kl vs, .awaitany d a b kl vs, .yield b kl vs, .cwait d a b kl vs]

/-- The instructions of CPY but CPQRY, and those of MTX, RMT and FAB. -/
def engineMembers (d a b c : Reg) (sz : Size) : List Instr :=
  [.cpy1d d a b c, .cpy2d d a, .cpgath d a, .cpfill d a b c, .mxload d a b, .mxrow a b c, .mxrowz a b c, .mxrd d a b,
   .mxsync d a, .mxbind d a b, .mxzero d a b, .mxrel a, .mxqry d a, .rld d a sz, .rst d a b sz, .radd d a b sz,
   .rswp d a b sz, .fgrp d a b, .fcoll d a, .fbar d a, .fgqry d a, .fgfree a]

end Sys2Proof.Claims

/-- R374 to R377, R130, R407, R417: taking a trap or an interrupt, from each kind of context and to each level, and the
trace record of it. Where a queued instruction traps, `tepc` is the front's pc and `tevc` the instruction's, as R407 has
it (log 18); on an idle core `tepc`, `tevc` and TPRIV are 0, which is the model's choice (log 73). That a trap writes one
trace record alone, of kind 4, and none of kind 3 for what leaves nor of kind 2 for the handler, is the model's choice too
(logs 63 and 85), and so is key slot 0, under which the clause has the record written: R417 names no key (log 116). -/
def Obligations.TrapEntry : Prop :=
  (∀ (s : State) (cause : Nat) (tval : Word),
    let t := takeTrap s cause tval
    let handle := if s.cpu.who = .task then s.cpu.live.tself else 0
    let tepc := if s.cpu.who = .idle then 0 else s.cpu.live.pc
    (toFirmware s cause = true ↔
      cause = 0x23 ∨ s.cpu.who = .sys ∨ (s.cpu.who = .task ∧ s.cpu.live.priv = 1 ∧ (cause = 4 ∨ cause = 5))) ∧
    (s.cpu.who ≠ .fw → t.futs = s.futs ∧ t.mem =
      if s.cpu.dctl.getLsbD 3 then
        (writePhys s 0 (s.cpu.trbase + s.cpu.trhead.toNat % 2 ^ s.cpu.trlog * 32)
          (toBytes 1 4 ++ toBytes 1 cause ++ toBytes 2 s.cpu.id ++ toBytes 4 0 ++ toBytes 8 s.devtime.toNat ++
           toBytes 8 handle.toNat ++ toBytes 8 tepc.toNat)).mem
      else s.mem) ∧
    (s.cpu.who = .task → toFirmware s cause = false →
      t.cpu.who = .sys ∧ t.cpu.priv = 1 ∧ t.cpu.fw = s.cpu.fw ∧ TaskSaved s t ∧
      Entered t.cpu.sys cause tval s.cpu.live.pc (commitPc s.cpu.live) s.cpu.priv false false ∧
      t.cpu.live = startsAt s.cpu.sys s.cpu.tvec) ∧
    (s.cpu.who = .task → toFirmware s cause = true →
      t.cpu.who = .fw ∧ t.cpu.priv = 2 ∧ t.cpu.sys = s.cpu.sys ∧ TaskSaved s t ∧
      Entered t.cpu.fw cause tval s.cpu.live.pc (commitPc s.cpu.live) s.cpu.priv false false ∧
      t.cpu.live = startsAt s.cpu.fw s.cpu.fvec) ∧
    (s.cpu.who = .sys →
      t.cpu.who = .fw ∧ t.cpu.priv = 2 ∧ t.cpu.sys = { s.cpu.sys with ctx := s.cpu.live } ∧
      t.cpu.trapped = s.cpu.trapped ∧
      Entered t.cpu.fw cause tval s.cpu.live.pc (commitPc s.cpu.live) s.cpu.priv true false ∧
      t.cpu.live = startsAt s.cpu.fw s.cpu.fvec) ∧
    (s.cpu.who = .idle → t.cpu.trapped = none ∧
      if toFirmware s cause then
        t.cpu.who = .fw ∧ t.cpu.priv = 2 ∧ t.cpu.sys = s.cpu.sys ∧ Entered t.cpu.fw cause tval 0 0 0 false true ∧
        t.cpu.live = startsAt s.cpu.fw s.cpu.fvec
      else
        t.cpu.who = .sys ∧ t.cpu.priv = 1 ∧ t.cpu.fw = s.cpu.fw ∧ Entered t.cpu.sys cause tval 0 0 0 false true ∧
        t.cpu.live = startsAt s.cpu.sys s.cpu.tvec) ∧
    (s.cpu.who = .fw → t.fatal = true)) ∧
  (∀ (v : VecState) (r : Reg),
    ((v.regs.get r).tag = none → (keepForced v).regs.get r = { tag := none, img := 0 }) ∧
    (∀ ty, (v.regs.get r).tag = some ty → ((keepForced v).regs.get r).tag = some ty ∧
      ∀ i, ((keepForced v).regs.get r).img.getLsbD i = ((v.regs.get r).img.getLsbD i && decide (i < v.vl * tyBits ty))) ∧
    keepForced v = { v with regs := (keepForced v).regs })

/-- R374, R378, R404, R414: the return from a trap, by what was interrupted and by what `tact` asks for. A task whose record
holds a contained error fails instead of going on. FAIL ends the trapped task as FFAIL does; READY, and a grant that is
not available, put its record among the ready ones of the core, for which ERET waits while the Woodshed ring is full and
takes SPILL where a page fails. -/
def Obligations.TrapReturn : Prop :=
  ∀ (s : State), Runs (sysAttr 0) .eret s →
    let h := if s.cpu.who = .fw then s.cpu.fw else s.cpu.sys
    (inHandler s = false → exec .eret s = .next (takeTrap s 0x02 0)) ∧
    (inHandler s = true → h.tepc.toNat % 4 ≠ 0 → exec .eret s = .next (takeTrap s 0x03 h.tepc)) ∧
    (inHandler s = true → h.tepc.toNat % 4 = 0 →
      (h.nest = true → ∃ t, exec .eret s = .next t ∧ t.cpu.who = .sys ∧ t.cpu.priv = 1 ∧
        t.cpu.live = { exempted s.cpu.sys.ctx (s.cpu.dctl.getLsbD 1) with pc := h.tepc } ∧
        t.cpu.fw = { s.cpu.fw with ctx := { s.cpu.live with once := false } } ∧
        (s.cpu.dctl.getLsbD 3 = false → t.mem = s.mem) ∧ t.futs = s.futs) ∧
      (h.nest = false → h.idle = true → ∃ t, exec .eret s = .next t ∧ t.cpu.who = .idle ∧
        (s.cpu.dctl.getLsbD 3 = false → t.mem = s.mem) ∧ t.futs = s.futs) ∧
      (h.nest = false → h.idle = false → ∀ c, s.cpu.trapped = some c → h.tact = 0 → canGrant s s.cpu.id c.need = true →
        (s.cpu.trapPoison = false → ∃ t, exec .eret s = .next t ∧ t.cpu.who = .task ∧ t.cpu.priv = h.tpriv ∧
          t.cpu.trapped = none ∧ t.cpu.live = goesOnAt c h.tepc h.tpriv.toNat (s.cpu.dctl.getLsbD 1) ∧
          (s.cpu.dctl.getLsbD 3 = false → t.mem = s.mem) ∧ t.futs = s.futs) ∧
        (s.cpu.trapPoison = true →
          exec .eret s = .next (endTask (placeTrapped (leaveHandler s) c h) true (failCode 0x24)))) ∧
      (h.nest = false → h.idle = false → ∀ c, s.cpu.trapped = some c → h.tact.getLsbD 0 = true →
        ∃ t, exec .eret s = .next t ∧ t.cpu.who = .idle ∧ t.cpu.trapped = none ∧
          (hDev c.tself = s.devid → hGen c.tself = (entryAt s c.tself).gen → (entryAt s c.tself).st = .pending →
            ∀ dropped, EndDrops s c.held dropped → (∀ x, dropped x → ¬SameFuture x c.tself) →
            let f := entryAt t c.tself
            f.st = .failed ∧ f.result = BitVec.ofNat 64 (0xFFFFFFFFFFFFFF00 + h.tcause.toNat % 256) ∧
              f.loc = some s.cpu.id)) ∧
      (h.nest = false → h.idle = false → ∀ c, s.cpu.trapped = some c → h.tact.getLsbD 0 = false →
        h.tact.getLsbD 1 = true ∨ canGrant s s.cpu.id c.need = false →
        let ctx := exempted c (s.cpu.dctl.getLsbD 1)
        let r : Rec :=
          { ctx := { ctx with pc := h.tepc, holdAt := if h.tepc = c.pc then c.holdAt else none }
            st := .ready, wait := .none, forced := true, liveG := BitVec.allOnes 64
            liveK := if c.need = 0 then 0 else BitVec.allOnes 7, liveV := c.need != 0, order := s.clock, since := s.clock
            steal := false, atPoint := false, spill := none, due := false, poison := s.cpu.trapPoison }
        let room := makeRoom (s.cpu.recs.length + 1) s s.cpu.id (recBytes r)
        (∀ u, room = .ok u → ∃ t, exec .eret s = .next t ∧ t.cpu.who = .idle ∧ t.cpu.trapped = none ∧
          t.cpu.recs = u.cpu.recs ++ [r] ∧ t.cpu.hold = .none ∧ (u.cpu.dctl.getLsbD 3 = false → t.mem = u.mem) ∧
          t.futs = u.futs) ∧
        (room = .full → s.cpu.hold = .eret → exec .eret s = .next (waitHere s)) ∧
        (room = .full → s.cpu.hold ≠ .eret → exec .eret s = .next (waitHere
          (modCpu (post (modCpu s fun k => { k with press := true }) (clusterOf s.cpu.id)
            { handle := c.tself, addr := s.cpu.wsbase + BitVec.ofNat 64 s.cpu.shedHead, cause := 9, access := 4, elem := 0,
              word := 0x7C000002, pc := h.tepc, owner := .other }) fun k => { k with hold := .eret }))) ∧
        ∀ va, room = .fault va → exec .eret s = .next (takeTrap
          (modCpu s fun k => { k with hold := if k.hold = .eret then .none else k.hold }) 0x09 (BitVec.ofNat 64 va))))

/-- R50, R58, R370, R380, R382, R99, R117, R193, R232, R372, R410: a privileged instruction below its level, and one that only a
handler context may execute, raise PRIV and do nothing else. No level holds back a write of a register that is read only
and that its chapter lets every level read (log 35). -/
def Obligations.PrivilegeTraps : Prop :=
  (∀ (s : State) (d a : Reg) (r : Spr), s.cpu.lane = none → s.cpu.live.pfx.v = false →
    let traps (i : Instr) := exec i s = .next (takeTrap s 0x02 0)
    (s.cpu.priv.toNat < 2 → traps .halt) ∧
    (s.cpu.priv = 0 → traps (.tlbinv a)) ∧
    (s.cpu.priv.toNat < readLevel r → traps (.mfs d r)) ∧
    (s.cpu.priv.toNat < writeLevel r → traps (.mts a r)) ∧
    (inHandler s = false → s.cpu.live.viq = [] → traps .eret ∧ traps .waiti ∧
      (handlerOnly r = true → traps (.mfs d r) ∧ traps (.mts a r)))) ∧
  (∀ i : Fin 4, ∀ r ∈ [Spr.dctl, .dstat, .dstask, .dstep, .dbten, .ibrk i, .wtch i, .wctl i, .drsel, .drprod, .drcons,
      .drcyc, .drlost, .trring, .trhead, .soot, .sootst, .tcause, .tval, .tepc, .tevc, .tstatus, .tvec, .ttimer, .tpend,
      .fsring, .fsack, .tsel, .tgval, .tact, .ftbase, .ftsize, .wsbase, .wssize, .wsstat, .wsroot, .ptroot],
    readLevel r = 1 ∧ writeLevel r = 1) ∧
  readLevel .fvec = 2 ∧ writeLevel .fvec = 2 ∧
  (∀ r ∈ [Spr.pfxl, .vslip, .tself, .tlevel, .thold, .tquant, .ctxlim], readLevel r = 0 ∧ writeLevel r = 1) ∧
  (∀ r ∈ [Spr.vl, .vgrant, .vwidth, .vqlen, .vbeg, .vred, .efr, .fst, .tidx, .tprio, .tcmbase, .cspbase, .tenant, .kbind,
      .cpstat, .podcfg, .rmtstat, .cycle, .devtime, .coreid, .clusterid, .devid, .wear, .islst],
    readLevel r = 0 ∧ writeLevel r = 0)

/-- R370, R237, R327, R336: every instruction of TASK, AWT, VCFG, the vector groups, MTX, RMT and FAB, and of CPY all but
CPQRY, raises PRIV in a handler context. That CPQRY completes there is the model's reading of R328 and R336 against R370
(log 34). -/
def Obligations.HandlerRestrictions : Prop :=
  ∀ (s : State), s.cpu.lane = none → s.cpu.live.pfx.v = false → inHandler s = true →
    (s.tenants.get s.cpu.live.tenant).featmask = 0 →
    (∀ (form : VForm) (d a b c : Reg) (kd ka kb k : KReg) (kl : BitVec 7) (vs q nt : Bool) (t : Ty) (tag : Tag) (rm : RM)
        (sz : Size) (w : Fin 4),
      ∀ i ∈ vectorMembers form d a b kd ka kb k t rm q nt ++ lengthMembers d a b tag w ++ taskMembers d a b c kl vs ++
          engineMembers d a b c sz,
        exec i s = .next (takeTrap s 0x02 0)) ∧
    (∀ d : Reg, s.cpu.live.viq = [] → exec (.cpqry d) s = .next
      (retire (setG s d (BitVec.ofNat 64 (64 - (clusterAt s (clusterOf s.cpu.id)).flue.length)))))

/-- R376, R380 to R383, R416, R446: system calls and breakpoints, HALT, WAITI and its wake, and the maintenance of code,
translations and L1. Once one dirty line is selected, all those of the core go home, which is the model's reading (log 81),
and so is that TLBINV waits while a store that a context of any core holds back, a stopped one too, has its place by a
translation that it names (log 83). -/
def Obligations.SystemInstructions : Prop :=
  ∀ (s : State) (a b : Reg) (n : Fin 64),
    let lo := (reg s a).toNat
    let len := (reg s b).toNat
    Leaves (sysAttr 0) (.traps n) s (takeTrap (advance s) 0x0F (BitVec.ofNat 64 n.val)) ∧
    Leaves (sysAttr 0) (.brk n) s (debugStop (advance s) 0x0C (BitVec.ofNat 64 n.val) 0 false false) ∧
    Leaves (sysAttr 2) .halt s (modCpu (advance s) fun c => { c with halt := .halted }) ∧
    (inHandler s = true → wakes s = true → Leaves (sysAttr 0) .waiti s (advance s)) ∧
    (inHandler s = true → wakes s = false →
      Leaves (sysAttr 0) .waiti s (modCpu (advance s) fun c => { c with halt := .waiti })) ∧
    (s.cpu.halt = .waiti → wakes s = true →
      exec .waitiWake s = .next (modCpu s fun c => { c with halt := .running })) ∧
    (len = 0 → Leaves (sysAttr 0) (.codesync a b) s (advance s)) ∧
    (len ≠ 0 → Leaves (sysAttr 0) (.codesync a b) s
      (let segs := segmentsOf s lo len
       let u := writeBackIf s s.cpu.id fun l => !segs.isEmpty || inPieces (rangePieces s lo len) l
       retire (dropCode (dropMaps u (mapPieces u lo len segs)) lo len))) ∧
    (bits (reg s a).toNat 6 10 = 0 → bits (reg s a).toNat 52 12 = 0 →
      (storesPending s (reg s a) = false →
        Leaves (sysAttr 1) (.tlbinv a) s (retire (dropTlb s (tlbMatch (reg s a))))) ∧
      (storesPending s (reg s a) = true ↔ ∃ n ∈ coreList s, ∃ c ∈ tasksOn (coreAt s n), ∃ h ∈ storesOf c, ∃ e,
        h.via = some e ∧ tlbMatch (reg s a) e = true) ∧
      (storesPending s (reg s a) = true → Leaves (sysAttr 1) (.tlbinv a) s (waitHere s))) ∧
    (bits (reg s a).toNat 6 10 ≠ 0 ∨ bits (reg s a).toNat 52 12 ≠ 0 →
      Leaves (sysAttr 1) (.tlbinv a) s (takeTrap s 0x0A (reg s a))) ∧
    Leaves (sysAttr 0) (.l1wb a b) s
      (retire (writeBackIf s s.cpu.id fun l => len = 0 || inPieces (rangePieces s lo len) l))

/-- R52, R58, R418, R419: PFX leaves its prefix pending; DMARK records; DSAMPLE reads a counter. -/
def Obligations.PrefixAndDebug : Prop :=
  ∀ (s : State) (pg pd d a : Reg) (ps pc : Bool) (pk : KReg),
    Leaves { lend := .refuse } (.pfx pg ps pd pc pk) s
      (modLive (advance s) fun c => { c with pfx := { v := true, pg := pg, ps := ps, pd := pd, pc := pc, pk := pk } }) ∧
    (Runs { lend := .predicate } (.dmark a) s →
      exec (.dmark a) s = .next (does s (retire (traceRec s 1 0 s.cpu.live.tself (reg s a))))) ∧
    (Runs { lend := .copyG, drain := true } (.dsample d a) s →
      exec (.dsample d a) s = .next (lands s d
        (if s.cpu.priv = 0 && !s.cpu.dctl.getLsbD 4 then 0
         else if h : (reg s a).toNat < 12 then s.cpu.counters[(reg s a).toNat] else 0)))

/-- R98, R99, R100: MFS reads a special register, and MTS writes it. -/
def Obligations.SpecialRegisterMoves : Prop :=
  ∀ (s : State) (d a : Reg) (r : Spr), handlerOnly r = false ∨ inHandler s = true →
    Leaves { lend := .refuse, drain := sprDrains r, level := readLevel r } (.mfs d r) s
      (retire (writeReg (afterRead s r) d (readSpr s r))) ∧
    Leaves { lend := .refuse, drain := sprDrains r, level := writeLevel r } (.mts a r) s
      (retire (writeSpr s r (reg s a)))

/-- R6, R58, R116, R117, R143, R144, R192, R231, R297, R336, R344, R371, R409: what a register reads after a write of v,
field by field; a write of one that is read only changes nothing. -/
def Obligations.SpecialRegisterFields : Prop :=
  ∀ (s : State) (v : Word) (i : Fin 4),
    let back (r : Spr) := readSpr (writeSpr s r v) r
    let m (lo len : Nat) : Word := BitVec.ofNat 64 (bits v.toNat lo len * 2 ^ lo)
    let h := if s.cpu.who = .fw then s.cpu.fw else s.cpu.sys
    let n (x : Nat) : Word := BitVec.ofNat 64 x
    let cl := clusterAt s (clusterOf s.cpu.id)
    (s.cpu.who = .task → back .vbeg = n (min v.toNat 2047) ∧ back .vred = v ∧ back .efr = m 0 32 ∧
      back .tidx = m 0 7 ∧ back .fst = (if bits v.toNat 0 3 < 5 then m 0 3 else 0) + m 4 5 ∧ back .pfxl = 0 ∧
      back .tprio = n (min (bits v.toNat 0 2) s.cpu.live.limit + s.cpu.live.limit * 4 +
        min (bits v.toNat 0 2) s.cpu.live.limit * 16)) ∧
    (s.cpu.who = .sys → s.cpu.sys.idle = false → ∀ c, s.cpu.trapped = some c →
      back .vbeg = n (min v.toNat 2047) ∧ back .vred = v ∧ back .efr = m 0 32 ∧
      back .fst = (if bits v.toNat 0 3 < 5 then m 0 3 else 0) + m 4 5 ∧ back .pfxl = m 0 16 ∧
      (0 < s.cpu.sys.tsel.toNat → s.cpu.sys.tsel.toNat < 32 → back .tgval = v) ∧
      (s.cpu.sys.tsel.toNat = 32 → back .tgval = c.tself) ∧ (s.cpu.sys.tsel.toNat = 33 → back .tgval = n c.tenant.val) ∧
      (s.cpu.sys.tsel.toNat = 0 ∨ 33 < s.cpu.sys.tsel.toNat → back .tgval = 0)) ∧
    back .vslip = m 0 4 ∧ back .tquant = n (max 256 (bits v.toNat 0 24)) ∧
    back .ctxlim = n (lim 1 64 (bits v.toNat 0 7)) ∧ back .ftbase = m 16 24 ∧
    back .ftsize = n (lim 16 30 (bits v.toNat 0 5)) ∧ back .wsbase = m 16 36 ∧
    back .wssize = n (max 1 (bits v.toNat 16 14) * 2 ^ 16) ∧ back .wsroot = m 16 24 ∧
    back .wsstat = n (ringUsed s.cpu + (s.cpu.press && !v.getLsbD 32).toNat * 2 ^ 32 +
      (s.cpu.hold = .wait || s.cpu.hold = .eret).toNat * 2 ^ 33) ∧
    (s.cpu.who = .task → back .ptroot = m 16 24) ∧
    back .tcause = m 0 9 ∧ back .tval = v ∧ back .tepc = v ∧ back .tvec = v &&& ~~~0x3F ∧ back .fvec = v &&& ~~~0x3F ∧
    back .tstatus = n (s.cpu.priv.toNat + bits v.toNat 2 2 * 4 + h.nest.toNat * 16 + h.idle.toNat * 32) ∧
    back .tsel = m 0 6 ∧ back .tact = m 0 2 ∧ back .ttimer = v ∧
    back .fsring = n (lim 4 16 (bits v.toNat 0 5) + bits v.toNat 12 28 * 2 ^ 12) ∧
    (∀ r, cl.outstanding.find? (fun p => p.1 = bits v.toNat 0 32) = some (bits v.toNat 0 32, r) → r.owner = .other →
      bits v.toNat 32 2 ≠ 3 → back .fsack = m 0 34) ∧
    (cl.outstanding.find? (fun p => p.1 = bits v.toNat 0 32) = none ∨ bits v.toNat 32 2 = 3 →
      back .fsack = n (cl.ackSeq.toNat + cl.ackAction.toNat * 2 ^ 32 + 2 ^ 63)) ∧
    back .dctl = m 0 6 ∧ back .dstask = v ∧ back .dstep = m 0 1 ∧ back .dbten = m 0 5 ∧ back (.ibrk i) = v ∧
    back .dstat = (if v.getLsbD 4 then s.cpu.dstat &&& 0x0F else s.cpu.dstat).setWidth 64 ∧
    back (.wtch i) = v &&& ~~~7 ∧ back (.wctl i) = n (bits v.toNat 0 4 + lim 3 31 (bits v.toNat 4 5) * 16) ∧
    back .trhead = v ∧
    back .trring = n (lim 6 20 (bits v.toNat 0 5) + bits v.toNat 12 28 * 2 ^ 12) ∧
    bits (back .drsel).toNat 0 4 = bits v.toNat 0 4 ∧
    (v.getLsbD 4 = true → back .drsel = m 0 4 ∧ readSpr (writeSpr s .drsel v) .drlost = 0) ∧
    back .soot = n (bits v.toNat 0 2 + lim 8 24 (bits v.toNat 2 5) * 4 + bits v.toNat 12 28 * 2 ^ 12) ∧
    back .sootst = s.soot.ovf &&& ~~~v ∧
    ∀ r ∈ [Spr.vl, .vgrant, .vwidth, .vqlen, .tself, .tlevel, .thold, .tcmbase, .cspbase, .tenant, .kbind, .cpstat, .podcfg,
        .rmtstat, .tevc, .tpend, .cycle, .devtime, .coreid, .clusterid, .devid, .wear, .islst, .drprod, .drcons, .drcyc,
        .drlost],
      writeSpr s r v = s

namespace Sys2Proof.Claims

/-- The parameters of a spawn pass the checks of R239, up to the room for the spawner's record; the table has a slot for the
child's future beside the blocks that the two held lists then need (R229, log 10). -/
structure MaySpawn (s : State) (a b : Reg) : Prop where
  aligned : (reg s a).toNat % 4 = 0
  level : optLevel (reg s b) < s.cpu.live.kinds.length
  arguments : optXfer (reg s b) / 2 ^ optArgs (reg s b) = 0
  handles : ∀ h ∈ transfers s (reg s b), handleHeld s s.cpu.live h = true
  counts : ∀ h ∈ transfers s (reg s b), (transfers s (reg s b)).count h ≤ s.cpu.live.held.count h
  heldover : s.cpu.live.held.length + 1 - (transfers s (reg s b)).length ≤ 256
  slot : freeSlotWith s (spawnBlocks s (transfers s (reg s b)).length) ≠ none

/-- A cooperative pre-emption request applies to the running task (R386). -/
abbrev Cooperates (s : State) : Prop :=
  s.cpu.who = .task ∧ s.cpu.preMode = 1 ∧ s.cpu.live.cls < s.cpu.preClass

/-- The request register after a request has acted; that CLASS returns to 0 with MODE is the model's choice (R386, log
101). -/
def requestDone (s : State) : State := modCpu s fun c => { c with preMode := 0, preClass := 0, preAge := 0 }

/-- A task held at its instruction for want of Woodshed space: its core keeps it, sets PRESS and HOLD, and delivers the
spill-pressure record, with the handle, the ring's head, and the word and the address of the instruction (R203, R261). -/
def heldFor (s : State) (h : HoldAt) : State :=
  let c := s.cpu
  let p := post (modCpu s fun k => { k with press := true }) (clusterOf c.id)
    { handle := c.live.tself, addr := c.wsbase + BitVec.ofNat 64 c.shedHead, cause := 9, access := 4, elem := 0,
      word := h.word, pc := pcOf s, owner := .other }
  waitHere (modCpu p fun k => { k with hold := .wait, live := { k.live with holdAt := some h } })

/-- An instruction whose save finds no room: with the ring full the task is held there, and at a Woodshed page that fails
it takes SPILL with the failing address, with no other effect (R261, R262). -/
def NoRoom (i : Instr) (s0 s : State) (room : Saved) (h : HoldAt) : Prop :=
  (room = .full → exec i s0 = .next (heldFor s h)) ∧
  (∀ va, room = .fault va → exec i s0 = .next (takeTrap s 0x09 (BitVec.ofNat 64 va)))

/-- A record of n bytes fits the context cache of a core beside those that are resident (R259). -/
def FitsCache (c : Core) (n : Nat) : Prop :=
  let res := c.recs.filter fun r => r.spill.isNone
  res.length + 1 ≤ c.ctxlim ∧ (res.map recBytes).sum + n ≤ 131072

/-- The record of a core that an eviction takes first, sparing an incoming one: the suspended one that has waited longest,
else the ready one of the lowest effective class that became ready last (R259). -/
structure Victim (s : State) (c : Core) (incoming : Option Word) (r : Rec) : Prop where
  resident : r ∈ c.recs ∧ r.spill = none ∧ some r.ctx.tself ≠ incoming
  waiting : r.st ≠ .ready → ∀ q ∈ c.recs, q.spill = none → some q.ctx.tself ≠ incoming → q.st ≠ .ready → r.since ≤ q.since
  ready : r.st = .ready → ∀ q ∈ c.recs, q.spill = none → some q.ctx.tself ≠ incoming → q.st = .ready ∧
    let cls (x : Rec) : Nat := min 3 (x.ctx.cls + (s.clock - x.order) / 65536)
    cls r ≤ cls q ∧ (cls r = cls q → min (2 ^ 64 - 1) q.order ≤ min (2 ^ 64 - 1) r.order)

/-- The Woodshed ring of a core has no space for n bytes: neither between its head and its tail, nor, where the free space
wraps, in front of the tail (R260). -/
def RingFull (c : Core) (n : Nat) : Prop :=
  match c.shed with
  | [] => ringSize c < n
  | r :: _ => (r.off < c.shedHead → ringSize c - c.shedHead < n ∧ r.off < n) ∧
    (c.shedHead ≤ r.off → r.off - c.shedHead < n)

/-- What a spawn leaves that makes room in u and allocates handle h in t: the spawner's record is ready after its
instruction, and the child runs at once (R239, R240). -/
def spawned (s u t : State) (d a b : Reg) (h : Word) : State :=
  let o := reg s b
  let t := spawnerWith t d o h
  begin_ (modCpu (leaveCoreAt t (continuation t).ctx.pc) fun c => { c with recs := c.recs ++ [continuation t] }) (childCtx u (reg u a) o h)

/-- A spawn of a kind that finds its parameters good makes room for the spawner's record, allocates, and runs the child;
without room it is held, or takes SPILL before any effect. -/
def Spawns (i : Instr) (s0 s : State) (kind : Nat) (d a b : Reg) : Prop :=
  let need := recBytes (continuation (setG s d 0))
  let room := makeRoom (s.cpu.recs.length + 1) s s.cpu.id need
  (∀ u h t, room = .ok u → allocFut u kind = some (h, t) → exec i s0 = .next (spawned s u t d a b h)) ∧
  NoRoom i s0 s room { word := wordOf i, wait := .none, size := need, switches := false }

/-- A core whose task is saved at its wait: a cooperative pre-emption has acted, and the core passes the task over for
another ready context that may run (R244, R386). -/
def movesOn (s u : State) : State :=
  let u := if Cooperates s then requestDone u else u
  let other := u.cpu.recs.any fun r =>
    r.st = .ready && r.ctx.tself != s.cpu.live.tself && canGrant u u.cpu.id r.ctx.need
  modCpu u fun c => { c with passed := if other then some s.cpu.live.tself else none }

/-- An AWT member that waits: it goes on at once when its token is signalled, no other context is ready and no cooperative
pre-emption applies; else its context is saved with its live set, ready at once with a signalled token (R244, R386). -/
def Waits (i : Instr) (s0 s : State) (b : Reg) (kl : BitVec 7) (vs signalled : Bool) (wt : Wait) (steal : Bool) : Prop :=
  let lg := reg s b
  let r := coopRec s (retire s).cpu.live lg kl (liveState lg kl vs) (if signalled then .ready else .suspended) wt steal
  let stays := signalled = true ∧ othersReady s = false ∧ ¬Cooperates s
  (stays → exec i s0 = .next (finishWait (retire (applyLive (endHold s) lg kl vs)) wt)) ∧
  (¬stays →
    (∀ u, saveRec s r = .ok u → exec i s0 = .next (movesOn s u)) ∧
    NoRoom i s0 s (saveRec s r) { word := wordOf i, wait := wt, size := recBytes r, switches := true })

/-- An instruction of a task that is held for want of Woodshed space: nothing of it is tried again until there is room, and
then it is as newly issued; one whose wait has come about returns with its live set and its result (R261). -/
def HeldAgain (i : Instr) (s : State) (ret : Option (Wait → State)) : Prop :=
  Runs (taskAttr true) i s → reclaimable s = false → heldHere s = true → ∀ h, s.cpu.live.holdAt = some h →
    (holdMet s h.wait = false → holdRoom s h = false → exec i s = .next (waitHere s)) ∧
    (holdMet s h.wait = false → holdRoom s h = true → exec i s = exec i (endHold s)) ∧
    (holdMet s h.wait = true → ∀ f, ret = some f → exec i s = .next (f h.wait))

end Sys2Proof.Claims

/-- R239 to R241, R259 to R262: SPAWN, and SPAWNG with a gate that is open or not yet; which record an eviction takes, and
when the ring is full. A save that needs several evictions and meets a full ring after some of them makes none, which is
the model's choice (log 108). -/
def Obligations.SpawnEffects : Prop :=
  ∀ (s : State) (d a b c : Reg), reclaimable s = false → heldHere s = false →
    (Runs (taskAttr true) (.spawn d a b) s → MaySpawn s a b → Spawns (.spawn d a b) s s 0 d a b) ∧
    (Runs (taskAttr true) (.spawng d a b c) s → (reg s c).toNat % 8 = 0 → ∀ n s1 ws s2 ps s3,
      let i := Instr.spawng d a b c
      let u := invalidate s3 s3.cpu.id
      loadN s i (reg s c).toNat 8 = .ok n s1 → 1 ≤ n → n ≤ 4 →
      loadWords s1 i (((reg s c).toNat + 8) % 2 ^ 64) (2 * n) = .ok ws s2 → gatePairs s2 i ws = .ok ps s3 →
      MaySpawn u a b →
        (ps.all (·.2.2) = true → Spawns i s u 6 d a b) ∧
        (ps.all (·.2.2) = false → ∀ h t, allocFut u 6 = some (h, t) →
          exec i s = .next (retire { spawnerWith t d (reg u b) h with gates := t.gates ++
            [{ token := h, core := u.cpu.id, pairs := ps, child := childCtx u (reg u a) (reg u b) h }] }))) ∧
    ∀ (core n need : Nat) (inc : Option Word),
      let c := coreAt s core
      let room := makeRoomFor inc (n + 1) s core need
      (FitsCache c need → room = .ok s) ∧
      (∀ r, victim s c inc = some r → Victim s c inc r) ∧
      (victim s c inc = none → ∀ r ∈ c.recs, r.spill = none → some r.ctx.tself = inc) ∧
      (∀ r, evict s core r = .full ↔ RingFull c (cdiv (16 + (recImage r).length) 64 * 64)) ∧
      (¬FitsCache c need → ∀ r, victim s c inc = some r →
        (evict s core r = .full → room = .full) ∧ (∀ va, evict s core r = .fault va → room = .fault va) ∧
        (∀ u, evict s core r = .ok u → room = makeRoomFor inc n u core need))

/-- R249, R234, R235, R255: FINISH and FFAIL end the task and leave its core idle. The task's future settles with the value
and notes the core, whatever references the task holds, when none of the handles that its end drops names that future:
those on its held list, and those on the lists of the records and gates that the drops end in turn. -/
def Obligations.TaskEnd : Prop :=
  ∀ (s : State) (a : Reg) (failed : Bool) (v : Word),
    Leaves (taskAttr true) (.finish a) s (endTask s false (reg s a)) ∧
    Leaves (taskAttr true) (.ffail a) s (endTask s true (reg s a)) ∧
    (endTask s failed v).cpu.who = .idle ∧
    (let h := s.cpu.live.tself
     hDev h = s.devid → hGen h = (entryAt s h).gen → (entryAt s h).st = .pending →
      ∀ dropped, EndDrops s s.cpu.live.held dropped → (∀ x, dropped x → ¬SameFuture x h) →
      let f := entryAt (endTask s failed v) h
      f.st = (if failed then .failed else .resolved) ∧ f.result = v ∧ f.loc = some s.cpu.id)

/-- R228, R229, R235, R251, R346: the instructions on a held handle, of this device or of another; one that is not held
raises FUTURE with its value, and nothing is done. FREF past a limit raises HELDOVER or FUTURE; that FUTURE past the count
has the handle in `tval` is the model's choice (log 107). What is known of another
device's futures is log 20, and the slots that held lists take are log 10. -/
def Obligations.HandleInstructions : Prop :=
  ∀ (s : State) (d a b : Reg),
    let h := reg s a
    let f := entryAt s h
    let n := (reg s b).toNat
    let fits := s.cpu.live.held.length + n ≤ 256
    let counts := f.count + n < 2 ^ 32
    let blocks := moreBlocks s n = 0 ∨ slotsLeft s (moreBlocks s n - 1) = true
    (handleHeld s s.cpu.live h = true ↔ h ∈ s.cpu.live.held ∧ hDev h < s.ndev ∧ hKind h ≤ 6 ∧
      hSlot h < (if hDev h = s.devid then 2 ^ s.ftsize else 2 ^ (s.peerSizes.find (hDev h)).getD 24) ∧
      hGen h = f.gen ∧ f.st ≠ .free ∧ f.st ≠ .block ∧ hKind h = f.kind) ∧
    (handleHeld s s.cpu.live h = false →
      ∀ i ∈ [Instr.fref a b, .fdrop a, .fpoll d a, .ftake d a], Leaves (taskAttr false) i s (takeTrap s 0x08 h)) ∧
    (handleHeld s s.cpu.live h = true →
      (fits → counts → blocks → Leaves (taskAttr false) (.fref a b) s
        (retire (modLive (setEntry s h { f with count := f.count + n }) fun c =>
          { c with held := c.held ++ List.replicate n h }))) ∧
      (¬fits → Leaves (taskAttr false) (.fref a b) s (takeTrap s 0x10 h)) ∧
      (fits → ¬counts ∨ ¬blocks → Leaves (taskAttr false) (.fref a b) s (takeTrap s 0x08 h)) ∧
      Leaves (taskAttr false) (.fdrop a) s (retire (dropHeld s h)) ∧
      (settled s h = false → Leaves (taskAttr false) (.fpoll d a) s (retire (setG s d 0))) ∧
      (f.st = .resolved → Leaves (taskAttr false) (.fpoll d a) s (retire (setG (completionEdge s h) d 1))) ∧
      (f.st = .failed → Leaves (taskAttr false) (.fpoll d a) s (retire (setG (completionEdge s h) d 2))) ∧
      (settled s h = true → Leaves (taskAttr false) (.ftake d a) s (retire (takeFuture s h d 0))) ∧
      (settled s h = false → Leaves (taskAttr false) (.ftake d a) s
        (retire (modLive (setG s d 0) fun c => { c with tidx := 0x40 }))))

/-- R252 to R254: reclamation points and holds, and TSELF. At a point a doomed task ends once what it has queued is
complete. -/
def Obligations.ReclamationInstructions : Prop :=
  ∀ (s : State) (d : Reg),
    (reclaimable s = false → Leaves (taskAttr false) .rpoint s (advance s)) ∧
    (reclaimable s = true → s.cpu.live.viq = [] → Leaves (taskAttr false) .rpoint s (endTask s true 0)) ∧
    (reclaimable s = true → s.cpu.live.viq ≠ [] → Leaves (taskAttr false) .rpoint s (waitHere s)) ∧
    (s.cpu.live.depth < 255 → Leaves (taskAttr false) .rhold s
      (advance (modLive s fun c => { c with depth := c.depth + 1 }))) ∧
    (255 ≤ s.cpu.live.depth → Leaves (taskAttr false) .rhold s (takeTrap s 0x10 0)) ∧
    (s.cpu.live.depth ≠ 0 → Leaves (taskAttr false) .rrel s
      (advance (modLive s fun c => { c with depth := c.depth - 1 }))) ∧
    (s.cpu.live.depth = 0 → Leaves (taskAttr false) .rrel s (takeTrap s 0x08 0)) ∧
    Leaves (taskAttr false) (.tself d) s (advance (writeReg s d s.cpu.live.tself))

/-- R244 to R248, R261, R262, R285, R386: the waits, also where a cooperative pre-emption acts at one, and the instructions
that are held for want of Woodshed space or take SPILL. CWAIT reads its counter as a point of the counter's order; its result
is the value there, as R247 and R285 have it, where R244 has the counter read at the return (log 68), and so for one that was
held and has completed before a handler made its task ready. A task that a wait or a YIELD saves comes last in the next
selection, where another may run (log 119). -/
def Obligations.WaitInstructions : Prop :=
  ∀ (s : State) (d a b c : Reg) (kl : BitVec 7) (vs : Bool), reclaimable s = false →
    (∀ i ∈ [Instr.spawn d a b, .spawng d a b c, .yield b kl vs], HeldAgain i s none) ∧
    (∀ i ∈ [Instr.await d a b kl vs, .awaitany d a b kl vs, .cwait d a b kl vs],
      HeldAgain i s (some fun w => finishWait (retire (applyLive (endHold s) (reg s b) kl vs)) w)) ∧
    (∀ p v t, finishWait t (.counted p v d) = writeReg (invalidate t t.cpu.id) d v) ∧
    (heldHere s = false →
    (Runs (taskAttr true) (.await d a b kl vs) s → handleHeld s s.cpu.live (reg s a) = true →
      Waits (.await d a b kl vs) s s b kl vs (settled s (reg s a)) (.future (reg s a) d) false) ∧
    (Runs (taskAttr true) (.awaitany d a b kl vs) s → 1 ≤ (reg s d).toNat → (reg s d).toNat ≤ 16 →
      (reg s a).toNat % 8 = 0 → ∀ hs t,
      loadWords s (.awaitany d a b kl vs) (reg s a).toNat (reg s d).toNat = .ok hs t →
      (∀ h ∈ hs, handleHeld t t.cpu.live h = true) →
      Waits (.awaitany d a b kl vs) s t b kl vs (firstSettled t hs).isSome (.any hs d) false) ∧
    (Runs (taskAttr true) (.yield b kl vs) s →
      let i := Instr.yield b kl vs
      let r := coopRec s (retire s).cpu.live (reg s b) kl (liveState (reg s b) kl vs) .ready .none (!s.cpu.live.pin)
      (∀ u, saveRec s r = .ok u → exec i s = .next (movesOn s u)) ∧
      NoRoom i s s (saveRec s r) { word := wordOf i, wait := .none, size := recBytes r, switches := true }) ∧
    (Runs (taskAttr true) (.cwait d a b kl vs) s → ∀ p t, Reaches s .read (reg s a).toNat 8 p t →
      poisoned t (placePa p) 8 = false →
      let r := homeRead (settleL1 t p 8) p 8
      let u := atomicPoint r.2 p
      let v := match u.cpu.live.holdAt.map (·.wait) with
        | some (.counted _ x _) => x
        | _ => BitVec.ofNat 64 (ofBytes r.1)
      (reg s d ≤ v → Waits (.cwait d a b kl vs) s u b kl vs true (.counted p v d) false) ∧
      (¬ reg s d ≤ v → Waits (.cwait d a b kl vs) s u b kl vs false (.counter p (reg s d) d) false)))

namespace Sys2Proof.Claims

/-- A job is accepted: the task holds one more token h, of a new pending future of the kind, which d gets. For a job that
accesses memory the core's dirty lines have gone home; the token of another is no edge (R234, R235, R271, R320, R330). -/
def Accepts (s : State) (kind : Nat) (mem : Bool) (d : Reg) (h : Word) (t : State) : Prop :=
  s.cpu.live.held.length < 256 ∧ ∃ u, allocToken s kind = some (h, u) ∧
    t = setG (hold (if mem then writeBack u u.cpu.id else setEntry u h { entryAt u h with edge := false }) h) d h

/-- An instruction that passes through the VIQ leaves t when it begins. -/
def Begun (a : Attr) (lanes : Bool) (i : Instr) (s t : State) : Prop := Begins a lanes lanes s → exec i s = .next t

/-- A copy job past its checks: an empty one resolves at once, and else the job joins its cluster's queue (R330). -/
def queuedCopy (t : State) (i : Instr) (job : Copy) (h : Word) : State :=
  let t := unwait t
  if copyLen job = 0 then retire (settle t h false 0)
  else retire (modCluster t (clusterOf t.cpu.id) fun k =>
    { k with flue := k.flue ++ [{ copy := job, len := copyLen job, token := h, chunk := 0, active := false,
                                  env := envOf t i }] })

/-- A CPY member past its checks, with its descriptor: it waits for an entry in its turn and keeps the words that it read,
or it is accepted (R328 to R330). -/
def Offers (i : Instr) (s0 s : State) (d : Reg) (desc : List Word) (job : Copy) : Prop :=
  (flueFull s = true → s.cpu.live.held.length < 256 → tokenSlot s ≠ none →
    exec i s0 = .next (waitOffered (joinFlue s) desc)) ∧
  (flueFull s = false → ∀ h t, Accepts s 1 true d h t → exec i s0 = .next (queuedCopy t i job h))

/-- A CPY member whose parameters are read in s: ENGINE with the lowest code that holds, or its offer (R328 to R330). -/
def Copies (i : Instr) (s0 s : State) (d : Reg) (desc : List Word) (job : Copy) (reserved : Bool) : Prop :=
  let cs := copyCodes s.cpu.live.pin job reserved
  (∀ n, firstCode cs = some n → exec i s0 = .next (takeTrap s 0x0A (BitVec.ofNat 64 n))) ∧
  (firstCode cs = none → Offers i s0 s d desc job)

/-- A CPY member with a descriptor of n words: it reads them once, and one that waits goes on with what it read (R328,
R329). -/
def Described (i : Instr) (s : State) (d : Reg) (va n : Nat) (job : List Word → Copy) (reserved : List Word → Bool) : Prop :=
  Runs (engineAttr 3) i s →
    (∀ ws, offered s = some ws → Offers i s s d ws (job ws)) ∧
    (offered s = none → va % 32 ≠ 0 → exec i s = .next (takeTrap s 0x03 (BitVec.ofNat 64 va))) ∧
    (offered s = none → va % 32 = 0 → ∀ ws t, loadWords s i va n = .ok ws t → Copies i s t d ws (job ws) (reserved ws))

/-- A group as it is made, with nothing pending (R355). -/
def newGroup (s : State) (tag : Word) (ms : List Word) (r : Nat) : Machine.Group :=
  { tag := BitVec.ofNat 32 tag.toNat, members := ms.map memberOf, rank := r, tenant := s.cpu.live.tenant,
    failed := false, joined := false, bulk := [], urgent := [], core := s.cpu.id }

end Sys2Proof.Claims

/-- R345, R348, R349, R413: an RMT instruction sends its request, with a token for the reply; an address of no device
raises FABRIC and one that its size does not divide ALIGN, and a watchpoint sees LOCAL at this device (log 36), which
WATCH gives in `tval`, the model's choice (log 105). -/
def Obligations.RemoteRequests : Prop :=
  ∀ (s : State) (d a b : Reg) (sz : Size),
    let v := reg s a
    let good := v.toNat < 2 ^ 50 ∧ podDev v < s.ndev
    let whole := podLocal v % sizeBytes sz = 0
    let sends (i : Instr) (member : Fin 4) (rd wr : Bool) (data : Word) := Runs (engineAttr 1) i s →
      (¬good → exec i s = .next (takeTrap s 0x0B v)) ∧
      (good → ¬whole → exec i s = .next (takeTrap s 0x03 v)) ∧
      (good → whole → offered s = none → ∀ w, watchHit s (podLocal v) (sizeBytes sz) rd wr = some w →
        exec i s = .next (debugStop s 0x0E (BitVec.ofNat 64 (podLocal v)) w.val false true)) ∧
      (good → whole → offered s ≠ none ∨ watchHit s (podLocal v) (sizeBytes sz) rd wr = none →
        (64 ≤ remoteOut s s.cpu.id → s.cpu.live.held.length < 256 → tokenSlot s ≠ none →
          exec i s = .next (waitOffered s [])) ∧
        (remoteOut s s.cpu.id < 64 → ∀ h t, Accepts s 3 true d h t → exec i s = .next (retire { t with
          remotes := t.remotes ++
            [{ token := h, member := member, sz := sz, addr := v, data := data, env := envOf s i }] })))
    sends (.rld d a sz) 0 true false 0 ∧ sends (.rst d a b sz) 1 false true (reg s b) ∧
    sends (.radd d a b sz) 2 true true (reg s b) ∧ sends (.rswp d a b sz) 3 true true (reg s b)

/-- R328 to R336: the CPY members. -/
def Obligations.CopyRequests : Prop :=
  ∀ (s : State) (d a b c : Reg),
    let va := (reg s a).toNat
    (Runs (engineAttr 3) (.cpy1d d a b c) s →
      Copies (.cpy1d d a b c) s s d [] (.lin va (reg s b).toNat (reg s c).toNat) false) ∧
    (Runs (engineAttr 3) (.cpfill d a b c) s →
      Copies (.cpfill d a b c) s s d [] (.fill va (reg s b) (reg s c).toNat) false) ∧
    Described (.cpy2d d a) s d va 4 rowsJob (fun _ => false) ∧
    Described (.cpgath d a) s d va 6 gatherJob gatherReserved ∧
    Leaves { lend := .refuse, feat := some 3, drain := true } (.cpqry d) s
      (retire (setG s d (BitVec.ofNat 64 (64 - (clusterAt s (clusterOf s.cpu.id)).flue.length))))

/-- R302 to R305, R400: binding, releasing, clearing and asking for a bank. -/
def Obligations.BankInstructions : Prop :=
  ∀ (s : State) (d a b : Reg),
    let va := capture s false a
    let vb := capture s true b
    let n := bankOf va
    let cl := clusterOf s.cpu.id
    let bk := bankAt s cl n
    let t := s.cpu.live.tenant
    let set := rowSet (rangeRow vb) (rangeCount vb)
    badBank va = false →
      (badRange vb = false → bk.clearing = false → bk.jobs.any isRel = false →
        (bk.owner = some t ∨ (bk.owner = none ∧ bankCount s t < (s.tenants.get t).bankmax) →
          Begun mtxAttr false (.mxbind d a b) s
            (retire (setG (modCluster (modBank s cl n fun k => { k with owner := some t, rows := k.rows ||| set }) cl
              fun x => { x with kilnOff := false }) d 0))) ∧
        (∀ o, bk.owner = some o → o ≠ t → Begun mtxAttr false (.mxbind d a b) s (retire (setG s d 1))) ∧
        (bk.owner = none → (s.tenants.get t).bankmax ≤ bankCount s t →
          Begun mtxAttr false (.mxbind d a b) s (retire (setG s d 2)))) ∧
      (badRange vb = false → boundTo bk t = true → bk.rows &&& set = set →
        Begun mtxAttr false (.mxzero d a b) s
          (retire (accept (setG s d (BitVec.ofNat 64 (rangeCount vb))) n
            (.zero (rangeRow vb) (rangeCount vb) s.cpu.live.tself)))) ∧
      (boundTo bk t = true → Begun mtxAttr false (.mxrel a) s (retire (accept s n .rel))) ∧
      (boundTo bk t = false → Begun mtxAttr false (.mxrel a) s (retire s)) ∧
      Begun mtxAttr false (.mxqry d a) s (retire (setG s d (BitVec.ofNat 64 (bankStatus bk t))))

/-- R306 to R312, R320: loading a tile, multiplying a row, and waiting for a bank's jobs. That an MXSYNC with nothing of its
own to cover resolves at once also while an earlier MXSYNC is pending is the model's choice between two sentences of R320
(log 96). -/
def Obligations.BankJobs : Prop :=
  ∀ (s : State) (d a b c : Reg),
    let va := capture s false a
    let vb := capture s true b
    let n := bankOf va
    let me := s.cpu.live.tself
    let bound (u : State) := boundTo (bankAt u (clusterOf u.cpu.id) n) u.cpu.live.tenant = true
    badBank va = false →
      (vb.toNat % 32 = 0 → ∀ ws u h t, loadWords s (.mxload d a b) vb.toNat 4 = .ok ws u → badTile ws = false → bound u →
        Accepts u 2 true d h t → Begun mtxAttr false (.mxload d a b) s
          (let last := (ws.getD 3 0).toNat
           let v := modBank t (clusterOf t.cpu.id) n fun k => { k with latest := some (bits last 32 8) }
           retire (accept v n (.load (ws.getD 0 0).toNat (ws.getD 1 0).toNat (ws.getD 2 0).toNat (bits last 0 32)
             (bits last 32 8) (bits last 40 8) (bits last 48 16) h (envOf v (.mxload d a b)))))) ∧
      (bound s → ∀ h t, Accepts s 2 false d h t → (uncovered me (bankAt t (clusterOf t.cpu.id) n).jobs).1 = true →
        t.cpu.live.tself = me → Begun mtxAttr false (.mxsync d a) s (retire (accept t n (.sync h me)))) ∧
      (bound s → ∀ h t, Accepts s 2 false d h t → (uncovered me (bankAt t (clusterOf t.cpu.id) n).jobs).1 = false →
        (bankAt t (clusterOf t.cpu.id) n).failed = [] → t.cpu.live.tself = me →
        Begun mtxAttr false (.mxsync d a) s (retire (settle t h false 0))) ∧
      (∀ ty, (s.cpu.live.vec.regs.get c).tag = some ty → rowTag ty = true →
        s.cpu.live.vec.vl * tyBits ty ≤ grantBits s →
        firstCode (rowCodes s (bankAt s (clusterOf s.cpu.id) n) va vb c ty) = none →
        rowBuffers (bankAt s (clusterOf s.cpu.id) n) < 4 →
          Begun mtxAttr true (.mxrow a b c) s (retire (accept s n (rowJob s false vb c ty))) ∧
          Begun mtxAttr true (.mxrowz a b c) s (retire (accept s n (rowJob s true vb c ty))))

/-- R321, R322, R112, R114: MXRD reads accumulator words, once no job that writes its row stands before it; the tag that it
leaves is I32 when the bank's latest load was of class int, and else FP32. That with vl = 0 neither v[d] nor its tag changes
is the model's choice of R112 and R114 over R321, which sets the tag without a condition (log 97). -/
def Obligations.AccumulatorRead : Prop :=
  ∀ (s : State) (d a b : Reg),
    let va := capture s false a
    let vb := capture s true b
    let bk := bankAt s (clusterOf s.cpu.id) (bankOf va)
    let v := s.cpu.live.vec
    let r := rowField vb
    let n := min v.vl (256 - colField vb)
    badBank va = false → badRowWord vb = false → boundTo bk s.cpu.live.tenant = true → bk.rows.getLsbD r = true →
    v.vl * 32 ≤ grantBits s → bk.jobs.any (writesRow r) = false →
    (∀ i, i < n → bk.poisonAcc.getLsbD (256 * r + colField vb + i) = false) →
      (v.vl = 0 → Begun mtxAttr true (.mxrd d a b) s
        (retire (modLive s fun c => { c with vec := { c.vec with vbeg := 0 } }))) ∧
      (v.vl ≠ 0 → Begun mtxAttr true (.mxrd d a b) s
        (retire (modLive s fun c =>
          { c with vec := { c.vec with vbeg := 0, regs := c.vec.regs.set d (drainReg s bk r (colField vb)) } }))) ∧
      (drainReg s bk r (colField vb)).tag =
        some (match bk.latest with
          | some f => if fmtClass f = .int then .i32 else .fp32
          | none => .fp32) ∧
      (∀ i, i < v.vl → v.vl ≤ 512 → slot (drainReg s bk r (colField vb)).img i 32 =
        if colField vb + i < 256 then slot bk.acc (256 * r + colField vb + i) 32 else 0)

/-- R354 to R361, R367: groups are made, asked for and freed; barriers and collectives join their group's sequence. Before
the pending operations of a freed group fail, an abandoned collective completes the chunk that it is at. -/
def Obligations.GroupInstructions : Prop :=
  ∀ (s : State) (d a b : Reg),
    let p := (reg s b).toNat
    ((reg s a).toNat % 8 = 0 → 1 ≤ p → p ≤ 524288 → ∀ ws t,
      loadWords s (.fgrp d a b) (reg s a).toNat (p + 1) = .ok ws t →
      let tag := ws.headD 0
      let ms := ws.tail
      (∀ n r, groupRefusals t tag ms = [] → freeGroup t = some n → rankOf t (ms.map memberOf) = some r →
        Leaves fabAttr (.fgrp d a b) s
          (retire (setG { t with groups := Tab.put t.groups n (newGroup t tag ms r) } d
            (groupWord n (groupGenOf t n) r)))) ∧
      (groupRefusals t tag ms ≠ [] → ∃ c ∈ groupRefusals t tag ms,
        Leaves fabAttr (.fgrp d a b) s (retire (setG t d (BitVec.ofNat 64 (2 ^ 63 + c)))))) ∧
    ((reg s a).toNat % 8 = 0 → p = 0 ∨ 524288 < p →
      Leaves fabAttr (.fgrp d a b) s (retire (setG s d (BitVec.ofNat 64 (2 ^ 63 + 5))))) ∧
    (∀ n g, groupFor s (reg s a) = some (n, g) ↔ n = bits (reg s a).toNat 0 8 ∧ s.groups.find n = some g ∧
      g.tenant = s.cpu.live.tenant ∧ bits (reg s a).toNat 8 8 = groupGenOf s n) ∧
    (∀ n g, groupFor s (reg s a) = some (n, g) →
      Leaves fabAttr (.fgqry d a) s (retire (setG s d (BitVec.ofNat 64 (groupStatus g)))) ∧
      Leaves fabAttr (.fgfree a) s
        (let t := if g.bulk.isEmpty && g.urgent.isEmpty then s else failGroup (writeLate s g) n
         retire { t with groups := Tab.drop t.groups n,
                         groupGen := Tab.put t.groupGen n ((groupGenOf t n + 1) % 256) })) ∧
    (groupFor s (reg s a) = none →
      Leaves fabAttr (.fgqry d a) s (takeTrap s 0x0B 2) ∧ Leaves fabAttr (.fgfree a) s (takeTrap s 0x0B 2)) ∧
    (s.cpu.live.held.length < 256 → tokenSlot s ≠ none →
      (∀ n g h t, groupFor s (reg s a) = some (n, g) → bulkPending s < 64 → Accepts s 5 true d h t →
        Leaves fabAttr (.fbar d a) s (retire (joinGroup t (.fbar d a) n false none h))) ∧
      (∀ ws, offered s = some ws → ∀ n g h t, groupFor s (ws.getD 2 0) = some (n, g) →
        (if collFlags ws = 1 then urgentPending s < 16 else bulkPending s < 64) → Accepts s 4 true d h t →
        Leaves fabAttr (.fcoll d a) s
          (retire (joinGroup t (.fcoll d a) n (collFlags ws = 1) (some (collOf ws)) h))) ∧
      (offered s = none → (reg s a).toNat % 64 = 0 → ∀ ws u, loadWords s (.fcoll d a) (reg s a).toNat 8 = .ok ws u →
        ∀ n g h t, groupFor u (ws.getD 2 0) = some (n, g) → badColl ws g.members.length = false →
        badBuffers (collOf ws) g.members.length = false →
        (if collFlags ws = 1 then urgentPending u < 16 else bulkPending u < 64) → Accepts u 4 true d h t →
        Leaves fabAttr (.fcoll d a) s
          (retire (joinGroup t (.fcoll d a) n (collFlags ws = 1) (some (collOf ws)) h))))

namespace Sys2Proof.Claims

/-- The stores that the executing instruction has held back, and the state in which it holds back none (R275). -/
def heldBack (s : State) : List HeldStore := (s.cpu.lane.map (·.stores)).getD []
def noneHeld (s : State) : State :=
  modCpu s fun c => { c with lane := c.lane.map fun e => { e with stores := [] } }

/-- The lane groups of a grant for n elements of w bits: a power of two, within the groups that would hold them and
within each bound of R104, but never none; and the largest such. FreeShared counts the shared groups, unmarked, that the
core holds or that no other core does (R103, R104). -/
structure Granted (s : State) (n w g : Nat) : Prop where
  power : g ∈ [1, 2, 4, 8]
  largest : ∀ m ∈ [1, 2, 4, 8], m ≤ g ↔ m = 1 ∨
    (m ≤ (n * w + 2047) / 2048 ∧ m ≤ (s.tenants.get s.cpu.live.tenant).lanemax ∧
      m ≤ (clusterAt s (clusterOf s.cpu.id)).ent ∧ m ≤ s.cpu.live.cap ∧
      m ≤ 1 + ((List.range 8).filter fun j =>
        let c := clusterAt s (clusterOf s.cpu.id)
        let holds (i : Nat) : Bool := (c.grants.get (Fin.ofNat 8 i)).getLsbD j
        j != s.cpu.id % 8 && !c.marks.getLsbD j &&
          (holds (s.cpu.id % 8) || (List.range 8).all fun i => i == s.cpu.id % 8 || !holds i)).length)

/-- The sum of two elements under VADD (R126, R161, R165). -/
def plus (t : Ty) (x y : Nat) : Elt :=
  if tyInt t then ((x + y) % 2 ^ tyBits t, 0)
  else
    let e := fpAdd .rne (tyVal t x) (tyVal t y)
    let r := roundTo (fmtOf t) .rne false e.1
    (r.1, e.2 ||| r.2)

/-- The vector state image of R127, byte by byte. -/
structure SavedImage (s : State) (b : List Byte) : Prop where
  size : b.length = 1856 + 32 * (grantBits s / 8)
  head : b.take 32 =
    toBytes 8 s.cpu.live.vec.vl ++ toBytes 8 s.cpu.live.vec.vbeg ++ toBytes 8 s.cpu.live.vec.vred.toNat ++
    toBytes 4 s.cpu.live.vec.efr.toNat ++ toBytes 1 s.cpu.live.vec.wc.val ++ toBytes 1 (groupCount s s.cpu.id) ++
    [0x01, 0x00]
  tags : ∀ n : Fin 32, (b.drop (32 + n.val)).take 1 = toBytes 1 (tagNum (s.cpu.live.vec.regs.get n).tag)
  masks : ∀ m : Fin 7, (b.drop (64 + 256 * m.val)).take 256 = toBytes 256 (s.cpu.live.vec.masks.get m).toNat
  images : ∀ n : Fin 32, (b.drop (1856 + grantBits s / 8 * n.val)).take (grantBits s / 8) =
    toBytes (grantBits s / 8) (s.cpu.live.vec.regs.get n).img.toNat

/-- The vector state that VRESTORE sets from an image, all but `vq` (R128). -/
structure RestoredFrom (s : State) (b : List Byte) (v : VecState) : Prop where
  numbers : v.vl = at_ b 0 8 ∧ v.vbeg = at_ b 8 8 ∧ v.vred.toNat = at_ b 16 8 ∧ v.efr.toNat = at_ b 24 4 ∧
    v.wc.val = at_ b 28 1 % 4
  tags : ∀ n : Fin 32, at_ b (32 + n.val) 1 ≤ 16 → tagNum (v.regs.get n).tag = at_ b (32 + n.val) 1
  masks : ∀ m : Fin 7, (v.masks.get m).toNat = at_ b (64 + 256 * m.val) 256
  images : ∀ n : Fin 32, (v.regs.get n).img.toNat = at_ b (1856 + grantBits s / 8 * n.val) (grantBits s / 8)
  queue : v.vq = s.cpu.live.vec.vq

/-- The elements of each width fit the grant, so that VLEN is not raised (R111, R162). -/
def Fits (s : State) (ws : List Nat) : Prop := ∀ w ∈ ws, s.cpu.live.vec.vl * w ≤ grantBits s

/-- A binary member whose operands have tags it accepts: its active elements are f of theirs (R158, R165). -/
def Binary (i : Instr) (s : State) (form : VForm) (d a b : Reg) (k : KReg) (ok : Ty → Bool)
    (f : Pair → Nat → Nat → Elt) : Prop :=
  ∀ p, pairOf s form a b ok = some p → Fits s (tyBits p.ty :: readWidths form p.ta p.tb) →
    Begun (vecAttr .copyV) true i s (writeElems s d p.ty (active s k) fun j => f p (p.x j) (p.y j))

/-- An instruction that writes register r, as its destination d or through the copy that its prefix asks for (R55). -/
def Overwrites (s : State) (d r : Reg) : Prop :=
  d = r ∨ ((prefixOf s).v = true ∧ (prefixOf s).pc = true ∧ (prefixOf s).pd = r)

/-- num / den rounded to an integer, the magnitude of a value of the given sign (R81). -/
def toInteger (dir : Dir) (neg : Bool) (num den : Nat) : Nat :=
  let q := num / den
  let r := num % den
  let up : Bool := match dir with
    | .rne => den < 2 * r || (2 * r = den && q % 2 = 1)
    | .rna => den ≤ 2 * r
    | .rtz => false
    | .rdn => neg && r != 0
    | .rup => !neg && r != 0
  if up then q + 1 else q

/-- The value that a sign and a magnitude give. -/
def signedInt (neg : Bool) (m : Nat) : Int := if neg then -(m : Int) else m

/-- What a finite value beyond a target's range gives, as R88 and R149 have it for each format: infinity or the largest
finite value, as the direction says; NaN in the place of infinity for E4M3, and 6 for E2M1; and under VCVTS the largest
finite value of the 8-bit formats. -/
def pastRange (t : Ty) (dir : Dir) (sat neg : Bool) : Nat :=
  let away : Bool := match dir with
    | .rne | .rna => true
    | .rtz => false
    | .rdn => neg
    | .rup => !neg
  let sign (m : Nat) := if neg then m + 2 ^ (tyBits t - 1) else m
  match t with
  | .fp64 => sign (if away then 0x7FF0000000000000 else 0x7FEFFFFFFFFFFFFF)
  | .fp32 => sign (if away then 0x7F800000 else 0x7F7FFFFF)
  | .fp16 => sign (if away then 0x7C00 else 0x7BFF)
  | .bf16 => sign (if away then 0x7F80 else 0x7F7F)
  | .e5m2 => sign (if away && !sat then 0x7C else 0x7B)
  | .e4m3 => if away && !sat then 0x7F else sign 0x7E
  | _ => sign 7

/-- A value converted to a floating-point target: a NaN and an infinity as R150 gives them; a finite value rounded once,
and one beyond the range as R149 gives it. -/
def ToFloat (sat : Bool) (dir : Dir) (t : Ty) (x : FpVal) (y : Elt) : Prop :=
  (∀ sg, x = .nan sg → y = match t with
    | .fp64 => (0x7FF8000000000000, if sg then flagNV else 0)
    | .fp32 => (0x7FC00000, if sg then flagNV else 0)
    | .fp16 => (0x7E00, if sg then flagNV else 0)
    | .bf16 => (0x7FC0, if sg then flagNV else 0)
    | .e5m2 => (0x7E, if sg then flagNV else 0)
    | .e4m3 => (0x7F, if sg then flagNV else 0)
    | _ => (0, flagNV)) ∧
  (∀ neg, x = .inf neg →
    let sign (m : Nat) := if neg then m + 2 ^ (tyBits t - 1) else m
    y = match t with
    | .fp64 => (sign 0x7FF0000000000000, 0)
    | .fp32 => (sign 0x7F800000, 0)
    | .fp16 => (sign 0x7C00, 0)
    | .bf16 => (sign 0x7F80, 0)
    | .e5m2 => (sign 0x7C, 0)
    | .e4m3 => (if sat then sign 0x7E else 0x7F, flagNV)
    | _ => (sign 7, flagNV)) ∧
  (∀ neg num den, x = .fin neg num den → y = roundTo (fmtOf t) dir sat x ∧
    (y.2 &&& flagOF ≠ 0 → y = (pastRange t dir sat neg, flagOF ||| flagNX)))

/-- A value converted to an integer target: a NaN gives 0, and a value beyond the range its nearer end, both invalid
(R87, R149, R150). -/
def ToInteger (dir : Dir) (t : Ty) (x : FpVal) (y : Elt) : Prop :=
  let bits (v : Int) := trunc (tyBits t) v
  (∀ sg, x = .nan sg → y = (0, flagNV)) ∧
  (∀ neg, x = .inf neg → y = (bits (if neg then tyMin t else tyMax t), flagNV)) ∧
  (∀ neg num den, x = .fin neg num den →
    let v := signedInt neg (toInteger dir neg num den)
    y = if tyMin t ≤ v ∧ v ≤ tyMax t then (bits v, if num % den = 0 then 0 else flagNX)
      else (bits (if neg then tyMin t else tyMax t), flagNV))

/-- What VCVT and, with sat, VCVTS give of one element (R149, R150). -/
def Converts (sat : Bool) (dir : Dir) (src t : Ty) (x : Nat) (y : Elt) : Prop :=
  (tyInt src = true → tyInt t = true →
    y = (trunc (tyBits t) (if sat then max (tyMin t) (min (tyMax t) (tyIntVal src x)) else tyIntVal src x), 0)) ∧
  (tyInt src = true → tyInt t = false →
    ToFloat sat dir t (.fin (decide (tyIntVal src x < 0)) (tyIntVal src x).natAbs 1) y) ∧
  (tyInt src = false → tyInt t = true → ToInteger dir t (tyVal src x) y) ∧
  (tyInt src = false → tyInt t = false → ToFloat sat dir t (tyVal src x) y)

/-- One element of an error-feedback conversion: its result, and the residual after it (R151). -/
def Feeds (sat : Bool) (t : Ty) (x : FpVal) (efr : Nat) (y : Elt) (next : Nat) : Prop :=
  let e := fpVal fmt32 efr
  (notFinite x = true → ToFloat sat .rne t x y ∧ next = 0) ∧
  (notFinite x = false → notFinite e = true → ToFloat sat .rne t e y ∧ next = 0) ∧
  (notFinite x = false → notFinite e = false →
    let sum := (fpAdd .rne x e).1
    let v := fpVal (fmtOf t) y.1
    ToFloat sat .rne t sum y ∧
    next = if notFinite v then 0 else (roundTo fmt32 .rne false (fpAdd .rne sum (fpNeg v)).1).1)

/-- The elements from `vbeg` up to n of an error-feedback conversion, in ascending order: each active one feeds its
residual to the next, and a masked-off one leaves it as it was (R151). -/
structure FeedsOn (s : State) (sat : Bool) (t : Ty) (k : KReg) (x : Nat → FpVal) (n : Nat) (y : Nat → Elt)
    (efr : Nat → Nat) : Prop where
  first : efr s.cpu.live.vec.vbeg = s.cpu.live.vec.efr.toNat
  taken : ∀ j, s.cpu.live.vec.vbeg ≤ j → j < n → active s k j = true → Feeds sat t (x j) (efr j) (y j) (efr (j + 1))
  skipped : ∀ j, s.cpu.live.vec.vbeg ≤ j → j < n → active s k j = false → efr (j + 1) = efr j

/-- The value of an element in a block: I8 is MXINT8, an integer × 2^-6 (R139, R315). -/
def blockElem (t : Ty) (v : Nat) : FpVal :=
  if t = .i8 then .fin (decide (sgn 8 v < 0)) (sgn 8 v).natAbs 64 else tyVal t v

/-- A value × 2^n. -/
def timesPow (n : Int) : FpVal → FpVal
  | .fin neg num den => .fin neg (num * 2 ^ n.toNat) (den * 2 ^ (-n).toNat)
  | v => v

/-- Every value of a block lies within the target's largest finite one × 2^n (R153). -/
def Within (t : Ty) (xs : List FpVal) (n : Int) : Prop :=
  let q : Nat × Nat := match t with
    | .e4m3 => (448, 1)
    | .e5m2 => (57344, 1)
    | .e2m1 => (6, 1)
    | _ => (127, 64)
  ∀ neg num den, .fin neg num den ∈ xs → num * q.2 * 2 ^ (-n).toNat ≤ q.1 * 2 ^ n.toNat * den

/-- One packed block of values: its scale code, and its elements with their exceptions (R153). -/
def Packs (t : Ty) (dir : Dir) (xs : List FpVal) (scale : Nat) (y : Nat → Elt) : Prop :=
  (xs.any notFinite = true → scale = 255 ∧ ∀ j < xs.length, y j = (0, flagNV)) ∧
  (xs.any notFinite = false → ∃ e : Int, (scale : Int) = e + 127 ∧
    ((∀ x ∈ xs, ∃ neg den, x = .fin neg 0 den) → e = -127) ∧
    ((∃ x ∈ xs, ∀ neg den, x ≠ .fin neg 0 den) →
      -127 ≤ e ∧ Within t xs e ∧ (-127 < e → ∀ n, Within t xs n → e ≤ n)) ∧
    ∀ j, ∀ neg num den, xs[j]? = some (.fin neg num den) →
      (t ≠ .i8 → y j = roundTo (fmtOf t) dir false (timesPow (-e) (.fin neg num den))) ∧
      (t = .i8 →
        let top := num * 2 ^ (6 - e).toNat
        let low := den * 2 ^ (e - 6).toNat
        y j = (trunc 8 (signedInt neg (toInteger dir neg top low)), if top % low = 0 then 0 else flagNX)))

/-- One unpacked element, under the scale code of its block (R155). -/
def Unpacks (src t : Ty) (dir : Dir) (x scale : Nat) (y : Elt) : Prop :=
  (scale = 255 → y = (defaultNaN (fmtOf t), 0)) ∧
  (scale ≠ 255 → ToFloat false dir t (timesPow ((scale : Int) - 127) (blockElem src x)) y)

/-- A result of two integers of an element type, truncated to its width (R165). -/
def ofInts (f : Ty → Int → Int → Int) (p : Pair) (x y : Nat) : Elt :=
  (trunc (tyBits p.ty) (f p.ty (tyIntVal p.ty x) (tyIntVal p.ty y)), 0)

/-- A result of two values, rounded once to the result's type under RNE, with its exceptions (R161, R167). -/
def ofReals (f : FpVal → FpVal → FpVal × Flags) (p : Pair) (x y : Nat) : Elt :=
  let e := f (tyVal p.ta x) (tyVal p.tb y)
  ((roundTo (fmtOf p.ty) .rne false e.1).1, e.2 ||| (roundTo (fmtOf p.ty) .rne false e.1).2)

/-- A member of integer and floating-point tags (R165). -/
def ofEither (fi : Int → Int → Int) (ff : FpVal → FpVal → FpVal × Flags) (p : Pair) (x y : Nat) : Elt :=
  if tyInt p.ty then ofInts (fun _ => fi) p x y else ofReals ff p x y

/-- A member on the bits of two integer elements (R165). -/
def ofBits (f : Nat → Nat → Nat → Nat) (p : Pair) (x y : Nat) : Elt :=
  (f (tyBits p.ty) x y % 2 ^ tyBits p.ty, 0)

/-- A unary member whose operand has a tag it accepts (R164, R165). -/
def Unary (i : Instr) (s : State) (d a : Reg) (k : KReg) (ok : Ty → Bool) (f : Ty → Nat → Elt) : Prop :=
  ∀ t, (vreg s a).tag = some t → ok t = true → Fits s [tyBits t] →
    Begun (vecAttr .copyV) true i s (writeElems s d t (active s k) fun j => f t (slot (vreg s a).img j (tyBits t)))

/-- The addend and the products of an FMA member (R168, R169). -/
def Fused (i : Instr) (s : State) (form : VForm) (d a b : Reg) (k : KReg) (negP negZ : Bool) : Prop :=
  ∀ p td, (vreg s d).tag = some td → pairOf s form a b tyArith = some p → fmaTags p.ty td = true →
    Fits s (tyBits td :: readWidths form p.ta p.tb) →
    Begun (vecAttr .copyV) true i s (writeElems s d td (active s k) fun j =>
      fmaElt negP negZ td p (p.x j) (p.y j) (slot (vreg s d).img j (tyBits td)))

end Sys2Proof.Claims

/-- R55, R112, R114, R129, R145, R160, R275: a vector result, element by element, and the copy of it that a prefix with
pc = 1 asks for. The stores that the instruction has held back are performed after it, and change what stores change. -/
def Obligations.VectorDestination : Prop :=
  ∀ (s : State) (d : Reg) (t : Ty) (act : Nat → Bool) (f : Nat → Elt),
    writeElems s d t act f = performHeld (writeElems (noneHeld s) d t act f) (heldBack s) ∧
    let u := writeElems (noneHeld s) d t act f
    let vl := s.cpu.live.vec.vl
    let w := tyBits t
    let copied (r : Reg) : Prop := (prefixOf s).v = true ∧ (prefixOf s).pc = true ∧ r = (prefixOf s).pd
    u.cpu.live.vec.vbeg = 0 ∧ u.cpu.live.vec.vl = vl ∧ u.cpu.live.vec.masks = s.cpu.live.vec.masks ∧
    u.cpu.live.vec.vq = s.cpu.live.vec.vq ∧ u.cpu.live.g = s.cpu.live.g ∧ u.mem = s.mem ∧ u.futs = s.futs ∧
    (∀ r, r ≠ d → ¬copied r → vreg u r = vreg s r) ∧
    (vl = 0 → (∀ r, vreg u r = vreg s r) ∧ u.cpu.live.fst = s.cpu.live.fst) ∧
    (vl ≠ 0 → ∀ r, copied r → vreg u r = vreg u d) ∧
    (vl ≠ 0 → vl * w ≤ 16384 → (vreg u d).tag = some t ∧
      (∀ i, i < vl → slot (vreg u d).img i w = if act i then (f i).1 % 2 ^ w else slot (vreg s d).img i w) ∧
      (∀ i, vl * w ≤ i → (vreg u d).img.getLsbD i = false) ∧
      (∀ j, u.cpu.live.fst.getLsbD j =
        (s.cpu.live.fst.getLsbD j || (List.range vl).any fun i => act i && (f i).2.getLsbD j)))

/-- R102 to R105, R118 to R124, R261, R262, R386: setting the vector length with its grant, waiting for a strip, and asking
for a length. A wait saves the task in full, and a cooperative pre-emption of it has acted then; it is held while the ring
is full, and takes SPILL at a Woodshed page that fails; one that is held re-reads its counter at its home. -/
def Obligations.VectorLength : Prop :=
  ∀ (s : State) (d a b : Reg) (wc : Fin 4), reclaimable s = false →
    (heldHere s = true → Runs (lengthAttr true) (.vsetlw d a b wc) s → discarded s = false → ∀ h p n,
      s.cpu.live.holdAt = some h → h.wait = .strip p n → poisoned s (placePa p) 8 = false →
      let r := homeRead (settleL1 s p 8) p 8
      let q := atomicPoint r.2 p
      let t := setLength q (reg q a).toNat wc
      let thr := (reg q d).toNat + t.cpu.live.vec.vl
      (thr ≤ ofBytes r.1 → exec (.vsetlw d a b wc) s = .next
        (retire (result (invalidate (endHold t) t.cpu.id) d (BitVec.ofNat 64 t.cpu.live.vec.vl)))) ∧
      (ofBytes r.1 < thr → holdRoom q h = false → exec (.vsetlw d a b wc) s = .next (waitHere q))) ∧
    (heldHere s = false →
    (Runs (lengthAttr true) (.vsetl d a wc) s → exec (.vsetl d a wc) s = .next (does s
      (let t := setLength s (reg s a).toNat wc
       retire (result t d (BitVec.ofNat 64 t.cpu.live.vec.vl))))) ∧
    (Runs (lengthAttr true) (.vsetlw d a b wc) s → discarded s = false → ∀ p u,
      Reaches s .read (reg s b).toNat 8 p u → poisoned u (placePa p) 8 = false →
      let i := Instr.vsetlw d a b wc
      let r := homeRead (settleL1 u p 8) p 8
      let q := atomicPoint r.2 p
      let t := setLength q (reg q a).toNat wc
      let thr := (reg q d).toNat + t.cpu.live.vec.vl
      let saved := forcedRec t { t.cpu.live with stepDue := false } .suspended (.strip p thr) false true
      (thr ≤ ofBytes r.1 → exec i s = .next
        (retire (result (invalidate (endHold t) t.cpu.id) d (BitVec.ofNat 64 t.cpu.live.vec.vl)))) ∧
      (ofBytes r.1 < thr →
        (∀ v, saveRec t saved = .ok v → exec i s = .next (if Cooperates q then requestDone v else v)) ∧
        NoRoom i s q (saveRec t saved)
          { word := wordOf i, wait := .strip p thr, size := recBytes saved, switches := true }))) ∧
    Begun (lengthAttr false) false (.vmaxq d wc) s
      (retire (result s d (BitVec.ofNat 64 (2048 * bridle s 2048 (8 * 2 ^ wc.val) / (8 * 2 ^ wc.val))))) ∧
    (let n := (reg s a).toNat
     let w := 8 * 2 ^ wc.val
     let t := setLength s n wc
     Granted s n w (bridle s n w) ∧ groupCount t t.cpu.id = bridle s n w ∧
     (gmap t t.cpu.id).getLsbD (s.cpu.id % 8) = true ∧
     t.cpu.live.vec.vl = min n (2048 * bridle s n w / w) ∧ t.cpu.live.vec.vbeg = 0 ∧ t.cpu.live.vec.wc = wc ∧
     ∀ r : Reg, (vreg t r).tag = (vreg s r).tag ∧
       ∀ i, (vreg t r).img.getLsbD i = ((vreg s r).img.getLsbD i && decide (i < grantBits t)))

/-- R125 to R128: tags, clearing, folding in ascending order of the elements, and the vector state saved and restored, with
the layout of its image and the headers that VRESTORE refuses. -/
def Obligations.VectorStateInstructions : Prop :=
  ∀ (s : State) (d a : Reg) (tag : Tag),
    let plain := vecAttr .predicate false
    let base := capture s false a
    let l := base.toNat
    let vl := s.cpu.live.vec.vl
    Begun plain true (.vtag d tag) s
      (retireV (modVec s fun v => { v with regs := v.regs.set d { v.regs.get d with tag := tag } })) ∧
    Begun plain true (.vclr d) s (retireV (modVec s fun v => { v with regs := v.regs.set d { tag := none, img := 0 } })) ∧
    (∀ t, (vreg s d).tag = some t → tyArith t = true → 1 ≤ l → Fits s [tyBits t] →
      (vl ≤ l → Begun plain true (.vfold d a) s (retireV s)) ∧
      (l < vl → Begun plain true (.vfold d a) s
        (let x (j : Nat) := slot (vreg s d).img j (tyBits t)
         let es := (List.range l).map fun i =>
           ((List.range vl).filter fun j => i < j && (j - i) % l == 0).foldl
             (fun (sum : Elt) j => let r := plus t sum.1 (x j); (r.1, sum.2 ||| r.2)) (x i, 0)
         retireV (modVec (accrue s (allFlags es)) fun v =>
           { v with regs := v.regs.set d { tag := some t, img := imgOf (tyBits t) (es.map (·.1)) } })))) ∧
    SavedImage s (vsaveImage s) ∧
    (base.toNat % 64 = 0 → ∀ ps t, probeAll s .write (rangeUnits base 0 (vsaveImage s).length) = (ps, t) →
      firstFail ps = none → Begun { storeAttr with hasK := false, drain := true } true (.vsave a) s
        (retireV (storeUnits t false
          (fun u => ((vsaveImage s).drop ((BitVec.ofNat 64 u.va - base).toNat)).take 64) ps))) ∧
    (∀ h, badImage s h = true ↔ at_ h 30 1 ≠ 1 ∨ at_ h 29 1 ≠ groupCount s s.cpu.id ∨ (∃ n < 32, 16 < at_ h (32 + n) 1) ∨
      grantBits s / (8 * 2 ^ (at_ h 28 1 % 4)) < at_ h 0 8 ∨ 2047 < at_ h 8 8) ∧
    (∀ b, restoreImage s b = modVec s (fun _ => (restoreImage s b).cpu.live.vec) ∧
      RestoredFrom s b (restoreImage s b).cpu.live.vec) ∧
    (base.toNat % 64 = 0 → ∀ ps got t hs u qs more v bs x,
      probeFrom s [] .read (rangeUnits base 0 64) = (ps, got, t) → firstFail ps = none →
      loadUnits t false ps = (some hs, u) → badImage u (hs.map (·.2)).flatten = false →
      probeFrom u got .read (rangeUnits base 64 (1792 + 32 * imageBytes u)) = (qs, more, v) → firstFail qs = none →
      loadUnits v false qs = (some bs, x) → Begun plain true (.vrestore a) s
        (retire (restoreImage x ((hs.map (·.2)).flatten ++ (bs.map (·.2)).flatten))))

/-- R164 to R167: the binary members of VARITH. -/
def Obligations.VectorArithmetic : Prop :=
  ∀ (s : State) (form : VForm) (d a b : Reg) (k : KReg),
    let bin (i : Instr) := Binary i s form d a b k
    bin (.vadd form d a b k) tyArith (ofEither (fun x y => x + y) (fpAdd .rne)) ∧
    bin (.vsub form d a b k) tyArith (ofEither (fun x y => x - y) fun x y => fpAdd .rne x (fpNeg y)) ∧
    bin (.vrsub form d a b k) tyArith (ofEither (fun x y => y - x) fun x y => fpAdd .rne y (fpNeg x)) ∧
    bin (.vmul form d a b k) tyArith (ofEither (fun x y => x * y) fpMul) ∧
    bin (.vmulh form d a b k) tyInt (ofInts fun t x y => x * y / (2 ^ tyBits t : Nat)) ∧
    bin (.vmin form d a b k) tyArith (ofEither min (fpMinMax false)) ∧
    bin (.vmax form d a b k) tyArith (ofEither max (fpMinMax true)) ∧
    bin (.vdiv form d a b k) tyArith (ofEither (fun x y => if y = 0 then -1 else x.tdiv y) fpDiv) ∧
    bin (.vrem form d a b k) tyInt (ofInts fun _ x y => if y = 0 then x else x.tmod y) ∧
    bin (.vand form d a b k) tyInt (ofBits fun _ x y => x &&& y) ∧
    bin (.vor form d a b k) tyInt (ofBits fun _ x y => x ||| y) ∧
    bin (.vxor form d a b k) tyInt (ofBits fun _ x y => x ^^^ y) ∧
    bin (.vshl form d a b k) tyInt (ofBits fun n x y => x <<< (y % n)) ∧
    bin (.vshr form d a b k) tyInt (ofBits fun n x y => x >>> (y % n)) ∧
    bin (.vsha form d a b k) tyInt (ofBits fun n x y => trunc n (sgn n x / (2 ^ (y % n) : Nat))) ∧
    bin (.vsadd form d a b k) tyInt (ofInts fun t x y => clamp (tyMin t) (tyMax t) (x + y)) ∧
    bin (.vssub form d a b k) tyInt (ofInts fun t x y => clamp (tyMin t) (tyMax t) (x - y)) ∧
    bin (.vavg form d a b k) tyInt (ofInts fun _ x y => (x + y + 1) / 2)

/-- R164 to R169: the unary members of VARITH, and VFMA. -/
def Obligations.VectorUnaryAndFused : Prop :=
  ∀ (s : State) (form : VForm) (d a b : Reg) (k : KReg),
    let un (i : Instr) := Unary i s d a k
    let rounded (g : FpVal → FpVal × Flags) (t : Ty) (x : Nat) : Elt := roundElt t (g (tyVal t x))
    let either (fi : Int → Int) (ff : FpVal → FpVal × Flags) (t : Ty) (x : Nat) : Elt :=
      if tyInt t then (trunc (tyBits t) (fi (tyIntVal t x)), 0) else rounded ff t x
    un (.vabs d a k) tyArith (either (fun x => (x.natAbs : Int)) fun x => (fpAbs x, snan x)) ∧
    un (.vneg d a k) tyArith (either (fun x => -x) fun x => (fpNeg x, snan x)) ∧
    un (.vsqrt d a k) tyFp (rounded fpSqrt) ∧
    un (.vexp2 d a k) (fun t => t = .fp32 || t = .fp16 || t = .bf16) (fun t x => fpExp2 (fmtOf t) x) ∧
    Fused (.vfma form d a b k) s form d a b k false false ∧
    Fused (.vfms form d a b k) s form d a b k false true ∧
    Fused (.vfnma form d a b k) s form d a b k true false ∧
    Fused (.vfnms form d a b k) s form d a b k true true

/-- R55, R81, R88, R129, R136, R145 to R155: the conversions, with error feedback, and packing and unpacking. A forced save
may stop an error-feedback conversion at an element n: the elements below it are written, with the copy of a prefix, and
their flags set, `efr` holds the residual, `vbeg` is n and the instruction stays where it is (log 30). One that writes its
source runs to its end instead, as R152 has it for the destination; that the copy of a prefix counts too is the model's
reading (log 91). The sign of an exact zero that R151 adds or subtracts is +0, the model's choice (log 94). -/
def Obligations.VectorConversions : Prop :=
  ∀ (s : State) (d a : Reg) (t src : Ty) (k : KReg) (rm : RM), (vreg s a).tag = some src → Fits s [tyBits t, tyBits src] →
    let x (j : Nat) : Nat := slot (vreg s a).img j (tyBits src)
    let v := s.cpu.live.vec
    let dir := dirOf rm s.cpu.live.fst
    let plain (i : Instr) (sat : Bool) := rm ≠ .ef → cvtOk src t = true →
      ∃ y : Nat → Elt, (∀ j < v.vl, Converts sat dir src t (x j) (y j)) ∧
        Begun (vecAttr .copyV) true i s (writeElems s d t (active s k) y)
    let feedback (i : Instr) (sat : Bool) := rm = .ef → efOk src t = true →
      ∃ (y : Nat → Elt) (efr : Nat → Nat), FeedsOn s sat t k (fun j => tyVal src (x j)) v.vl y efr ∧
      (Overwrites s d a ∨ cutAt s 1 = none → Begun (vecAttr .copyV) true i s
        (writeElems (modVec s fun u => { u with efr := BitVec.ofNat 32 (efr (max v.vbeg v.vl)) }) d t
          (fun j => v.vbeg ≤ j && active s k j) y)) ∧
      (¬Overwrites s d a → ∀ n, cutAt s 1 = some n →
        let done := fun j => v.vbeg ≤ j && j < n && active s k j
        let p := prefixOf s
        let r : VReg := { tag := some t, img := imgOf (tyBits t) ((List.range v.vl).map fun j =>
          if done j then (y j).1 else slot (vreg s d).img j (tyBits t)) }
        Begun (vecAttr .copyV) true i s (stayAt
          (modVec (accrue s (allFlags (((List.range v.vl).filter done).map y))) fun u => { u with
            efr := BitVec.ofNat 32 (efr n)
            regs := if p.v && p.pc then (u.regs.set d r).set p.pd r else u.regs.set d r }) n))
    plain (.vcvt d a t k rm) false ∧ plain (.vcvts d a t k rm) true ∧
    feedback (.vcvt d a t k rm) false ∧ feedback (.vcvts d a t k rm) true ∧
    (packSource src = true → packTarget t = true →
      (v.vl = 0 → Begun pairAttr true (.vpackmx d a t rm) s (retireV s)) ∧
      (v.vl ≠ 0 → ∃ (y : Nat → Elt) (scale : Nat → Nat),
        (∀ b < cdiv v.vl 32, Packs t dir ((span (32 * b) (min v.vl (32 * b + 32))).map fun j => tyVal src (x j)) (scale b)
          fun j => y (32 * b + j)) ∧
        Begun pairAttr true (.vpackmx d a t rm) s
          (let ys := (List.range v.vl).map y
           retireV (modVec (accrue s (allFlags ys)) fun u =>
             { u with regs := (u.regs.set d { tag := some t, img := imgOf (tyBits t) (ys.map (·.1)) }).set (nextReg d)
                       { tag := some .e8m0, img := imgOf 8 ((List.range (cdiv v.vl 32)).map scale) } })))) ∧
    (packTarget src = true → packSource t = true → (vreg s (nextReg a)).tag = some .e8m0 →
      ∃ y : Nat → Elt, (∀ j < v.vl, Unpacks src t dir (x j) (slot (vreg s (nextReg a)).img (j / 32) 8) (y j)) ∧
        Begun pairAttr true (.vunpkmx d a t rm) s (writeElems s d t (fun _ => true) y))
namespace Sys2Proof.Claims

/-- A reduction whose source has a tag it accepts leaves r in element 0 of d, alone or with a push on `vq` (R170, R171). -/
def Reduces (i : Bool → Instr) (s : State) (d a : Reg) (ok : Ty → Bool) (res : Ty → Ty) (r : Ty → Elt) : Prop :=
  ∀ t, (vreg s a).tag = some t → ok t = true → Fits s [tyBits (res t), tyBits t] →
    let v := r t
    let leaves (u : State) := retireV (putV (accrue u v.2) d { tag := some (res t), img := imgOf (tyBits (res t)) [v.1] })
    Begun (vecAttr .copyV) true (i false) s (leaves s) ∧
    (s.cpu.live.vec.vq.length < 8 → Begun (vecAttr .copyV) true (i true) s (leaves (pushVq s (pushWord (res t) v.1))))

/-- One level of a tree: neighbours combine, and an operand without a neighbour passes unchanged (R172, R363). -/
def level {α : Type} (f : α → α → α) (z : α) (l : List α) : List α :=
  (List.range ((l.length + 1) / 2)).map fun i =>
    if 2 * i + 1 < l.length then f (l.getD (2 * i) z) (l.getD (2 * i + 1) z) else l.getD (2 * i) z

/-- What a tree over a list of leaves comes to, level by level (R172, R363). -/
structure IsTree {α : Type} (f : α → α → α) (z : α) (tree : List α → α) : Prop where
  one : ∀ x, tree [x] = x
  more : ∀ l, 2 ≤ l.length → tree l = tree (level f z l)

/-- One value is above another, with -0 below +0 (R172). -/
def above (x y : FpVal) : Bool :=
  fpLt y x || (match x, y with
    | .fin false 0 _, .fin true 0 _ => true
    | _, _ => false)

/-- What VRMAX (with greater) and VRMIN give of the elements that take part: the extreme one, the identity when there is
none, and for floating point the extreme of those that are not NaNs, with the default NaN when all are (R170, R172). -/
def Extreme (greater : Bool) (t : Ty) (xs : List Nat) (r : Elt) : Prop :=
  if tyInt t then
    r.2 = 0 ∧ (xs = [] → r.1 = trunc (tyBits t) (if greater then tyMin t else tyMax t)) ∧
    (xs ≠ [] → ∃ x ∈ xs, r.1 = trunc (tyBits t) (tyIntVal t x) ∧ ∀ y ∈ xs,
      if greater then tyIntVal t y ≤ tyIntVal t x else tyIntVal t x ≤ tyIntVal t y)
  else
    let vs := xs.map (tyVal t)
    let bitsOf (v : FpVal) := (roundTo (fmtOf t) .rne false v).1
    (∀ j, r.2.getLsbD j = vs.any fun v => (snan v).getLsbD j) ∧
    (xs = [] → r.1 = bitsOf (.inf greater)) ∧
    (xs ≠ [] → vs.all (·.isNaN) = true → r.1 = defaultNaN (fmtOf t)) ∧
    (vs.all (·.isNaN) = false → ∃ v ∈ vs, v.isNaN = false ∧ r.1 = bitsOf v ∧
      ∀ u ∈ vs, u.isNaN = false → (if greater then above u v else above v u) = false)

/-- A permutation of a source of any tag: its active elements are f of the source's (R138, R174). -/
def Permutes (i : Instr) (s : State) (d a : Reg) (k : KReg) (f : Ty → (Nat → Nat) → Nat → Nat) : Prop :=
  ∀ t, (vreg s a).tag = some t → Fits s [tyBits t] →
    Begun (vecAttr .copyV) true i s (writeElems s d t (active s k) fun j =>
      (f t (fun n => slot (vreg s a).img n (tyBits t)) j, 0))

/-- A compare of operands whose tags it accepts: its bits under k, with the exceptions of its kind (R176, R177). -/
def Compares (i : Instr) (s : State) (form : VForm) (d : KReg) (a b : Reg) (k : KReg) (ok : Ty → Bool)
    (fi : Int → Int → Bool) (ff : FpVal → FpVal → Bool) (anyNaN : Bool) : Prop :=
  ∀ p, pairOf s form a b ok = some p → Fits s (readWidths form p.ta p.tb) →
    Begun (vecAttr .predicate) true i s (writeMask s d k fun j =>
      if tyInt p.ty then (fi (tyIntVal p.ty (p.x j)) (tyIntVal p.ty (p.y j)), 0)
      else
        let x := tyVal p.ta (p.x j)
        let y := tyVal p.tb (p.y j)
        (ff x y, if anyNaN && (x.isNaN || y.isNaN) then flagNV else snan x ||| snan y))

/-- A member on masks alone (R176). -/
def Masks (i : Instr) (s : State) (d k : KReg) (f : Nat → Bool) : Prop :=
  Begun (vecAttr .predicate) true i s (writeMask s d k fun j => (f j, 0))

/-- What a write of a mask register leaves (R112, R114, R129, R145, R176): below vl its active bits are the results and the
others as they were, at and above vl they are zero; `fst` gains the flags of the active ones and `vbeg` is 0; with vl = 0
nothing else changes; and never another mask, a vector register, `vq`, the length, a g register, memory or a future. The
stores that the instruction has held back are performed after it (R275). -/
def MaskDestination (s : State) (d k : KReg) (f : Nat → Bool × Flags) : Prop :=
  writeMask s d k f = performHeld (writeMask (noneHeld s) d k f) (heldBack s) ∧
  let u := writeMask (noneHeld s) d k f
  let v := s.cpu.live.vec
  let mask (x : State) (n : Fin 7) := x.cpu.live.vec.masks.get n
  u.cpu.live.vec = { v with vbeg := 0, masks := u.cpu.live.vec.masks } ∧
  u.cpu.live.g = s.cpu.live.g ∧ u.mem = s.mem ∧ u.futs = s.futs ∧
  (∀ n : Fin 7, n.val + 1 ≠ d.val → mask u n = mask s n) ∧
  (v.vl = 0 → u.cpu.live.vec.masks = v.masks ∧ u.cpu.live.fst = s.cpu.live.fst) ∧
  (v.vl ≠ 0 → ∀ n : Fin 7, n.val + 1 = d.val →
    (∀ i, i < v.vl → i < 2048 → (mask u n).getLsbD i = if active s k i then (f i).1 else (mask s n).getLsbD i) ∧
    (∀ i, v.vl ≤ i → (mask u n).getLsbD i = false) ∧
    (∀ j, u.cpu.live.fst.getLsbD j =
      (s.cpu.live.fst.getLsbD j || (List.range v.vl).any fun i => active s k i && (f i).2.getLsbD j)))

/-- A load whose accesses all pass their checks completes, or stops at an element n of a forced save's choice, with the
elements below it loaded, `vbeg` at n and the instruction where it was (R129, R207, R220, log 30). -/
def LoadsAll (a : Attr) (i : Instr) (s : State) (nt : Bool) (cut : Option Nat) (us : List Unit_)
    (put : State → List (Unit_ × List Byte) → State) : Prop :=
  ∀ ps u, probeAll s .read us = (ps, u) → firstFail ps = none →
    (cut = none → ∀ bs v, loadUnits u nt ps = (some bs, v) → Begun a true i s (retireV (put v bs))) ∧
    (∀ n bs v, cut = some n → loadUnits u nt (cutUnits u false n ps) = (some bs, v) →
      Begun a true i s (stayAt (put v bs) n))

/-- A vector load of elements at addresses, with the copy that its prefix asks for (R55, R206, R207, R209). -/
def LoadsElements (i : Instr) (s : State) (d : Reg) (t : Ty) (k : KReg) (nt : Bool) (cut : Option Nat) (addr : Nat → Nat) :
    Prop :=
  let us := elemUnits t addr (memElems s k)
  (s.cpu.live.vec.vl = 0 → Begun (vecAttr .copyV) true i s (retireV s)) ∧
  (s.cpu.live.vec.vl ≠ 0 → misaligned us = none →
    LoadsAll (vecAttr .copyV) i s nt cut us fun v bs => putLoaded v d t bs)

/-- A store whose accesses all pass their checks completes, or stops at an element of a forced save's choice (R129, R208,
R214, R220, log 30). -/
def StoresAll (i : Instr) (s : State) (nt ordered : Bool) (grain : Nat) (us : List Unit_) (bytes : Unit_ → List Byte) :
    Prop :=
  ∀ ps u, probeAll s .write us = (ps, u) → firstFail ps = none →
    (cutAt s grain = none → Begun storeAttr true i s (retireV (storeUnits u nt bytes ps))) ∧
    (∀ n, cutAt s grain = some n →
      Begun storeAttr true i s (stayAt (storeUnits u nt bytes (cutUnits u ordered n ps)) n))

/-- A vector store of elements at addresses (R206, R208 to R210). -/
def StoresElements (i : Instr) (s : State) (d : Reg) (t : Ty) (k : KReg) (nt ordered : Bool) (base : Word)
    (addr : Nat → Nat) : Prop :=
  let us := if t = .e2m1 then nibbleUnits base (memElems s k) else elemUnits t addr (memElems s k)
  (s.cpu.live.vec.vl = 0 → Begun storeAttr true i s (retireV s)) ∧
  (s.cpu.live.vec.vl ≠ 0 → misaligned us = none →
    StoresAll i s nt ordered (if t = .e2m1 then 2 else 1) us (storedBytes (vreg s d).img t))

/-- What a vector memory instruction does whose accesses do not all pass, at the first that fails: WATCH, or the memory
fault with the element, in a state in which some of its accesses are performed and, but for VSAVE and VRESTORE, `vbeg`
names the element (R202, R203, R212, R413). -/
def StopsAt (a : Attr) (i : Instr) (caps : List Word) (s : State) (k : Kind) (u : Unit_) (p : Probe) (t : State) : Prop :=
  (∀ w, p = .watch w → Begun a true i s (debugStop t 0x0E (BitVec.ofNat 64 u.va) w.val false true)) ∧
  (∀ c, p = .bad c → Begins a true true s →
    ∃ o, exec i s = .next o ∧ FaultLeaves i caps c (BitVec.ofNat 64 u.va) k u.elem t o)

/-- The first access of a list that fails, with the accesses before it (R212). -/
def FailsAt (l : List (Unit_ × Probe)) (before : List (Unit_ × Probe)) (u : Unit_) (p : Probe) : Prop :=
  ∃ after, l = before ++ (u, p) :: after ∧ (∀ x ∈ before, ∃ ps, x.2 = .ok ps) ∧ ∀ ps, p ≠ .ok ps

/-- A load that meets a failing access (R212, R213, R215): it has loaded the elements before it, `extra` being those that
it performs beyond the failing one, and a first-fault load that has some shortens `vl` instead. -/
def LoadFaults (a : Attr) (i : Instr) (caps : List Word) (s : State) (nt : Bool) (us : List Unit_)
    (put : State → List (Unit_ × List Byte) → State) : Prop :=
  ∀ ps t before u p bs v, probeAll s .read us = (ps, t) → FailsAt ps before u p →
    loadUnits t nt (before ++ afterFail t ps) = (some bs, v) →
    StopsAt a i caps s .read u p (setBeg (put v bs) u.elem)

/-- A store that meets a failing access: it has stored the elements before it, and an unordered one by free choice some
of the others (R212, R214). -/
def StoreFaults (i : Instr) (caps : List Word) (s : State) (nt ordered : Bool) (us : List Unit_)
    (bytes : Unit_ → List Byte) : Prop :=
  ∀ ps t before u p, probeAll s .write us = (ps, t) → FailsAt ps before u p →
    StopsAt storeAttr i caps s .write u p
      (setBeg (storeUnits t nt bytes (before ++ if ordered then [] else afterFail t ps)) u.elem)

end Sys2Proof.Claims

/-- R170 to R173, R129, R183: the reductions. VRSUM is the fixed tree over element indices, with the identity at each leaf
that does not take part; a NaN among the leaves is the default one, also where it is the only leaf (R82, R136, R161; log
59). VRMAX, VRMIN and VRMAXI give the extreme and its lowest index. VRSUMO goes in element order; a
forced save may stop it at an element n, with the sum so far in `vred`, its flags set and `vbeg` at n (log 30). -/
def Obligations.VectorReductions : Prop :=
  ∀ (s : State) (d a b : Reg) (k : KReg),
    let v := s.cpu.live.vec
    let elem (t : Ty) (j : Nat) := slot (vreg s a).img j (tyBits t)
    let act := (List.range v.vl).filter (active s k)
    let leaf (t : Ty) (x : Nat) : Elt :=
      if tyFp t && (tyVal t x).isNaN then (defaultNaN (fmtOf t), snan (tyVal t x)) else (x, 0)
    let red (i : Bool → Instr) := Reduces i s d a
    red (.vrsum d a k) tyArith id (fun t => sumOf s a k t) ∧
    red (.vrmax d a k) tyArith id (fun t => extremeOf true s a k t) ∧
    red (.vrmin d a k) tyArith id (fun t => extremeOf false s a k t) ∧
    red (.vrmaxi d a k) tyArith (fun _ => .i32) (fun t => maxIndex s a k t) ∧
    red (.vrand d a k) tyInt id (fun t => bitReduce s a k t (2 ^ tyBits t - 1) fun x y => x &&& y) ∧
    red (.vror d a k) tyInt id (fun t => bitReduce s a k t 0 fun x y => x ||| y) ∧
    red (.vrxor d a k) tyInt id (fun t => bitReduce s a k t 0 fun x y => x ^^^ y) ∧
    (∀ t e tree, v.vl ≤ 2048 → v.vl ≤ 2 ^ e → (e = 0 ∨ 2 ^ (e - 1) < v.vl) →
      IsTree (fun (x y : Elt) => let r := addElem t x.1 y.1; (r.1, x.2 ||| y.2 ||| r.2)) (0, 0) tree →
      sumOf s a k t = tree ((List.range (2 ^ e)).map fun j =>
        leaf t (if j < v.vl && active s k j then elem t j else if tyInt t then 0 else signed (fmtOf t) true 0))) ∧
    (∀ t, tyArith t = true → Extreme true t (act.map (elem t)) (extremeOf true s a k t) ∧
      Extreme false t (act.map (elem t)) (extremeOf false s a k t) ∧
      let m := extremeOf true s a k t
      let isMax (j : Nat) : Bool := elem t j = m.1 && !(tyFp t && (tyVal t (elem t j)).isNaN)
      (maxIndex s a k t).2 = m.2 ∧
      ((∀ j ∈ act, isMax j = false) → (maxIndex s a k t).1 = 2 ^ 32 - 1) ∧
      (∀ j ∈ act, isMax j = true → (∀ l ∈ act, l < j → isMax l = false) → (maxIndex s a k t).1 = j)) ∧
    (∀ t init f, bitReduce s a k t init f = ((act.map (elem t)).foldl f init, 0)) ∧
    (∀ t, (vreg s a).tag = some t → tyArith t = true → Fits s [tyBits t] →
      let init := scOf t (if v.vbeg = 0 then capture s false b else v.vred)
      let sum (n : Nat) : Elt := ((act.filter fun j => v.vbeg ≤ j && j < n).map (elem t)).foldl
        (fun acc x => let r := addElem t acc.1 x; (r.1, acc.2 ||| r.2)) (leaf t init)
      let r := sum v.vl
      let leaves (u : State) := retireV (modVec (putV (accrue u r.2) d { tag := some t, img := imgOf (tyBits t) [r.1] })
        fun y => { y with vred := BitVec.ofNat 64 r.1 })
      (cutAt s 1 = none → Begun (vecAttr .copyV) true (.vrsumo d a b k false) s (leaves s)) ∧
      (cutAt s 1 = none → v.vq.length < 8 →
        Begun (vecAttr .copyV) true (.vrsumo d a b k true) s (leaves (pushVq s (pushWord t r.1)))) ∧
      (∀ n q, cutAt s 1 = some n → Begun (vecAttr .copyV) true (.vrsumo d a b k q) s
        (stayAt (modVec (accrue s (sum n).2) fun y => { y with vred := BitVec.ofNat 64 (sum n).1 }) n)))

/-- R178 to R180: the moves between g registers, `vq` and vector registers. -/
def Obligations.VectorMoves : Prop :=
  ∀ (s : State) (form : VForm) (d a b : Reg) (k : KReg),
    (∀ t, (vreg s d).tag = some t → Fits s [tyBits t] → Begun (vecAttr .copyV) true (.vmvsx d b) s
      (writeElems s d t (fun j => j == 0 && (let p := prefixOf s
        !(p.v && p.pk != 0) || maskBit s p.pk 0)) fun _ => (scOf t (capture s false b), 0))) ∧
    (∀ t, (vreg s a).tag = some t → Fits s [tyBits t] → Begun (vecAttr .copyG) true (.vmvxs d a) s
      (retireV (result s d (moveWord t (slot (vreg s a).img 0 (tyBits t)))))) ∧
    Begun (vecAttr .copyG) false (.vqpop d) s
      (retireV (result (modVec s fun v => { v with vq := v.vq.tail }) d (s.cpu.live.vec.vq.headD 0))) ∧
    Begun (vecAttr .copyG) false (.vqlen d) s (retireV (result s d (BitVec.ofNat 64 s.cpu.live.vec.vq.length))) ∧
    (∀ t, (vreg s (if form = .vv then a else d)).tag = some t → Fits s [tyBits t] →
      Begun (vecAttr .copyV) true (.vmv form d a b k) s (writeElems s d t (active s k) fun j =>
        (match form with
         | .vv => slot (vreg s a).img j (tyBits t)
         | .vs => (capture s false b).toNat % 2 ^ tyBits t
         | .vi => immOf t b, 0)))

/-- R138, R174, R175, R82: the permutations. VMERGE reads an element that it widens as FP, so that a signalling NaN raises
the invalid exception (log 59). -/
def Obligations.VectorPermutations : Prop :=
  ∀ (s : State) (form : VForm) (d a b : Reg) (m k : KReg) (ti : Ty),
    let vl := s.cpu.live.vec.vl
    let sc (t : Ty) := (capture s false b).toNat % 2 ^ tyBits t
    let slid (n : Int) (fill : Nat) (x : Nat → Nat) (j : Nat) : Nat :=
      if 0 ≤ (j : Int) - n ∧ (j : Int) - n < vl then x ((j : Int) - n).toNat else fill
    let ids := (List.range vl).filter (active s k)
    let perm (i : Instr) := Permutes i s d a k
    perm (.vslup form d a b k) (fun t x j => if form = .vs then slid 1 (sc t) x j else slid (sgn 5 b.val) 0 x j) ∧
    perm (.vsldn form d a b k) (fun t x j => if form = .vs then slid (-1) (sc t) x j else slid (-sgn 5 b.val) 0 x j) ∧
    perm (.vexpnd d a k) (fun _ x j => x (ids.takeWhile (· < j)).length) ∧
    perm (.vbcast form d a b k) (fun _ x _ =>
      let n := if form = .vs then (capture s false b).toNat else b.val
      if n < vl then x n else 0) ∧
    perm (.vrev d a k) (fun _ x j => x (vl - 1 - j)) ∧
    perm (.vzip d a k) (fun _ x j => if j % 2 = 0 then x (j / 2) else x (cdiv vl 2 + j / 2)) ∧
    perm (.vunzip d a k) (fun _ x j => if j < cdiv vl 2 then x (2 * j) else x (2 * (j - cdiv vl 2) + 1)) ∧
    (∀ t tb, (vreg s a).tag = some t → (vreg s b).tag = some tb → tyInt tb = true → Fits s [tyBits t, tyBits tb] →
      Begun (vecAttr .copyV) true (.vrgath d a b k) s (writeElems s d t (active s k) fun j =>
        let n := slot (vreg s b).img j (tyBits tb)
        (if n < vl then slot (vreg s a).img n (tyBits t) else 0, 0))) ∧
    (∀ t, (vreg s a).tag = some t → Fits s [tyBits t] → Begun (vecAttr .copyV) true (.vcompr d a k) s
      (writeElems s d t (fun _ => true) fun j => ((ids.map fun i => slot (vreg s a).img i (tyBits t)).getD j 0, 0))) ∧
    (∀ p, pairOf s form a b (fun _ => true) = some p → Fits s (tyBits p.ty :: readWidths form p.ta p.tb) →
      Begun (vecAttr .copyV) true (.vmerge form d a b k) s (writeElems s d p.ty (fun _ => true) fun j =>
        let moved (t : Ty) (x : Nat) : Elt :=
          if t = p.ty then (x, 0) else ((roundTo (fmtOf p.ty) .rne false (tyVal t x)).1, snan (tyVal t x))
        if active s k j then moved p.ta (p.x j) else moved p.tb (p.y j))) ∧
    (tyInt ti = true → Fits s [tyBits ti] →
      Begun (vecAttr .copyV) true (.viota d m ti k) s (writeElems s d ti (active s k) fun j =>
        (((List.range j).filter (maskBit s m)).length % 2 ^ tyBits ti, 0)) ∧
      Begun (vecAttr .copyV) true (.vidx d ti k) s (writeElems s d ti (active s k) fun j => (j % 2 ^ tyBits ti, 0)))

/-- R112, R114, R176, R177: the compares and the members on mask registers, and what every write of a mask leaves. -/
def Obligations.MaskInstructions : Prop :=
  ∀ (s : State) (form : VForm) (d m n k : KReg) (a b r : Reg),
    let cmp (i : Instr) := Compares i s form d a b k
    let fpLe (x y : FpVal) := !x.isNaN && !y.isNaN && !fpLt y x
    let vl := s.cpu.live.vec.vl
    let first := ((List.range vl).find? (maskBit s m)).getD vl
    let both := (List.range vl).filter fun j => maskBit s m j && active s k j
    cmp (.vceq form d a b k) tyArith (fun x y => x = y) fpEq false ∧
    cmp (.vcne form d a b k) tyArith (fun x y => x ≠ y) (fun x y => !fpEq x y) false ∧
    cmp (.vclt form d a b k) tyArith (fun x y => x < y) (fun x y => fpLt x y) true ∧
    cmp (.vcle form d a b k) tyArith (fun x y => x ≤ y) fpLe true ∧
    cmp (.vcgt form d a b k) tyArith (fun x y => y < x) (fun x y => fpLt y x) true ∧
    cmp (.vcge form d a b k) tyArith (fun x y => y ≤ x) (fun x y => fpLe y x) true ∧
    cmp (.vcun form d a b k) tyFp (fun _ _ => false) (fun x y => x.isNaN || y.isNaN) false ∧
    (∀ t, (vreg s a).tag = some t → tyFp t = true → Fits s [tyBits t] →
      Begun (vecAttr .predicate) true (.vclass d a b k) s (writeMask s d k fun j =>
        ((capture s false b).getLsbD (fpClass (fmtOf t) (slot (vreg s a).img j (tyBits t))), 0))) ∧
    Masks (.kand d m n k) s d k (fun j => maskBit s m j && maskBit s n j) ∧
    Masks (.kor d m n k) s d k (fun j => maskBit s m j || maskBit s n j) ∧
    Masks (.kxor d m n k) s d k (fun j => maskBit s m j != maskBit s n j) ∧
    Masks (.knot d m k) s d k (fun j => !maskBit s m j) ∧
    Masks (.kandn d m n k) s d k (fun j => maskBit s m j && !maskBit s n j) ∧
    Masks (.kmov d m k) s d k (fun j => maskBit s m j) ∧
    Masks (.ksbf d m k) s d k (fun j => j < first) ∧
    Masks (.ksif d m k) s d k (fun j => j ≤ first) ∧
    Begun (vecAttr .copyG) true (.kpopc r m k) s (retireV (result s r (BitVec.ofNat 64 both.length))) ∧
    Begun (vecAttr .copyG) true (.kfirst r m k) s
      (retireV (result s r ((both.head?.map fun j => BitVec.ofNat 64 j).getD (BitVec.allOnes 64)))) ∧
    (d ≠ 0 → ∀ f, MaskDestination s d k f)

/-- R55, R200, R205 to R220: vector loads whose accesses all pass. A load that writes its index register, as its
destination or through the copy of a prefix, is never stopped before its end, as R215 has it of the destination (log 91).
The scale elements of a segment load from vl / 32 up to vl keep their values, which is the model's choice (log 59). -/
def Obligations.VectorLoads : Prop :=
  ∀ (s : State) (d a b : Reg) (k : KReg) (nt : Bool) (t : Ty), Fits s [tyBits t] →
    let base := capture s false a
    let stride := capture s true b
    let at_ (off : Int) : Nat := (base + BitVec.ofInt 64 off).toNat
    let unit (j : Nat) := at_ ((j * tyBits t / 8 : Nat) : Int)
    LoadsElements (.vldUnit d a k nt t) s d t k nt (cutAt s 1) unit ∧
    LoadsElements (.vldFirstFault d a k nt t) s d t k nt (cutAt s 1) unit ∧
    LoadsElements (.vldStrided d a b k nt t) s d t k nt (cutAt s 1) (fun j => at_ (stride.toInt * j)) ∧
    (∀ tb, (vreg s b).tag = some tb → tyInt tb = true → Fits s [tyBits tb] →
      ∀ cut, (Overwrites s d b → cut = none) → (¬Overwrites s d b → cut = cutAt s 1) →
      LoadsElements (.vldIndexed d a b k nt t) s d t k nt cut
        (fun j => at_ (tyIntVal tb (slot (vreg s b).img j (tyBits tb))))) ∧
    (s.cpu.live.vec.vl % 32 = 0 →
      (s.cpu.live.vec.vl = 0 → Begun segAttr true (.vldSegmentMx d a t) s (retireV s)) ∧
      (s.cpu.live.vec.vl ≠ 0 → base.toNat % 4 = 0 →
        LoadsAll segAttr (.vldSegmentMx d a t) s false (cutAt s 32) (segUnits s t base) fun v bs =>
          putSegments v d t bs)) ∧
    (∀ n ps x, x ∈ ps → x.1.elem < n → x ∈ cutUnits s false n ps)

/-- R200, R205 to R220: vector stores whose accesses all pass. -/
def Obligations.VectorStores : Prop :=
  ∀ (s : State) (d a b : Reg) (k : KReg) (nt : Bool) (t : Ty), (vreg s d).tag = some t → Fits s [tyBits t] →
    let base := capture s false a
    let stride := capture s true b
    let at_ (off : Int) : Nat := (base + BitVec.ofInt 64 off).toNat
    let unit (j : Nat) := at_ ((j * tyBits t / 8 : Nat) : Int)
    StoresElements (.vstUnit d a k nt t) s d t k nt false base unit ∧
    StoresElements (.vstOrdered d a k nt t) s d t k nt true base unit ∧
    StoresElements (.vstStrided d a b k nt t) s d t k nt false base (fun j => at_ (stride.toInt * j)) ∧
    (∀ tb, (vreg s b).tag = some tb → tyInt tb = true → Fits s [tyBits tb] →
      StoresElements (.vstIndexed d a b k nt t) s d t k nt false base fun j =>
        at_ (tyIntVal tb (slot (vreg s b).img j (tyBits tb)))) ∧
    (s.cpu.live.vec.vl % 32 = 0 → (vreg s (nextReg d)).tag = some .e8m0 →
      (s.cpu.live.vec.vl = 0 → Begun storeAttr true (.vstSegmentMx d a t) s (retireV s)) ∧
      (s.cpu.live.vec.vl ≠ 0 → base.toNat % 4 = 0 →
        StoresAll (.vstSegmentMx d a t) s false false 32 (segUnits s t base)
          (segmentBytes (vreg s d).img (vreg s (nextReg d)).img t))) ∧
    (∀ n ps x, x ∈ cutUnits s true n ps ↔ x ∈ ps ∧ x.1.elem < n)

namespace Sys2Proof.Claims

/-- A vector instruction with one tagged source, the tags that it takes, and the widths of its elements under one. -/
structure OneSource where
  attr : Attr
  instr : Instr
  src : Reg
  ok : Ty → Bool
  widths : Ty → List Nat

/-- The members with one tagged source, of every class (R158, R162, R164 to R178). -/
def oneSource (form : VForm) (d a b : Reg) (kd k : KReg) (t : Ty) (rm : RM) (q : Bool) : List OneSource :=
  let elems (i : Instr) (ok : Ty → Bool) : OneSource := ⟨vecAttr .copyV, i, a, ok, fun x => [tyBits x]⟩
  let cvt (x : Ty) : Bool := if rm = .ef then efOk x t else cvtOk x t
  let any (_ : Ty) : Bool := true
  [elems (.vabs d a k) tyArith, elems (.vneg d a k) tyArith, elems (.vsqrt d a k) tyFp,
   elems (.vexp2 d a k) (fun x => x = .fp32 || x = .fp16 || x = .bf16),
   elems (.vrsum d a k q) tyArith, elems (.vrsumo d a b k q) tyArith, elems (.vrmax d a k q) tyArith,
   elems (.vrmin d a k q) tyArith, elems (.vrand d a k q) tyInt, elems (.vror d a k q) tyInt, elems (.vrxor d a k q) tyInt,
   ⟨vecAttr .copyV, .vrmaxi d a k q, a, tyArith, fun x => [32, tyBits x]⟩,
   elems (.vslup form d a b k) any, elems (.vsldn form d a b k) any, elems (.vcompr d a k) any, elems (.vexpnd d a k) any,
   elems (.vbcast form d a b k) any, elems (.vrev d a k) any, elems (.vzip d a k) any, elems (.vunzip d a k) any,
   ⟨vecAttr .predicate, .vclass kd a b k, a, tyFp, fun x => [tyBits x]⟩,
   ⟨vecAttr .copyG, .vmvxs d a, a, any, fun x => [tyBits x]⟩,
   ⟨vecAttr .copyV, .vmvsx d b, d, any, fun x => [tyBits x]⟩,
   ⟨vecAttr .copyV, .vmv form d a b k, if form = .vv then a else d, any, fun x => [tyBits x]⟩,
   ⟨vecAttr .copyV, .vcvt d a t k rm, a, cvt, fun x => [tyBits t, tyBits x]⟩,
   ⟨vecAttr .copyV, .vcvts d a t k rm, a, cvt, fun x => [tyBits t, tyBits x]⟩,
   ⟨pairAttr, .vpackmx d a t rm, a, fun x => packSource x && packTarget t, fun x => [tyBits t, tyBits x]⟩,
   ⟨pairAttr, .vunpkmx d a t rm, a, fun x => packTarget x && packSource t, fun x => [tyBits t, tyBits x]⟩]

/-- The members with two operands whose tags combine, with the tags that they take (R158, R165, R174, R176). -/
def twoSource (form : VForm) (d a b : Reg) (k : KReg) : List (Instr × (Ty → Bool)) :=
  [(.vadd form d a b k, tyArith), (.vsub form d a b k, tyArith), (.vrsub form d a b k, tyArith),
   (.vmul form d a b k, tyArith), (.vmulh form d a b k, tyInt), (.vmin form d a b k, tyArith),
   (.vmax form d a b k, tyArith), (.vdiv form d a b k, tyArith), (.vrem form d a b k, tyInt), (.vand form d a b k, tyInt),
   (.vor form d a b k, tyInt), (.vxor form d a b k, tyInt), (.vshl form d a b k, tyInt), (.vshr form d a b k, tyInt),
   (.vsha form d a b k, tyInt), (.vsadd form d a b k, tyInt), (.vssub form d a b k, tyInt), (.vavg form d a b k, tyInt),
   (.vmerge form d a b k, fun _ => true)]
def compares (form : VForm) (kd : KReg) (a b : Reg) (k : KReg) : List (Instr × (Ty → Bool)) :=
  [(.vceq form kd a b k, tyArith), (.vcne form kd a b k, tyArith), (.vclt form kd a b k, tyArith),
   (.vcle form kd a b k, tyArith), (.vcgt form kd a b k, tyArith), (.vcge form kd a b k, tyArith),
   (.vcun form kd a b k, tyFp)]

/-- TAG, VLEN and ALIGN of an instruction that may begin in the lanes, with no other effect (R111, R162, R209). -/
def TagTraps (a : Attr) (i : Instr) (s : State) : Prop := Begun a true i s (takeTrap s 0x07 0)
def LenTraps (a : Attr) (i : Instr) (s : State) : Prop := Begun a true i s (takeTrap s 0x12 0)
def AlignTraps (a : Attr) (i : Instr) (s : State) (va : Nat) : Prop :=
  Begun a true i s (takeTrap s 0x03 (BitVec.ofNat 64 va))

end Sys2Proof.Claims

/-- R55, R111, R158, R162, R202, R203, R209, R212, R213, R413: what turns a vector instruction away in the lanes. A source
tagged NONE or of a tag that the member does not take raises TAG, and so does a target of VIOTA or VIDX that is no integer;
elements that do not fit the grant raise VLEN, a
misaligned element raises ALIGN; none does anything else. An element whose access fails stops the instruction there, with
the copy of a prefix written; a load that writes its index register has loaded nothing then, as R215 has it of the
destination and the model of the copy too (log 91). VLEN
of VMVXS is the model's reading (log 77), as are `tval` of ALIGN for a segment (log 76) and `tval` of WATCH for VSAVE and
VRESTORE (log 105). -/
def Obligations.VectorTraps : Prop :=
  ∀ (s : State) (form : VForm) (d a b : Reg) (kd k : KReg) (nt q : Bool) (t : Ty) (rm : RM),
    let copyV := vecAttr .copyV
    let base := capture s false a
    let stride := capture s true b
    let at_ (off : Int) : Nat := (base + BitVec.ofInt 64 off).toNat
    let unit (j : Nat) := at_ ((j * tyBits t / 8 : Nat) : Int)
    let strided (j : Nat) := at_ (stride.toInt * j)
    let indexed (tb : Ty) (j : Nat) := at_ (tyIntVal tb (slot (vreg s b).img j (tyBits tb)))
    let us (addr : Nat → Nat) := elemUnits t addr (memElems s k)
    let stored (addr : Nat → Nat) := if t = .e2m1 then nibbleUnits base (memElems s k) else us addr
    let fits := Fits s [tyBits t]
    let some_ := s.cpu.live.vec.vl ≠ 0
    (∀ m ∈ oneSource form d a b kd k t rm q,
      ((vreg s m.src).tag = none → TagTraps m.attr m.instr s) ∧
      (∀ x, (vreg s m.src).tag = some x → m.ok x = false → TagTraps m.attr m.instr s) ∧
      (∀ x, (vreg s m.src).tag = some x → m.ok x = true → ¬Fits s (m.widths x) →
        (m.instr = .vunpkmx d a t rm → (vreg s (nextReg a)).tag = some .e8m0) → LenTraps m.attr m.instr s)) ∧
    ((vreg s (nextReg a)).tag ≠ some .e8m0 → TagTraps pairAttr (.vunpkmx d a t rm) s) ∧
    (∀ m ∈ twoSource form d a b k,
      (pairOf s form a b m.2 = none → TagTraps copyV m.1 s) ∧
      (∀ p, pairOf s form a b m.2 = some p → ¬Fits s (tyBits p.ty :: readWidths form p.ta p.tb) → LenTraps copyV m.1 s)) ∧
    (∀ m ∈ compares form kd a b k,
      (pairOf s form a b m.2 = none → TagTraps (vecAttr .predicate) m.1 s) ∧
      (∀ p, pairOf s form a b m.2 = some p → ¬Fits s (readWidths form p.ta p.tb) → LenTraps (vecAttr .predicate) m.1 s)) ∧
    (∀ ok, ((vreg s a).tag = none → pairOf s form a b ok = none) ∧
      (form = .vv → (vreg s b).tag = none → pairOf s form a b ok = none) ∧
      (∀ x, (vreg s a).tag = some x → ok x = false → pairOf s form a b ok = none) ∧
      (∀ x y, form = .vv → (vreg s a).tag = some x → (vreg s b).tag = some y → combine x y = none →
        pairOf s form a b ok = none)) ∧
    (∀ i ∈ [Instr.vfma form d a b k, .vfms form d a b k, .vfnma form d a b k, .vfnms form d a b k],
      ((vreg s d).tag = none ∨ pairOf s form a b tyArith = none → TagTraps copyV i s) ∧
      (∀ td p, (vreg s d).tag = some td → pairOf s form a b tyArith = some p →
        (fmaTags p.ty td = false → TagTraps copyV i s) ∧
        (fmaTags p.ty td = true → ¬Fits s (tyBits td :: readWidths form p.ta p.tb) → LenTraps copyV i s))) ∧
    ((vreg s a).tag = none ∨ (vreg s b).tag = none → TagTraps copyV (.vrgath d a b k) s) ∧
    (∀ x y, (vreg s a).tag = some x → (vreg s b).tag = some y →
      (tyInt y = false → TagTraps copyV (.vrgath d a b k) s) ∧
      (tyInt y = true → ¬Fits s [tyBits x, tyBits y] → LenTraps copyV (.vrgath d a b k) s)) ∧
    (∀ i ∈ [Instr.viota d kd t k, .vidx d t k],
      (tyInt t = false → TagTraps copyV i s) ∧ (tyInt t = true → ¬fits → LenTraps copyV i s)) ∧
    (let fold := Instr.vfold d a
     let plain := vecAttr .predicate false
     ((vreg s d).tag = none → TagTraps plain fold s) ∧
     ∀ x, (vreg s d).tag = some x → (tyArith x = false → TagTraps plain fold s) ∧
       (tyArith x = true → base = 0 ∨ ¬Fits s [tyBits x] → LenTraps plain fold s)) ∧
    (∀ m ∈ [(Instr.vldUnit d a k nt t, unit), (.vldFirstFault d a k nt t, unit), (.vldStrided d a b k nt t, strided)],
      (¬fits → LenTraps copyV m.1 s) ∧
      (fits → some_ → ∀ u, misaligned (us m.2) = some u → AlignTraps copyV m.1 s u.va)) ∧
    (∀ m ∈ [(Instr.vstUnit d a k nt t, unit), (.vstOrdered d a k nt t, unit), (.vstStrided d a b k nt t, strided)],
      ((vreg s d).tag ≠ some t → TagTraps storeAttr m.1 s) ∧
      ((vreg s d).tag = some t → ¬fits → LenTraps storeAttr m.1 s) ∧
      ((vreg s d).tag = some t → fits → some_ → ∀ u, misaligned (stored m.2) = some u → AlignTraps storeAttr m.1 s u.va)) ∧
    (let load := Instr.vldIndexed d a b k nt t
     let store := Instr.vstIndexed d a b k nt t
     ((vreg s b).tag = none → TagTraps copyV load s ∧ TagTraps storeAttr store s) ∧
     ∀ tb, (vreg s b).tag = some tb →
       (tyInt tb = false → TagTraps copyV load s ∧ TagTraps storeAttr store s) ∧
       (tyInt tb = true → (vreg s d).tag ≠ some t → TagTraps storeAttr store s) ∧
       (tyInt tb = true → ¬Fits s [tyBits t, tyBits tb] → LenTraps copyV load s ∧
         ((vreg s d).tag = some t → LenTraps storeAttr store s)) ∧
       (tyInt tb = true → Fits s [tyBits t, tyBits tb] → some_ →
         (∀ u, misaligned (us (indexed tb)) = some u → AlignTraps copyV load s u.va) ∧
         ((vreg s d).tag = some t → ∀ u, misaligned (stored (indexed tb)) = some u → AlignTraps storeAttr store s u.va) ∧
         (misaligned (us (indexed tb)) = none →
           (¬Overwrites s d b → LoadFaults copyV load [base] s nt (us (indexed tb)) fun v bs => putLoaded v d t bs) ∧
           (Overwrites s d b → ∀ ps v before u p, probeAll s .read (us (indexed tb)) = (ps, v) → FailsAt ps before u p →
             StopsAt copyV load [base] s .read u p v)) ∧
         ((vreg s d).tag = some t → misaligned (stored (indexed tb)) = none →
           StoreFaults store [base] s nt false (stored (indexed tb)) (storedBytes (vreg s d).img t)))) ∧
    (let load := Instr.vldSegmentMx d a t
     let store := Instr.vstSegmentMx d a t
     let tags := (vreg s d).tag = some t ∧ (vreg s (nextReg d)).tag = some .e8m0
     let whole := s.cpu.live.vec.vl % 32 = 0
     (¬tags → TagTraps storeAttr store s) ∧
     (¬fits ∨ ¬whole → LenTraps segAttr load s ∧ (tags → LenTraps storeAttr store s)) ∧
     (fits → whole → some_ → base.toNat % 4 ≠ 0 → AlignTraps segAttr load s base.toNat ∧
       (tags → AlignTraps storeAttr store s base.toNat)) ∧
     (fits → whole → some_ → base.toNat % 4 = 0 →
       LoadFaults segAttr load [base] s false (segUnits s t base) (fun v bs => putSegments v d t bs) ∧
       (tags → StoreFaults store [base] s false false (segUnits s t base)
         (segmentBytes (vreg s d).img (vreg s (nextReg d)).img t)))) ∧
    (fits → some_ →
      (misaligned (us unit) = none →
        LoadFaults copyV (.vldUnit d a k nt t) [base] s nt (us unit) (fun v bs => putLoaded v d t bs) ∧
        (∀ ps v before u p bs x, probeAll s .read (us unit) = (ps, v) → FailsAt ps before u p →
          (u.elem ≠ (((us unit).head?.map (·.elem)).getD 0) → ∀ c, p = .bad c → loadUnits v nt before = (some bs, x) →
            Begun copyV true (.vldFirstFault d a k nt t) s
              (retireV (putLoaded (modVec x fun y => { y with vl := u.elem }) d t bs))) ∧
          (u.elem = (((us unit).head?.map (·.elem)).getD 0) ∨ (∃ w, p = .watch w) →
            loadUnits v nt (before ++ afterFail v ps) = (some bs, x) →
            StopsAt copyV (.vldFirstFault d a k nt t) [base] s .read u p
              (setBeg (putLoaded x d t bs) u.elem)))) ∧
      (misaligned (us strided) = none →
        LoadFaults copyV (.vldStrided d a b k nt t) [base, stride] s nt (us strided) fun v bs => putLoaded v d t bs) ∧
      ((vreg s d).tag = some t → misaligned (stored unit) = none →
        StoreFaults (.vstUnit d a k nt t) [base] s nt false (stored unit) (storedBytes (vreg s d).img t) ∧
        StoreFaults (.vstOrdered d a k nt t) [base] s nt true (stored unit) (storedBytes (vreg s d).img t)) ∧
      ((vreg s d).tag = some t → misaligned (stored strided) = none →
        StoreFaults (.vstStrided d a b k nt t) [base, stride] s nt false (stored strided)
          (storedBytes (vreg s d).img t))) ∧
    (let save := { storeAttr with hasK := false, drain := true }
     let plain := vecAttr .predicate false
     (base.toNat % 64 ≠ 0 → AlignTraps save (.vsave a) s base.toNat ∧ AlignTraps plain (.vrestore a) s base.toNat) ∧
     (base.toNat % 64 = 0 →
       (∀ ps v before u p, probeAll s .write (rangeUnits base 0 (vsaveImage s).length) = (ps, v) → FailsAt ps before u p →
         StopsAt save (.vsave a) [base] s .write u p
           (storeUnits v false (fun x => ((vsaveImage s).drop ((BitVec.ofNat 64 x.va - base).toNat)).take 64)
             (before ++ afterFail v ps))) ∧
       (∀ ps got v, probeFrom s [] .read (rangeUnits base 0 64) = (ps, got, v) →
         (∀ before u p, FailsAt ps before u p → StopsAt plain (.vrestore a) [base] s .read u p v) ∧
         (∀ hs x, firstFail ps = none → loadUnits v false ps = (some hs, x) → badImage x (hs.map (·.2)).flatten = true →
           Begun plain true (.vrestore a) s (takeTrap x 0x12 0)))))

namespace Sys2Proof.Claims

/-- The running task is saved in full and made ready; u is the state after the save, and k what follows (R266, R386). -/
def ForcedOut (i : Instr) (s : State) (k : State → State) : Prop :=
  ∀ u, saveRec s (forcedRec s s.cpu.live .ready .none false false) = .ok u → exec i s = .next (k u)

end Sys2Proof.Claims

/-- R371, R373, R375, R377, R266, R386: which interrupt a core takes, and what is cleared with it; the quantum, and the
modes of a pre-emption request. Beside the ready contexts of R266, a quantum ends for a home group called back and for a
context of another core that waits for marked groups (R102, R107; logs 29, 64). That CLASS returns to 0 with MODE is the
model's choice (log 101). -/
def Obligations.InterruptEvents : Prop :=
  ∀ (s : State),
    (s.cpu.halt = .running → inHandler s = false →
      (s.cpu.pendError = true →
        exec .error s = .next (takeTrap (modCpu s fun c => { c with pendError := false }) 0x23 0)) ∧
      (s.cpu.pendError = false → s.cpu.pendHost = true →
        exec .host s = .next (takeTrap (modCpu s fun c => { c with pendHost := false }) 0x22 0)) ∧
      (s.cpu.pendError = false → s.cpu.pendHost = false → s.cpu.pendPreempt = false → s.cpu.ttimer.getLsbD 63 = true →
        s.cpu.ttimer.toNat % 2 ^ 63 ≤ s.devtime.toNat → exec .timer s = .next (takeTrap s 0x20 0)) ∧
      (s.cpu.pendError = true → exec .host s = .next s ∧ exec .timer s = .next s) ∧
      (s.cpu.pendHost = true → exec .timer s = .next s) ∧
      (s.cpu.ttimer.getLsbD 63 = false → exec .timer s = .next s)) ∧
    (quantumDue s = true → ForcedOut .quantumExpiry s id) ∧
    (s.cpu.preMode = 1 → preStale s = false → exec .preemptReqCooperative s = .next s) ∧
    (s.cpu.preMode = 1 → preStale s = true → exec .preemptReqCooperative s =
      .next (modCpu s fun c => { c with preMode := 0, preClass := 0, preAge := 0 })) ∧
    (s.cpu.preMode = 2 → preStale s = false → switchable s = true → ForcedOut .preemptReqForced s preDone) ∧
    (s.cpu.preMode = 3 → preStale s = false → switchable s = true → ForcedOut .preemptReqToHandler s fun u =>
      interrupt 0x21 (modCpu (preDone u) fun c => { c with pendPreempt := true })) ∧
    (s.cpu.preMode = 1 → s.cpu.tquant ≤ s.cpu.preAge → preStale s = false → switchable s = true →
      ForcedOut .preemptCoopTimeout s preDone)

namespace Sys2Proof.Claims

/-- One ready context goes before another: the higher effective class, then the earlier signal order, then the lower SLOT
(R265). -/
def Precedes (s : State) (a b : Rec) : Prop :=
  let cls (r : Rec) : Nat := min 3 (r.ctx.cls + (s.clock - r.order) / 65536)
  let earlier := a.order < b.order ∨ (a.order = b.order ∧ hSlot a.ctx.tself < hSlot b.ctx.tself)
  cls b < cls a ∨ (cls a = cls b ∧ earlier)

/-- A record that the idle core may take from core n (R268, R269, R387). -/
def MaySteal (s : State) (n : Nat) (r : Rec) : Prop :=
  n ∈ coreList s ∧ n ≠ s.cpu.id ∧ r ∈ (coreAt s n).recs ∧ r.st = .ready ∧ r.steal = true ∧
    inDomain r.ctx s.cpu.id = true ∧ (s.tenants.get r.ctx.tenant).clusters.getLsbD (clusterOf s.cpu.id) = true

/-- How near a core stands to the idle one: its own cluster, its die, or the package (R269). -/
def distance (s : State) (n : Nat) : Nat :=
  if n / 8 = s.cpu.id / 8 then 0 else if n / 96 = s.cpu.id / 96 then 1 else 2

end Sys2Proof.Claims

/-- R244, R259 to R269, R387, R403, R444, R49, R409, R415: what a core does between instructions. A signalled record comes
back from the Woodshed first, the first that can (log 75), as its bytes there give it: R258 has no bytes for its handle and
its wait, which stay its own (log 11); selection picks among the contexts whose grant can be met
(R265, R107), by effective class, signal order and SLOT, and only when no other may run the one whose wait has just passed
it over (R244, log 119). An idle core of the tenant's CLUSTERS alone (R387, log 31) steals from the nearest scope that has
a stealable context the one with the earliest signal order, of several that became ready in one cycle the one of the
lowest SLOT (R269); a stolen context that ONCE exempts keeps the core whose ONCE it is (R414). -/
def Obligations.SchedulingEvents : Prop :=
  ∀ (s : State) (word : BitVec 32),
    (refetchDue s = none ↔ ∀ r ∈ s.cpu.recs, r.st = .ready → r.due = true → r.spill ≠ none → refetch s r = none) ∧
    (∀ r u, refetchDue s = some r → refetch s r = some u → exec .readySelection s = .next u) ∧
    ((refetchDue s).bind (refetch s) = none → s.cpu.who = .idle → s.cpu.halt = .running → ∀ r,
      let resident := pickRec s ((readyRecs s).filter fun r => r.spill.isNone && canGrant s s.cpu.id r.ctx.need)
      choice s = some r →
        (r.spill = none → exec .readySelection s = .next (resume s r)) ∧
        (∀ u, r.spill ≠ none → refetch s r = some u →
          ∀ q, u.cpu.recs.find? (fun x => x.ctx.tself = r.ctx.tself) = some q →
            exec .readySelection s = .next (if canGrant u u.cpu.id q.ctx.need then resume u q else u)) ∧
        (∀ q, r.spill ≠ none → refetch s r = none → resident = some q → exec .readySelection s = .next (resume s q)) ∧
        (r.spill ≠ none → refetch s r = none → resident = none → exec .readySelection s = .next s)) ∧
    (let may (r : Rec) : Prop := r ∈ s.cpu.recs ∧ r.st = .ready ∧ canGrant s s.cpu.id r.ctx.need = true
     let late (r : Rec) : Prop := s.cpu.passed = some r.ctx.tself
     (∀ r, choice s = some r → may r ∧ (∀ q, may q → (late q ↔ late r) → ¬Precedes s q r) ∧ (late r → ∀ q, may q → late q)) ∧
     (choice s = none → ∀ q, ¬may q)) ∧
    (∀ n r, stealTarget s = some (n, r) → MaySteal s n r ∧ ∀ m q, MaySteal s m q → distance s n ≤ distance s m ∧
      (distance s m = distance s n →
        ¬(q.order < r.order ∨ (q.order = r.order ∧ hSlot q.ctx.tself < hSlot r.ctx.tself)))) ∧
    (stealTarget s = none → ∀ m q, ¬MaySteal s m q) ∧
    (∀ n r u, s.cpu.who = .idle → s.cpu.halt = .running → choice s = none → stealTarget s = some (n, r) →
      makeRoom (s.cpu.recs.length + 1) s s.cpu.id (recBytes r) = .ok u →
      exec .steal s = .next
        (let q := fromShed u n r
         let taken := takeRec (writeBack q.2 n) n r.ctx.tself
         let ctx := if q.1.ctx.once then { q.1.ctx with onceOn := some (q.1.ctx.onceOn.getD n) } else q.1.ctx
         modCpu (bump (invalidate taken taken.cpu.id) 7) fun c =>
           { c with recs := c.recs ++ [{ q.1 with steal := false, ctx := ctx }] })) ∧
    (∀ n r off bs v, r.spill = some off →
      (let c := coreAt s n
       let len := ((c.shed.find? fun q => q.off = off).map (·.len)).getD 0
       shedRead n (len / 64 + 1) s (c.wsbase.toNat + off) len = (some bs, v)) →
      let q := (fromShed s n r).1
      (fromShed s n r).2 = v ∧ q.spill = none ∧ q.due = false ∧ (r.poison = true → q.poison = true) ∧
      ((bs.drop 16).take (recImage r).length = recImage r → q.ctx = r.ctx) ∧
      ((bs.drop 16).take (recImage r).length ≠ recImage r →
        let b := bs.drop 16
        q.ctx.pc = BitVec.ofNat 64 (at_ b 0 8) ∧ q.ctx.tself = r.ctx.tself ∧ q.wait = r.wait ∧ q.st = r.st ∧
        (∀ i : Fin 32, (BitVec.ofNat 64 (at_ b 8 8)).getLsbD i.val = true → i.val ≠ 0 → q.ctx.g.get i =
          BitVec.ofNat 64 (at_ b (64 + 8 * ((span 1 i.val).filter fun j => (at_ b 8 8).testBit j).length) 8)))) ∧
    (s.cpu.hold = .wait → s.cpu.who = .task → reclaimable s = false →
      exec .spillHoldEnd s = .next (modCpu s fun c => { c with stall := none })) ∧
    (s.cpu.hold = .wait → s.cpu.who = .task → reclaimable s = true → exec .spillHoldEnd s = .next (endTask s true 0)) ∧
    (s.cpu.who ≠ .idle → s.cpu.halt = .running → codeLine s = none → ∀ ws t,
      fillLine s s.cpu.live.pc.toNat = (.inr ws, t) → exec .codeLineFill s = .next (enterLine t ws)) ∧
    (s.cpu.who ≠ .idle → exec (.illegalWord word) s = .next (takeTrap s 0x01 (word.setWidth 64))) ∧
    (stepReady s = true → exec .singleStep s = .next (takeStep s)) ∧
    exec .draughtClear s = .next (modCpu s fun c => { c with draughts := Vector.replicate 16 none, drlost := 0 })

/-- R203, R384, R385, R371, R425: the delivery of a fault record, and its acknowledgement; that of a record of no task, or
of a task that is gone, acts as NOTE. That a record is written over one that NOTE has left in its slot, while another slot
is free, is the model's choice (log 100), and so is key slot 0, under which the clause has the ring read and written: R384
names no key (log 122). FAIL ends the task as FFAIL at its instruction does, once the instructions queued before that one
are complete (R249). A refused one only sets ERR, after the write-back that R385 puts before an
acknowledgement (log 78). -/
def Obligations.FaultServiceEvents : Prop :=
  ∀ (s : State) (cl : Fin 96) (seq : BitVec 32),
    let c := clusterAt s cl.val
    let from_ := if clusterOf s.cpu.id = cl.val then writeBack s s.cpu.id else s
    let ok (action : Nat) := modCluster from_ cl.val fun k =>
      { k with ackSeq := BitVec.ofNat 32 seq.toNat, ackAction := BitVec.ofNat 2 action, ackErr := false }
    let bad := modCluster from_ cl.val fun k => { k with ackErr := true }
    let names (r : FaultRec) := (clusterAt from_ cl.val).outstanding.find? (fun p => p.1 = seq.toNat) = some (seq.toNat, r)
    (∀ r rest, c.deliveries = r :: rest → c.outstanding.length < 2 ^ c.fsLog → replayOk s c.fsBase 2048 = true →
      let prod := ofBytes (readPhys s 0 c.fsBase 8).1
      let t := writePhys s 0 (c.fsBase + 64 + 32 * (prod % 2 ^ c.fsLog)) (faultBytes r)
      let t := atomicWrite t (.hbm c.fsBase 0) (toBytes 8 (min (prod + 1) (2 ^ 64 - 1)))
      exec (.faultRecordDelivery cl) s = .next (modCluster (replayed (sootLog t c.fsBase 2048) c.fsBase) cl.val fun k =>
        { k with deliveries := rest, outstanding := k.outstanding ++ [(prod % 2 ^ 32, r)] })) ∧
    (2 ^ c.fsLog ≤ c.outstanding.length → exec (.faultRecordDelivery cl) s = .next s) ∧
    (∀ r core h, names r → r.owner = .task core h →
      (stuckAt (ok 0) core h ≠ .gone → exec (.fsackRetry cl seq) s =
        .next (freeSlotSeq (retryStuck (ok 0) core h) cl.val seq.toNat)) ∧
      (stuckAt (ok 1) core h ≠ .gone → exec (.fsackFail cl seq) s =
        .next (freeSlotSeq (failStuck (ok 1) core h r.word (failCode r.cause)) cl.val seq.toNat)) ∧
      (stuckAt (ok 2) core h ≠ .gone → exec (.fsackNote cl seq) s = .next (ok 2))) ∧
    (∀ (core : Nat) (h code : Word) (word : BitVec 32) (x : Rec), stuckAt s core h = .latched →
      (coreAt s core).recs.find? (fun r => r.ctx.tself = h) = some x →
      let older := x.ctx.viq ≠ [] ∧ (if x.ctx.latch.isSome then x.ctx.latchQ = false else queuedWord word = false)
      let t := failStuck s core h word code
      (older → t = modCore s core fun c => { c with recs := c.recs.map fun r =>
        if r.st = .latched && r.ctx.tself = h then
          { r with st := .ready, order := s.clock, due := r.spill.isSome, ctx := { r.ctx with failWith := some code } }
        else r }) ∧
      (¬older → hDev h = s.devid → hGen h = (entryAt s h).gen → (entryAt s h).st = .pending →
        ∀ dropped, EndDrops s x.ctx.held dropped → (∀ y, dropped y → ¬SameFuture y h) →
        (entryAt t h).st = .failed ∧ (entryAt t h).result = code ∧ (entryAt t h).loc = some core)) ∧
    (∀ r, names r →
      (r.owner = .other ∨ ∃ core h, r.owner = .task core h ∧ ∀ n, stuckAt (ok n) core h = .gone) →
      exec (.fsackRetry cl seq) s = .next (freeSlotSeq (ok 0) cl.val seq.toNat) ∧
      exec (.fsackFail cl seq) s = .next (freeSlotSeq (ok 1) cl.val seq.toNat) ∧
      exec (.fsackNote cl seq) s = .next (freeSlotSeq (ok 2) cl.val seq.toNat)) ∧
    ((clusterAt from_ cl.val).outstanding.find? (fun p => p.1 = seq.toNat) = none →
      exec (.fsackRetry cl seq) s = .next bad ∧ exec (.fsackFail cl seq) s = .next bad ∧
      exec (.fsackNote cl seq) s = .next bad) ∧
    exec (.fsackInvalid cl seq) s = .next bad

/-- R300, R325, R329, R338, R346, R348 to R352: the events of the Flue and of remote requests. A request is checked at its
target with the privilege of the task that issued it (log 51); what a peer is told and what it tells stands as in logs 54
and 65, and news of a peer's future, and a peer's observation of one of this device, as in log 20: at that the core on which
the future's task ended writes back, as R271 has it of an awaiter on another core. -/
def Obligations.TransferEvents : Prop :=
  ∀ (s : State) (cl : Fin 96) (n : Fin 64) (token value data : Word) (failed performed : Bool) (dev : Fin 1024)
    (ten : Fin 16) (sys : Bool) (member : Fin 4) (sz : Size) (loc : BitVec 40),
    let go := modCpu s fun c => { c with stall := c.stall.filter (·.desc.isSome) }
    let without (u : State) (r : Remote) := { u with remotes := u.remotes.filter fun q => q.token != r.token }
    let fails (u : State) (r : Remote) (code : Nat) :=
      post (settle (without u r) r.token true (failCode code)) (clusterOf r.env.core)
        { handle := r.token, addr := r.addr, cause := 0x0B, access := remoteCode r.member, elem := code,
          word := r.env.word, pc := r.env.pc, owner := .other }
    let own (r : Remote) := performRemote s (1024 + s.devid) r.env.tenant r.env.priv r.member r.sz (podLocal r.addr) r.data
    let asked := performRemote s (1024 + dev.val) ten sys.toNat member sz loc.toNat data
    (∀ k, entryFreed s = some k → exec .flueAccept s = .next (turnTo s k) ∧ (turnTo s k).cpu.who = .task ∧
      (offered (turnTo s k)).isSome = true ∧ flueFull (turnTo s k) = false) ∧
    (entryFreed s = none → exec .flueAccept s = .next s) ∧
    (remoteOut s s.cpu.id < 64 → exec .rmtAccept s = .next go) ∧
    exec .kilnAccept s = .next go ∧ exec .collAccept s = .next go ∧
    (∀ j, (clusterAt s cl.val).flue[n.val]? = some j →
      j.active = true ∨ ((clusterAt s cl.val).flue.filter (·.active)).length < 4 →
      ∀ c t, readChunk s j (span (4096 * j.chunk) (min (4096 * (j.chunk + 1)) j.len)) = (c, t) →
        (c.stop = none → exec (.flueChunk cl n) s = .next (finishChunk t cl.val j c)) ∧
        (∀ e, c.stop = some e → exec (.flueChunk cl n) s = .next (stopChunk t cl.val j c e))) ∧
    (∀ r, s.remotes.find? (fun r => r.token = token && podDev r.addr = s.devid) = some r →
      (∀ v t, own r = (.done v, t) → exec (.remoteAccess (.own token)) s = .next (settle (without t r) r.token false v)) ∧
      (∀ x t, own r = (.failed x, t) → exec (.remoteAccess (.own token)) s = .next (fails t r x))) ∧
    (∀ v t, asked = (.done v, t) → exec (.remoteAccess (.peer dev ten sys member sz loc data)) s =
      .next { t with answer := toBytes 8 v.toNat ++ [0] }) ∧
    (∀ x t, asked = (.failed x, t) → exec (.remoteAccess (.peer dev ten sys member sz loc data)) s =
      .next { t with answer := toBytes 8 0 ++ [BitVec.ofNat 8 x] }) ∧
    (∀ take, hDev token ≠ s.devid ∨ handleNames s token = false ∨ settled s token = false →
      exec (.remoteAccess (.observe dev token take)) s = .next { s with answer := toBytes 8 0 ++ [0] }) ∧
    (∀ take, hDev token = s.devid → handleNames s token = true → settled s token = true →
      let f := entryAt s token
      let home := match f.loc with
        | some n => if f.edge then writeBack s n else s
        | none => s
      let told := { home with answer := toBytes 8 f.result.toNat ++ [if f.st = .failed then 2 else 1] }
      exec (.remoteAccess (.observe dev token take)) s = .next (if take then dropRefs told [token] else told)) ∧
    (∀ r, s.remotes.find? (fun r => r.token = token && podDev r.addr != s.devid) = some r →
      exec (.remoteReply token failed value) s =
        .next (if failed then fails s r (value.toNat % 256) else settle (without s r) r.token false value)) ∧
    (s.remotes.find? (fun r => r.token = token && podDev r.addr != s.devid) = none →
      (hDev token = s.devid ∨ s.ndev ≤ hDev token → exec (.remoteReply token failed value) s = .next s) ∧
      (hDev token ≠ s.devid → hDev token < s.ndev →
        ((entryAt s token).st = .free ∨ (entryAt s token).st = .block → ∃ f, exec (.remoteReply token failed value) s = .next (setEntry s token f) ∧
          f.st = (if failed then .failed else .resolved) ∧ f.gen = hGen token ∧ f.result = value) ∧
        ((entryAt s token).st ≠ .free → (entryAt s token).st ≠ .block → exec (.remoteReply token failed value) s =
          .next (settle s token failed value)))) ∧
    (∀ r, s.remotes.find? (fun r => r.token = token) = some r →
      exec (.targetUnreachable token performed) s =
        .next (fails (if performed ∧ podDev r.addr = s.devid then (own r).2 else s) r 0x0B))

namespace Sys2Proof.Claims

/-- floor(log2 (num / den)) (R315). -/
def IsLog (num den : Nat) (l : Int) : Prop :=
  (0 ≤ l → den * 2 ^ l.toNat ≤ num ∧ num < den * 2 ^ (l.toNat + 1)) ∧
  (l < 0 → den ≤ num * 2 ^ (-l).toNat ∧ num * 2 ^ (-l).toNat < 2 * den)

/-- The integer that Align keeps of a finite value, whose lowest bit has weight 2^u: truncated toward zero (R315). -/
def kept (u : Int) : FpVal → Int
  | .fin neg num den =>
    let m : Int := ((num * 2 ^ (-u).toNat / (den * 2 ^ u.toNat) : Nat) : Int)
    if neg then -m else m
  | _ => 0

/-- Align of finite values with W bits: u lies W - 1 below the greatest floor(log2) of the nonzero ones, and is 0 when
there is none (R315). -/
def Aligned (vals : List FpVal) (w : Nat) (u : Int) : Prop :=
  ((∀ v ∈ vals, ∃ n d, v = .fin n 0 d) → u = 0) ∧
  (∀ n a d, .fin n a d ∈ vals → a ≠ 0 → ∀ l, IsLog a d l → l - (w - 1) ≤ u) ∧
  ((∃ v ∈ vals, ∀ n d, v ≠ .fin n 0 d) → ∃ n a d, .fin n a d ∈ vals ∧ a ≠ 0 ∧ IsLog a d (u + (w - 1)))

/-- BlockValue of 32 elements of each operand with their scales, as FP32 bits: the sum of the products of the kept
integers is exact, and is rounded once with both weights and both scales (R315). -/
def BlockIs (ta tb : Ty) (a b : List Nat) (xa xb v : Nat) : Prop :=
  let va := a.map (blockElem ta)
  let vb := b.map (blockElem tb)
  let bad := va.any notFinite || vb.any notFinite || xa = 255 || xb = 255
  (bad = true → v = 0x7FC00000) ∧
  (bad = false → ∃ ua ub, Aligned va (elemWidth ta) ua ∧ Aligned vb (elemWidth tb) ub ∧
    let sum := ((va.zip vb).map fun p => kept ua p.1 * kept ub p.2).sum
    let w := ua + ub + ((xa : Int) - 127) + ((xb : Int) - 127)
    v = if sum = 0 then 0
      else (roundTo fmt32 .rne false (.fin (decide (sum < 0)) (sum.natAbs * 2 ^ w.toNat) (2 ^ (-w).toNat))).1)

end Sys2Proof.Claims

/-- R291, R292, R296, R304, R307 to R311, R315, R316, R322: the jobs at the head of a bank's order; what a row job adds to
its row in each arithmetic class, which words it poisons, and that it leaves every other row alone. -/
def Obligations.BankEvents : Prop :=
  ∀ (s : State) (cl : Fin 96) (n : Fin 8),
    let bk := bankAt s cl.val n
    (bk.clearing = true → exec (.bankClear cl n) s = .next (modBank s cl.val n fun b =>
      { b with tile := 0, scales := 0, acc := 0, fmt := 0, poisonTile := 0, poisonScales := 0, poisonAcc := 0,
               clearing := false })) ∧
    (∀ r0 m h rest, bk.jobs = .zero r0 m h :: rest →
      exec (.accumulatorZeroJob cl n) s = .next (finishJob s cl.val n fun b => zeroRows b r0 m)) ∧
    (∀ clear r k0 m ty a xa h rest, bk.jobs = .row clear r k0 m ty a xa h :: rest →
      exec (.rowJob cl n) s = .next (finishJob s cl.val n fun b => doRow b clear r k0 m ty a xa h)) ∧
    (∀ taddr stride saddr sstride fmt kb nc token env rest,
      bk.jobs = .load taddr stride saddr sstride fmt kb nc token env :: rest →
      (∀ bs marks t, engineBytes s env (tileAddrs taddr stride saddr sstride fmt kb nc) = (.inr (bs, marks), t) →
        marksAny marks = false → ∃ u, exec (.tileLoad cl n) s = .next u ∧
          u = finishJob (settle t token false 0) cl.val n fun b =>
            { b with
              usable := true, fmt := fmt, drop := false, poisonTile := 0, poisonScales := 0
              tile := BitVec.ofNat 1048576 (packSlots 16 ((List.range 65536).map fun j =>
                tileElem bs fmt kb nc (j / 256) (j % 256)))
              scales := BitVec.ofNat 16384 (packSlots 8 ((List.range 2048).map fun j =>
                tileScale bs fmt kb nc (j / 256) (j % 256))) }) ∧
      (∀ code t, engineBytes s env (tileAddrs taddr stride saddr sstride fmt kb nc) = (.inl code, t) →
        exec (.tileLoad cl n) s = .next (finishJob (settle t token true (failCode code)) cl.val n fun b =>
          { b with usable := false, fmt := fmt,
                   failed := if b.failed.contains env.handle then b.failed else b.failed ++ [env.handle] }))) ∧
    (∀ b r0 m j, r0 + m ≤ 64 → j < 16384 → slot (zeroRows b r0 m).acc j 32 =
      if r0 ≤ j / 256 ∧ j / 256 < r0 + m then 0 else slot b.acc j 32) ∧
    (∀ b clear r k0 m ty a xa h col, b.usable = true → r < 64 → m ≠ 0 → col < 256 →
      let kbs := span (k0 / 32) (cdiv (k0 + m) 32)
      let before := if clear then 0 else slot b.acc (256 * r + col) 32
      let word := slot (doRow b clear r k0 m ty a xa h).acc (256 * r + col) 32
      let av (kb : Nat) := (List.range 32).map fun j => slot a (32 * kb + j) 16
      let bv (kb : Nat) := (List.range 32).map fun j => tileAt b (32 * kb + j) col
      let sum (kb : Nat) : Int := (((av kb).zip (bv kb)).map fun p => sgn 8 p.1 * sgn 8 p.2).sum
      let scale (kb : Nat) := if fmtClass b.fmt = .bf16 then (127, 127) else (slot xa kb 8, scaleAt b kb col)
      (fmtClass b.fmt = .int → word =
        kbs.foldl (fun acc kb => trunc 32 (max (-(2 ^ 31 : Int)) (min (2 ^ 31 - 1) (sgn 32 acc + sum kb)))) before) ∧
      (fmtClass b.fmt ≠ .int → ∃ block : Nat → Nat,
        (∀ kb ∈ kbs, BlockIs ty (fmtElem b.fmt) (av kb) (bv kb) (scale kb).1 (scale kb).2 (block kb)) ∧
        word = kbs.foldl (fun acc kb =>
          (roundTo fmt32 .rne false (fpAdd .rne (fpVal fmt32 acc) (fpVal fmt32 (block kb))).1).1) before) ∧
      ((doRow b clear r k0 m ty a xa h).poisonAcc.getLsbD (256 * r + col) = true ↔
        (clear = false ∧ b.poisonAcc.getLsbD (256 * r + col) = true) ∨
        ∃ kb ∈ kbs, (fmtClass b.fmt = .mx ∧ b.poisonScales.getLsbD (256 * kb + col) = true) ∨
          ∃ k < 32, b.poisonTile.getLsbD (256 * (32 * kb + k) + col) = true)) ∧
    (∀ b clear r k0 m ty a xa h j, r < 64 → j < 16384 → j / 256 ≠ r →
      slot (doRow b clear r k0 m ty a xa h).acc j 32 = slot b.acc j 32)

namespace Sys2Proof.Claims

/-- A member's operation is the same as this device's (R361). -/
def SameOp (g : Machine.Group) (urgent : Bool) (o : GroupOp) (p : PeerOp) : Prop :=
  p.tag = g.tag ∧ p.members = g.members ∧
  ((o.coll = none ∧ p.coll = none) ∨
   ∃ c q, o.coll = some c ∧ p.coll = some q ∧ q.kind = c.kind ∧ q.op = c.op ∧ q.fmt = c.fmt ∧ q.count = c.count ∧
     q.chunk = c.chunk ∧ q.root = c.root ∧ q.urgent = urgent)

/-- Combine of a floating-point sum within one pod (R364). -/
def addPairs (x y : FpVal × FpVal) : FpVal × FpVal :=
  let to32 (v : FpVal) := fpVal fmt32 (roundTo fmt32 .rne false v).1
  let exact := (fpAdd .rne x.1 y.1).1
  let s := to32 exact
  if notFinite s then (s, .fin false 0 1)
  else (s, to32 (fpAdd .rne (to32 (fpAdd .rne x.2 y.2).1) (fpAdd .rne exact (fpNeg s)).1).1)

/-- Final of a floating-point sum within one pod, in the payload format (R364). -/
def finalPair (f : FloatFmt) (x : FpVal × FpVal) : Nat :=
  (roundTo f .rne false (if notFinite x.1 then x.1 else (fpAdd .rne x.1 x.2).1)).1

/-- What the owner's reduction gives of one element's contributions, each with its pod, in rank order (R363 to R365). -/
def Reduced (op fmt : Nat) (xs : List (Nat × Nat)) (v : Nat) : Prop :=
  let f := if fmt = 1 then fmtFloat .bf16 else fmt32
  let t : Ty := if fmt = 2 then .i32 else if fmt = 1 then .bf16 else .fp32
  let pods := (xs.map (·.1)).eraseDups
  (op = 0 → fmt = 2 → v = trunc 32 (max (-(2 ^ 31 : Int)) (min (2 ^ 31 - 1) (xs.map fun x => sgn 32 x.2).sum))) ∧
  (op = 0 → fmt ≠ 2 → ∀ sums hops, IsTree addPairs (.fin false 0 1, .fin false 0 1) sums →
    IsTree (fun a b => (roundTo f .rne false (fpAdd .rne (fpVal f a) (fpVal f b)).1).1) 0 hops →
    v = hops (pods.map fun p =>
      finalPair f (sums ((xs.filter (·.1 = p)).map fun x => (fpVal f x.2, .fin false 0 1))))) ∧
  (op ≠ 0 → ∃ flags, Extreme (op == 1) t (xs.map (·.2)) (v, flags))

end Sys2Proof.Claims

/-- R256, R274, R361 to R367: a group's operations are matched, performed and failed; what a chunk reads and writes, in whole
aligned 8-byte units of its buffers. Before a group fails for an abandoned collective that has begun a chunk, the results
of that chunk are written. The sign of the zero that two zeros of opposite sign leave in Combine and in Final is +0, the
model's choice (log 94). -/
def Obligations.GroupEvents : Prop :=
  ∀ (s : State) (n : Fin 256) (urgent : Bool) (g : Machine.Group), s.groups.find n.val = some g →
    (∀ o ops peers, matchFirst (groupOps g urgent) = some (o, ops) →
      let t := { s with groups := Tab.put s.groups n.val { withOps g urgent ops with joined := true } }
      (peers.length + 1 ≠ g.members.length → exec (.groupMatch n urgent peers) s = .next s) ∧
      (peers.length + 1 = g.members.length → (∀ p ∈ peers, SameOp g urgent o p) →
        exec (.groupMatch n urgent peers) s = .next (if o.coll = none then settle t o.token false 0 else t)) ∧
      (peers.length + 1 = g.members.length → (∃ p ∈ peers, ¬SameOp g urgent o p) →
        exec (.groupMatch n urgent peers) s = .next (failGroup s n.val))) ∧
    (∀ op rest c inputs, groupOps g urgent = op :: rest → op.coll = some c → leavesLate s n.val = true →
      exec (.collChunk n urgent inputs) s = .next (failGroup (writeLate s g) n.val)) ∧
    (∀ op rest c inputs, groupOps g urgent = op :: rest → op.coll = some c → leavesLate s n.val = false → op.matched = true →
      (urgent = true ∨ s.groups.any (fun p => p.2.urgent.any (·.matched)) = false) →
      let p := g.members.length
      let m := if c.fmt = 1 then 2 else 4
      let ins := inputElems c p g.rank op.done
      let need := (ins.map fun e => (List.range m).map fun k => c.inp + e * m + k).flatten
      let fresh := inputUnits c (need.filter fun a => !(op.got.map (·.1)).contains a)
      let reads := engineBytes s op.env fresh
      (∀ a, a ∈ fresh ↔ (∃ b ∈ need, b ∉ op.got.map (·.1) ∧ b / 8 = a / 8) ∧ c.inp ≤ a ∧ a < c.inp + c.count * m) ∧
      (∀ code t, reads = (.inl code, t) → exec (.collChunk n urgent inputs) s = .next (failGroup t n.val)) ∧
      (∀ bs marks t l u, reads = (.inr (bs, marks), t) →
        let read := op.got ++ fresh.zip (bs.zip marks)
        let mine := need.map fun a => ((read.find? fun x => x.1 = a).map (·.2)).getD (0, 0)
        let bad := marksAny (mine.map (·.2))
        let all := op.late ++ chunkResult g c op.done (elemsOf m ins.length (mine.map (·.1))) inputs
        let outs := if c.kind = 1 then c.count / p else if c.kind = 2 then p * c.count else c.count
        let last := decide (chunkCount c p ≤ op.done + 1)
        let ready (r : Nat × Nat) : Bool := last || unitWhole c p (all.map (·.1)) r.1
        (∀ r, ready r = true ↔ last = true ∨ (m ∣ c.out ∧
          ∀ e < outs, (c.out + e * m) / 8 = (c.out + r.1 * m) / 8 → ∃ x ∈ all, x.1 = e)) ∧
        (placeResults t op.env c (all.filter ready) = (l, u) →
        (bad = true → exec (.collChunk n urgent inputs) s = .next (failGroup u n.val)) ∧
        (bad = false → (∃ x ∈ l, resultFits u x.2 = false) →
          exec (.collChunk n urgent inputs) s = .next (failGroup (writeResults u false c l) n.val)) ∧
        (bad = false → (∀ x ∈ l, resultFits u x.2 = true) →
          let w := writeResults u true c l
          exec (.collChunk n urgent inputs) s = .next
            (if last then
              settle { w with groups := Tab.put w.groups n.val (withOps g urgent rest) } op.token false
                (BitVec.ofNat 64 outs)
            else { w with groups := Tab.put w.groups n.val (withOps g urgent
              ({ op with done := op.done + 1, got := read.filter fun x => !need.contains x.1,
                         late := all.filter fun r => !ready r } :: rest)) }))))) ∧
    (∀ c j mine inputs, g.members ≠ [] →
      let p := g.members.length
      let count := if c.kind = 1 then c.count / p else c.count
      let es := span (j * c.chunk) (min ((j + 1) * c.chunk) count)
      let w := if c.fmt = 1 then 16 else 32
      let given (q k : Nat) : Nat :=
        if q = g.rank then mine.getD (if c.kind = 1 then g.rank * es.length + k else k) 0
        else ((inputs.getD q []).getD k 0).toNat % 2 ^ w
      let all (k : Nat) := (List.range p).map fun q => ((g.members.getD q (0, 0)).1, given q k)
      (c.kind < 2 → ∃ v : Nat → Nat, (∀ k < es.length, Reduced c.op c.fmt (all k) (v k)) ∧
        chunkResult g c j mine inputs = (List.range es.length).map fun k => (es.getD k 0, v k)) ∧
      (c.kind = 2 → chunkResult g c j mine inputs = ((List.range p).map fun q =>
        (List.range es.length).map fun k => (q * c.count + es.getD k 0, given q k)).flatten) ∧
      (c.kind = 3 → chunkResult g c j mine inputs =
        (List.range es.length).map fun k => (es.getD k 0, given c.root k))) ∧
    exec (.groupFail n) s = .next (failGroup (writeLate s g) n.val)

namespace Sys2Proof.Claims

/-- A picked entry leaves the pending ones and takes one of the 100-cycle dispatch slots; Since3 counts the dispatches since
the last to tier 3 (R392, R393). -/
def taken (s : State) (e : Entry) : State :=
  { s with reel := { s.reel with pending := s.reel.pending.erase e, since3 := if e.tier = 3 then 0 else s.reel.since3 + 1,
                                 next := s.clock + 100 } }

/-- The completion record of R395. -/
def recordBytes (c : Completion) : List Byte :=
  toBytes 8 c.result.toNat ++ toBytes 4 c.seq.toNat ++ toBytes 1 c.status ++
  toBytes 1 (if c.deadline < c.ended then 1 else 0) ++ toBytes 2 0 ++ toBytes 8 c.dispatched.toNat ++
  toBytes 8 c.ended.toNat

/-- A completion: the record is written, byte 12 last, and the vector of the queue's tenant is raised at its host; the
management queue raises none (R395). -/
def completes (s : State) (c : Completion) : State :=
  let t := queueTenant c.queue
  let b := recordBytes c
  let u := reelWrite s t c.compl.toNat (b.take 12)
  let v := reelWrite u t (c.compl.toNat + 13) (b.drop 13)
  let w := reelWrite v t (c.compl.toNat + 12) [BitVec.ofNat 8 c.status]
  match c.queue with
  | .host h q => { w with msix := w.msix ++ [(h, q.val)] }
  | .mgmt => w

/-- The completion of an entry that was not dispatched: RESULT 0, DISPATCH 0 and END now, as R396 has it of a cancelled
one (R396; of another, log 124). -/
def notRun (s : State) (e : Entry) (status : Nat) : Completion :=
  { queue := e.queue, seq := e.seq, compl := e.compl, deadline := e.deadline, result := 0, status := status,
    dispatched := 0, ended := s.devtime }

/-- The completion of an entry that runs nothing: its deadline is that of its launch record, once that was read, as R438
gives it (R393, R395). -/
def entryEnds (s : State) (e : Entry) (status : Nat) (record : Option (List Byte)) : State :=
  let due (r : List Byte) : Word :=
    if e.deadline = BitVec.allOnes 64 ∧ at_ r 32 8 ≠ 0 then BitVec.ofNat 64 (min (e.arrival.toNat + at_ r 32 8) (2 ^ 64 - 1))
    else e.deadline
  completes (taken s e) { notRun s e status with deadline := (record.map due).getD e.deadline }

/-- Entries and launches cancelled: an entry that was not dispatched completes at once as CANCELLED; of a launch that has
neither ended nor been cancelled before, the Reel drops the root future's reference, which dooms the root (R389, R396). -/
def cancels (s : State) (p : QueueId → BitVec 32 → Bool) : State :=
  let gone := s.reel.pending.filter fun e => p e.queue e.seq
  let t := { s with reel := { s.reel with pending := s.reel.pending.filter fun e => !p e.queue e.seq } }
  let u := (gone.map fun e => notRun t e 3).foldl completes t
  (u.reel.launches.filter fun l => p l.queue l.seq).foldl (fun v l =>
    if l.cancelled || l.ended.isSome then v
    else dropRefs { v with reel := { v.reel with launches := v.reel.launches.map fun m =>
      if m.root = l.root then { m with cancelled := true } else m } } [l.root]) u

/-- A launch record that R437 has refused, for an entry of a tier. -/
def BadLaunch (b : List Byte) (tier : Nat) : Prop :=
  let n := at_ b 8 1
  n = 0 ∨ 8 < n ∨ n ≤ at_ b 9 1 ∨ 1 < at_ b 10 1 ∨ 4 < at_ b 11 1 ∨ 64 < at_ b 12 1 ∨ 8 < at_ b 13 1 ∨ 3 < at_ b 14 1 ∨
  7 < at_ b 15 1 ∨ (∃ j < 8, (j < n ∧ 4 < at_ b (16 + j) 1) ∨ (n ≤ j ∧ at_ b (16 + j) 1 ≠ 0)) ∨
  (∃ j < 7, at_ b 15 1 ≤ j ∧ at_ b (40 + 8 * j) 8 ≠ 0) ∨ at_ b 96 32 ≠ 0 ∨ at_ b 0 8 % 64 ≠ 0 ∨ tier < at_ b 14 1

/-- An object header that R431 has refused. -/
def BadObject (b : List Byte) : Prop :=
  at_ b 0 4 ≠ 0x4B4F4B48 ∨ at_ b 4 2 ≠ 1 ∨ at_ b 6 1 = 0 ∨ 8 < at_ b 6 1 ∨ at_ b 7 1 ≠ 0 ∨ at_ b 16 48 ≠ 0 ∨
  at_ b 8 8 % 64 ≠ 0

/-- An image of a descriptor that is eligible and fits a launch of a tenant (R434, R435). -/
def Suits (t : Tenant) (l d : List Byte) : Prop :=
  let c := max (at_ l 12 1) (at_ d 8 1)
  (at_ d 0 1 = 1 ∧ 9 ≤ at_ d 1 1 ∧ at_ d 1 1 ≤ 11 ∧ 11 ≤ at_ d 2 1 ∧ at_ d 2 1 ≤ 16 ∧ at_ d 3 1 ≤ 1 ∧ at_ d 4 4 < 16 ∧
    at_ d 4 4 &&& t.featmask.toNat = 0 ∧ at_ d 8 1 ≤ 64 ∧ at_ d 9 1 ≤ 8 ∧ at_ d 11 1 = 0 ∧ at_ d 24 8 % 8 = 0 ∧
    at_ d 36 28 = 0 ∧ (at_ d 3 1 = 1 ∨ at_ d 10 1 = 0)) ∧
  c ≤ 64 ∧ c * at_ d 12 4 ≤ 131072 ∧ max (at_ l 13 1) (at_ d 9 1) ≤ t.bankmax ∧ max (at_ l 28 4) (at_ d 16 4) ≤ 4194304 ∧
  at_ d 20 4 ≤ 262144 ∧ at_ l 24 4 < at_ d 32 4

/-- What a dispatch finds out about its entry: refused before its launch record is read, refused or without resources
after it, or ready to run, with the image that R436 takes: the first of the table that suits (R393, R399, R431, R436,
R437). -/
def Plans (s : State) (e : Entry) : Prop :=
  let q := queueTenant e.queue
  let x := s.tenants.get q
  let bad := e.reserved = true ∨ e.tier < x.tiermin ∨ x.state ≠ 1 ∨ e.lrec.toNat % 64 ≠ 0
  (bad → planEntry s e = (.refuse 4 none, s)) ∧
  (¬bad → ∀ place u, reelPlace s q .write e.compl.toNat = (place, u) →
    (place = none ∨ e.compl.toNat % 32 ≠ 0 → planEntry s e = (.refuse 4 none, u)) ∧
    (place ≠ none → e.compl.toNat % 32 = 0 →
      (∀ v, reelRead u q e.lrec.toNat 128 = (none, v) → planEntry s e = (.refuse 4 none, v)) ∧
      ∀ l v, reelRead u q e.lrec.toNat 128 = (some l, v) →
        let refused (w : State) := planEntry s e = (.refuse 4 (some l), w)
        (BadLaunch l e.tier → refused v) ∧
        (¬BadLaunch l e.tier →
          (∀ w, reelRead v q (at_ l 0 8) 64 = (none, w) → refused w) ∧
          ∀ h w, reelRead v q (at_ l 0 8) 64 = (some h, w) →
            (BadObject h → refused w) ∧
            (¬BadObject h →
              (∀ y, readImages w q (at_ h 8 8) (at_ h 6 1) = (none, y) → refused y) ∧
              ∀ ds y, readImages w q (at_ h 8 8) (at_ h 6 1) = (some ds, y) →
                ((∀ d ∈ ds, ¬Suits (y.tenants.get q) l d) → planEntry s e = (.refuse 2 (some l), y)) ∧
                ∀ before d after, ds = before ++ d :: after → Suits (y.tenants.get q) l d →
                  (∀ o ∈ before, ¬Suits (y.tenants.get q) l o) →
                  let entry := reelRead y q (at_ d 24 8 + 8 * at_ l 24 4) 8
                  (∀ z, entry = (none, z) → refused z) ∧
                  ∀ b z, entry = (some b, z) → planEntry s e = (.run l d (BitVec.ofNat 64 (ofBytes b)), z)))))

/-- The root task of a launch as it begins (R393, R399, R438, R439). -/
structure RootBegins (e : Entry) (l d : List Byte) (pc h : Word) (core : Nat) (c : Ctx) : Prop where
  place : c.pc = pc ∧ c.tself = h ∧ c.domCore = core ∧ c.tenant = queueTenant e.queue ∧
    c.priv = (if e.queue = .mgmt then 1 else 0)
  args : ∀ i : Fin 32, c.g.get i =
    if 2 ≤ i.val ∧ i.val < 2 + at_ l 15 1 then BitVec.ofNat 64 (at_ l (40 + 8 * (i.val - 2)) 8) else 0
  level : c.level = at_ l 9 1 ∧ (c.pin = true ↔ at_ l 10 1 = 1) ∧ c.kinds.length = at_ l 8 1 ∧
    ∀ j < at_ l 8 1, c.kinds[j]? = some (at_ l (16 + j) 1)
  urgency : c.cls = 3 - e.tier ∧ c.limit = 3 - e.tier
  hint : c.cap = c.launchCap ∧ c.launchCap = min 8 (min
    (if at_ l 11 1 = 1 then 1 else if at_ l 11 1 = 2 then 2 else if at_ l 11 1 = 3 then 4 else 8) (2 ^ at_ d 2 1 / 2048))
  fresh : c.held = [] ∧ c.depth = 0 ∧ c.vec = VecState.reset ∧ c.need = 0 ∧ c.fst = 0 ∧ c.pfx = Pfx.none ∧ c.viq = []

/-- The root of a launch as its dispatch leaves it on a core: a ready context that holds the arguments of its launch record,
a launch that the Reel follows, and the context cap of record and image, where they give one (R393, R438, R439). -/
def rootStarts (s : State) (e : Entry) (l d : List Byte) (core : Nat) (h : Word) (r : Rec) : State :=
  let lim := max (at_ l 12 1) (at_ d 8 1)
  let t := modCore (taken s e) core fun c => { c with recs := c.recs ++ [r], ctxlim := if lim = 0 then c.ctxlim else lim }
  { t with reel := { t.reel with launches := t.reel.launches ++
      [{ queue := e.queue, seq := e.seq, compl := e.compl, deadline := deadlineOf e l, dispatched := t.devtime,
         root := h, cancelled := false, ended := none }] } }

/-- One entry goes before another: the more urgent tier, then the earlier DEADLINE (R392). -/
def Sooner (a b : Entry) : Prop := a.tier < b.tier ∨ (a.tier = b.tier ∧ a.deadline < b.deadline)

/-- The entry that R392 takes of those pending, which stand in the order of their arrival: the oldest of tier 3, once it has
waited 1 ms and 15 dispatches have gone to other tiers, and else the first that none goes before. -/
structure Picked (s : State) (may : List Entry) (e : Entry) : Prop where
  aged : ∀ o, may.find? (fun x => x.tier = 3) = some o → o.arrival.toNat + 1000000 ≤ s.devtime.toNat →
    15 ≤ s.reel.since3 → e = o
  best : (∀ o, may.find? (fun x => x.tier = 3) = some o → s.devtime.toNat < o.arrival.toNat + 1000000 ∨
      s.reel.since3 < 15) → ∃ before after, may = before ++ e :: after ∧ (∀ x ∈ before, Sooner e x) ∧
        ∀ x ∈ after, ¬Sooner x e

/-- A core that may take a root task of a tenant: in a permitted cluster, with room in its context cache (R393). -/
def MayHost (s : State) (q : Fin 16) (n : Nat) : Prop :=
  n < 768 ∧ (s.tenants.get q).clusters.getLsbD (clusterOf n) = true ∧
    ((coreAt s n).recs.filter fun r => r.spill.isNone).length < (coreAt s n).ctxlim

/-- The core that R393 names: of those that may take the root, one with the fewest ready contexts, and the lowest such. -/
def HostCore (s : State) (q : Fin 16) (n : Nat) : Prop :=
  let ready (m : Nat) : Nat := ((coreAt s m).recs.filter fun r => r.st = .ready).length
  MayHost s q n ∧ ∀ m, MayHost s q m → ready n < ready m ∨ (ready n = ready m ∧ n ≤ m)

end Sys2Proof.Claims

/-- R389 to R399, R402, R429 to R439: the doorbell, arrival, the entry and the core that a dispatch takes, the checks of
its records and the image that it takes, the root as it begins, the completion record, cancellation and draining of
launches; in
RECOVERY the host's registers do nothing. The management queue is read before a host's, entries read in one cycle stand in
the order of their queues, and a draining tenant's entries complete before it is off. Under which key a ring is read, and what
DISPATCH and END hold in the record of an entry that completes REFUSED or RESOURCE, are the model's choice (logs 67 and
124). -/
def Obligations.ReelEvents : Prop :=
  ∀ (s : State) (host : Fin 2) (q : Fin 16) (tail root : Word) (seq : BitVec 32) (id : QueueId),
    let i := queueSlot (.host host q)
    (s.boot = .recovery → exec (.doorbell host q tail) s = .next s ∧ exec (.hostSignal host) s = .next s ∧
      exec (.cancel host q seq) s = .next s) ∧
    (s.boot ≠ .recovery →
      exec (.doorbell host q tail) s =
        .next { s with queues := s.queues.set i { s.queues.get i with tail := tail.toNat } } ∧
      ((s.hostRoute.get host).toNat < 768 → exec (.hostSignal host) s =
        .next (modCore s (s.hostRoute.get host).toNat fun c => { c with pendHost := true })) ∧
      exec (.cancel host q seq) s = .next (cancels
        (arriveAll (min (2 ^ (s.queues.get i).log2n) (((s.queues.get i).tail + 2 ^ 64 - (s.queues.get i).head) % 2 ^ 64))
          (mgmtFirst s) (.host host q)) fun j m => j = .host host q && m = seq)) ∧
    (let u := if id = .mgmt then s else mgmtFirst s
     entryWaits u (u.queues.get (queueSlot id)) = true →
      let k := u.queues.get (queueSlot id)
      let r := readPhys u 0 (k.base.toNat + 64 * (k.head % 2 ^ k.log2n)) 64
      let t := { r.2 with queues := r.2.queues.set (queueSlot id) { k with head := (k.head + 1) % 2 ^ 64 } }
      exec (.entryArrival id) s = .next
        (if (r.2.tenants.get (queueTenant id)).state = 2 then completes t (notRun t (entryFrom r.2 id r.1) 3)
         else { t with reel := { t.reel with pending := insertEntry (entryFrom r.2 id r.1) t.reel.pending } })) ∧
    (∀ (e : Entry) (l : List Entry),
      let place : QueueId → Nat
        | .mgmt => 0
        | .host h t => 1 + 16 * h.val + t.val
      let inOrder (x y : Entry) : Prop := x.readAt = y.readAt → place x.queue ≤ place y.queue
      (insertEntry e l).Perm (e :: l) ∧ (l.Pairwise inOrder → (insertEntry e l).Pairwise inOrder) ∧
      ((∀ x ∈ l, x.readAt ≠ e.readAt) → insertEntry e l = l ++ [e])) ∧
    (let may := s.reel.pending.filter fun e => (s.tenants.get (queueTenant e.queue)).state != 2
     (∀ e, pickEntry s = some e → e ∈ may ∧ Picked s may e) ∧ (pickEntry s = none → may = [])) ∧
    (∀ n, dispatchCore s q = some n → HostCore s q n) ∧ (dispatchCore s q = none → ∀ n, ¬MayHost s q n) ∧
    (∀ e, s.reel.next ≤ s.clock → s.reel.pending ≠ [] → pickEntry s = some e →
      (∀ st l t, planEntry s e = (.refuse st l, t) → exec .dispatch s = .next (entryEnds t e st l)) ∧
      Plans s e ∧
      (∀ l d pc t, planEntry s e = (.run l d pc, t) →
        (∀ h n, RootBegins e l d pc h n (rootCtx e l d pc h n)) ∧
        (freeSlot t = none → exec .dispatch s = .next (entryEnds t e 2 (some l))) ∧
        (∀ n h u v, freeSlot t ≠ none → dispatchCore t (queueTenant e.queue) = some n → allocFut t 0 = some (h, u) →
          let r := readyRec u (rootCtx e l d pc h n) .gate false
          makeRoom ((coreAt t n).recs.length + 1) u n (recBytes r) = .ok v →
            exec .dispatch s = .next (rootStarts v e l d n h r)) ∧
        (freeSlot t ≠ none → dispatchCore t (queueTenant e.queue) = none → exec .dispatch s = .next t))) ∧
    (∀ l, s.reel.launches.find? (fun l => l.root = root && l.ended.isSome) = some l →
      let f := futAt s (hSlot l.root)
      let off (u : State) := { u with reel := { u.reel with launches := u.reel.launches.filter fun m => m.root != l.root } }
      let done (status : Nat) (result : Word) : Completion :=
        { queue := l.queue, seq := l.seq, compl := l.compl, deadline := l.deadline, result := result, status := status,
          dispatched := l.dispatched, ended := l.ended.getD s.devtime }
      let edge := match f.loc with
        | some n => writeBack s n
        | none => s
      (l.cancelled = true → exec (.launchCompletion root) s = .next (completes (off s) (done 3 0))) ∧
      (l.cancelled = false → exec (.launchCompletion root) s =
        .next (dropRefs (completes (off edge) (done (if f.st = .failed then 1 else 0) f.result)) [l.root]))) ∧
    ((s.tenants.get q).state = 2 →
      exec (.tenantDrain q) s = .next (cancels s fun j _ => queueTenant j = q)) ∧
    (tenantWaits s q = true → exec (.tenantDrainEnd q) s = .next s) ∧
    ((s.tenants.get q).state = 2 → tenantWaits s q = false → tenantRuns s q = false → tenantJobs s q = false → ∃ t,
      exec (.tenantDrainEnd q) s = .next t ∧ (t.tenants.get q).state = 0 ∧
      (∀ c ∈ t.clusters, ∀ e ∈ c.2.tlb, e.tenant ≠ q) ∧ t.mem = s.mem ∧ t.futs = s.futs)

/-- R191, R388, R398, R400 to R404: boot, keys, measurement, the host's accesses, errors, power and wear. In RECOVERY the
aperture and the registers do not answer. Where the gauges stand, that an answer raises vector 30 at both hosts, the
contents of an answer, which islands a die has, and how an adjustment keeps to PLIMIT are the model's (logs 16, 17, 23, 27,
98), and so are key slot 0 for the lines of the future table at boot (log 10) and that a host's access to an opened range of
a TCM or a CSP reaches none of its bytes (log 106). -/
def Obligations.ManagementEvents : Prop :=
  ∀ (s : State) (host : Fin 2) (off : BitVec 36) (count u : Nat) (bs : List Byte) (slot : Fin 64) (key : BitVec 512)
    (nonce : BitVec 256) (m : Fin 8) (dg : BitVec 384) (die : Die) (a : Word) (isl : Fin 256) (age eol : BitVec 16)
    (pa : BitVec 40) (im : BootImages) (points : List (Fin 256 × Fin 8)) (ents offs : List (Fin 96 × Fin 9))
    (site : PoisonSite),
    let hp := (s.bar2.get host).toNat * 2 ^ 36 + off.toNat
    let mail (u : State) (bs : List Byte) := { u with answer := bs, msix := u.msix ++ [(0, 30), (1, 30)] }
    (s.boot = .recovery → ∀ x, exec (.bar2Access host off x) s = .next s) ∧
    (s.boot ≠ .recovery →
      (openedTo s host hp count = true → exec (.bar2Access host off (.read count)) s =
        .next { (physRead false s 0 hp count).2 with answer := (physRead false s 0 hp count).1 }) ∧
      (openedTo s host hp bs.length = true → exec (.bar2Access host off (.write bs)) s = .next (physWrite false s 0 hp bs)) ∧
      (hp < ctlBase → s.memOk → ∃ t, exec (.bar2Access host off (.write bs)) s = .next t ∧
        ∀ x, inSram x = true → memGet t.mem x = memGet s.mem x) ∧
      (openedTo s host hp bs.length = false → exec (.bar2Access host off (.write bs)) s = .next s) ∧
      (ctlBase ≤ pa.toNat → pa.toNat < ctlEnd → exec (.registerWrite pa (.write bs)) s = .next (ctlWrite s pa.toNat bs)) ∧
      (ctlBase ≤ pa.toNat → exec (.registerWrite pa (.read count)) s =
        .next { s with answer := (List.range count).map fun i => (ctlRead s (pa.toNat + i) 1).headD 0 }) ∧
      exec (.registerWrite (BitVec.ofNat 40 (2 ^ 27 + 4 * isl.val)) (.read 4)) s =
        (let w := (s.wear.find isl.val).getD (0, 0xFFFF)
         .next { s with answer := toBytes 2 w.1.toNat ++ toBytes 2 w.2.toNat })) ∧
    exec (.keySlotWrite slot key) s = .next { s with keys := s.keys.set slot key } ∧
    (s.firmware = false → exec (.attestationRequest nonce) s = .next s ∧ exec (.measurementExtend m dg) s = .next s ∧
      exec (.tenantKeyLoad slot bs) s = .next s ∧ exec (.debugAuthorization bs) s = .next s) ∧
    (s.firmware = true →
    exec (.attestationRequest nonce) s =
      (let q := toBytes 32 nonce.toNat ++ (s.meas.toList.map fun x => toBytes 48 x.toNat).flatten ++
         (s.versions.map fun v => toBytes 4 v).flatten ++ s.identity
       .next (mail s (q ++ Config.attest q))) ∧
    (3 ≤ m.val → exec (.measurementExtend m dg) s =
      (let x := sha384 (toBytes 48 (s.meas.get m).toNat ++ toBytes 48 dg.toNat)
       .next { s with meas := s.meas.set m x })) ∧
    (m.val < 3 → exec (.measurementExtend m dg) s = .next s) ∧
    exec (.tenantKeyLoad slot bs) s = .next (match Config.unwrap bs with
      | some k => if slot = 0 then s else { s with keys := s.keys.set slot k }
      | none => s) ∧
    exec (.debugAuthorization bs) s = .next (if Config.verifies Config.fusedKeys bs then { measure s 7 bs with debugOk := true } else s)) ∧
    (s.boot = .off → s.cpu.id < 768 → ∃ t, exec (.boot im) s = .next t ∧
      (let runs (x : SignedImage) := Config.verifies Config.fusedKeys x.content && Config.fusedVersion ≤ x.version
       let system := Config.verifies (Config.manifestKeys im.firmware.content) im.system.content
       let more (old : BitVec 384) (x : SignedImage) := sha384 (toBytes 48 old.toNat ++ toBytes 48 (sha384 x.content).toNat)
       let base := bits im.ftbase.toNat 16 24 * 2 ^ 16
      let top := min (base + 64 * 2 ^ s.ftsize) hbmEnd
      (runs im.firmware = true → t.firmware = true) ∧
      if runs im.firmware && runs im.baseDie && runs im.ioDie && system then
        t.ftbase = base ∧ (∀ x, memGet t.mem x = if base ≤ x ∧ x < top then 0 else memGet s.mem x) ∧
        (∀ l, base / 128 ≤ l → l < top / 128 → keyOf t l = t.keys.get 0) ∧
        t.boot = .ready ∧ t.devtime = im.devtime ∧ t.devid = im.device.val ∧ t.cpu.fvec = im.fvec &&& ~~~0x3F ∧
        t.futs = [] ∧ t.versions = [im.firmware.version, im.baseDie.version, im.ioDie.version, im.system.version] ∧
        t.identity = im.identity ∧ t.msix = s.msix ++ [(0, 30), (1, 30)] ∧
        t.meas.get 0 = more (s.meas.get 0) im.firmware ∧
        t.meas.get 1 = more (more (s.meas.get 1) im.baseDie) im.ioDie ∧ t.meas.get 2 = more (s.meas.get 2) im.system ∧
        (t.tenants.get 0).state = 1 ∧ (t.tenants.get 0).tiermin = 0
      else t.boot = .recovery ∧ t.mem = s.mem ∧ t.queues = s.queues)) ∧
    (let t := points.foldl (fun t p => { t with points := t.points.set p.1 p.2 }) s
     let u := ents.foldl (fun t e => modCluster t e.1.val fun c => { c with ent := max 1 e.2.val }) t
     let v := offs.foldl (fun t e => turnOff t e.1.val e.2.val) u
     let lowers := (List.range 96).any fun n => (clusterAt u n).ent < (clusterAt s n).ent
     exec (.powerAdjust points ⟨ents, offs⟩) s =
       .next (if withinLimit v && !(lowers && (withinLimit t || t.points.toList.any (· != 0))) then v else s)) ∧
    (∀ cl < 96, ∀ g < 8,
      ((clusterAt s cl).grants.toList.any (·.getLsbD g) = true → turnOff s cl g = s) ∧
      ((clusterAt s cl).grants.toList.any (·.getLsbD g) = false → (clusterAt (turnOff s cl g) cl).gated.getLsbD g = true)) ∧
    exec (.wearUpdate isl age eol) s = .next { s with wear := Tab.put s.wear isl.val (age, eol) } ∧
    (∃ t, exec (.thermalThrottle die) s = .next t ∧
      ∀ i : Fin 256, t.points.get i = if onDie die i.val then 0 else s.points.get i) ∧
    exec (.thermalTrip die) s = .next (goFatal s 3 (BitVec.ofNat 64 (dieNumber die))) ∧
    exec (.correctedError u a) s = .next (logError s { cls := 0, unit := u, address := a }) ∧
    exec (.containedError ⟨u, site⟩) s =
      .next (logError (markSite s site) { cls := 1, unit := u, address := siteAddress site }) ∧
    exec (.uncontainedError u a) s = .next (goFatal s u a) ∧ (goFatal s u a).fatal = true

/-- R426 to R428, R380, R402, R416: the Spedy port, once it is authorized, in RECOVERY too, and the restart of a
core that HALT stopped. Where an entry has its fields, which of its bytes are free, and that a line of HBM is resident in L2
by free choice are the model's (logs 10, 15, 21). -/
def Obligations.DebugPort : Prop :=
  ∀ (s : State) (core : Fin 768) (fail : Bool) (r : Spr) (v : Word) (pa : BitVec 40) (count : Nat) (bs : List Byte)
    (key : Fin 64) (n : BitVec 32),
    let c := coreAt s core.val
    (s.debugOk = false → exec (.spedyHalt core) s = .next s ∧ exec (.rdspr core r) s = .next s ∧
      exec (.wrspr core r v) s = .next s ∧ exec (.wrpa pa bs key) s = .next s) ∧
    (s.debugOk = true →
      exec (.spedyHalt core) s = .next (onCore s core.val haltCore) ∧
      exec (.spedyRun core fail) s = .next (onCore s core.val fun t => runCore t fail) ∧
      (isHalted c = true →
        exec (.rdspr core r) s = .next (onCore s core.val fun t =>
          afterRead { t with answer := toBytes 8 (readSpr t r).toNat } r) ∧
        exec (.wrspr core r v) s = .next (onCore s core.val fun t => writeSpr t r v) ∧
        (∀ x, c.who = .idle → c.trapped = some x →
          exec (.rdctx core) s = .next { s with answer := toBytes 8 x.tself.toNat ++ recImage (trappedRec s x x.pc) }) ∧
        (c.who ≠ .idle → exec (.rdctx core) s =
          .next { s with answer := toBytes 8 c.live.tself.toNat ++ recImage (trappedRec s c.live c.live.pc) })) ∧
      (∃ b, exec (.rdpa pa count key) s = .next { s with answer := b } ∧ b.length = count ∧
        ∀ i < count, (pa.toNat + i < hbmEnd → b.getD i 0 = peekByte s key (pa.toNat + i)) ∧
          (inSram (pa.toNat + i) = true → b.getD i 0 = memGet s.mem (pa.toNat + i))) ∧
      (pa.toNat + bs.length ≤ hbmEnd → exec (.wrpa pa bs key) s = .next
        (((List.range bs.length).zip bs).foldl (fun t p => pokeByte t key (pa.toNat + p.1) p.2) s)) ∧
      (∃ t, exec (.wrpa pa bs key) s = .next t ∧ (pa.toNat < ctlBase → t.cpu = s.cpu) ∧ (s.memOk →
        ∀ i < bs.length, inSram (pa.toNat + i) = true → memGet t.mem (pa.toNat + i) = bs.getD i 0)) ∧
      ∃ b, exec (.rdft n) s = .next { s with answer := b } ∧ b.length = 64 ∧
        let f := futAt s n.toNat
        b.take 1 = toBytes 1 (futCode f.st) ∧
        (f.st = .block → (b.drop 4).take 4 = toBytes 4 f.gen ∧
          ∀ i < 6, (b.drop (8 + 8 * i)).take 8 = toBytes 8 (f.held.getD i 0).toNat) ∧
        (f.st ≠ .block →
          b.take 24 = toBytes 1 (futCode f.st) ++ toBytes 1 f.kind ++ toBytes 2 0 ++ toBytes 4 f.gen ++ toBytes 4 f.count ++
            toBytes 4 (heldBy s (mkHandle s.devid f.kind f.gen n.toNat)) ++ toBytes 8 f.result.toNat)) ∧
    exec (.coreRestart core) s = .next (modCore s core.val fun c =>
      if c.halt = .halted then { c with halt := .running } else c)


namespace Sys2Proof.Claims

/-- The running core's front is to issue the instruction i of the word at its pc: no agenda, interrupt, switch, wait, latch,
queued instruction, step or breakpoint comes first (R13, R131, R377, R411, R415). -/
structure Issues (s : State) (l : CodeLine) (i : Instr) : Prop where
  alive : s.fatal = false
  agenda : s.agenda = []
  running : s.cpu.halt = .running
  context : s.cpu.who ≠ .idle
  refetch : refetchReady s = false
  interrupt : nextInterrupt s = none
  switch : switchEvent s = none
  held : s.cpu.who = .task → s.cpu.hold = .none
  stall : s.cpu.stall = none
  latch : s.cpu.live.latch = none
  queue : s.cpu.live.viq = []
  step : stepReady s = false
  aligned : s.cpu.live.pc.toNat % 4 = 0
  line : codeLine s = some l
  unbroken : breakHit s = none
  word : decode (wordAt s l).toNat = .ok i

/-- The running core's front has issued the instruction i of a word already, and it waits or is held at its place; no
agenda, interrupt, switch, latch or queued instruction comes first, and for one that waits elsewhere than at its engine
neither a core that a Flue entry is free for nor an engine's work. -/
structure Reissues (s : State) (w : BitVec 32) (i : Instr) : Prop where
  alive : s.fatal = false
  agenda : s.agenda = []
  running : s.cpu.halt = .running
  context : s.cpu.who ≠ .idle
  refetch : refetchReady s = false
  interrupt : nextInterrupt s = none
  switch : switchEvent s = none
  held : s.cpu.who = .task → s.cpu.hold ≠ .inPlace
  issued : (∃ x, s.cpu.stall = some x ∧ x.word = some w) ∨
    (s.cpu.stall = none ∧ heldHere s = true ∧ ∃ h, s.cpu.live.holdAt = some h ∧ h.word = w)
  engines : s.cpu.stall ≠ none → offered s = none → waiterElsewhere s = none ∧ nextJob s = none
  latch : s.cpu.live.latch = none
  queue : s.cpu.live.viq = []
  word : decode w.toNat = .ok i

/-- The state that an instruction of the front is executed in and the one that its step leaves: a stepped task is armed
before it, what it completed is noted after it, time passes, and the future table in memory shows what has changed (R414,
R415, R419, R28, R229). -/
def around (i : Instr) (s : State) : Out := onNext (onNext (exec i (armed i s)) (noted i s)) (endStep s)

/-- What follows an instruction that the front has tried again: one that still waits at its engine lets the engines go on,
and a core that waits otherwise hands the turn on when another wants it (R329, log 1). -/
def afterTry (s t : State) : Out :=
  if (offered s).isSome then (if (offered t).isSome then enginesFirst t .next else .next t)
  else .next (if s.cpu.stall.isSome then yieldTurn t else t)

/-- Nothing but g[d], the copy that a prefix asks for, the pc, the prefix and `fst` may differ, and of `fst` the flags
alone. -/
def OnlyWrites (s t : State) (d : Reg) (flags : BitVec 9) : Prop :=
  let p := s.cpu.live.pfx
  t = { s with cpu := { s.cpu with
          stall := none
          live := { s.cpu.live with pc := s.cpu.live.pc + 4, pfx := Pfx.none, g := t.cpu.live.g, fst := t.cpu.live.fst } } } ∧
  (∀ r, r ≠ d → (p.v = true → p.pc = false → r ≠ p.pd) → reg t r = reg s r) ∧
  t.cpu.live.fst &&& ~~~flags = s.cpu.live.fst &&& ~~~flags ∧
  ∀ x, memGet t.mem x = memGet s.mem x

/-- The reset value of a special register of core n, as its map gives it (R58, R116, R143, R192, R231, R297, R336, R344,
R371, R388, R409, R17). -/
def resetValue (n : Fin 768) : Spr → Word
  | .vslip => 4
  | .tquant => 8192
  | .ctxlim => 64
  | .ftsize => 24
  | .wssize => 0x800000
  | .tcmbase => 0x000FFE0000000000
  | .cspbase => 0x000FFE0001000000
  | .cpstat => 64
  | .podcfg => 1
  | .tstatus => 2
  | .fsring => 4
  | .wear => 0xFFFF0000
  | .islst => 0x877
  | .wctl _ => 0x30
  | .trring => 6
  | .soot => 0x40
  | .coreid => BitVec.ofNat 64 n.val
  | .clusterid => BitVec.ofNat 64 (n.val / 8)
  | _ => 0

end Sys2Proof.Claims

/-- R13, R33, R48, R261, R329, R411: when the word at the pc decodes to i, a step executes i; an instruction that waits or is
held is executed again from its own word, with no fetch and no breakpoint before it; one that waits at its engine before the
engines go on. A waiting core then hands the turn on when another wants it (log 1). -/
def Obligations.StepRunsDecoded : Prop :=
  ∀ (s : State) (l : CodeLine) (w : BitVec 32) (i : Instr),
    (Issues s l i → step s = around i s) ∧
    (Reissues s w i → ∀ t, exec i (armed i s) = .next t → step s = onNext (afterTry s (noted i s t)) (endStep s)) ∧
    (stepping s = false → armed i s = s) ∧
    (stepping s = true → (∀ pg ps pd pc pk, i ≠ .pfx pg ps pd pc pk) →
      armed i s = { s with cpu := { s.cpu with live := { s.cpu.live with stepDue := true } } })

/-- R33 to R35, R42, R43: ten words, one at least of each of the eight formats of R35 (A, I, L, W, J, B, V, P), written out
field by field from the encoding tables, decode to their instructions. -/
def Obligations.SpecWords : Prop :=
  decode 0b000001_00011_00100_00101_0_0000_001110 = .ok (.div 3 4 5 false) ∧
  decode 0b000010_00001_00010_1111111111111111 = .ok (.addi 1 2 0xFFFF) ∧
  decode 0b001000_00011_00100_10_0000000_0_000101 = .ok (.shai 3 4 false 5) ∧
  decode 0b011001_00111_00100_110_0000000010000 = .ok (.ld 7 4 .n32 16) ∧
  decode 0b001001_00111_100000000000000000001 = .ok (.liw 7 0x100001) ∧
  decode 0b001101_00001_00010_00011_000000000_11 = .ok (.lea 1 2 3 3) ∧
  decode 0b010000_11111111111111111111111110 = .ok (.j 0x3FFFFFE) ∧
  decode 0b010101_00001_00010_0000000000000100 = .ok (.blt 1 2 4) ∧
  decode 0b110001_01_00001_00010_01001_010_000000 = .ok (.vadd .vs 1 2 9 2) ∧
  decode 0b100010_00001_1_00010_0_101_00000000000 = .ok (.pfx 1 true 2 false 5)

/-- R33 to R48: every word instruction that R48 does not call ILLEGAL comes back from its word, with every operand. -/
def Obligations.EncodeDecode : Prop :=
  ∀ (i : Instr) (n : Nat), WellFormed i = true → encode i = some n → n < 2 ^ 32 ∧ decode n = .ok i

/-- R48: what the decoder accepts is a legal instruction, of no other word. -/
def Obligations.DecodeEncode : Prop :=
  ∀ (n : Nat) (i : Instr), n < 2 ^ 32 → decode n = .ok i → WellFormed i = true ∧ encode i = some n

/-- Every step keeps the memory in its canonical form, which is the model's own way to hold the bytes of R23 and R190. -/
def Obligations.StepKeepsMemoryForm : Prop :=
  ∀ (s t : State), s.memOk → step s = .next t → t.memOk

/-- R17, R58, R116, R143, R192, R231, R297, R336, R344, R370, R371, R388, R402, R409: reset gives the special registers of
every core the values of their maps, the handlers' g registers, the host routes and the measurement registers zero, and the
memory its canonical form. The value of `devid` is the model's (log 6). -/
def Obligations.ResetState : Prop :=
  State.reset.memOk ∧
  (∀ (n : Fin 768) (r : Spr), r ≠ .devid → readSpr { State.reset with cpu := Core.reset n.val } r = resetValue n r) ∧
  (∀ (n : Fin 768) (r : Reg), (Core.reset n.val).sys.ctx.g.get r = 0 ∧ (Core.reset n.val).fw.ctx.g.get r = 0) ∧
  (∀ h : Fin 2, State.reset.hostRoute.get h = 0) ∧ (∀ m : Fin 8, State.reset.meas.get m = 0)

/-- R54, R55, R69, R70, R83: what the scalar arithmetic instructions leave unchanged, which is everything but their result,
a prefix's copy of it, the pc and, for floating point, the exception flags; in a handler context those of its own `fst`
(log 13). -/
def Obligations.ScalarFrame : Prop :=
  ∀ (s : State) (d a b c : Reg) (w : Bool) (imm : BitVec 16) (big : BitVec 21) (k : Fin 64) (sh : Fin 4) (fmt src : Fmt)
    (rm : RM),
    (∀ i ∈ [Instr.add d a b w, .sub d a b w, .and d a b w, .or d a b w, .xor d a b w, .andn d a b w, .orn d a b w,
        .shl d a b w, .shr d a b w, .sha d a b w, .ror d a b w, .mul d a b w, .mulh d a b w, .mulhn d a b w, .div d a b w,
        .divn d a b w, .rem d a b w, .remn d a b w, .min d a b w, .max d a b w, .minn d a b w, .maxn d a b w, .slt d a b w,
        .sltn d a b w, .clz d a w, .ctz d a w, .popc d a w, .brev d a w, .addi d a imm, .andi d a imm, .ori d a imm,
        .xori d a imm, .slti d a imm, .sltni d a imm, .shli d a w k, .shri d a w k, .shai d a w k, .rori d a w k,
        .liw d big, .lis d big, .addpc d big, .sel d a b c, .lea d a b sh],
      Runs scalarAttr i s → ∃ t, exec i s = .next t ∧ OnlyWrites s t d 0) ∧
    (∀ i ∈ [Instr.fadd d a b fmt rm, .fsub d a b fmt rm, .fmul d a b fmt rm, .fdiv d a b fmt rm, .fsqrt d a fmt rm,
        .fmin d a b fmt, .fmax d a b fmt, .fcmpeq d a b fmt, .fcmplt d a b fmt, .fcmple d a b fmt, .fcmpun d a b fmt,
        .fclass d a fmt, .fcvti d a fmt rm, .fcvtn d a fmt rm, .fcvtfi d a fmt rm, .fcvtfn d a fmt rm,
        .fcvtf d a src fmt rm, .fma d a b c fmt rm, .fnma d a b c fmt rm],
      Runs scalarAttr i s → ∃ t, exec i s = .next t ∧ OnlyWrites s t d 0x1F0)
end

