-- ==== Sys2Proof/Laws/Dispatch.lean ====
section
/-!
SUPPORT. The meaning that each constructor has, one equation each, so that no proof unfolds the whole dispatch.
-/

namespace Sys2Proof.Machine

variable (s : State)

theorem exec_add d a b w : exec (.add d a b w) s = execAdd d a b w s := rfl
theorem exec_sub d a b w : exec (.sub d a b w) s = execSub d a b w s := rfl
theorem exec_and d a b w : exec (.and d a b w) s = execAnd d a b w s := rfl
theorem exec_or d a b w : exec (.or d a b w) s = execOr d a b w s := rfl
theorem exec_xor d a b w : exec (.xor d a b w) s = execXor d a b w s := rfl
theorem exec_andn d a b w : exec (.andn d a b w) s = execAndn d a b w s := rfl
theorem exec_orn d a b w : exec (.orn d a b w) s = execOrn d a b w s := rfl
theorem exec_shl d a b w : exec (.shl d a b w) s = execShl d a b w s := rfl
theorem exec_shr d a b w : exec (.shr d a b w) s = execShr d a b w s := rfl
theorem exec_sha d a b w : exec (.sha d a b w) s = execSha d a b w s := rfl
theorem exec_ror d a b w : exec (.ror d a b w) s = execRor d a b w s := rfl
theorem exec_mul d a b w : exec (.mul d a b w) s = execMul d a b w s := rfl
theorem exec_mulh d a b w : exec (.mulh d a b w) s = execMulh d a b w s := rfl
theorem exec_mulhn d a b w : exec (.mulhn d a b w) s = execMulhn d a b w s := rfl
theorem exec_div d a b w : exec (.div d a b w) s = execDiv d a b w s := rfl
theorem exec_divn d a b w : exec (.divn d a b w) s = execDivn d a b w s := rfl
theorem exec_rem d a b w : exec (.rem d a b w) s = execRem d a b w s := rfl
theorem exec_remn d a b w : exec (.remn d a b w) s = execRemn d a b w s := rfl
theorem exec_min d a b w : exec (.min d a b w) s = execMin d a b w s := rfl
theorem exec_max d a b w : exec (.max d a b w) s = execMax d a b w s := rfl
theorem exec_minn d a b w : exec (.minn d a b w) s = execMinn d a b w s := rfl
theorem exec_maxn d a b w : exec (.maxn d a b w) s = execMaxn d a b w s := rfl
theorem exec_slt d a b w : exec (.slt d a b w) s = execSlt d a b w s := rfl
theorem exec_sltn d a b w : exec (.sltn d a b w) s = execSltn d a b w s := rfl
theorem exec_clz d a w : exec (.clz d a w) s = execClz d a w s := rfl
theorem exec_ctz d a w : exec (.ctz d a w) s = execCtz d a w s := rfl
theorem exec_popc d a w : exec (.popc d a w) s = execPopc d a w s := rfl
theorem exec_brev d a w : exec (.brev d a w) s = execBrev d a w s := rfl
theorem exec_addi d a imm : exec (.addi d a imm) s = execAddi d a imm s := rfl
theorem exec_andi d a imm : exec (.andi d a imm) s = execAndi d a imm s := rfl
theorem exec_ori d a imm : exec (.ori d a imm) s = execOri d a imm s := rfl
theorem exec_xori d a imm : exec (.xori d a imm) s = execXori d a imm s := rfl
theorem exec_slti d a imm : exec (.slti d a imm) s = execSlti d a imm s := rfl
theorem exec_sltni d a imm : exec (.sltni d a imm) s = execSltni d a imm s := rfl
theorem exec_shli d a w n : exec (.shli d a w n) s = execShli d a w n s := rfl
theorem exec_shri d a w n : exec (.shri d a w n) s = execShri d a w n s := rfl
theorem exec_shai d a w n : exec (.shai d a w n) s = execShai d a w n s := rfl
theorem exec_rori d a w n : exec (.rori d a w n) s = execRori d a w n s := rfl
theorem exec_liw d imm : exec (.liw d imm) s = execLiw d imm s := rfl
theorem exec_lis d imm : exec (.lis d imm) s = execLis d imm s := rfl
theorem exec_addpc d imm : exec (.addpc d imm) s = execAddpc d imm s := rfl
theorem exec_sel d a b c : exec (.sel d a b c) s = execSel d a b c s := rfl
theorem exec_lea d a b sh : exec (.lea d a b sh) s = execLea d a b sh s := rfl
theorem exec_fadd d a b fmt rm : exec (.fadd d a b fmt rm) s = execFadd d a b fmt rm s := rfl
theorem exec_fsub d a b fmt rm : exec (.fsub d a b fmt rm) s = execFsub d a b fmt rm s := rfl
theorem exec_fmul d a b fmt rm : exec (.fmul d a b fmt rm) s = execFmul d a b fmt rm s := rfl
theorem exec_fdiv d a b fmt rm : exec (.fdiv d a b fmt rm) s = execFdiv d a b fmt rm s := rfl
theorem exec_fsqrt d a fmt rm : exec (.fsqrt d a fmt rm) s = execFsqrt d a fmt rm s := rfl
theorem exec_fmin d a b fmt : exec (.fmin d a b fmt) s = execFmin d a b fmt s := rfl
theorem exec_fmax d a b fmt : exec (.fmax d a b fmt) s = execFmax d a b fmt s := rfl
theorem exec_fcmpeq d a b fmt : exec (.fcmpeq d a b fmt) s = execFcmpeq d a b fmt s := rfl
theorem exec_fcmplt d a b fmt : exec (.fcmplt d a b fmt) s = execFcmplt d a b fmt s := rfl
theorem exec_fcmple d a b fmt : exec (.fcmple d a b fmt) s = execFcmple d a b fmt s := rfl
theorem exec_fcmpun d a b fmt : exec (.fcmpun d a b fmt) s = execFcmpun d a b fmt s := rfl
theorem exec_fclass d a fmt : exec (.fclass d a fmt) s = execFclass d a fmt s := rfl
theorem exec_fcvti d a fmt rm : exec (.fcvti d a fmt rm) s = execFcvti d a fmt rm s := rfl
theorem exec_fcvtn d a fmt rm : exec (.fcvtn d a fmt rm) s = execFcvtn d a fmt rm s := rfl
theorem exec_fcvtfi d a fmt rm : exec (.fcvtfi d a fmt rm) s = execFcvtfi d a fmt rm s := rfl
theorem exec_fcvtfn d a fmt rm : exec (.fcvtfn d a fmt rm) s = execFcvtfn d a fmt rm s := rfl
theorem exec_fcvtf d a src fmt rm : exec (.fcvtf d a src fmt rm) s = execFcvtf d a src fmt rm s := rfl
theorem exec_fma d a b c fmt rm : exec (.fma d a b c fmt rm) s = execFma d a b c fmt rm s := rfl
theorem exec_fnma d a b c fmt rm : exec (.fnma d a b c fmt rm) s = execFnma d a b c fmt rm s := rfl
theorem exec_j imm : exec (.j imm) s = execJ imm s := rfl
theorem exec_jl imm : exec (.jl imm) s = execJl imm s := rfl
theorem exec_jrl d a : exec (.jrl d a) s = execJrl d a s := rfl
theorem exec_beq a b imm : exec (.beq a b imm) s = execBeq a b imm s := rfl
theorem exec_bne a b imm : exec (.bne a b imm) s = execBne a b imm s := rfl
theorem exec_blt a b imm : exec (.blt a b imm) s = execBlt a b imm s := rfl
theorem exec_bge a b imm : exec (.bge a b imm) s = execBge a b imm s := rfl
theorem exec_bltn a b imm : exec (.bltn a b imm) s = execBltn a b imm s := rfl
theorem exec_bgen a b imm : exec (.bgen a b imm) s = execBgen a b imm s := rfl
theorem exec_ld d a sz imm : exec (.ld d a sz imm) s = execLd d a sz imm s := rfl
theorem exec_st d a sz imm : exec (.st d a sz imm) s = execSt d a sz imm s := rfl
theorem exec_xld d a b sh sz : exec (.xld d a b sh sz) s = execXld d a b sh sz s := rfl
theorem exec_xst d a b sh sz : exec (.xst d a b sh sz) s = execXst d a b sh sz s := rfl
theorem exec_amoSwap d a b rel acq x : exec (.amoSwap d a b rel acq x) s = execAmoSwap d a b rel acq x s := rfl
theorem exec_amoAdd d a b rel acq x : exec (.amoAdd d a b rel acq x) s = execAmoAdd d a b rel acq x s := rfl
theorem exec_amoAnd d a b rel acq x : exec (.amoAnd d a b rel acq x) s = execAmoAnd d a b rel acq x s := rfl
theorem exec_amoOr d a b rel acq x : exec (.amoOr d a b rel acq x) s = execAmoOr d a b rel acq x s := rfl
theorem exec_amoXor d a b rel acq x : exec (.amoXor d a b rel acq x) s = execAmoXor d a b rel acq x s := rfl
theorem exec_amoMin d a b rel acq x : exec (.amoMin d a b rel acq x) s = execAmoMin d a b rel acq x s := rfl
theorem exec_amoMax d a b rel acq x : exec (.amoMax d a b rel acq x) s = execAmoMax d a b rel acq x s := rfl
theorem exec_amoMinn d a b rel acq x : exec (.amoMinn d a b rel acq x) s = execAmoMinn d a b rel acq x s := rfl
theorem exec_amoMaxn d a b rel acq x : exec (.amoMaxn d a b rel acq x) s = execAmoMaxn d a b rel acq x s := rfl
theorem exec_amoCas d a b rel acq x : exec (.amoCas d a b rel acq x) s = execAmoCas d a b rel acq x s := rfl
theorem exec_cinit a b : exec (.cinit a b) s = execCinit a b s := rfl
theorem exec_cadd a b : exec (.cadd a b) s = execCadd a b s := rfl
theorem exec_cread d a : exec (.cread d a) s = execCread d a s := rfl
theorem exec_ctest d a b : exec (.ctest d a b) s = execCtest d a b s := rfl
theorem exec_rld d a sz : exec (.rld d a sz) s = execRld d a sz s := rfl
theorem exec_rst d a b sz : exec (.rst d a b sz) s = execRst d a b sz s := rfl
theorem exec_radd d a b sz : exec (.radd d a b sz) s = execRadd d a b sz s := rfl
theorem exec_rswp d a b sz : exec (.rswp d a b sz) s = execRswp d a b sz s := rfl
theorem exec_traps n : exec (.traps n) s = execTraps n s := rfl
theorem exec_brk n : exec (.brk n) s = execBrk n s := rfl
theorem exec_eret : exec .eret s = execEret s := rfl
theorem exec_halt : exec .halt s = execHalt s := rfl
theorem exec_waiti : exec .waiti s = execWaiti s := rfl
theorem exec_codesync a b : exec (.codesync a b) s = execCodesync a b s := rfl
theorem exec_tlbinv a : exec (.tlbinv a) s = execTlbinv a s := rfl
theorem exec_l1wb a b : exec (.l1wb a b) s = execL1wb a b s := rfl
theorem exec_mfs d spr : exec (.mfs d spr) s = execMfs d spr s := rfl
theorem exec_mts a spr : exec (.mts a spr) s = execMts a spr s := rfl
theorem exec_pfx pg ps pd pc pk : exec (.pfx pg ps pd pc pk) s = execPfx pg ps pd pc pk s := rfl
theorem exec_spawn d a b : exec (.spawn d a b) s = execSpawn d a b s := rfl
theorem exec_spawng d a b c : exec (.spawng d a b c) s = execSpawng d a b c s := rfl
theorem exec_finish a : exec (.finish a) s = execFinish a s := rfl
theorem exec_fref a b : exec (.fref a b) s = execFref a b s := rfl
theorem exec_fdrop a : exec (.fdrop a) s = execFdrop a s := rfl
theorem exec_fpoll d a : exec (.fpoll d a) s = execFpoll d a s := rfl
theorem exec_ftake d a : exec (.ftake d a) s = execFtake d a s := rfl
theorem exec_rpoint : exec .rpoint s = execRpoint s := rfl
theorem exec_rhold : exec .rhold s = execRhold s := rfl
theorem exec_rrel : exec .rrel s = execRrel s := rfl
theorem exec_tself d : exec (.tself d) s = execTself d s := rfl
theorem exec_ffail a : exec (.ffail a) s = execFfail a s := rfl
theorem exec_await d a b kl vs : exec (.await d a b kl vs) s = execAwait d a b kl vs s := rfl
theorem exec_awaitany d a b kl vs : exec (.awaitany d a b kl vs) s = execAwaitany d a b kl vs s := rfl
theorem exec_yield b kl vs : exec (.yield b kl vs) s = execYield b kl vs s := rfl
theorem exec_cwait d a b kl vs : exec (.cwait d a b kl vs) s = execCwait d a b kl vs s := rfl
theorem exec_cpy1d d a b c : exec (.cpy1d d a b c) s = execCpy1d d a b c s := rfl
theorem exec_cpy2d d a : exec (.cpy2d d a) s = execCpy2d d a s := rfl
theorem exec_cpfill d a b c : exec (.cpfill d a b c) s = execCpfill d a b c s := rfl
theorem exec_cpgath d a : exec (.cpgath d a) s = execCpgath d a s := rfl
theorem exec_cpqry d : exec (.cpqry d) s = execCpqry d s := rfl
theorem exec_mxbind d a b : exec (.mxbind d a b) s = execMxbind d a b s := rfl
theorem exec_mxload d a b : exec (.mxload d a b) s = execMxload d a b s := rfl
theorem exec_mxrow a b c : exec (.mxrow a b c) s = execMxrow a b c s := rfl
theorem exec_mxrowz a b c : exec (.mxrowz a b c) s = execMxrowz a b c s := rfl
theorem exec_mxsync d a : exec (.mxsync d a) s = execMxsync d a s := rfl
theorem exec_mxrd d a b : exec (.mxrd d a b) s = execMxrd d a b s := rfl
theorem exec_mxzero d a b : exec (.mxzero d a b) s = execMxzero d a b s := rfl
theorem exec_mxrel a : exec (.mxrel a) s = execMxrel a s := rfl
theorem exec_mxqry d a : exec (.mxqry d a) s = execMxqry d a s := rfl
theorem exec_fgrp d a b : exec (.fgrp d a b) s = execFgrp d a b s := rfl
theorem exec_fcoll d a : exec (.fcoll d a) s = execFcoll d a s := rfl
theorem exec_fbar d a : exec (.fbar d a) s = execFbar d a s := rfl
theorem exec_fgqry d a : exec (.fgqry d a) s = execFgqry d a s := rfl
theorem exec_fgfree a : exec (.fgfree a) s = execFgfree a s := rfl
theorem exec_dmark a : exec (.dmark a) s = execDmark a s := rfl
theorem exec_dsample d a : exec (.dsample d a) s = execDsample d a s := rfl
theorem exec_vsetl d a wc : exec (.vsetl d a wc) s = execVsetl d a wc s := rfl
theorem exec_vsetlw d a b wc : exec (.vsetlw d a b wc) s = execVsetlw d a b wc s := rfl
theorem exec_vtag d t : exec (.vtag d t) s = execVtag d t s := rfl
theorem exec_vclr d : exec (.vclr d) s = execVclr d s := rfl
theorem exec_vfold d a : exec (.vfold d a) s = execVfold d a s := rfl
theorem exec_vsave a : exec (.vsave a) s = execVsave a s := rfl
theorem exec_vrestore a : exec (.vrestore a) s = execVrestore a s := rfl
theorem exec_vmaxq d wc : exec (.vmaxq d wc) s = execVmaxq d wc s := rfl
theorem exec_vadd form d a b k : exec (.vadd form d a b k) s = execVadd form d a b k s := rfl
theorem exec_vsub form d a b k : exec (.vsub form d a b k) s = execVsub form d a b k s := rfl
theorem exec_vrsub form d a b k : exec (.vrsub form d a b k) s = execVrsub form d a b k s := rfl
theorem exec_vmul form d a b k : exec (.vmul form d a b k) s = execVmul form d a b k s := rfl
theorem exec_vmulh form d a b k : exec (.vmulh form d a b k) s = execVmulh form d a b k s := rfl
theorem exec_vmin form d a b k : exec (.vmin form d a b k) s = execVmin form d a b k s := rfl
theorem exec_vmax form d a b k : exec (.vmax form d a b k) s = execVmax form d a b k s := rfl
theorem exec_vabs d a k : exec (.vabs d a k) s = execVabs d a k s := rfl
theorem exec_vneg d a k : exec (.vneg d a k) s = execVneg d a k s := rfl
theorem exec_vdiv form d a b k : exec (.vdiv form d a b k) s = execVdiv form d a b k s := rfl
theorem exec_vrem form d a b k : exec (.vrem form d a b k) s = execVrem form d a b k s := rfl
theorem exec_vsqrt d a k : exec (.vsqrt d a k) s = execVsqrt d a k s := rfl
theorem exec_vexp2 d a k : exec (.vexp2 d a k) s = execVexp2 d a k s := rfl
theorem exec_vand form d a b k : exec (.vand form d a b k) s = execVand form d a b k s := rfl
theorem exec_vor form d a b k : exec (.vor form d a b k) s = execVor form d a b k s := rfl
theorem exec_vxor form d a b k : exec (.vxor form d a b k) s = execVxor form d a b k s := rfl
theorem exec_vshl form d a b k : exec (.vshl form d a b k) s = execVshl form d a b k s := rfl
theorem exec_vshr form d a b k : exec (.vshr form d a b k) s = execVshr form d a b k s := rfl
theorem exec_vsha form d a b k : exec (.vsha form d a b k) s = execVsha form d a b k s := rfl
theorem exec_vsadd form d a b k : exec (.vsadd form d a b k) s = execVsadd form d a b k s := rfl
theorem exec_vssub form d a b k : exec (.vssub form d a b k) s = execVssub form d a b k s := rfl
theorem exec_vavg form d a b k : exec (.vavg form d a b k) s = execVavg form d a b k s := rfl
theorem exec_vfma form d a b k : exec (.vfma form d a b k) s = execVfma form d a b k s := rfl
theorem exec_vfms form d a b k : exec (.vfms form d a b k) s = execVfms form d a b k s := rfl
theorem exec_vfnma form d a b k : exec (.vfnma form d a b k) s = execVfnma form d a b k s := rfl
theorem exec_vfnms form d a b k : exec (.vfnms form d a b k) s = execVfnms form d a b k s := rfl
theorem exec_vcvt d a t k rm : exec (.vcvt d a t k rm) s = execVcvt d a t k rm s := rfl
theorem exec_vcvts d a t k rm : exec (.vcvts d a t k rm) s = execVcvts d a t k rm s := rfl
theorem exec_vpackmx d a t rm : exec (.vpackmx d a t rm) s = execVpackmx d a t rm s := rfl
theorem exec_vunpkmx d a t rm : exec (.vunpkmx d a t rm) s = execVunpkmx d a t rm s := rfl
theorem exec_vrsum d a k q : exec (.vrsum d a k q) s = execVrsum d a k q s := rfl
theorem exec_vrsumo d a b k q : exec (.vrsumo d a b k q) s = execVrsumo d a b k q s := rfl
theorem exec_vrmax d a k q : exec (.vrmax d a k q) s = execVrmax d a k q s := rfl
theorem exec_vrmin d a k q : exec (.vrmin d a k q) s = execVrmin d a k q s := rfl
theorem exec_vrand d a k q : exec (.vrand d a k q) s = execVrand d a k q s := rfl
theorem exec_vror d a k q : exec (.vror d a k q) s = execVror d a k q s := rfl
theorem exec_vrxor d a k q : exec (.vrxor d a k q) s = execVrxor d a k q s := rfl
theorem exec_vrmaxi d a k q : exec (.vrmaxi d a k q) s = execVrmaxi d a k q s := rfl
theorem exec_vslup form d a b k : exec (.vslup form d a b k) s = execVslup form d a b k s := rfl
theorem exec_vsldn form d a b k : exec (.vsldn form d a b k) s = execVsldn form d a b k s := rfl
theorem exec_vrgath d a b k : exec (.vrgath d a b k) s = execVrgath d a b k s := rfl
theorem exec_vcompr d a k : exec (.vcompr d a k) s = execVcompr d a k s := rfl
theorem exec_vexpnd d a k : exec (.vexpnd d a k) s = execVexpnd d a k s := rfl
theorem exec_viota d m t k : exec (.viota d m t k) s = execViota d m t k s := rfl
theorem exec_vidx d t k : exec (.vidx d t k) s = execVidx d t k s := rfl
theorem exec_vbcast form d a b k : exec (.vbcast form d a b k) s = execVbcast form d a b k s := rfl
theorem exec_vmerge form d a b k : exec (.vmerge form d a b k) s = execVmerge form d a b k s := rfl
theorem exec_vrev d a k : exec (.vrev d a k) s = execVrev d a k s := rfl
theorem exec_vzip d a k : exec (.vzip d a k) s = execVzip d a k s := rfl
theorem exec_vunzip d a k : exec (.vunzip d a k) s = execVunzip d a k s := rfl
theorem exec_vceq form d a b k : exec (.vceq form d a b k) s = execVceq form d a b k s := rfl
theorem exec_vcne form d a b k : exec (.vcne form d a b k) s = execVcne form d a b k s := rfl
theorem exec_vclt form d a b k : exec (.vclt form d a b k) s = execVclt form d a b k s := rfl
theorem exec_vcle form d a b k : exec (.vcle form d a b k) s = execVcle form d a b k s := rfl
theorem exec_vcgt form d a b k : exec (.vcgt form d a b k) s = execVcgt form d a b k s := rfl
theorem exec_vcge form d a b k : exec (.vcge form d a b k) s = execVcge form d a b k s := rfl
theorem exec_vcun form d a b k : exec (.vcun form d a b k) s = execVcun form d a b k s := rfl
theorem exec_vclass d a b k : exec (.vclass d a b k) s = execVclass d a b k s := rfl
theorem exec_kand d a b k : exec (.kand d a b k) s = execKand d a b k s := rfl
theorem exec_kor d a b k : exec (.kor d a b k) s = execKor d a b k s := rfl
theorem exec_kxor d a b k : exec (.kxor d a b k) s = execKxor d a b k s := rfl
theorem exec_knot d a k : exec (.knot d a k) s = execKnot d a k s := rfl
theorem exec_kandn d a b k : exec (.kandn d a b k) s = execKandn d a b k s := rfl
theorem exec_ksbf d a k : exec (.ksbf d a k) s = execKsbf d a k s := rfl
theorem exec_ksif d a k : exec (.ksif d a k) s = execKsif d a k s := rfl
theorem exec_kpopc d a k : exec (.kpopc d a k) s = execKpopc d a k s := rfl
theorem exec_kfirst d a k : exec (.kfirst d a k) s = execKfirst d a k s := rfl
theorem exec_kmov d a k : exec (.kmov d a k) s = execKmov d a k s := rfl
theorem exec_vldUnit d a k nt t : exec (.vldUnit d a k nt t) s = execVldUnit d a k nt t s := rfl
theorem exec_vldStrided d a b k nt t : exec (.vldStrided d a b k nt t) s = execVldStrided d a b k nt t s := rfl
theorem exec_vldIndexed d a b k nt t : exec (.vldIndexed d a b k nt t) s = execVldIndexed d a b k nt t s := rfl
theorem exec_vldFirstFault d a k nt t : exec (.vldFirstFault d a k nt t) s = execVldFirstFault d a k nt t s := rfl
theorem exec_vldSegmentMx d a t : exec (.vldSegmentMx d a t) s = execVldSegmentMx d a t s := rfl
theorem exec_vstUnit d a k nt t : exec (.vstUnit d a k nt t) s = execVstUnit d a k nt t s := rfl
theorem exec_vstStrided d a b k nt t : exec (.vstStrided d a b k nt t) s = execVstStrided d a b k nt t s := rfl
theorem exec_vstIndexed d a b k nt t : exec (.vstIndexed d a b k nt t) s = execVstIndexed d a b k nt t s := rfl
theorem exec_vstOrdered d a k nt t : exec (.vstOrdered d a k nt t) s = execVstOrdered d a k nt t s := rfl
theorem exec_vstSegmentMx d a t : exec (.vstSegmentMx d a t) s = execVstSegmentMx d a t s := rfl
theorem exec_vmvsx d b : exec (.vmvsx d b) s = execVmvsx d b s := rfl
theorem exec_vmvxs d a : exec (.vmvxs d a) s = execVmvxs d a s := rfl
theorem exec_vqpop d : exec (.vqpop d) s = execVqpop d s := rfl
theorem exec_vqlen d : exec (.vqlen d) s = execVqlen d s := rfl
theorem exec_vmv form d a b k : exec (.vmv form d a b k) s = execVmv form d a b k s := rfl
theorem exec_timer : exec .timer s = execTimer s := rfl
theorem exec_host : exec .host s = execHost s := rfl
theorem exec_error : exec .error s = execError s := rfl
theorem exec_quantumExpiry : exec .quantumExpiry s = execQuantumExpiry s := rfl
theorem exec_preemptReqCooperative : exec .preemptReqCooperative s = execPreemptReqCooperative s := rfl
theorem exec_preemptReqForced : exec .preemptReqForced s = execPreemptReqForced s := rfl
theorem exec_preemptReqToHandler : exec .preemptReqToHandler s = execPreemptReqToHandler s := rfl
theorem exec_preemptCoopTimeout : exec .preemptCoopTimeout s = execPreemptCoopTimeout s := rfl
theorem exec_readySelection : exec .readySelection s = execReadySelection s := rfl
theorem exec_spillHoldEnd : exec .spillHoldEnd s = execSpillHoldEnd s := rfl
theorem exec_steal : exec .steal s = execSteal s := rfl
theorem exec_codeLineFill : exec .codeLineFill s = execCodeLineFill s := rfl
theorem exec_faultRecordDelivery cl : exec (.faultRecordDelivery cl) s = execFaultRecordDelivery cl s := rfl
theorem exec_fsackRetry cl seq : exec (.fsackRetry cl seq) s = execFsackRetry cl seq s := rfl
theorem exec_fsackFail cl seq : exec (.fsackFail cl seq) s = execFsackFail cl seq s := rfl
theorem exec_fsackNote cl seq : exec (.fsackNote cl seq) s = execFsackNote cl seq s := rfl
theorem exec_fsackInvalid cl seq : exec (.fsackInvalid cl seq) s = execFsackInvalid cl seq s := rfl
theorem exec_flueAccept : exec .flueAccept s = execFlueAccept s := rfl
theorem exec_flueChunk cl job : exec (.flueChunk cl job) s = execFlueChunk cl job s := rfl
theorem exec_kilnAccept : exec .kilnAccept s = execKilnAccept s := rfl
theorem exec_tileLoad cl bank : exec (.tileLoad cl bank) s = execTileLoad cl bank s := rfl
theorem exec_rowJob cl bank : exec (.rowJob cl bank) s = execRowJob cl bank s := rfl
theorem exec_accumulatorZeroJob cl bank : exec (.accumulatorZeroJob cl bank) s = execAccumulatorZeroJob cl bank s := rfl
theorem exec_bankClear cl bank : exec (.bankClear cl bank) s = execBankClear cl bank s := rfl
theorem exec_rmtAccept : exec .rmtAccept s = execRmtAccept s := rfl
theorem exec_remoteAccess req : exec (.remoteAccess req) s = execRemoteAccess req s := rfl
theorem exec_remoteReply token failed value : exec (.remoteReply token failed value) s = execRemoteReply token failed value s := rfl
theorem exec_collAccept : exec .collAccept s = execCollAccept s := rfl
theorem exec_groupMatch slot urgent peers : exec (.groupMatch slot urgent peers) s = execGroupMatch slot urgent peers s := rfl
theorem exec_collChunk slot urgent inputs : exec (.collChunk slot urgent inputs) s = execCollChunk slot urgent inputs s := rfl
theorem exec_groupFail slot : exec (.groupFail slot) s = execGroupFail slot s := rfl
theorem exec_doorbell host queue tail : exec (.doorbell host queue tail) s = execDoorbell host queue tail s := rfl
theorem exec_cancel host queue seq : exec (.cancel host queue seq) s = execCancel host queue seq s := rfl
theorem exec_hostSignal host : exec (.hostSignal host) s = execHostSignal host s := rfl
theorem exec_bar2Access host offset access : exec (.bar2Access host offset access) s = execBar2Access host offset access s := rfl
theorem exec_entryArrival queue : exec (.entryArrival queue) s = execEntryArrival queue s := rfl
theorem exec_dispatch : exec .dispatch s = execDispatch s := rfl
theorem exec_launchCompletion root : exec (.launchCompletion root) s = execLaunchCompletion root s := rfl
theorem exec_tenantDrain tenant : exec (.tenantDrain tenant) s = execTenantDrain tenant s := rfl
theorem exec_tenantDrainEnd tenant : exec (.tenantDrainEnd tenant) s = execTenantDrainEnd tenant s := rfl
theorem exec_keySlotWrite slot key : exec (.keySlotWrite slot key) s = execKeySlotWrite slot key s := rfl
theorem exec_attestationRequest nonce : exec (.attestationRequest nonce) s = execAttestationRequest nonce s := rfl
theorem exec_measurementExtend reg digest : exec (.measurementExtend reg digest) s = execMeasurementExtend reg digest s := rfl
theorem exec_tenantKeyLoad slot wrapped : exec (.tenantKeyLoad slot wrapped) s = execTenantKeyLoad slot wrapped s := rfl
theorem exec_debugAuthorization request : exec (.debugAuthorization request) s = execDebugAuthorization request s := rfl
theorem exec_spedyHalt core : exec (.spedyHalt core) s = execSpedyHalt core s := rfl
theorem exec_spedyRun core fail : exec (.spedyRun core fail) s = execSpedyRun core fail s := rfl
theorem exec_rdctx core : exec (.rdctx core) s = execRdctx core s := rfl
theorem exec_rdspr core spr : exec (.rdspr core spr) s = execRdspr core spr s := rfl
theorem exec_wrspr core spr value : exec (.wrspr core spr value) s = execWrspr core spr value s := rfl
theorem exec_rdpa pa count key : exec (.rdpa pa count key) s = execRdpa pa count key s := rfl
theorem exec_wrpa pa bytes key : exec (.wrpa pa bytes key) s = execWrpa pa bytes key s := rfl
theorem exec_rdft slot : exec (.rdft slot) s = execRdft slot s := rfl
theorem exec_singleStep : exec .singleStep s = execSingleStep s := rfl
theorem exec_draughtClear : exec .draughtClear s = execDraughtClear s := rfl
theorem exec_registerWrite pa access : exec (.registerWrite pa access) s = execRegisterWrite pa access s := rfl
theorem exec_boot images : exec (.boot images) s = execBoot images s := rfl
theorem exec_coreRestart core : exec (.coreRestart core) s = execCoreRestart core s := rfl
theorem exec_waitiWake : exec .waitiWake s = execWaitiWake s := rfl
theorem exec_correctedError unit address : exec (.correctedError unit address) s = execCorrectedError unit address s := rfl
theorem exec_containedError error : exec (.containedError error) s = execContainedError error s := rfl
theorem exec_uncontainedError unit address : exec (.uncontainedError unit address) s = execUncontainedError unit address s := rfl
theorem exec_thermalThrottle die : exec (.thermalThrottle die) s = execThermalThrottle die s := rfl
theorem exec_thermalTrip die : exec (.thermalTrip die) s = execThermalTrip die s := rfl
theorem exec_powerAdjust points lanes : exec (.powerAdjust points lanes) s = execPowerAdjust points lanes s := rfl
theorem exec_wearUpdate island age eol : exec (.wearUpdate island age eol) s = execWearUpdate island age eol s := rfl
theorem exec_illegalWord word : exec (.illegalWord word) s = execIllegalWord word s := rfl
theorem exec_targetUnreachable token performed : exec (.targetUnreachable token performed) s = execTargetUnreachable token performed s := rfl

end Sys2Proof.Machine
end

