-- ==== Sys2Proof/Laws/State.lean ====
section
/-!
SUPPORT. The fields of the state after each named update: an update of the running context or of a register reduces to
one of the running core, and that one leaves every other field alone.
-/

namespace Sys2Proof.Machine

variable (s : State)

@[simp] theorem modCpu_cpu (f : Core → Core) : (modCpu s f).cpu = f s.cpu := rfl
@[simp] theorem modCpu_parked (f : Core → Core) : (modCpu s f).parked = s.parked := rfl
@[simp] theorem modCpu_clusters (f : Core → Core) : (modCpu s f).clusters = s.clusters := rfl
@[simp] theorem modCpu_mem (f : Core → Core) : (modCpu s f).mem = s.mem := rfl
@[simp] theorem modCpu_lineKey (f : Core → Core) : (modCpu s f).lineKey = s.lineKey := rfl
@[simp] theorem modCpu_zeroed (f : Core → Core) : (modCpu s f).zeroed = s.zeroed := rfl
@[simp] theorem modCpu_poison (f : Core → Core) : (modCpu s f).poison = s.poison := rfl
@[simp] theorem modCpu_futs (f : Core → Core) : (modCpu s f).futs = s.futs := rfl
@[simp] theorem modCpu_ftbase (f : Core → Core) : (modCpu s f).ftbase = s.ftbase := rfl
@[simp] theorem modCpu_ftsize (f : Core → Core) : (modCpu s f).ftsize = s.ftsize := rfl
@[simp] theorem modCpu_peerFuts (f : Core → Core) : (modCpu s f).peerFuts = s.peerFuts := rfl
@[simp] theorem modCpu_peerSizes (f : Core → Core) : (modCpu s f).peerSizes = s.peerSizes := rfl
@[simp] theorem modCpu_gates (f : Core → Core) : (modCpu s f).gates = s.gates := rfl
@[simp] theorem modCpu_remotes (f : Core → Core) : (modCpu s f).remotes = s.remotes := rfl
@[simp] theorem modCpu_groups (f : Core → Core) : (modCpu s f).groups = s.groups := rfl
@[simp] theorem modCpu_groupGen (f : Core → Core) : (modCpu s f).groupGen = s.groupGen := rfl
@[simp] theorem modCpu_devid (f : Core → Core) : (modCpu s f).devid = s.devid := rfl
@[simp] theorem modCpu_ndev (f : Core → Core) : (modCpu s f).ndev = s.ndev := rfl
@[simp] theorem modCpu_pod (f : Core → Core) : (modCpu s f).pod = s.pod := rfl
@[simp] theorem modCpu_tenants (f : Core → Core) : (modCpu s f).tenants = s.tenants := rfl
@[simp] theorem modCpu_keys (f : Core → Core) : (modCpu s f).keys = s.keys := rfl
@[simp] theorem modCpu_queues (f : Core → Core) : (modCpu s f).queues = s.queues := rfl
@[simp] theorem modCpu_reel (f : Core → Core) : (modCpu s f).reel = s.reel := rfl
@[simp] theorem modCpu_plimit (f : Core → Core) : (modCpu s f).plimit = s.plimit := rfl
@[simp] theorem modCpu_points (f : Core → Core) : (modCpu s f).points = s.points := rfl
@[simp] theorem modCpu_wear (f : Core → Core) : (modCpu s f).wear = s.wear := rfl
@[simp] theorem modCpu_errlog (f : Core → Core) : (modCpu s f).errlog = s.errlog := rfl
@[simp] theorem modCpu_errRoute (f : Core → Core) : (modCpu s f).errRoute = s.errRoute := rfl
@[simp] theorem modCpu_hostRoute (f : Core → Core) : (modCpu s f).hostRoute = s.hostRoute := rfl
@[simp] theorem modCpu_bar2 (f : Core → Core) : (modCpu s f).bar2 = s.bar2 := rfl
@[simp] theorem modCpu_opened (f : Core → Core) : (modCpu s f).opened = s.opened := rfl
@[simp] theorem modCpu_msix (f : Core → Core) : (modCpu s f).msix = s.msix := rfl
@[simp] theorem modCpu_bar0 (f : Core → Core) : (modCpu s f).bar0 = s.bar0 := rfl
@[simp] theorem modCpu_meas (f : Core → Core) : (modCpu s f).meas = s.meas := rfl
@[simp] theorem modCpu_boot (f : Core → Core) : (modCpu s f).boot = s.boot := rfl
@[simp] theorem modCpu_firmware (f : Core → Core) : (modCpu s f).firmware = s.firmware := rfl
@[simp] theorem modCpu_versions (f : Core → Core) : (modCpu s f).versions = s.versions := rfl
@[simp] theorem modCpu_identity (f : Core → Core) : (modCpu s f).identity = s.identity := rfl
@[simp] theorem modCpu_fatal (f : Core → Core) : (modCpu s f).fatal = s.fatal := rfl
@[simp] theorem modCpu_dbg (f : Core → Core) : (modCpu s f).dbg = s.dbg := rfl
@[simp] theorem modCpu_soot (f : Core → Core) : (modCpu s f).soot = s.soot := rfl
@[simp] theorem modCpu_debugOk (f : Core → Core) : (modCpu s f).debugOk = s.debugOk := rfl
@[simp] theorem modCpu_devtime (f : Core → Core) : (modCpu s f).devtime = s.devtime := rfl
@[simp] theorem modCpu_cycles (f : Core → Core) : (modCpu s f).cycles = s.cycles := rfl
@[simp] theorem modCpu_answer (f : Core → Core) : (modCpu s f).answer = s.answer := rfl
@[simp] theorem modCpu_agenda (f : Core → Core) : (modCpu s f).agenda = s.agenda := rfl
@[simp] theorem modCpu_tick (f : Core → Core) : (modCpu s f).tick = s.tick := rfl
@[simp] theorem modCpu_clock (f : Core → Core) : (modCpu s f).clock = s.clock := rfl

theorem modCpu_modCpu (f g : Core → Core) : modCpu (modCpu s f) g = modCpu s fun c => g (f c) := rfl

theorem modCpu_id : modCpu s (fun c => c) = s := rfl

theorem modLive_eq (f : Ctx → Ctx) : modLive s f = modCpu s fun c => { c with live := f c.live } := rfl

@[simp] theorem modLive_live (f : Ctx → Ctx) : (modLive s f).cpu.live = f s.cpu.live := rfl
@[simp] theorem modLive_id (f : Ctx → Ctx) : (modLive s f).cpu.id = s.cpu.id := rfl
@[simp] theorem modLive_lane (f : Ctx → Ctx) : (modLive s f).cpu.lane = s.cpu.lane := rfl
@[simp] theorem modLive_parked (f : Ctx → Ctx) : (modLive s f).parked = s.parked := rfl
@[simp] theorem modLive_clusters (f : Ctx → Ctx) : (modLive s f).clusters = s.clusters := rfl
@[simp] theorem modLive_mem (f : Ctx → Ctx) : (modLive s f).mem = s.mem := rfl
@[simp] theorem modLive_lineKey (f : Ctx → Ctx) : (modLive s f).lineKey = s.lineKey := rfl
@[simp] theorem modLive_zeroed (f : Ctx → Ctx) : (modLive s f).zeroed = s.zeroed := rfl
@[simp] theorem modLive_poison (f : Ctx → Ctx) : (modLive s f).poison = s.poison := rfl
@[simp] theorem modLive_futs (f : Ctx → Ctx) : (modLive s f).futs = s.futs := rfl
@[simp] theorem modLive_ftbase (f : Ctx → Ctx) : (modLive s f).ftbase = s.ftbase := rfl
@[simp] theorem modLive_ftsize (f : Ctx → Ctx) : (modLive s f).ftsize = s.ftsize := rfl
@[simp] theorem modLive_peerFuts (f : Ctx → Ctx) : (modLive s f).peerFuts = s.peerFuts := rfl
@[simp] theorem modLive_peerSizes (f : Ctx → Ctx) : (modLive s f).peerSizes = s.peerSizes := rfl
@[simp] theorem modLive_gates (f : Ctx → Ctx) : (modLive s f).gates = s.gates := rfl
@[simp] theorem modLive_remotes (f : Ctx → Ctx) : (modLive s f).remotes = s.remotes := rfl
@[simp] theorem modLive_groups (f : Ctx → Ctx) : (modLive s f).groups = s.groups := rfl
@[simp] theorem modLive_groupGen (f : Ctx → Ctx) : (modLive s f).groupGen = s.groupGen := rfl
@[simp] theorem modLive_devid (f : Ctx → Ctx) : (modLive s f).devid = s.devid := rfl
@[simp] theorem modLive_ndev (f : Ctx → Ctx) : (modLive s f).ndev = s.ndev := rfl
@[simp] theorem modLive_pod (f : Ctx → Ctx) : (modLive s f).pod = s.pod := rfl
@[simp] theorem modLive_tenants (f : Ctx → Ctx) : (modLive s f).tenants = s.tenants := rfl
@[simp] theorem modLive_keys (f : Ctx → Ctx) : (modLive s f).keys = s.keys := rfl
@[simp] theorem modLive_queues (f : Ctx → Ctx) : (modLive s f).queues = s.queues := rfl
@[simp] theorem modLive_reel (f : Ctx → Ctx) : (modLive s f).reel = s.reel := rfl
@[simp] theorem modLive_plimit (f : Ctx → Ctx) : (modLive s f).plimit = s.plimit := rfl
@[simp] theorem modLive_points (f : Ctx → Ctx) : (modLive s f).points = s.points := rfl
@[simp] theorem modLive_wear (f : Ctx → Ctx) : (modLive s f).wear = s.wear := rfl
@[simp] theorem modLive_errlog (f : Ctx → Ctx) : (modLive s f).errlog = s.errlog := rfl
@[simp] theorem modLive_errRoute (f : Ctx → Ctx) : (modLive s f).errRoute = s.errRoute := rfl
@[simp] theorem modLive_hostRoute (f : Ctx → Ctx) : (modLive s f).hostRoute = s.hostRoute := rfl
@[simp] theorem modLive_bar2 (f : Ctx → Ctx) : (modLive s f).bar2 = s.bar2 := rfl
@[simp] theorem modLive_opened (f : Ctx → Ctx) : (modLive s f).opened = s.opened := rfl
@[simp] theorem modLive_msix (f : Ctx → Ctx) : (modLive s f).msix = s.msix := rfl
@[simp] theorem modLive_bar0 (f : Ctx → Ctx) : (modLive s f).bar0 = s.bar0 := rfl
@[simp] theorem modLive_meas (f : Ctx → Ctx) : (modLive s f).meas = s.meas := rfl
@[simp] theorem modLive_boot (f : Ctx → Ctx) : (modLive s f).boot = s.boot := rfl
@[simp] theorem modLive_firmware (f : Ctx → Ctx) : (modLive s f).firmware = s.firmware := rfl
@[simp] theorem modLive_versions (f : Ctx → Ctx) : (modLive s f).versions = s.versions := rfl
@[simp] theorem modLive_identity (f : Ctx → Ctx) : (modLive s f).identity = s.identity := rfl
@[simp] theorem modLive_fatal (f : Ctx → Ctx) : (modLive s f).fatal = s.fatal := rfl
@[simp] theorem modLive_dbg (f : Ctx → Ctx) : (modLive s f).dbg = s.dbg := rfl
@[simp] theorem modLive_soot (f : Ctx → Ctx) : (modLive s f).soot = s.soot := rfl
@[simp] theorem modLive_debugOk (f : Ctx → Ctx) : (modLive s f).debugOk = s.debugOk := rfl
@[simp] theorem modLive_devtime (f : Ctx → Ctx) : (modLive s f).devtime = s.devtime := rfl
@[simp] theorem modLive_cycles (f : Ctx → Ctx) : (modLive s f).cycles = s.cycles := rfl
@[simp] theorem modLive_answer (f : Ctx → Ctx) : (modLive s f).answer = s.answer := rfl
@[simp] theorem modLive_agenda (f : Ctx → Ctx) : (modLive s f).agenda = s.agenda := rfl
@[simp] theorem modLive_tick (f : Ctx → Ctx) : (modLive s f).tick = s.tick := rfl
@[simp] theorem modLive_clock (f : Ctx → Ctx) : (modLive s f).clock = s.clock := rfl

theorem accrue_eq (f : Flags) : accrue s f = modLive s fun c => { c with fst := c.fst ||| f } := rfl

theorem modVec_eq (f : VecState → VecState) : modVec s f = modLive s fun c => { c with vec := f c.vec } := rfl

@[simp] theorem modVec_vec (f : VecState → VecState) : vecOf (modVec s f) = f (vecOf s) := rfl

/-- A write of g0 changes nothing (R69). -/
@[simp] theorem setG_zero (v : Word) : setG s 0 v = s := rfl

theorem setG_eq {r : Reg} (h : r ≠ 0) (v : Word) : setG s r v = modLive s fun c => { c with g := c.g.set r v } :=
  if_neg h

/-- g0 reads zero (R69). -/
@[simp] theorem getG_zero : getG s 0 = 0 := rfl

theorem getG_eq {r : Reg} (h : r ≠ 0) : getG s r = s.cpu.live.g.get r := if_neg h

/-- A g register reads what was written to it (R69). -/
theorem getG_setG_self {r : Reg} (h : r ≠ 0) (v : Word) : getG (setG s r v) r = v := by
  simp [getG, setG, modLive, h, Vector.get_eq_getElem]

/-- A write of one g register leaves every other as it was (R69). -/
theorem getG_setG_other {r q : Reg} (h : q ≠ r) (v : Word) : getG (setG s r v) q = getG s q := by
  have h' : r.val ≠ q.val := fun e => h (Fin.ext e.symm)
  unfold getG setG
  split <;> [rfl; skip]
  split <;> [rfl; simp [modLive, Vector.get_eq_getElem, Vector.getElem_set_ne, h']]

@[simp] theorem setG_parked (r : Reg) (v : Word) : (setG s r v).parked = s.parked := by unfold setG; split <;> rfl
@[simp] theorem setG_clusters (r : Reg) (v : Word) : (setG s r v).clusters = s.clusters := by unfold setG; split <;> rfl
@[simp] theorem setG_mem (r : Reg) (v : Word) : (setG s r v).mem = s.mem := by unfold setG; split <;> rfl
@[simp] theorem setG_lineKey (r : Reg) (v : Word) : (setG s r v).lineKey = s.lineKey := by unfold setG; split <;> rfl
@[simp] theorem setG_zeroed (r : Reg) (v : Word) : (setG s r v).zeroed = s.zeroed := by unfold setG; split <;> rfl
@[simp] theorem setG_poison (r : Reg) (v : Word) : (setG s r v).poison = s.poison := by unfold setG; split <;> rfl
@[simp] theorem setG_futs (r : Reg) (v : Word) : (setG s r v).futs = s.futs := by unfold setG; split <;> rfl
@[simp] theorem setG_ftbase (r : Reg) (v : Word) : (setG s r v).ftbase = s.ftbase := by unfold setG; split <;> rfl
@[simp] theorem setG_ftsize (r : Reg) (v : Word) : (setG s r v).ftsize = s.ftsize := by unfold setG; split <;> rfl
@[simp] theorem setG_peerFuts (r : Reg) (v : Word) : (setG s r v).peerFuts = s.peerFuts := by unfold setG; split <;> rfl
@[simp] theorem setG_peerSizes (r : Reg) (v : Word) : (setG s r v).peerSizes = s.peerSizes := by unfold setG; split <;> rfl
@[simp] theorem setG_gates (r : Reg) (v : Word) : (setG s r v).gates = s.gates := by unfold setG; split <;> rfl
@[simp] theorem setG_remotes (r : Reg) (v : Word) : (setG s r v).remotes = s.remotes := by unfold setG; split <;> rfl
@[simp] theorem setG_groups (r : Reg) (v : Word) : (setG s r v).groups = s.groups := by unfold setG; split <;> rfl
@[simp] theorem setG_groupGen (r : Reg) (v : Word) : (setG s r v).groupGen = s.groupGen := by unfold setG; split <;> rfl
@[simp] theorem setG_devid (r : Reg) (v : Word) : (setG s r v).devid = s.devid := by unfold setG; split <;> rfl
@[simp] theorem setG_ndev (r : Reg) (v : Word) : (setG s r v).ndev = s.ndev := by unfold setG; split <;> rfl
@[simp] theorem setG_pod (r : Reg) (v : Word) : (setG s r v).pod = s.pod := by unfold setG; split <;> rfl
@[simp] theorem setG_tenants (r : Reg) (v : Word) : (setG s r v).tenants = s.tenants := by unfold setG; split <;> rfl
@[simp] theorem setG_keys (r : Reg) (v : Word) : (setG s r v).keys = s.keys := by unfold setG; split <;> rfl
@[simp] theorem setG_queues (r : Reg) (v : Word) : (setG s r v).queues = s.queues := by unfold setG; split <;> rfl
@[simp] theorem setG_reel (r : Reg) (v : Word) : (setG s r v).reel = s.reel := by unfold setG; split <;> rfl
@[simp] theorem setG_plimit (r : Reg) (v : Word) : (setG s r v).plimit = s.plimit := by unfold setG; split <;> rfl
@[simp] theorem setG_points (r : Reg) (v : Word) : (setG s r v).points = s.points := by unfold setG; split <;> rfl
@[simp] theorem setG_wear (r : Reg) (v : Word) : (setG s r v).wear = s.wear := by unfold setG; split <;> rfl
@[simp] theorem setG_errlog (r : Reg) (v : Word) : (setG s r v).errlog = s.errlog := by unfold setG; split <;> rfl
@[simp] theorem setG_errRoute (r : Reg) (v : Word) : (setG s r v).errRoute = s.errRoute := by unfold setG; split <;> rfl
@[simp] theorem setG_hostRoute (r : Reg) (v : Word) : (setG s r v).hostRoute = s.hostRoute := by unfold setG; split <;> rfl
@[simp] theorem setG_bar2 (r : Reg) (v : Word) : (setG s r v).bar2 = s.bar2 := by unfold setG; split <;> rfl
@[simp] theorem setG_opened (r : Reg) (v : Word) : (setG s r v).opened = s.opened := by unfold setG; split <;> rfl
@[simp] theorem setG_msix (r : Reg) (v : Word) : (setG s r v).msix = s.msix := by unfold setG; split <;> rfl
@[simp] theorem setG_bar0 (r : Reg) (v : Word) : (setG s r v).bar0 = s.bar0 := by unfold setG; split <;> rfl
@[simp] theorem setG_meas (r : Reg) (v : Word) : (setG s r v).meas = s.meas := by unfold setG; split <;> rfl
@[simp] theorem setG_boot (r : Reg) (v : Word) : (setG s r v).boot = s.boot := by unfold setG; split <;> rfl
@[simp] theorem setG_firmware (r : Reg) (v : Word) : (setG s r v).firmware = s.firmware := by unfold setG; split <;> rfl
@[simp] theorem setG_versions (r : Reg) (v : Word) : (setG s r v).versions = s.versions := by unfold setG; split <;> rfl
@[simp] theorem setG_identity (r : Reg) (v : Word) : (setG s r v).identity = s.identity := by unfold setG; split <;> rfl
@[simp] theorem setG_fatal (r : Reg) (v : Word) : (setG s r v).fatal = s.fatal := by unfold setG; split <;> rfl
@[simp] theorem setG_dbg (r : Reg) (v : Word) : (setG s r v).dbg = s.dbg := by unfold setG; split <;> rfl
@[simp] theorem setG_soot (r : Reg) (v : Word) : (setG s r v).soot = s.soot := by unfold setG; split <;> rfl
@[simp] theorem setG_debugOk (r : Reg) (v : Word) : (setG s r v).debugOk = s.debugOk := by unfold setG; split <;> rfl
@[simp] theorem setG_devtime (r : Reg) (v : Word) : (setG s r v).devtime = s.devtime := by unfold setG; split <;> rfl
@[simp] theorem setG_cycles (r : Reg) (v : Word) : (setG s r v).cycles = s.cycles := by unfold setG; split <;> rfl
@[simp] theorem setG_answer (r : Reg) (v : Word) : (setG s r v).answer = s.answer := by unfold setG; split <;> rfl
@[simp] theorem setG_agenda (r : Reg) (v : Word) : (setG s r v).agenda = s.agenda := by unfold setG; split <;> rfl
@[simp] theorem setG_tick (r : Reg) (v : Word) : (setG s r v).tick = s.tick := by unfold setG; split <;> rfl
@[simp] theorem setG_clock (r : Reg) (v : Word) : (setG s r v).clock = s.clock := by unfold setG; split <;> rfl
@[simp] theorem setG_cpu_id (r : Reg) (v : Word) : (setG s r v).cpu.id = s.cpu.id := by unfold setG; split <;> rfl
@[simp] theorem setG_cpu_lane (r : Reg) (v : Word) : (setG s r v).cpu.lane = s.cpu.lane := by unfold setG; split <;> rfl
@[simp] theorem setG_cpu_who (r : Reg) (v : Word) : (setG s r v).cpu.who = s.cpu.who := by unfold setG; split <;> rfl
@[simp] theorem setG_cpu_priv (r : Reg) (v : Word) : (setG s r v).cpu.priv = s.cpu.priv := by unfold setG; split <;> rfl
@[simp] theorem setG_cpu_tlb (r : Reg) (v : Word) : (setG s r v).cpu.tlb = s.cpu.tlb := by unfold setG; split <;> rfl
@[simp] theorem setG_cpu_l1 (r : Reg) (v : Word) : (setG s r v).cpu.l1 = s.cpu.l1 := by unfold setG; split <;> rfl
@[simp] theorem setG_cpu_code (r : Reg) (v : Word) : (setG s r v).cpu.code = s.cpu.code := by unfold setG; split <;> rfl
@[simp] theorem setG_cpu_recs (r : Reg) (v : Word) : (setG s r v).cpu.recs = s.cpu.recs := by unfold setG; split <;> rfl
@[simp] theorem setG_cpu_dctl (r : Reg) (v : Word) : (setG s r v).cpu.dctl = s.cpu.dctl := by unfold setG; split <;> rfl
@[simp] theorem setG_cpu_halt (r : Reg) (v : Word) : (setG s r v).cpu.halt = s.cpu.halt := by unfold setG; split <;> rfl
@[simp] theorem setG_cpu_stall (r : Reg) (v : Word) : (setG s r v).cpu.stall = s.cpu.stall := by unfold setG; split <;> rfl
@[simp] theorem setG_cpu_hold (r : Reg) (v : Word) : (setG s r v).cpu.hold = s.cpu.hold := by unfold setG; split <;> rfl
@[simp] theorem setG_cpu_passed (r : Reg) (v : Word) : (setG s r v).cpu.passed = s.cpu.passed := by unfold setG; split <;> rfl

/-- An instruction of the front completes (R57). -/
theorem retire_front (h : s.cpu.lane = none) :
    retire s = modCpu s fun c => { c with stall := none, live := { c.live with pc := c.live.pc + 4, pfx := Pfx.none } } := by
  unfold retire; rw [h]

@[simp] theorem performHeld_nil : performHeld s [] = s := rfl

@[simp] theorem performHeld_cons (h : HeldStore) (hs : List HeldStore) :
    performHeld s (h :: hs) = performHeld (storeAt s false h.place h.bytes) hs := rfl

/-- An instruction out of the VIQ completes, and the stores that it held back are performed (R131, R275). -/
theorem retire_lane {e : VEntry} (h : s.cpu.lane = some e) :
    retire s = performHeld (modCpu s fun c =>
      { c with lane := none, stall := none, live := { c.live with viq := c.live.viq.tail } }) e.stores := by
  unfold retire; rw [h]

/-- An instruction that holds no store back changes nothing but its core as it completes (R57, R131). -/
theorem retire_plain (h : ∀ e, s.cpu.lane = some e → e.stores = []) :
    retire s = modCpu s fun c => { c with
      lane := none, stall := none
      live := if c.lane.isSome then { c.live with viq := c.live.viq.tail }
        else { c.live with pc := c.live.pc + 4, pfx := Pfx.none } } := by
  cases hl : s.cpu.lane with
  | none => rw [retire_front s hl]; simp [modCpu, hl]
  | some e => rw [retire_lane s hl, h e hl]; simp [modCpu, hl]

end Sys2Proof.Machine
end

