-- ==== Sys2Proof/Laws/Issue.lean ====
section
/-!
SUPPORT. What issue does with an instruction that nothing turns away: it runs, or its false predicate discards it; and the
front's view of registers, results and completion.
-/

namespace Sys2Proof.Machine

variable {a : Attr} {i : Instr} {s : State} {body : State → State}

theorem reg_eq (s : State) (r : Reg) : getG s r = reg s r := rfl

theorem advance_eq (h : s.cpu.lane = none) : retire s = advance s := retire_front s h

theorem writeReg_eq (s : State) (r : Reg) (v : Word) : setG s r v = writeReg s r v := rfl

theorem prefixOf_front (h : s.cpu.lane = none) : prefixOf s = s.cpu.live.pfx := by unfold prefixOf; rw [h]

theorem pcOf_front (h : s.cpu.lane = none) : pcOf s = s.cpu.live.pc := by unfold pcOf; rw [h]

theorem predFalse_front (h : s.cpu.lane = none) : predFalse s = discarded s := by
  unfold predFalse discarded; rw [prefixOf_front h]; rfl

theorem capture_front (h : s.cpu.lane = none) (b : Bool) (r : Reg) : capture s b r = reg s r := by
  unfold capture; rw [h]; rfl

@[simp] theorem writeReg_lane (s : State) (r : Reg) (v : Word) : (writeReg s r v).cpu.lane = s.cpu.lane := by
  unfold writeReg; split <;> rfl

theorem result_front (h : s.cpu.lane = none) (d : Reg) (v : Word) :
    result s d v = if s.cpu.live.pfx.v && !s.cpu.live.pfx.pc then writeReg (writeReg s d v) s.cpu.live.pfx.pd v
      else writeReg s d v := by
  unfold result; rw [prefixOf_front h]; rfl

/-- A result and completion in the front is what `lands` says, unless a false predicate discards it. -/
theorem retire_result (h : s.cpu.lane = none) (hd : discarded s = false) (d : Reg) (v : Word) :
    retire (result s d v) = lands s d v := by
  rw [result_front h]
  unfold lands
  rw [hd]
  simp only [Bool.false_eq_true, if_false]
  split <;> exact advance_eq (by simp [h])

/-- The checks of R50 that Runs passes, as the front makes them. -/
theorem Runs.checks (h : Runs a i s) :
    (s.cpu.live.pfx.v && badPrefix a.lend a.hasK s.cpu.live.pfx) = false ∧
    (((decide (s.cpu.who = .sys) || decide (s.cpu.who = .fw)) && !a.scalar) ||
      decide (s.cpu.priv.toNat < a.level)) = false ∧
    (s.cpu.live.pfx.v && s.cpu.live.pfx.pg != 0 &&
      (pendingG s.cpu.live.viq).contains s.cpu.live.pfx.pg) = false ∧
    (queued s && (a.drain || synced s || busy s i)) = false := by
  have hl : decide (s.cpu.priv.toNat < a.level) = false := decide_eq_false (by have := h.level; omega)
  refine ⟨?_, ?_, ?_, ?_⟩
  · cases hv : s.cpu.live.pfx.v
    · rfl
    · simp [h.pfx hv]
  · rw [hl, Bool.or_false]
    cases hs : a.scalar
    · have := h.context hs; simp [this.1, this.2]
    · simp
  · cases hv : s.cpu.live.pfx.v
    · rfl
    · rcases h.queue with q | ⟨-, -, -, q⟩
      · rw [q]; simp [pendingG]
      · rw [q hv]; simp
  · rcases h.queue with q | ⟨h1, h2, h3, -⟩
    · simp [queued, q]
    · simp [h1, h2, h3]

theorem atFront_of (h : s.cpu.lane = none) : atFront s = true := by unfold atFront; rw [h]; rfl

/-- The front's checks pass: the instruction goes on, or its false predicate discards it. At a reclamation point the task
is not doomed. -/
theorem front_runs (h : Runs a i s) (hp : (isPoint i && reclaimable s) = false) (k : State → State) :
    front a i s k = .next (if discarded s then advance s else k s) := by
  obtain ⟨h2, h3, h4, -⟩ := h.checks
  unfold front
  simp only [prefixOf_front h.front, predFalse_front h.front, atFront_of h.front, h.feature, h2, h3, h4, hp, Bool.not_true,
    Bool.and_false, Bool.false_eq_true, if_false, advance_eq h.front]
  split <;> rfl

/-- An instruction that the front executes itself runs, or its false predicate discards it. -/
theorem issue_runs (h : Runs a i s) (hp : (isPoint i && reclaimable s) = false) :
    issue a i s body = .next (if discarded s then advance s else body s) := by
  unfold issue
  rw [front_runs h hp]
  simp only [h.checks.2.2.2, Bool.false_eq_true, if_false]

/-- No prefix is pending before an instruction that takes none. -/
theorem Runs.noPrefix (h : Runs a i s) (hl : a.lend = .refuse) : s.cpu.live.pfx.v = false := by
  cases hv : s.cpu.live.pfx.v
  · rfl
  · have := h.pfx hv; rw [hl] at this; simp [badPrefix] at this

theorem discarded_noPrefix (h : s.cpu.live.pfx.v = false) : discarded s = false := by
  unfold discarded; simp [h]

/-- An instruction that takes no prefix runs. -/
theorem issue_plain (h : Runs a i s) (hl : a.lend = .refuse) (hp : (isPoint i && reclaimable s) = false) :
    issue a i s body = .next (body s) := by
  rw [issue_runs h hp, discarded_noPrefix (h.noPrefix hl)]; rfl

/-- An instruction with a g result leaves what `lands` says. -/
theorem produce_runs {d : Reg} {v : State → Word} (h : Runs scalarAttr i s) (hp : (isPoint i && reclaimable s) = false) :
    produce i d s v = .next (lands s d (v s)) := by
  unfold produce
  rw [issue_runs h hp]
  cases hd : discarded s
  · simp only [Bool.false_eq_true, if_false]; rw [retire_result h.front hd]
  · simp only [if_true]; unfold lands; rw [hd]; rfl

theorem atPoint_runs (hr : reclaimable s = false) (hh : heldHere s = false) (met : Wait → State → State)
    (k : State → State) : atPoint s met k = k s := by
  unfold atPoint; rw [hr, hh]; rfl

/-- An instruction that passes through the VIQ begins. -/
theorem issueV_begins {grant lanes : Bool} {caps : List Reg} (h : Begins a grant lanes s)
    (hl : a.level = 0) : issueV a grant lanes i caps s body = .next (body s) := by
  unfold issueV
  cases hx : s.cpu.lane with
  | some e =>
    have hf : atFront s = false := by unfold atFront; rw [hx]; rfl
    have hq : queued s = false := by unfold queued; rw [hf]; rfl
    have hw : (lanes && lanesWait s) = false := by
      cases lanes
      · rfl
      · simp [h.home rfl]
    unfold front
    simp [hf, hq, hw]
  | none =>
    have hf : atFront s = true := atFront_of hx
    have hq : queued s = false := by unfold queued; simp [h.queue hx]
    have hw : (lanes && lanesWait s) = false := by
      cases lanes
      · rfl
      · simp [h.home rfl]
    have hg : (true && grant && decide (groupCount s s.cpu.id = 0)) = false := by
      cases grant
      · simp
      · simp [h.granted rfl hx]
    have h2 : (s.cpu.live.pfx.v && badPrefix a.lend a.hasK s.cpu.live.pfx) = false := by
      cases hv : s.cpu.live.pfx.v
      · rfl
      · simp [h.pfx hx hv]
    have h3 : (((decide (s.cpu.who = .sys) || decide (s.cpu.who = .fw)) && !a.scalar) ||
        decide (s.cpu.priv.toNat < a.level)) = false := by
      rw [hl]
      cases hs : a.scalar
      · have := h.context hx hs; simp [this.1, this.2]
      · simp
    have h4 : (s.cpu.live.pfx.v && s.cpu.live.pfx.pg != 0 &&
        (pendingG s.cpu.live.viq).contains s.cpu.live.pfx.pg) = false := by
      rw [h.queue hx]; simp [pendingG]
    unfold front
    simp only [prefixOf_front hx, hf, h.feature hx, h2, h3, h4, h.shown hx, hq, hw, hg, Bool.not_true, Bool.and_false,
      Bool.false_eq_true, if_false]

end Sys2Proof.Machine
end

