-- ==== Sys2Proof/Laws/Memory.lean ====
section
/-!
SUPPORT. Memory: every operation keeps the canonical form, a read gives what the last write put there, and a write leaves
every other byte alone.
-/

namespace Sys2Proof.Machine

/-- A lower bound on the addresses may be lowered. -/
theorem risingFrom_mono {lo hi : Nat} {m : List Host.Cell} (h : hi ≤ lo) (hm : risingFrom lo m = true) :
    risingFrom hi m = true := by
  cases m with
  | nil => rfl
  | cons c t =>
    simp only [risingFrom, Bool.and_eq_true, decide_eq_true_eq] at hm ⊢
    exact ⟨⟨by omega, hm.1.2⟩, hm.2⟩

/-- Dropping an address keeps the addresses rising. -/
theorem risingFrom_drop {lo : Nat} {m : List Host.Cell} (a : Nat) (hm : risingFrom lo m = true) :
    risingFrom lo (Tab.drop m a) = true := by
  induction m generalizing lo with
  | nil => rfl
  | cons c t ih =>
    obtain ⟨k, b⟩ := c
    simp only [risingFrom, Bool.and_eq_true, decide_eq_true_eq] at hm
    simp only [Tab.drop]
    split
    · exact risingFrom_mono (by omega) hm.2
    · split
      · simp only [risingFrom, Bool.and_eq_true, decide_eq_true_eq]; exact hm
      · simp only [risingFrom, Bool.and_eq_true, decide_eq_true_eq]; exact ⟨hm.1, ih hm.2⟩

/-- Putting a byte other than zero keeps the addresses rising. -/
theorem risingFrom_put {lo : Nat} {m : List Host.Cell} {a : Nat} {b : Byte} (hb : (b != 0) = true) (ha : lo ≤ a)
    (hm : risingFrom lo m = true) : risingFrom lo (Tab.put m a b) = true := by
  induction m generalizing lo with
  | nil => simp only [Tab.put, risingFrom, Bool.and_eq_true, decide_eq_true_eq]; exact ⟨⟨ha, hb⟩, trivial⟩
  | cons c t ih =>
    obtain ⟨k, w⟩ := c
    simp only [risingFrom, Bool.and_eq_true, decide_eq_true_eq] at hm
    simp only [Tab.put]
    split
    · simp only [risingFrom, Bool.and_eq_true, decide_eq_true_eq]; exact ⟨⟨hm.1.1, hb⟩, hm.2⟩
    · split
      · simp only [risingFrom, Bool.and_eq_true, decide_eq_true_eq]
        exact ⟨⟨ha, hb⟩, ⟨by omega, hm.1.2⟩, hm.2⟩
      · simp only [risingFrom, Bool.and_eq_true, decide_eq_true_eq]; exact ⟨hm.1, ih (by omega) hm.2⟩

/-- A byte written keeps the canonical form. -/
theorem memSet_wf {m : List Host.Cell} (a : Nat) (b : Byte) (hm : Memory.wf m = true) :
    Memory.wf (memSet m a b) = true := by
  unfold memSet Memory.wf
  split
  · exact risingFrom_drop a hm
  · exact risingFrom_put (by simpa using ‹¬b = 0›) (Nat.zero_le a) hm

/-- Bytes written keep the canonical form. -/
theorem memPut_wf {m : List Host.Cell} (a : Nat) (bs : List Byte) (hm : Memory.wf m = true) :
    Memory.wf (memPut m a bs) = true := by
  induction bs generalizing m a with
  | nil => exact hm
  | cons b t ih => exact ih (a + 1) (memSet_wf a b hm)

/-- Below the addresses of a table there is no entry. -/
theorem find_below {lo a : Nat} {m : List Host.Cell} (h : a < lo) (hm : risingFrom lo m = true) :
    Tab.find m a = none := by
  cases m with
  | nil => rfl
  | cons c t =>
    obtain ⟨k, b⟩ := c
    simp only [risingFrom, Bool.and_eq_true, decide_eq_true_eq] at hm
    simp only [Tab.find]
    rw [if_neg (by omega), if_pos (by omega)]

/-- What a put entry finds, there and elsewhere. -/
theorem find_put {α : Type} (m : Tab α) (a c : Nat) (v : α) :
    Tab.find (Tab.put m a v) c = if c = a then some v else Tab.find m c := by
  induction m with
  | nil => simp only [Tab.put, Tab.find]; split <;> simp
  | cons p t ih =>
    obtain ⟨k, w⟩ := p
    simp only [Tab.put]
    split
    · subst a; simp only [Tab.find]; split <;> rfl
    · split
      · simp only [Tab.find]
        by_cases h1 : c = a
        · simp [h1]
        · simp only [h1, if_false]
          by_cases h2 : c < a
          · simp only [h2, if_true]; rw [if_neg (by omega), if_pos (by omega)]
          · simp [h2]
      · simp only [Tab.find]
        by_cases h1 : c = k
        · simp only [h1, if_true]; rw [if_neg (by omega)]
        · simp only [h1, if_false]
          by_cases h2 : c < k
          · simp only [h2, if_true]; rw [if_neg (by omega)]
          · simp [h2, ih]

/-- What a dropped entry finds, in a rising table. -/
theorem find_drop {lo : Nat} {m : List Host.Cell} (a c : Nat) (hm : risingFrom lo m = true) :
    Tab.find (Tab.drop m a) c = if c = a then none else Tab.find m c := by
  induction m generalizing lo with
  | nil => simp [Tab.drop, Tab.find]
  | cons p t ih =>
    obtain ⟨k, b⟩ := p
    simp only [risingFrom, Bool.and_eq_true, decide_eq_true_eq] at hm
    simp only [Tab.drop]
    split
    · subst a
      by_cases h : c = k
      · subst h; rw [if_pos rfl]; exact find_below (Nat.lt_succ_self c) hm.2
      · simp only [h, if_false, Tab.find]
        split
        · exact find_below (by omega) hm.2
        · rfl
    · split
      · simp only [Tab.find]
        by_cases h : c = a
        · subst h; rw [if_neg (by omega), if_pos (by omega), if_pos rfl]
        · simp [h]
      · simp only [Tab.find]
        by_cases h1 : c = k
        · simp only [h1, if_true]; rw [if_neg (by omega)]
        · simp only [h1, if_false]
          by_cases h2 : c < k
          · simp only [h2, if_true]; split <;> rfl
          · simp only [h2, if_false]; exact ih hm.2

/-- A read of one byte after a write of one byte. -/
theorem memGet_memSet {m : List Host.Cell} (a c : Nat) (b : Byte) (hm : Memory.wf m = true) :
    memGet (memSet m a b) c = if c = a then b else memGet m c := by
  unfold memSet memGet
  split
  · rw [find_drop a c hm]; split <;> simp_all
  · rw [find_put]; split <;> rfl

/-- A read of one byte after bytes were written: the byte written there, or what was there before. -/
theorem memGet_memPut {m : List Host.Cell} (a c : Nat) (bs : List Byte) (hm : Memory.wf m = true) :
    memGet (memPut m a bs) c = if a ≤ c ∧ c < a + bs.length then bs.getD (c - a) 0 else memGet m c := by
  induction bs generalizing m a with
  | nil => simp only [memPut, List.length_nil]; rw [if_neg (by omega)]
  | cons b t ih =>
    simp only [memPut, List.length_cons]
    rw [ih (a + 1) (memSet_wf a b hm), memGet_memSet a c b hm]
    by_cases h : c = a
    · subst h; rw [if_neg (by omega), if_pos rfl, if_pos (by omega)]; simp
    · rw [if_neg h]
      by_cases h2 : a + 1 ≤ c ∧ c < a + 1 + t.length
      · rw [if_pos h2, if_pos (by omega)]
        obtain ⟨k, rfl⟩ : ∃ k, c = a + 1 + k := ⟨c - (a + 1), by omega⟩
        have e1 : a + 1 + k - (a + 1) = k := by omega
        have e2 : a + 1 + k - a = k + 1 := by omega
        rw [e1, e2]; simp
      · rw [if_neg h2, if_neg (by omega)]

/-- Bytes outside a write read as before. -/
theorem memGet_memPut_outside {m : List Host.Cell} {a c : Nat} {bs : List Byte} (hm : Memory.wf m = true)
    (h : c < a ∨ a + bs.length ≤ c) : memGet (memPut m a bs) c = memGet m c := by
  rw [memGet_memPut a c bs hm, if_neg (by omega)]

/-- A line brought under another key keeps the form. -/
theorem touchLine_wf {s : State} (k : Fin 64) (line : Nat) (hm : Memory.wf s.mem = true) :
    Memory.wf (touchLine s k line).mem = true := by
  unfold touchLine
  dsimp only
  split
  · exact memPut_wf _ _ hm
  · exact hm

/-- A range brought under another key keeps the form. -/
theorem touch_wf {s : State} (k : Fin 64) (pa n : Nat) (hm : Memory.wf s.mem = true) :
    Memory.wf (touch s k pa n).mem = true := by
  unfold touch
  generalize span (pa / 128) (if n = 0 then 0 else (pa + n + 127) / 128) = ls
  induction ls generalizing s with
  | nil => exact hm
  | cons l ls ih => exact ih (touchLine_wf k l hm)

/-- A write at the home keeps the form. -/
theorem writePhys_wf {s : State} (k : Fin 64) (pa : Nat) (bs : List Byte) (hm : Memory.wf s.mem = true) :
    Memory.wf (writePhys s k pa bs).mem = true :=
  memPut_wf _ _ (touch_wf k pa bs.length hm)

/-- The entries that a step writes to the future table in memory keep the form. -/
theorem writeTable_wf {s t : State} (hm : Memory.wf t.mem = true) : Memory.wf (writeTable s t).mem = true := by
  unfold writeTable
  suffices h : ∀ (l : Tab Fut) (u : State), Memory.wf u.mem = true → Memory.wf (l.foldl (fun u p =>
      if futShown s p.1 = futShown t p.1 || hbmEnd < t.ftbase + 64 * p.1 + 64 then u
      else writePhys u 0 (t.ftbase + 64 * p.1) (futBytes t p.1)) u).mem = true from h t.futs t hm
  intro l
  induction l with
  | nil => exact fun u hu => hu
  | cons p l ih =>
    intro u hu
    refine ih _ ?_
    dsimp only
    split
    · exact hu
    · exact writePhys_wf _ _ _ hu

/-- What a step changes in the future table in memory keeps the form. -/
theorem keepTable_wf {s t : State} (hm : Memory.wf t.mem = true) : Memory.wf (keepTable s t).mem = true := by
  unfold keepTable
  split
  · exact hm
  · exact writeTable_wf hm

/-- Bytes just written are what a read of them gives. -/
theorem memTake_memPut {m : List Host.Cell} (a : Nat) (bs : List Byte) (hm : Memory.wf m = true) :
    memTake (memPut m a bs) a bs.length = bs := by
  apply List.ext_getElem
  · simp [memTake]
  · intro i h1 h2
    simp only [memTake, List.getElem_map, List.getElem_range]
    rw [memGet_memPut a (a + i) bs hm, if_pos (by omega)]
    have e : a + i - a = i := by omega
    rw [e]; simp [List.getD_eq_getElem?_getD, h2]

end Sys2Proof.Machine
end

