-- ==== Sys2Proof/Laws/Scalar.lean ====
section
/-!
SUPPORT. The ALU's exact arithmetic on numbers beside the same operation on bit vectors, at both widths (R75, R76).
-/

namespace Sys2Proof.Machine

theorem wordOfInt_natCast (v : Word) : wordOfInt (v.toNat : Int) = v := by
  unfold wordOfInt; apply BitVec.eq_of_toInt_eq; simp

/-- Trunc to 32 bits and sign extension, of a number equal to v modulo 2^32 (R75). -/
theorem sextWord_trunc (v : BitVec 32) (r : Int) (h : r % 2 ^ 32 = (v.toNat : Int)) :
    sextWord 32 (trunc 32 r) = v.signExtend 64 := by
  have h2 : trunc 32 r = v.toNat := by unfold trunc; simp at h ⊢; omega
  rw [h2]; unfold sextWord sgn
  have := v.isLt
  apply BitVec.eq_of_toInt_eq
  rw [BitVec.toInt_signExtend_of_le (by omega), BitVec.toInt_ofInt, BitVec.toInt_eq_toNat_cond]
  simp only [Nat.mod_eq_of_lt this]
  by_cases hh : 2 * v.toNat < 2 ^ 32
  · have : v.toNat < 2 ^ (32 - 1) := by omega
    simp only [this, hh, if_true]
    rw [Int.bmod_eq_of_le] <;> omega
  · have : ¬ v.toNat < 2 ^ (32 - 1) := by omega
    simp only [this, hh, if_false]
    push_cast
    rw [Int.bmod_eq_of_le] <;> omega

/-- An exact result that agrees with a bit-vector operation modulo 2^n gives it at either width (R75). -/
theorem aluWord_eq (w : Bool) (f : (n : Nat) → BitVec n → BitVec n → BitVec n) (x y : Word) (r : Nat → Nat → Nat → Int)
    (h : ∀ n, n = 32 ∨ n = 64 → ∀ x y : BitVec n, r n x.toNat y.toNat % (2 ^ n : Nat) = ((f n x y).toNat : Int)) :
    aluWord w (r (aluBits w) (aluArg w x) (aluArg w y)) = sized w f x y := by
  cases w
  · simp only [aluWord, aluBits, aluArg, sized, Bool.false_eq_true, if_false]
    have := h 64 (.inr rfl) x y
    rw [Nat.mod_eq_of_lt x.isLt, Nat.mod_eq_of_lt y.isLt]
    have e := wordOfInt_natCast (f 64 x y)
    rw [← e, ← this]; unfold wordOfInt
    apply BitVec.eq_of_toInt_eq
    rw [BitVec.toInt_ofInt, BitVec.toInt_ofInt, Int.emod_bmod]
  · simp only [aluWord, aluBits, aluArg, sized, if_true]
    apply sextWord_trunc
    have := h 32 (.inl rfl) (x.setWidth 32) (y.setWidth 32)
    simpa [BitVec.toNat_setWidth] using this

/-- The signed reading of a bit vector (R134). -/
theorem sgn_toNat {n : Nat} (hn : n = 32 ∨ n = 64) (x : BitVec n) : sgn n x.toNat = x.toInt := by
  unfold sgn
  rw [BitVec.toInt_eq_toNat_cond, Nat.mod_eq_of_lt x.isLt]
  rcases hn with rfl | rfl <;> split <;> split <;> omega

theorem toInt_mod {n : Nat} (v : BitVec n) : v.toInt % (2 ^ n : Nat) = (v.toNat : Int) := by
  rw [BitVec.toInt_eq_toNat_bmod, Int.bmod_emod]
  exact Int.emod_eq_of_lt (by omega) (by exact_mod_cast v.isLt)

theorem nat_mod {n : Nat} (v : BitVec n) : ((v.toNat : Nat) : Int) % (2 ^ n : Nat) = (v.toNat : Int) :=
  Int.emod_eq_of_lt (by omega) (by exact_mod_cast v.isLt)

variable {n : Nat} (hn : n = 32 ∨ n = 64) (x y : BitVec n)

theorem add_mod : ((x.toNat : Int) + y.toNat) % (2 ^ n : Nat) = ((x + y).toNat : Int) := by
  rw [BitVec.toNat_add]; push_cast; rfl

theorem sub_mod : ((x.toNat : Int) - y.toNat) % (2 ^ n : Nat) = ((x - y).toNat : Int) := by
  rw [BitVec.toNat_sub]
  have := x.isLt; have := y.isLt
  push_cast [Nat.cast_sub (Nat.le_of_lt y.isLt)]
  rw [show ((2:Int) ^ n - y.toNat + x.toNat) = (x.toNat : Int) - y.toNat + 2 ^ n by ring]
  simp

theorem mul_mod : (((x.toNat * y.toNat : Nat)) : Int) % (2 ^ n : Nat) = ((x * y).toNat : Int) := by
  rw [BitVec.toNat_mul]; push_cast; rfl

theorem not_sub : 2 ^ n - 1 - y.toNat = (~~~y).toNat := by rw [BitVec.toNat_not]

theorem shl_mod (k : Nat) : ((x.toNat * 2 ^ k : Nat) : Int) % (2 ^ n : Nat) = ((x <<< k).toNat : Int) := by
  rw [BitVec.toNat_shiftLeft, Nat.shiftLeft_eq]; push_cast; rfl

theorem shr_eq (k : Nat) : x.toNat / 2 ^ k = (x >>> k).toNat := by
  rw [BitVec.toNat_ushiftRight, Nat.shiftRight_eq_div_pow]

include hn in
theorem sha_mod (k : Nat) :
    (sgn n x.toNat / (2 ^ k : Nat)) % (2 ^ n : Nat) = ((x.sshiftRight k).toNat : Int) := by
  rw [sgn_toNat hn, ← toInt_mod (x.sshiftRight k), BitVec.toInt_sshiftRight, Int.shiftRight_eq_div_pow]

include hn in
theorem min_mod : (if sgn n x.toNat < sgn n y.toNat then sgn n x.toNat else sgn n y.toNat) % (2 ^ n : Nat) =
    ((if x.slt y then x else y).toNat : Int) := by
  rw [sgn_toNat hn, sgn_toNat hn]
  by_cases h : x.toInt < y.toInt
  · rw [if_pos h, if_pos (by simpa [BitVec.slt] using h)]; exact toInt_mod _
  · rw [if_neg h, if_neg (by simpa [BitVec.slt] using h)]; exact toInt_mod _

include hn in
theorem max_mod : (if sgn n x.toNat < sgn n y.toNat then sgn n y.toNat else sgn n x.toNat) % (2 ^ n : Nat) =
    ((if x.slt y then y else x).toNat : Int) := by
  rw [sgn_toNat hn, sgn_toNat hn]
  by_cases h : x.toInt < y.toInt
  · rw [if_pos h, if_pos (by simpa [BitVec.slt] using h)]; exact toInt_mod _
  · rw [if_neg h, if_neg (by simpa [BitVec.slt] using h)]; exact toInt_mod _

include hn in
theorem div_mod : divS (sgn n x.toNat) (sgn n y.toNat) % (2 ^ n : Nat) =
    ((if y = 0 then BitVec.allOnes n else x.sdiv y).toNat : Int) := by
  rw [sgn_toNat hn, sgn_toNat hn]
  unfold divS
  have hz : y.toInt = 0 ↔ y = 0 := by
    constructor
    · intro h; apply BitVec.eq_of_toInt_eq; simpa using h
    · rintro rfl; simp
  by_cases h : y = 0
  · subst h
    rw [if_pos (by simp), if_pos rfl]
    rcases hn with rfl | rfl <;> decide
  · rw [if_neg h, if_neg (mt hz.1 h), ← toInt_mod, BitVec.toInt_sdiv, Int.bmod_emod]

include hn in
theorem rem_mod : remS (sgn n x.toNat) (sgn n y.toNat) % (2 ^ n : Nat) =
    ((if y = 0 then x else x.srem y).toNat : Int) := by
  rw [sgn_toNat hn, sgn_toNat hn]
  unfold remS
  have hz : y.toInt = 0 ↔ y = 0 := by
    constructor
    · intro h; apply BitVec.eq_of_toInt_eq; simpa using h
    · rintro rfl; simp
  by_cases h : y = 0
  · simp only [h, if_true]
    rw [if_pos (by simp)]; exact toInt_mod x
  · rw [if_neg h, if_neg (mt hz.1 h), ← toInt_mod, BitVec.toInt_srem]

end Sys2Proof.Machine
end

