-- ==== Sys2Proof/Laws/Slots.lean ====
section
/-!
SUPPORT. Slots of fixed width in bit strings: what packing values puts in each slot, and which slots replacing a row of an
accumulator changes.
-/

namespace Sys2Proof.Machine

/-- Packed slots are a number of their total width. -/
theorem packSlots_lt (w : Nat) (vs : List Nat) : packSlots w vs < 2 ^ (w * vs.length) := by
  induction vs with
  | nil => simp [packSlots]
  | cons v vs ih =>
    simp only [packSlots, List.length_cons, Nat.mul_succ, Nat.pow_add]
    have h1 : v % 2 ^ w < 2 ^ w := Nat.mod_lt _ (Nat.two_pow_pos w)
    calc v % 2 ^ w + 2 ^ w * packSlots w vs < 2 ^ w + 2 ^ w * packSlots w vs := by omega
      _ = (packSlots w vs + 1) * 2 ^ w := by rw [Nat.add_mul, Nat.one_mul, Nat.mul_comm, Nat.add_comm]
      _ ≤ 2 ^ (w * vs.length) * 2 ^ w := Nat.mul_le_mul_right _ ih

/-- Slot i of packed values is value i, and zero beyond them. -/
theorem packSlots_slot (w i : Nat) (vs : List Nat) : packSlots w vs / 2 ^ (i * w) % 2 ^ w = vs.getD i 0 % 2 ^ w := by
  induction vs generalizing i with
  | nil => simp [packSlots]
  | cons v vs ih =>
    cases i with
    | zero => simp [packSlots]
    | succ i =>
      simp only [packSlots, Nat.succ_mul, List.getD_cons_succ]
      rw [← ih i, Nat.add_comm (i * w), Nat.pow_add, ← Nat.div_div_eq_div_mul,
        Nat.add_mul_div_left _ _ (Nat.two_pow_pos w), Nat.div_eq_of_lt (Nat.mod_lt _ (Nat.two_pow_pos w)), Nat.zero_add]

/-- Reducing modulo a power of two leaves the slots within it alone. -/
theorem mod_slot {n i w : Nat} (h : i * w + w ≤ n) (x : Nat) : x % 2 ^ n / 2 ^ (i * w) % 2 ^ w = x / 2 ^ (i * w) % 2 ^ w := by
  obtain ⟨k, rfl⟩ := Nat.exists_eq_add_of_le h
  apply Nat.eq_of_testBit_eq
  intro j
  simp only [Nat.testBit_mod_two_pow, Nat.testBit_div_two_pow]
  by_cases hj : j < w
  · simp only [hj, decide_true, Bool.true_and]; rw [decide_eq_true (by omega)]; rfl
  · simp [hj]

/-- A slot of packed values held in a bit string that is wide enough. -/
theorem slot_packSlots {n i w : Nat} (h : i * w + w ≤ n) (vs : List Nat) :
    slot (BitVec.ofNat n (packSlots w vs)) i w = vs.getD i 0 % 2 ^ w := by
  unfold slot; rw [BitVec.toNat_ofNat, mod_slot h, packSlots_slot]

/-- A register image holds its values. -/
theorem slot_imgOf {i w : Nat} (h : i * w + w ≤ 16384) (vs : List Nat) : slot (imgOf w vs) i w = vs.getD i 0 % 2 ^ w :=
  slot_packSlots h vs

/-- A number with the n bits from bit p on replaced: the bits below, there, and above. -/
theorem splice_parts (x y p n : Nat) (hy : y < 2 ^ n) :
    let z := x - x / 2 ^ p % 2 ^ n * 2 ^ p + y * 2 ^ p
    z % 2 ^ p = x % 2 ^ p ∧ z / 2 ^ p % 2 ^ n = y ∧ z / 2 ^ (p + n) = x / 2 ^ (p + n) := by
  intro z
  have hp := Nat.two_pow_pos p
  have hn := Nat.two_pow_pos n
  have h1 : x = x % 2 ^ p + 2 ^ p * (x / 2 ^ p) := (Nat.mod_add_div x (2 ^ p)).symm
  have h2 : x / 2 ^ p = x / 2 ^ p % 2 ^ n + 2 ^ n * (x / 2 ^ p / 2 ^ n) := (Nat.mod_add_div _ (2 ^ n)).symm
  have h3 : x / 2 ^ (p + n) = x / 2 ^ p / 2 ^ n := by rw [Nat.pow_add, Nat.div_div_eq_div_mul]
  have hz : z = x % 2 ^ p + 2 ^ p * (y + 2 ^ n * (x / 2 ^ p / 2 ^ n)) := by
    have e : x - x / 2 ^ p % 2 ^ n * 2 ^ p = x % 2 ^ p + 2 ^ p * (2 ^ n * (x / 2 ^ p / 2 ^ n)) := by
      apply Nat.sub_eq_of_eq_add
      conv_lhs => rw [h1, h2]
      rw [Nat.mul_add, Nat.mul_comm (2 ^ p) (x / 2 ^ p % 2 ^ n)]; omega
    show x - x / 2 ^ p % 2 ^ n * 2 ^ p + y * 2 ^ p = _
    rw [e, Nat.mul_add, Nat.mul_comm y]; omega
  have hd : z / 2 ^ p = y + 2 ^ n * (x / 2 ^ p / 2 ^ n) := by
    rw [hz, Nat.add_mul_div_left _ _ hp, Nat.div_eq_of_lt (Nat.mod_lt _ hp), Nat.zero_add]
  refine ⟨?_, ?_, ?_⟩
  · rw [hz, Nat.add_mul_mod_self_left, Nat.mod_mod]
  · rw [hd, Nat.add_mul_mod_self_left, Nat.mod_eq_of_lt hy]
  · rw [h3, Nat.pow_add, ← Nat.div_div_eq_div_mul, hd, Nat.add_mul_div_left _ _ hn, Nat.div_eq_of_lt hy, Nat.zero_add]

/-- The accumulator after a row is replaced: the new words there, and every other word as before (R291). -/
theorem slot_setRow (acc : BitVec 524288) {r : Nat} (f : Nat → Nat) {j : Nat} (_hr : r < 64) (hj : j < 16384) :
    slot (setRow acc r f) j 32 = if j / 256 = r then f (j % 256) % 2 ^ 32 else slot acc j 32 := by
  have hl := packSlots_lt 32 ((List.range 256).map f)
  rw [List.length_map, List.length_range] at hl
  obtain ⟨h1, h2, h3⟩ := splice_parts acc.toNat _ (8192 * r) 8192 hl
  have hs : slot (setRow acc r f) j 32 =
      (acc.toNat - acc.toNat / 2 ^ (8192 * r) % 2 ^ 8192 * 2 ^ (8192 * r) +
        packSlots 32 ((List.range 256).map f) * 2 ^ (8192 * r)) / 2 ^ (j * 32) % 2 ^ 32 := by
    unfold setRow slot
    rw [BitVec.toNat_ofNat, mod_slot (by omega), Nat.mul_comm r 8192]
  rw [hs]
  generalize acc.toNat - acc.toNat / 2 ^ (8192 * r) % 2 ^ 8192 * 2 ^ (8192 * r) +
    packSlots 32 ((List.range 256).map f) * 2 ^ (8192 * r) = z at h1 h2 h3
  unfold slot
  rcases Nat.lt_trichotomy (j / 256) r with h | h | h
  · rw [if_neg (by omega), ← mod_slot (n := 8192 * r) (by omega), h1, mod_slot (by omega)]
  · rw [if_pos h]
    obtain ⟨c, rfl⟩ : ∃ c, j = 256 * r + c := ⟨j - 256 * r, by omega⟩
    have e : (256 * r + c) * 32 = 8192 * r + c * 32 := by omega
    have hc : (256 * r + c) % 256 = c := by omega
    have hq := packSlots_slot 32 c ((List.range 256).map f)
    rw [e, Nat.pow_add, ← Nat.div_div_eq_div_mul, ← mod_slot (n := 8192) (by omega), h2, hq, hc]
    simp only [List.getD_eq_getElem?_getD, List.getElem?_map, List.getElem?_range (show c < 256 by omega)]
    rfl
  · rw [if_neg (by omega)]
    obtain ⟨c, hc⟩ : ∃ c, j * 32 = (8192 * r + 8192) + c := ⟨j * 32 - (8192 * r + 8192), by omega⟩
    rw [hc, Nat.pow_add _ _ c, ← Nat.div_div_eq_div_mul, ← Nat.div_div_eq_div_mul, h3]

end Sys2Proof.Machine
end

