-- ==== Sys2Proof/Laws/Trap.lean ====
section
/-!
SUPPORT. What taking a trap can do: with no trace being kept, it changes the core and its grant alone.
-/

namespace Sys2Proof.Machine

theorem traceRec_off {s : State} (h : s.cpu.dctl.getLsbD 3 = false) (k c : Nat) (x v : Word) : traceRec s k c x v = s := by
  unfold traceRec; dsimp only; rw [h]; rfl

/-- What an operation on the clusters and the cores leaves alone. -/
structure SameStore (s t : State) : Prop where
  mem : t.mem = s.mem
  futs : t.futs = s.futs
  poison : t.poison = s.poison
  fatal : t.fatal = s.fatal

theorem unwait_cpu (s : State) : (unwait s).cpu = s.cpu := by unfold unwait; dsimp only; split <;> rfl

theorem unwait_store (s : State) : SameStore s (unwait s) := by
  unfold unwait; dsimp only; split <;> exact ⟨rfl, rfl, rfl, rfl⟩

/-- The grants of a cluster do not change when a core stops waiting for a Flue entry. -/
theorem gmap_unwait (s : State) (n : Nat) : gmap (unwait s) n = gmap s n := by
  unfold unwait
  dsimp only
  split
  · unfold gmap modCluster setCluster clusterAt
    dsimp only
    rw [find_put]
    split
    · rename_i h; rw [h]; rfl
    · rfl
  · rfl

theorem groupCount_unwait (s : State) (n : Nat) : groupCount (unwait s) n = groupCount s n := by
  unfold groupCount; rw [gmap_unwait]

/-- A core's grant is the one set for it. -/
theorem gmap_setGrant (s : State) (n : Nat) (g : BitVec 8) : gmap (setGrant s n g) n = g := by
  unfold setGrant gmap modCluster setCluster clusterAt
  dsimp only
  rw [find_put]
  simp only [if_true, Option.getD_some]
  exact Vector.getElem_set_self _

theorem savedCtx_unwait (s : State) (c : Ctx) :
    savedCtx (modCpu (unwait s) fun c => { c with lane := none, stall := none }) c = savedCtx s c := by
  have hg : groupCount (modCpu (unwait s) fun c => { c with lane := none, stall := none }) s.cpu.id =
    groupCount s s.cpu.id := groupCount_unwait s _
  unfold savedCtx
  simp only [modCpu_cpu, unwait_cpu, hg]

theorem toFirmware_unwait (s : State) (cause : Nat) :
    toFirmware (modCpu (unwait s) fun c => { c with lane := none, stall := none }) cause = toFirmware s cause := by
  unfold toFirmware
  simp only [modCpu_cpu, unwait_cpu]

/-- The level that a trap from a task goes to, with the core as the handler finds it (R374 to R377). -/
theorem takeTrap_task {s : State} (h : s.cpu.dctl.getLsbD 3 = false) (hw : s.cpu.who = .task) {cause : Nat} {v : Word}
    (hf : toFirmware s cause = false) :
    takeTrap s cause v =
      modCpu (bump (setGrant (modCpu (unwait s) fun c => { c with lane := none, stall := none }) s.cpu.id 0) 4)
        fun k => { k with
          sys := enterHandler k.sys cause v s.cpu.live.pc (commitPc s.cpu.live) k.priv false false (k.tvec &&& ~~~0x3F)
          trapped := some (savedCtx s s.cpu.live)
          trapPoison := false
          writers := [], passed := none
          who := .sys
          priv := 1
          live := { k.sys.ctx with pc := k.tvec &&& ~~~0x3F, pfx := Pfx.none } } := by
  have hb : (modCpu (unwait s) fun c => { c with lane := none, stall := none }).cpu.dctl.getLsbD 3 = false := by
    simp only [modCpu, unwait_cpu]; exact h
  unfold takeTrap
  dsimp only
  rw [traceRec_off hb, toFirmware_unwait, hf, savedCtx_unwait]
  simp only [modCpu_cpu, unwait_cpu, hw, reduceCtorEq, if_true, if_false, decide_false, Bool.false_eq_true]
  rfl

/-- ERROR, or a walk fault of a system-privileged task, goes to firmware from the task (R375, R377). -/
theorem takeTrap_task_fw {s : State} (h : s.cpu.dctl.getLsbD 3 = false) (hw : s.cpu.who = .task) {cause : Nat} {v : Word}
    (hf : toFirmware s cause = true) :
    takeTrap s cause v =
      modCpu (bump (setGrant (modCpu (unwait s) fun c => { c with lane := none, stall := none }) s.cpu.id 0) 4)
        fun k => { k with
          fw := enterHandler k.fw cause v s.cpu.live.pc (commitPc s.cpu.live) k.priv false false (k.fvec &&& ~~~0x3F)
          trapped := some (savedCtx s s.cpu.live)
          trapPoison := false
          writers := [], passed := none
          who := .fw
          priv := 2
          live := { k.fw.ctx with pc := k.fvec &&& ~~~0x3F, pfx := Pfx.none } } := by
  have hb : (modCpu (unwait s) fun c => { c with lane := none, stall := none }).cpu.dctl.getLsbD 3 = false := by
    simp only [modCpu, unwait_cpu]; exact h
  unfold takeTrap
  dsimp only
  rw [traceRec_off hb, toFirmware_unwait, hf, savedCtx_unwait]
  simp only [modCpu_cpu, unwait_cpu, hw, reduceCtorEq, if_true, if_false, decide_false]
  rfl

/-- A trap in the system handler goes to firmware (R375, R377). -/
theorem takeTrap_sys {s : State} (h : s.cpu.dctl.getLsbD 3 = false) (hw : s.cpu.who = .sys) {cause : Nat} {v : Word} :
    takeTrap s cause v =
      modCpu (modCpu (unwait s) fun c => { c with lane := none, stall := none })
        fun k => { k with
          sys := { k.sys with ctx := s.cpu.live }
          fw := enterHandler k.fw cause v s.cpu.live.pc (commitPc s.cpu.live) k.priv true false (k.fvec &&& ~~~0x3F)
          writers := [], passed := none
          who := .fw
          priv := 2
          live := { k.fw.ctx with pc := k.fvec &&& ~~~0x3F, pfx := Pfx.none } } := by
  have hb : (modCpu (unwait s) fun c => { c with lane := none, stall := none }).cpu.dctl.getLsbD 3 = false := by
    simp only [modCpu, unwait_cpu]; exact h
  have hf' : toFirmware (modCpu (unwait s) fun c => { c with lane := none, stall := none }) cause = true := by
    unfold toFirmware; simp only [modCpu, unwait_cpu, hw]; simp
  unfold takeTrap
  dsimp only
  rw [traceRec_off hb, hf']
  simp only [modCpu_cpu, unwait_cpu, hw, reduceCtorEq, if_true, if_false, decide_true, decide_false]
  rfl

/-- A trap or an interrupt with no running context, to the system level (R376). -/
theorem takeTrap_idle {s : State} (h : s.cpu.dctl.getLsbD 3 = false) (hw : s.cpu.who = .idle) {cause : Nat} {v : Word}
    (hf : toFirmware s cause = false) :
    takeTrap s cause v =
      modCpu (modCpu (unwait s) fun c => { c with lane := none, stall := none })
        fun k => { k with
          sys := enterHandler k.sys cause v 0 0 0 false true (k.tvec &&& ~~~0x3F)
          trapped := none
          trapPoison := false
          writers := [], passed := none
          who := .sys
          priv := 1
          live := { k.sys.ctx with pc := k.tvec &&& ~~~0x3F, pfx := Pfx.none } } := by
  have hb : (modCpu (unwait s) fun c => { c with lane := none, stall := none }).cpu.dctl.getLsbD 3 = false := by
    simp only [modCpu, unwait_cpu]; exact h
  have hf' : toFirmware (modCpu (unwait s) fun c => { c with lane := none, stall := none }) cause = false := by
    unfold toFirmware at hf ⊢; simpa only [modCpu, unwait_cpu] using hf
  unfold takeTrap
  dsimp only
  rw [traceRec_off hb, hf']
  simp only [modCpu_cpu, unwait_cpu, hw, reduceCtorEq, if_true, if_false, decide_true, decide_false]
  rfl

end Sys2Proof.Machine
end

