-- ==== Sys2Proof/Tests/Slice0.lean ====
section
/-!
SUPPORT. Tests of the model on small states, and for every claim with hypotheses a state that meets them. Words and expected
values come from the manual's encoding tables and rules.
-/

namespace Sys2Proof.Tests

set_option Elab.async false

open Sys2Proof.Machine Sys2Proof.Claims

/-- Each word decodes to its instruction. -/
def reads (l : List (Nat × Instr)) : Bool := l.all fun p => decodeTableWord 32 p.1 == some p.2

/-- A tenant that may use groups, a bank and key slot 0. -/
def someTenant : Tenant := { Tenant.reset with state := 1, keyset := 1, lanemax := 8, bankmax := 1, clusters := 1 }

/-- A readable and writable page of tenant 0 at 0x10000. -/
def page : TlbEntry :=
  { tenant := 0, va := 0x10000, size := 0x10000, pa := 0x10000, r := true, w := true, x := true, s := false, ten := 0,
    key := 0 }

/-- Core 0 running a task of tenant 0 with one lane group: g1 = 0x10000, g2 = 8, g3 = 3, g4 = 0x10001. -/
def task : State :=
  let k : Cluster := { Cluster.reset with grants := Vector.ofFn fun i => if i = 0 then 1 else 0 }
  { State.reset with
    tenants := Vector.replicate 16 someTenant
    clusters := [(0, { k with tlb := [page] })]
    cpu := { Core.reset 0 with
      who := .task
      priv := 0
      tlb := [page]
      live := { Ctx.reset with
        pc := 0x1000
        g := Vector.ofFn fun i => if i = 1 then 0x10000 else if i = 2 then 8 else if i = 3 then 3 else
          if i = 4 then 0x10001 else 0 } } }

/-- A general register of the running context given a value. -/
def withG (s : State) (r : Reg) (v : Word) : State := writeReg s r v

/-- A prefix pending for the next instruction. -/
def withPfx (s : State) (p : Pfx) : State := modLive s fun c => { c with pfx := p }

/-- What `Runs` asks for, when nothing is queued. -/
def runsOk (a : Attr) (s : State) : Bool :=
  s.cpu.lane.isNone && !masked s a && (!s.cpu.live.pfx.v || !badPrefix a.lend a.hasK s.cpu.live.pfx) &&
  decide (a.level ≤ s.cpu.priv.toNat) && (a.scalar || (s.cpu.who != .sys && s.cpu.who != .fw)) && s.cpu.live.viq.isEmpty

theorem runs_of {a : Attr} {i : Instr} {s : State} (h : runsOk a s = true) : Runs a i s := by
  simp only [runsOk, Bool.and_eq_true, Bool.or_eq_true, Bool.not_eq_true', Option.isNone_iff_eq_none, decide_eq_true_eq,
    List.isEmpty_iff, bne_iff_ne, ne_eq] at h
  obtain ⟨⟨⟨⟨⟨h1, h2⟩, h3⟩, h4⟩, h5⟩, h6⟩ := h
  refine ⟨h1, h2, fun hv => ?_, h4, fun hs => ?_, .inl h6⟩
  · rcases h3 with h3 | h3
    · rw [hv] at h3; cases h3
    · exact h3
  · rcases h5 with h5 | h5
    · rw [hs] at h5; cases h5
    · exact h5

/-- What `Begins` asks for, at the front with nothing queued. -/
def beginsOk (a : Attr) (s : State) : Bool :=
  runsOk { a with level := 0 } s && !predFalse s && groupCount s s.cpu.id != 0 && !lanesWait s

theorem begins_of {a : Attr} {g l : Bool} {s : State} (h : beginsOk a s = true) : Begins a g l s := by
  simp only [beginsOk, Bool.and_eq_true, Bool.not_eq_true', bne_iff_ne, ne_eq] at h
  obtain ⟨⟨⟨h1, h2⟩, h3⟩, h4⟩ := h
  have r : Runs { a with level := 0 } (.vqpop 0) s := runs_of h1
  refine ⟨fun _ => r.feature, fun _ => r.pfx, fun _ => r.context, fun _ => ?_, fun _ => h2, fun _ _ => h3, fun _ => h4⟩
  simp only [runsOk, Bool.and_eq_true, List.isEmpty_iff] at h1
  exact h1.2

/-- An access that goes through, with a condition on what it gives. -/
def good {α : Type} (x : Acc α) (p : α → State → Bool) : Bool :=
  match x with
  | .ok a s => p a s
  | .stop _ => false

theorem ok_of {α : Type} {x : Acc α} {p : α → State → Bool} (h : good x p = true) :
    ∃ a s, x = .ok a s ∧ p a s = true := by
  cases x with
  | ok a s => exact ⟨a, s, rfl, h⟩
  | stop s => cases h

/-- What `Reaches` asks for. -/
def reachesOk (s : State) (k : Kind) (va n : Nat) : Bool :=
  va % n = 0 && watchHit s va n (kindRd k) (kindWr k) = none &&
  (match (resolveLive s k va).1 with
   | .ok _ => true
   | _ => false)

theorem reaches_of {s : State} {k : Kind} {va n : Nat} (h : reachesOk s k va n = true) : ∃ p t, Reaches s k va n p t := by
  simp only [reachesOk, Bool.and_eq_true, decide_eq_true_eq] at h
  obtain ⟨⟨h1, h2⟩, h3⟩ := h
  generalize hr : resolveLive s k va = r at h3
  obtain ⟨q, t⟩ := r
  cases q with
  | ok p => exact ⟨p, t, h1, h2, hr⟩
  | xlate => cases h3
  | prot => cases h3

/-- A free slot is found while no future is used and the held lists leave room. -/
theorem slot_of {s : State} {b : Nat} (h : s.futs = []) (hl : slotsLeft s b = true) : freeSlotWith s b ≠ none := by
  have hn : 0 < futCount s := Nat.two_pow_pos _
  have hm : min (futCount s) (s.futs.length + 1) = 1 := by rw [h]; simp; omega
  unfold freeSlotWith
  rw [hm, if_pos hl]
  simp [freeFrom, futAt, h, Tab.find, Fut.reset]

theorem alloc_of {s : State} (k : Nat) {b : Nat} (h : s.futs = []) (hl : slotsLeft s b = true) :
    ∃ n t, allocAt s k (freeSlotWith s b) = some (n, t) := by
  unfold allocAt
  cases hs : freeSlotWith s b with
  | none => exact absurd hs (slot_of h hl)
  | some n => exact ⟨_, _, rfl⟩

/-- What `Accepts` asks for while no future is used. -/
def acceptsOk (s : State) : Bool := s.futs.isEmpty && slotsLeft s (moreBlocks s 1) && decide (s.cpu.live.held.length < 256)

theorem accepts_of {s : State} (k : Nat) (m : Bool) (d : Reg) (h : acceptsOk s = true) : ∃ n t, Accepts s k m d n t := by
  simp only [acceptsOk, Bool.and_eq_true, List.isEmpty_iff, decide_eq_true_eq] at h
  obtain ⟨n, u, hu⟩ := alloc_of k h.1.1 h.1.2
  exact ⟨n, _, h.2, u, hu, rfl⟩

/-! Decoding: words of the opcode table with values put into their fields. -/

theorem test_decode_alu : reads [
    (0x04742C00, .add 3 20 5 true), (0x04742C01, .sub 3 20 5 true), (0x04742C02, .and 3 20 5 true),
    (0x04742C03, .or 3 20 5 true), (0x04742C04, .xor 3 20 5 true), (0x04742C05, .andn 3 20 5 true),
    (0x04742C06, .orn 3 20 5 true), (0x04742C07, .shl 3 20 5 true), (0x04742C08, .shr 3 20 5 true),
    (0x04742C09, .sha 3 20 5 true), (0x04742C0A, .ror 3 20 5 true), (0x04742C0B, .mul 3 20 5 true),
    (0x04742C0C, .mulh 3 20 5 true), (0x04742C0D, .mulhn 3 20 5 true), (0x04742C0E, .div 3 20 5 true),
    (0x04742C0F, .divn 3 20 5 true), (0x04742C10, .rem 3 20 5 true), (0x04742C11, .remn 3 20 5 true),
    (0x04742C12, .min 3 20 5 true), (0x04742C13, .max 3 20 5 true), (0x04742C14, .minn 3 20 5 true),
    (0x04742C15, .maxn 3 20 5 true), (0x04742C16, .slt 3 20 5 true), (0x04742C17, .sltn 3 20 5 true),
    (0x04740418, .clz 3 20 true), (0x04740419, .ctz 3 20 true), (0x0474041A, .popc 3 20 true),
    (0x0474041B, .brev 3 20 true)] = true := by decide +kernel

theorem test_decode_plain : reads [
    (0x08748005, .addi 3 20 32773), (0x0C748005, .andi 3 20 32773), (0x10748005, .ori 3 20 32773),
    (0x14748005, .xori 3 20 32773), (0x18748005, .slti 3 20 32773), (0x1C748005, .sltni 3 20 32773),
    (0x24700005, .liw 3 1048581), (0x28700005, .lis 3 1048581), (0x2C700005, .addpc 3 1048581),
    (0x30742980, .sel 3 20 5 6), (0x34742802, .lea 3 20 5 2), (0x42000005, .j 33554437), (0x46000005, .jl 33554437),
    (0x48740000, .jrl 3 20), (0x4E858005, .beq 20 5 32773), (0x52858005, .bne 20 5 32773),
    (0x56858005, .blt 20 5 32773), (0x5A858005, .bge 20 5 32773), (0x5E858005, .bltn 20 5 32773),
    (0x62858005, .bgen 20 5 32773), (0x64745005, .ld 3 20 .i32 4101), (0x68745005, .st 3 20 .i32 4101),
    (0x80600045, .mfs 3 .tquant), (0x84140045, .mts 20 .tquant), (0x8931D000, .pfx 9 true 3 true 2)] = true := by decide +kernel

theorem test_decode_shi : reads [
    (0x20740055, .shli 3 20 true 21), (0x20744055, .shri 3 20 true 21), (0x20748055, .shai 3 20 true 21),
    (0x2074C055, .rori 3 20 true 21)] = true := by decide +kernel

theorem test_decode_fop : reads [
    (0x38742B00, .fadd 3 20 5 .fp32 .rna), (0x38742B01, .fsub 3 20 5 .fp32 .rna),
    (0x38742B02, .fmul 3 20 5 .fp32 .rna), (0x38742B03, .fdiv 3 20 5 .fp32 .rna),
    (0x38740304, .fsqrt 3 20 .fp32 .rna), (0x38742A05, .fmin 3 20 5 .fp32), (0x38742A06, .fmax 3 20 5 .fp32),
    (0x38742A07, .fcmpeq 3 20 5 .fp32), (0x38742A08, .fcmplt 3 20 5 .fp32), (0x38742A09, .fcmple 3 20 5 .fp32),
    (0x38742A0A, .fcmpun 3 20 5 .fp32), (0x3874020B, .fclass 3 20 .fp32), (0x3874030C, .fcvti 3 20 .fp32 .rna),
    (0x3874030D, .fcvtn 3 20 .fp32 .rna), (0x3874030E, .fcvtfi 3 20 .fp32 .rna),
    (0x3874030F, .fcvtfn 3 20 .fp32 .rna), (0x38741B10, .fcvtf 3 20 .bf16 .fp32 .rna)] = true := by decide +kernel

theorem test_decode_fma : reads [
    (0x3C742998, .fma 3 20 5 6 .fp32 .rna), (0x3C742999, .fnma 3 20 5 6 .fp32 .rna)] = true := by decide +kernel

theorem test_decode_xmem : reads [
    (0x6C742812, .xld 3 20 5 2 .i32), (0x6C742832, .xst 3 20 5 2 .i32)] = true := by decide +kernel

theorem test_decode_amo : reads [
    (0x707428D0, .amoSwap 3 20 5 true true true), (0x707428D1, .amoAdd 3 20 5 true true true),
    (0x707428D2, .amoAnd 3 20 5 true true true), (0x707428D3, .amoOr 3 20 5 true true true),
    (0x707428D4, .amoXor 3 20 5 true true true), (0x707428D5, .amoMin 3 20 5 true true true),
    (0x707428D6, .amoMax 3 20 5 true true true), (0x707428D7, .amoMinn 3 20 5 true true true),
    (0x707428D8, .amoMaxn 3 20 5 true true true), (0x707428D9, .amoCas 3 20 5 true true true)] = true := by decide +kernel

theorem test_decode_ctr : reads [
    (0x74142800, .cinit 20 5), (0x74142801, .cadd 20 5), (0x74740002, .cread 3 20), (0x74742803, .ctest 3 20 5)] = true := by decide +kernel

theorem test_decode_rmt : reads [
    (0x78740040, .rld 3 20 .i32), (0x78742841, .rst 3 20 5 .i32), (0x78742842, .radd 3 20 5 .i32),
    (0x78742843, .rswp 3 20 5 .i32)] = true := by decide +kernel

theorem test_decode_sys : reads [
    (0x7C0002A0, .traps 21), (0x7C0002A1, .brk 21), (0x7C000002, .eret), (0x7C000003, .halt), (0x7C000004, .waiti),
    (0x7C142805, .codesync 20 5), (0x7C140006, .tlbinv 20), (0x7C142807, .l1wb 20 5)] = true := by decide +kernel

theorem test_decode_task : reads [
    (0x8C742800, .spawn 3 20 5), (0x8C742981, .spawng 3 20 5 6), (0x8C140002, .finish 20), (0x8C142803, .fref 20 5),
    (0x8C140004, .fdrop 20), (0x8C740005, .fpoll 3 20), (0x8C740006, .ftake 3 20), (0x8C000007, .rpoint),
    (0x8C000008, .rhold), (0x8C000009, .rrel), (0x8C60000A, .tself 3), (0x8C14000B, .ffail 20)] = true := by decide +kernel

theorem test_decode_awt : reads [
    (0x90742C68, .await 3 20 5 70 true), (0x90742C69, .awaitany 3 20 5 70 true), (0x90002C6A, .yield 5 70 true),
    (0x90742C6B, .cwait 3 20 5 70 true)] = true := by decide +kernel

theorem test_decode_cpy : reads [
    (0x94742980, .cpy1d 3 20 5 6), (0x94740001, .cpy2d 3 20), (0x94742982, .cpfill 3 20 5 6),
    (0x94740003, .cpgath 3 20), (0x94600004, .cpqry 3)] = true := by decide +kernel

theorem test_decode_mtx : reads [
    (0x98742800, .mxbind 3 20 5), (0x98742801, .mxload 3 20 5), (0x98142982, .mxrow 20 5 6),
    (0x98142983, .mxrowz 20 5 6), (0x98740004, .mxsync 3 20), (0x98742805, .mxrd 3 20 5),
    (0x98742806, .mxzero 3 20 5), (0x98140007, .mxrel 20), (0x98740008, .mxqry 3 20)] = true := by decide +kernel

theorem test_decode_fab : reads [
    (0x9C742800, .fgrp 3 20 5), (0x9C740001, .fcoll 3 20), (0x9C740002, .fbar 3 20), (0x9C740003, .fgqry 3 20),
    (0x9C140004, .fgfree 20)] = true := by decide +kernel

theorem test_decode_dbg : reads [
    (0xA0140000, .dmark 20), (0xA0740001, .dsample 3 20)] = true := by decide +kernel

theorem test_decode_vcfg : reads [
    (0xC0740080, .vsetl 3 20 2), (0xC0742881, .vsetlw 3 20 5 2), (0xC0608002, .vtag 3 (some .e8m0)),
    (0xC0600003, .vclr 3), (0xC0740004, .vfold 3 20), (0xC0140005, .vsave 20), (0xC0140006, .vrestore 20),
    (0xC0600087, .vmaxq 3 2)] = true := by decide +kernel

theorem test_decode_varith : reads [
    (0xC51D0A80, .vadd .vs 3 20 5 2), (0xC51D0A81, .vsub .vs 3 20 5 2), (0xC51D0A82, .vrsub .vs 3 20 5 2),
    (0xC51D0A83, .vmul .vs 3 20 5 2), (0xC51D0A84, .vmulh .vs 3 20 5 2), (0xC51D0A85, .vmin .vs 3 20 5 2),
    (0xC51D0A86, .vmax .vs 3 20 5 2), (0xC41D0087, .vabs 3 20 2), (0xC41D0088, .vneg 3 20 2),
    (0xC51D0A89, .vdiv .vs 3 20 5 2), (0xC51D0A8A, .vrem .vs 3 20 5 2), (0xC41D008B, .vsqrt 3 20 2),
    (0xC41D008C, .vexp2 3 20 2), (0xC51D0A8D, .vand .vs 3 20 5 2), (0xC51D0A8E, .vor .vs 3 20 5 2),
    (0xC51D0A8F, .vxor .vs 3 20 5 2), (0xC51D0A90, .vshl .vs 3 20 5 2), (0xC51D0A91, .vshr .vs 3 20 5 2),
    (0xC51D0A92, .vsha .vs 3 20 5 2), (0xC51D0A93, .vsadd .vs 3 20 5 2), (0xC51D0A94, .vssub .vs 3 20 5 2),
    (0xC51D0A95, .vavg .vs 3 20 5 2)] = true := by decide +kernel

theorem test_decode_vfma : reads [
    (0xC91D0A80, .vfma .vs 3 20 5 2), (0xC91D0A81, .vfms .vs 3 20 5 2), (0xC91D0A82, .vfnma .vs 3 20 5 2),
    (0xC91D0A83, .vfnms .vs 3 20 5 2)] = true := by decide +kernel

theorem test_decode_vcvt : reads [
    (0xCE1D18A0, .vcvt 3 20 .bf16 2 .rna), (0xCE1D18A1, .vcvts 3 20 .bf16 2 .rna),
    (0xCE1D1822, .vpackmx 3 20 .bf16 .rna), (0xCE1D1823, .vunpkmx 3 20 .bf16 .rna)] = true := by decide +kernel

theorem test_decode_vred : reads [
    (0xD01D00A0, .vrsum 3 20 2 true), (0xD11D0AA1, .vrsumo 3 20 5 2 true), (0xD01D00A2, .vrmax 3 20 2 true),
    (0xD01D00A3, .vrmin 3 20 2 true), (0xD01D00A4, .vrand 3 20 2 true), (0xD01D00A5, .vror 3 20 2 true),
    (0xD01D00A6, .vrxor 3 20 2 true), (0xD01D00A7, .vrmaxi 3 20 2 true)] = true := by decide +kernel

theorem test_decode_vperm : reads [
    (0xD51D0A80, .vslup .vs 3 20 5 2), (0xD51D0A81, .vsldn .vs 3 20 5 2), (0xD41D0A82, .vrgath 3 20 5 2),
    (0xD41D0083, .vcompr 3 20 2), (0xD41D0084, .vexpnd 3 20 2), (0xD6199885, .viota 3 6 .bf16 2),
    (0xD6181886, .vidx 3 .bf16 2), (0xD51D0A87, .vbcast .vs 3 20 5 2), (0xD51D0A88, .vmerge .vs 3 20 5 2),
    (0xD41D0089, .vrev 3 20 2), (0xD41D008A, .vzip 3 20 2), (0xD41D008B, .vunzip 3 20 2)] = true := by decide +kernel

theorem test_decode_vmask : reads [
    (0xD91D0A80, .vceq .vs 3 20 5 2), (0xD91D0A81, .vcne .vs 3 20 5 2), (0xD91D0A82, .vclt .vs 3 20 5 2),
    (0xD91D0A83, .vcle .vs 3 20 5 2), (0xD91D0A84, .vcgt .vs 3 20 5 2), (0xD91D0A85, .vcge .vs 3 20 5 2),
    (0xD91D0A86, .vcun .vs 3 20 5 2), (0xD91D0A87, .vclass 3 20 5 2), (0xD8190A88, .kand 3 4 5 2),
    (0xD8190A89, .kor 3 4 5 2), (0xD8190A8A, .kxor 3 4 5 2), (0xD819008B, .knot 3 4 2),
    (0xD8190A8C, .kandn 3 4 5 2), (0xD819008D, .ksbf 3 4 2), (0xD819008E, .ksif 3 4 2), (0xD819008F, .kpopc 3 4 2),
    (0xD8190090, .kfirst 3 4 2), (0xD8190091, .kmov 3 4 2)] = true := by decide +kernel

theorem test_decode_vld : reads [
    (0xDE1D00AC, .vldUnit 3 20 2 true .e4m3), (0xDD1D0AAC, .vldStrided 3 20 5 2 true .e4m3),
    (0xDC1D0AAC, .vldIndexed 3 20 5 2 true .e4m3), (0xDF1D00AC, .vldFirstFault 3 20 2 true .e4m3),
    (0xDE1D001C, .vldSegmentMx 3 20 .e4m3)] = true := by decide +kernel

theorem test_decode_vst : reads [
    (0xE21D00AC, .vstUnit 3 20 2 true .e4m3), (0xE11D0AAC, .vstStrided 3 20 5 2 true .e4m3),
    (0xE01D0AAC, .vstIndexed 3 20 5 2 true .e4m3), (0xE31D00AC, .vstOrdered 3 20 2 true .e4m3),
    (0xE21D001C, .vstSegmentMx 3 20 .e4m3)] = true := by decide +kernel

theorem test_decode_vmov : reads [
    (0xE5180A00, .vmvsx 3 5), (0xE41D0001, .vmvxs 3 20), (0xE4180002, .vqpop 3), (0xE4180003, .vqlen 3),
    (0xE5180A84, .vmv .vs 3 0 5 2)] = true := by decide +kernel

/-- The words that the manual's own examples write out. -/
theorem test_decode_examples : reads [(0x64E4C010, .ld 7 4 .n32 16), (0x04642800, .add 3 4 5 false),
    (0x0842FFF8, .addi 2 2 0xFFF8), (0x48010000, .jrl 0 1), (0x04000000, .add 0 0 0 false)] = true := by decide +kernel

/-- The codes of R39, R40 and R41 that the words above leave out. -/
theorem test_codes : (List.range 8).map Size.ofCode =
    [some .i8, some .i16, some .i32, some .d, some .n8, some .n16, some .n32, none] ∧
    (List.range 8).map RM.ofCode = [some .rne, some .rtz, some .rdn, some .rup, some .rna, some .ef, none, some .dyn] ∧
    (List.range 17).map Ty.ofCode = [some .i8, some .i16, some .i32, some .i64, some .n8, some .n16, some .n32, some .n64,
      some .fp64, some .fp32, some .fp16, some .bf16, some .e4m3, some .e5m2, some .e2m1, some .e8m0, none] := by decide

/-- R48: a term for each check of WellFormed, which refuses it. -/
theorem test_wellformed : [Instr.shli 1 2 true 32, .fadd 1 2 3 .fp32 .ef, .fcvtf 1 2 .fp32 .fp32 .rne, .st 1 2 .n8 0,
    .radd 1 2 3 .i8, .vpackmx 31 2 .e4m3 .rne, .vslup .vv 1 2 3 0, .kand 0 1 2 0, .vldStrided 1 2 3 0 false .e2m1,
    .vmv .vs 1 2 3 0, .timer].map Instr.defect =
    [some .amount, some .rounding, some .sameFormat, some .size, some .size, some .pair, some .form, some .maskDest,
      some .tag, some .mustBeZero, some .event] := by decide

/-- R48: words that select no instruction: an unassigned opcode and member, a bit that must be zero, an unassigned size,
form and register, and bytes that are no word. -/
theorem test_rejects : [decode 0xFC000000, decode 0x0400003F, decode 0x04000040, decode 0x6400E000, decode 0xC7000000,
    decode 0x8000FFFF, decodeBytes [0, 0]] = [.error .opcode, .error .member, .error .mustBeZero, .error .size,
      .error .form, .error .spr, .error .length] := by decide

/-- A condition on the state after an instruction. -/
def after (s : State) (i : Instr) (p : State → Bool) : Bool :=
  match exec i s with
  | .next t => p t
  | _ => false

/-- A condition on the state after a step that fetches a word. -/
def afterStep (w : Nat) (p : State → Bool) : Bool :=
  match step (State.reset.withFetchWord 32 w) with
  | .next t => p t
  | _ => false

/-- R75: 32-bit addition wraps and its result is sign-extended. -/
theorem test_add : after (withG (withG task 5 0x7FFFFFFF) 6 1) (.add 7 5 6 true)
    (fun t => reg t 7 == 0xFFFFFFFF80000000 && t.cpu.live.pc == 0x1004) = true := by decide +kernel

/-- R76: the most negative number over -1 is itself, and x over 0 has every bit set. -/
theorem test_div : after (withG (withG task 5 0x8000000000000000) 6 0xFFFFFFFFFFFFFFFF) (.div 7 5 6 false)
    (fun t => reg t 7 == 0x8000000000000000) = true ∧
    after (withG task 5 9) (.div 7 5 0 false) (fun t => reg t 7 == 0xFFFFFFFFFFFFFFFF) = true ∧
    after (withG task 5 9) (.rem 7 5 0 false) (fun t => reg t 7 == 9) = true := by decide +kernel

/-- An instruction on two values leaves a third. -/
def corner (i : Instr) (x y v : Word) : Bool := after (withG (withG task 5 x) 6 y) i fun t => reg t 7 == v

/-- The table of results below R76, row by row. -/
theorem test_corner_table : (corner (.div 7 5 6 false) 7 (-2) (-3) && corner (.rem 7 5 6 false) 7 (-2) 1 && corner (.rem 7 5 6 false) (-7) 2 (-1) &&
    corner (.rem 7 5 6 false) 0x8000000000000000 (-1) 0 && corner (.divn 7 5 6 false) 5 0 (-1) &&
    corner (.div 7 5 6 true) 0x0000000180000000 0x00000000FFFFFFFF 0xFFFFFFFF80000000 &&
    corner (.divn 7 5 6 true) 0x00000000FFFFFFFE 1 0xFFFFFFFFFFFFFFFE && corner (.mulhn 7 5 6 false) (-1) 2 1 &&
    corner (.clz 7 5 true) 0x0000000100000000 0 32 && corner (.brev 7 5 true) 1 0 0xFFFFFFFF80000000) = true := by
  decide +kernel

/-- R69: g0 reads zero and discards writes. -/
theorem test_g0 : after task (.addi 0 3 5) (fun t => reg t 0 == 0 && t.cpu.live.pc == 0x1004) = true := by decide +kernel

/-- R79, R80: LIW sign-extends, LIS shifts 21 bits in, LEA scales. -/
theorem test_constants : after task (.liw 7 0x1FFFFF) (fun t => reg t 7 == 0xFFFFFFFFFFFFFFFF) = true ∧
    after task (.lis 3 5) (fun t => reg t 3 == 0x600005) = true ∧
    after task (.lea 7 1 3 3) (fun t => reg t 7 == 0x10018) = true := by decide +kernel

/-- R52 to R55: a prefix predicates the next instruction, and asks for a copy of its result. -/
theorem test_prefix : after (withPfx task { v := true, pg := 3, ps := true, pd := 8, pc := false, pk := 0 }) (.addi 7 0 1)
      (fun t => reg t 7 == 0 && reg t 8 == 0 && t.cpu.live.pc == 0x1004 && !t.cpu.live.pfx.v) = true ∧
    after (withPfx task { v := true, pg := 0, ps := false, pd := 8, pc := false, pk := 0 }) (.addi 7 0 1)
      (fun t => reg t 7 == 1 && reg t 8 == 1) = true := by decide +kernel

/-- R85, R101: 1.0 + 2.0 = 3.0 exactly, 1.0 / 0 = +inf with DZ, and a NaN compares false with NV. -/
theorem test_fop : after (withG (withG task 5 0x3FF0000000000000) 6 0x4000000000000000) (.fadd 7 5 6 .fp64 .rne)
      (fun t => reg t 7 == 0x4008000000000000 && t.cpu.live.fst == 0) = true ∧
    after (withG task 5 0x3F800000) (.fdiv 7 5 0 .fp32 .rne)
      (fun t => reg t 7 == 0x7F800000 && t.cpu.live.fst == 0x80) = true ∧
    after (withG task 5 0x7E00) (.fcmplt 7 5 5 .fp16) (fun t => reg t 7 == 0 && t.cpu.live.fst == 0x100) = true := by
  decide +kernel

/-- R87: 2.5 to an integer under RNE is 2, inexact. -/
theorem test_fcvti : after (withG task 5 0x4004000000000000) (.fcvti 7 5 .fp64 .rne)
    (fun t => reg t 7 == 2 && t.cpu.live.fst == 0x10) = true := by decide +kernel

/-- R90: JRL links before it jumps through the same register; a branch backward by one word. -/
theorem test_jumps : after (withG task 7 0x2000) (.jrl 7 7) (fun t => t.cpu.live.pc == 0x2000 && reg t 7 == 0x1004) = true ∧
    after task (.beq 0 0 0xFFFF) (fun t => t.cpu.live.pc == 0xFFC) = true ∧
    after task (.bltn 3 2 2) (fun t => t.cpu.live.pc == 0x1008) = true := by decide +kernel

/-- R93, R94: a store of two bytes, then loads that extend them, little-endian. -/
theorem test_memory : after (withG task 7 0x80FE) (.st 7 1 .i16 6) (fun t =>
      after t (.ld 8 1 .i16 6) (fun u => reg u 8 == 0xFFFFFFFFFFFF80FE) &&
      after t (.ld 8 1 .n8 6) (fun u => reg u 8 == 0xFE) && after t (.ld 8 1 .n8 7) (fun u => reg u 8 == 0x80)) = true := by
  decide +kernel

/-- R95, R376: a misaligned load traps with its address, at the instruction. -/
theorem test_align : after task (.ld 7 4 .i32 0) (fun t => t.cpu.who == .sys && t.cpu.sys.tcause == 3 &&
    t.cpu.sys.tval == 0x10001 && t.cpu.sys.tepc == 0x1000 && t.cpu.priv == 1) = true := by decide +kernel

/-- R288, R282: an AMO returns the old value; CADD saturates. -/
theorem test_atomics : after (withG task 7 5) (.amoAdd 8 1 7 false false false) (fun t => reg t 8 == 0 &&
      after t (.amoMax 9 1 2 false false false) (fun u => reg u 9 == 5)) = true ∧
    after (withG task 7 0xFFFFFFFFFFFFFFFF) (.cadd 1 7) (fun t => after t (.cadd 1 7) (fun u =>
      after u (.cread 8 1) fun x => reg x 8 == 0xFFFFFFFFFFFFFFFF)) = true := by decide +kernel

/-- R376, R378: a system call saves the address after it, and ERET goes back there. -/
theorem test_traps : after task (.traps 9) (fun t => t.cpu.sys.tcause == 0x0F && t.cpu.sys.tval == 9 &&
    t.cpu.sys.tepc == 0x1004 && t.cpu.who == .sys && after t .eret fun u => u.cpu.who == .task &&
      u.cpu.live.pc == 0x1004 && u.cpu.priv == 0) = true := by decide +kernel

/-- R99: a task may write `tquant` only at system level, and may read `tself`. -/
theorem test_spr : after task (.mts 3 .tquant) (fun t => t.cpu.sys.tcause == 2) = true ∧
    after task (.mfs 7 .tcmbase) (fun t => reg t 7 == 0x000FFE0000000000) = true := by decide +kernel

/-- R252: TSELF and a hold. -/
theorem test_task : after task .rhold (fun t => t.cpu.live.depth == 1 && after t .rrel fun u => u.cpu.live.depth == 0) =
    true := by decide +kernel

/-- Two lane elements of I32 in a register. -/
def i32s (x y : Nat) : VReg := { tag := some .i32, img := BitVec.ofNat 16384 (x + y * 2 ^ 32) }

/-- The task with vl = 2, and I32 elements in v1 and v2. -/
def lanes : State :=
  modVec task fun v => { v with vl := 2, regs := (v.regs.set (1 : Fin 32) (i32s 0x7FFFFFFF 5)).set (2 : Fin 32) (i32s 1 0xFFFFFFFF) }

/-- R165, R112: lane addition wraps, and the bits above vl are zero. -/
theorem test_vadd : after lanes (.vadd .vv 3 1 2 0) (fun t => (vreg t 3).tag == some .i32 &&
    (vreg t 3).img == BitVec.ofNat 16384 (0x80000000 + 4 * 2 ^ 32)) = true := by decide +kernel

/-- R165: saturating addition, and the rounded average. -/
theorem test_vsadd : after lanes (.vsadd .vv 3 1 2 0) (fun t => slot (vreg t 3).img 0 32 == 0x7FFFFFFF) = true ∧
    after lanes (.vavg .vv 3 1 2 0) (fun t => slot (vreg t 3).img 1 32 == 2) = true := by decide +kernel

/-- R171, R174, R176: a maximum, a reversal, and a compare. -/
theorem test_lanes : after lanes (.vrmax 3 1 0 false) (fun t => slot (vreg t 3).img 0 32 == 0x7FFFFFFF) = true ∧
    after lanes (.vrev 3 1 0) (fun t => slot (vreg t 3).img 0 32 == 5) = true ∧
    after lanes (.vclt .vv 1 1 2 0) (fun t => !maskBit t 1 0 && !maskBit t 1 1) = true := by decide +kernel

/-- R205: a unit-stride store and load. -/
theorem test_vmem : after lanes (.vstUnit 1 1 0 false .i32) (fun t => after t (.vldUnit 3 1 0 false .i32) fun u =>
    vreg u 3 == i32s 0x7FFFFFFF 5) = true := by decide +kernel

/-- R118: 100 elements of 32 bits take two groups, which the core gets. -/
theorem test_vsetl : after (withG task 7 100) (.vsetl 8 7 2) (fun t => reg t 8 == 100 && grantBits t == 4096) = true := by
  decide +kernel

/-- R146: FP32 1.5 to I32 under RNE is 2. -/
theorem test_vcvt : after (modVec lanes fun v => { v with regs := v.regs.set (1 : Fin 32) { tag := some .fp32, img := 0x3FC00000 } })
    (.vcvt 3 1 .i32 0 .rne) (fun t => slot (vreg t 3).img 0 32 == 2 && t.cpu.live.fst == 0x10) = true := by decide +kernel

/-- R302, R305: a bank is bound, and then asked for. -/
theorem test_bank : after (withG task 5 0x4000) (.mxbind 7 0 5) (fun t => reg t 7 == 0 &&
    (bankAt t 0 0).owner == some 0) = true := by decide +kernel

/-- R336, R418: an empty copy queue has 64 entries free; a prefix is left pending. -/
theorem test_engines : after task (.cpqry 7) (fun t => reg t 7 == 64) = true ∧
    after task (.pfx 3 true 4 false 5) (fun t => t.cpu.live.pfx == { v := true, pg := 3, ps := true, pd := 4, pc := false, pk := 5 })
      = true := by decide +kernel

/-- R373: an error interrupt on an idle core. -/
theorem test_error : after (modCpu State.reset fun c => { c with pendError := true }) .error (fun t => t.cpu.who == .fw &&
    t.cpu.fw.tcause == 0x123 && t.cpu.fw.idle && !t.cpu.pendError) = true := by decide +kernel

/-- A step from the placed word: fetched, decoded, executed. -/
theorem test_step : afterStep 0x0842FFF8 (fun t => reg t 2 == 0xFFFFFFFFFFFFFFF8 && t.cpu.live.pc == 0x44) = true ∧
    afterStep 0xFC000000 (fun t => t.cpu.sys.tcause == 1 && t.cpu.sys.tval == 0xFC000000) = true := by decide +kernel

/-- The bytes of a block, from the order in which its vector is written. -/
def written (n v : Nat) : List Nat := (natBytes n v).reverse

/-- FIPS 197, C.3: the AES-256 vector, both ways. -/
theorem test_aes : (let k := roundKeys (List.range 32)
    cipher k (written 16 0x00112233445566778899aabbccddeeff) = written 16 0x8ea2b7ca516745bfeafc49904b496089 ∧
    invCipher k (written 16 0x8ea2b7ca516745bfeafc49904b496089) = written 16 0x00112233445566778899aabbccddeeff) := by
  decide +kernel

/-- IEEE 1619, vector 10: the first 16 bytes of data unit 0xff, whose byte n is n. -/
theorem test_xts : (encryptLine (BitVec.ofNat 512 (bytesNat
      (written 32 0x2718281828459045235360287471352662497757247093699959574966967627 ++
       written 32 0x3141592653589793238462643383279502884197169399375105820974944592))) 0xff
      (BitVec.ofNat 1024 (bytesNat (List.range 128)))).toNat % 2 ^ 128 =
    bytesNat (written 16 0x1c3b3a102f770386e4836c99e370cf9b) := by decide +kernel

/-- FIPS 180-4: the SHA-384 digest of "abc". -/
theorem test_sha384 : (sha384 [0x61, 0x62, 0x63]).toNat = bytesNat (written 48
    0xcb00753f45a35e8bb5a03d699ac65007272c32ab0eded1631a8b605a43ff5bed8086072ba1e7cc2358baeca134c825a7) := by
  decide +kernel

/-! Witnesses: for each claim with hypotheses, states and operands that meet them together. -/

/-- What `Acts` asks for. -/
def actsOk (s : State) (k : Kind) (va n : Nat) : Bool :=
  va % n = 0 && watchHit s va n (kindRd k) (kindWr k) = none &&
  (match resolveLive s k va with
   | (.ok p, t) => replayOk t (placePa p) t.cpu.id && !poisoned t (placePa p) n
   | _ => false)

theorem acts_of {s : State} {k : Kind} {va n : Nat} (h : actsOk s k va n = true) : ∃ p t, Acts s k va n p t := by
  simp only [actsOk, Bool.and_eq_true, decide_eq_true_eq] at h
  obtain ⟨⟨h1, h2⟩, h3⟩ := h
  generalize hr : resolveLive s k va = r at h3
  obtain ⟨q, t⟩ := r
  cases q with
  | ok p =>
    simp only [Bool.and_eq_true, Bool.not_eq_true'] at h3
    exact ⟨p, t, ⟨h1, h2, hr⟩, h3.1, .inr h3.2⟩
  | xlate => cases h3
  | prot => cases h3

/-- What `Loads` asks for. -/
def loadsOk (s : State) (va n : Nat) : Bool :=
  va % n = 0 && watchHit s va n (kindRd .read) (kindWr .read) = none &&
  (match resolveLive s .read va with
   | (.ok p, t) => (loadAt t false p n).1.isSome
   | _ => false)

theorem loads_of {s : State} {va n : Nat} (h : loadsOk s va n = true) : ∃ v t, Loads s va n v t := by
  simp only [loadsOk, Bool.and_eq_true, decide_eq_true_eq] at h
  obtain ⟨⟨h1, h2⟩, h3⟩ := h
  generalize hr : resolveLive s .read va = r at h3
  obtain ⟨q, u⟩ := r
  cases q with
  | ok p =>
    simp only at h3
    generalize hl : loadAt u false p n = x at h3
    obtain ⟨o, t⟩ := x
    cases o with
    | none => cases h3
    | some bs => exact ⟨_, t, p, u, bs, ⟨h1, h2, hr⟩, hl, rfl⟩
  | xlate => cases h3
  | prot => cases h3

/-- A save that finds room. -/
def saves : Saved → Bool
  | .ok _ => true
  | _ => false

theorem saved_of {x : Saved} (h : saves x = true) : ∃ u, x = .ok u := by
  cases x with
  | ok u => exact ⟨u, rfl⟩
  | full => cases h
  | fault _ => cases h

/-- The handlers entered from the task: the system handler, the firmware handler after it, and an idle core's handler. -/
def inSys : State := takeTrap task 0x0F 1
def inFw : State := takeTrap inSys 0x01 0
def inIdle : State := takeTrap State.reset 0x22 0

/-- A task whose next instruction is discarded, and one whose next instruction leaves a copy in g8. -/
def hidden : State := withPfx task { v := true, pg := 3, ps := true, pd := 0, pc := false, pk := 0 }
def copying : State := withPfx task { v := true, pg := 0, ps := false, pd := 8, pc := false, pk := 0 }

theorem wit_AluResults : Runs scalarAttr (.add 7 1 2 true) task ∧ Runs scalarAttr (.add 7 1 2 true) hidden ∧
    discarded hidden = true ∧ Runs scalarAttr (.add 7 1 2 true) copying := by
  exact ⟨runs_of (by decide +kernel), runs_of (by decide +kernel), by decide +kernel, runs_of (by decide +kernel)⟩

theorem wit_ImmediateResults : Runs scalarAttr (.sel 7 1 2 3) task := runs_of (by decide +kernel)

theorem wit_FpArithmeticResults : Runs scalarAttr (.fma 7 1 2 3 .fp32 .dyn) task := runs_of (by decide +kernel)

theorem wit_FpCompareResults : Runs scalarAttr (.fcmplt 7 1 2 .fp16) task := runs_of (by decide +kernel)

theorem wit_FpConversionResults : Runs scalarAttr (.fcvtf 7 1 .fp64 .bf16 .rtz) task := runs_of (by decide +kernel)

theorem wit_ScalarFrame : Runs scalarAttr (.fadd 7 1 2 .fp64 .rne) copying := runs_of (by decide +kernel)

theorem wit_ControlTransfers : Runs plainAttr (.jrl 7 1) task ∧ (reg task 1).toNat % 4 = 0 ∧ (reg task 4).toNat % 4 ≠ 0 ∧
    Runs plainAttr (.jrl 7 4) task ∧ Runs plainAttr (.blt 2 3 1) task := by
  exact ⟨runs_of (by decide +kernel), by decide +kernel, by decide +kernel, runs_of (by decide +kernel),
    runs_of (by decide +kernel)⟩

theorem wit_ScalarAccess : Runs scalarAttr (.ld 7 1 .d 8) task ∧ discarded task = false ∧ discarded hidden = true ∧
    (∃ v t, Loads task 0x10008 8 v t) ∧ (∃ p t, Reaches task .write 0x1FFFF 1 p t) := by
  exact ⟨runs_of (by decide +kernel), by decide +kernel, by decide +kernel, loads_of (by decide +kernel),
    reaches_of (by decide +kernel)⟩

/-- The task behind a queued vector load, with nothing held by it and with a store held by it. -/
def behind (hs : List HeldStore) : State :=
  let queued : VEntry := ⟨wordOf (.vldUnit 5 1 0 false .i32), 0xFFC, some 0x11000, none, Pfx.none, false, hs, none⟩
  modLive task fun c => { c with viq := [queued] }

/-- What `Runs` asks for of an instruction behind queued ones, with no prefix. -/
theorem runs_behind {a : Attr} {i : Instr} {s : State}
    (h : (runsOk a (modLive s fun c => { c with viq := [] }) && !a.drain && !synced s && !busy s i &&
      !s.cpu.live.pfx.v) = true) : Runs a i s := by
  simp only [Bool.and_eq_true, Bool.not_eq_true'] at h
  obtain ⟨⟨⟨⟨h1, h2⟩, h3⟩, h4⟩, h5⟩ := h
  have r : Runs a i (modLive s fun c => { c with viq := [] }) := runs_of h1
  exact ⟨r.front, r.feature, r.pfx, r.level, r.context, .inr ⟨h2, h3, h4, fun hv => absurd hv (by rw [h5]; nofun)⟩⟩

/-- A store of two bytes at 0x10002 that waits for the queued load. -/
def waitingStore : HeldStore :=
  { place := .hbm 0x10002 0, bytes := [0x34, 0x12], via := some { page with va := 0 } }

theorem wit_ScalarAccess_held : Runs plainAttr (.st 3 1 .i8 0) (behind []) ∧ Runs scalarAttr (.ld 7 1 .d 0) (behind [waitingStore]) ∧
    (∃ p t, Reaches (behind []) .write 0x10000 1 p t) ∧ (behind []).cpu.live.viq.any usesMemory = true ∧
    task.cpu.live.viq.any usesMemory = false ∧ (∃ v t, Loads (behind [waitingStore]) 0x10000 8 v t) ∧
    waiting (behind [waitingStore]) = [waitingStore] := by
  exact ⟨runs_behind (by decide +kernel), runs_behind (by decide +kernel), reaches_of (by decide +kernel),
    by decide +kernel, by decide +kernel, loads_of (by decide +kernel), by decide +kernel⟩

/-- R97, R275: a store behind a queued load that has still to read completes and waits with it, and a younger load reads its
bytes. -/
theorem test_held : after (behind []) (.st 3 1 .i8 0) (fun t => t.mem == task.mem && t.cpu.l1.isEmpty &&
      heldStores t.cpu.live.viq == [⟨.hbm 0x10000 0, [3], some page⟩]) = true ∧
    after (behind [waitingStore]) (.ld 7 1 .n32 0) (fun t => reg t 7 == 0x12340000) = true := by
  decide +kernel

/-- The task with a watchpoint on the bytes of 0x10000, and one whose page may not be written. -/
def watched : State :=
  { task with dbg := { task.dbg with wtch := task.dbg.wtch.set (0 : Fin 4) 0x10000, wctl := task.dbg.wctl.set (0 : Fin 4) 0x37 } }
def readOnly : State :=
  modCluster (modCpu task fun c => { c with tlb := [{ page with w := false }] }) 0 fun k => { k with tlb := [{ page with w := false }] }

/-- The task of a core whose records may not take one more, with a Woodshed that no page holds. -/
def crowded : State :=
  modCpu task fun c => { c with ctxlim := 1, recs := [forcedRec task task.cpu.live .suspended .none false false] }

/-- The save of the running task with its instruction in the retry latch, as it meets a fault with no queued instruction. -/
def latching (s : State) (i : Instr) : Saved :=
  let c := s.cpu
  let e : VEntry := { word := wordOf i, pc := c.live.pc, cap0 := none, cap1 := none, pfx := c.live.pfx, once := c.live.once,
                      stores := [] }
  saveRec (modCpu s fun x => { x with lane := none })
    (forcedRec s { c.live with latch := some e, latchQ := false } .latched .none false (isPoint i))

theorem wit_ScalarAndAtomicFaults : Runs scalarAttr (.ld 7 1 .i16 1) task ∧ discarded task = false ∧
    (reg task 1 + (1 : BitVec 13).signExtend 64).toNat % sizeBytes .i16 ≠ 0 ∧
    (∀ k ∈ [Kind.read, .write, .rmw], watchHit watched 0x10000 8 (kindRd k) (kindWr k) = some 0) ∧
    Runs (releaseAttr true) (.cadd 1 2) watched ∧ watchHit task 0x90000 8 true false = none ∧
    (resolveLive task .read 0x90000).1 = .xlate ∧ watchHit readOnly 0x10000 8 false true = none ∧
    (resolveLive readOnly .write 0x10000).1 = .prot ∧ task.cpu.who = .task ∧ task.cpu.live.priv = 0 ∧
    saves (latching (resolveLive task .read 0x90000).2 (.ld 7 1 .d 0)) = true ∧
    saves (latching (resolveLive crowded .read 0x90000).2 (.ld 7 1 .d 0)) = false ∧ inSys.cpu.who ≠ .task := by
  exact ⟨runs_of (by decide +kernel), by decide +kernel, by decide +kernel, by decide +kernel, runs_of (by decide +kernel),
    by decide +kernel, by decide +kernel, by decide +kernel, by decide +kernel, by decide +kernel, by decide +kernel,
    by decide +kernel, by decide +kernel, by decide +kernel⟩

theorem wit_SramStoreThenLoad : task.memOk ∧ poisoned task 0x8000000000 2 = false ∧
    poisoned (storeAt task false (.sram 0x8000000000) [1, 2]) 0x8000000000 2 = false := by
  unfold State.memOk; decide +kernel

/-- A task whose L1 holds the line of 0x10000. -/
def cached : State := storeAt task false (.hbm 0x10000 0) [1]

theorem wit_CachedStoreFrame : 0x10000 % 128 + [(1 : Byte)].length ≤ 128 ∧ (∀ l ∈ task.cpu.l1, l.line = 0x10000 / 128 → l.key = 0) ∧
    (task.cpu.l1.filter fun l => l.line % 128 = 0x10000 / 128 % 128).length < 4 ∧
    (task.lineKey.find (0x10000 / 128)).getD 0 = task.keys.get 0 ∧
    (∀ l ∈ cached.cpu.l1, l.line = 0x10000 / 128 → l.key = 0) ∧ (∃ l ∈ cached.cpu.l1, l.line = 0x10000 / 128) := by
  decide +kernel

theorem wit_AmoResults : Runs (releaseAttr true) (.amoCas 7 1 2 true true true) task ∧
    (∃ p t, Acts task .rmw (reg task 1).toNat (amoBytes true) p t) := by
  exact ⟨runs_of (by decide +kernel), acts_of (by decide +kernel)⟩

theorem wit_CounterResults : Runs (releaseAttr true) (.cadd 1 2) task ∧ Runs scalarAttr (.cread 7 1) task ∧
    (∃ p t, Acts task .rmw (reg task 1).toNat 8 p t) ∧ (∃ p t, Acts task .read (reg task 1).toNat 8 p t) ∧
    (∃ p t, Acts task .write (reg task 1).toNat 8 p t) := by
  exact ⟨runs_of (by decide +kernel), runs_of (by decide +kernel), acts_of (by decide +kernel),
    acts_of (by decide +kernel), acts_of (by decide +kernel)⟩

theorem wit_TrapEntry : task.cpu.who = .task ∧ toFirmware task 0x0F = false ∧ toFirmware task 0x23 = true ∧
    inSys.cpu.who = .sys ∧ inFw.cpu.who = .fw ∧ State.reset.cpu.who = .idle ∧ toFirmware State.reset 0x22 = false ∧
    toFirmware State.reset 0x23 = true ∧ (vreg task 1).tag = none := by
  decide +kernel

/-- The task's handler with another `tact`. -/
def acting (v : BitVec 2) : State := modCpu inSys fun c => { c with sys := { c.sys with tact := v } }

/-- The task's handler with a return address that is not aligned. -/
def askew : State := modCpu inSys fun c => { c with sys := { c.sys with tepc := 2 } }

theorem wit_TrapReturn : Runs (sysAttr 0) .eret task ∧ inHandler task = false ∧
    Runs (sysAttr 0) .eret askew ∧ inHandler askew = true ∧ askew.cpu.sys.tepc.toNat % 4 ≠ 0 ∧
    Runs (sysAttr 0) .eret inFw ∧ inHandler inFw = true ∧ inFw.cpu.fw.tepc.toNat % 4 = 0 ∧ inFw.cpu.fw.nest = true ∧
    Runs (sysAttr 0) .eret inIdle ∧ inHandler inIdle = true ∧ inIdle.cpu.sys.tepc.toNat % 4 = 0 ∧
    inIdle.cpu.sys.nest = false ∧ inIdle.cpu.sys.idle = true := by
  exact ⟨runs_of (by decide +kernel), by decide +kernel, runs_of (by decide +kernel), by decide +kernel, by decide +kernel,
    runs_of (by decide +kernel), by decide +kernel, by decide +kernel, by decide +kernel, runs_of (by decide +kernel),
    by decide +kernel, by decide +kernel, by decide +kernel, by decide +kernel⟩

theorem wit_TrapReturn_task (v : Fin 4) : Runs (sysAttr 0) .eret (acting (BitVec.ofFin v)) ∧
    inHandler (acting (BitVec.ofFin v)) = true ∧ (acting (BitVec.ofFin v)).cpu.sys.tepc.toNat % 4 = 0 ∧
    (acting (BitVec.ofFin v)).cpu.sys.nest = false ∧ (acting (BitVec.ofFin v)).cpu.sys.idle = false ∧
    (acting (BitVec.ofFin v)).cpu.sys.tact = BitVec.ofFin v ∧
    ∃ c, (acting (BitVec.ofFin v)).cpu.trapped = some c ∧
      canGrant (acting (BitVec.ofFin v)) (acting (BitVec.ofFin v)).cpu.id c.need = true := by
  refine ⟨runs_of (by decide +revert +kernel), by decide +revert +kernel, by decide +revert +kernel,
    by decide +revert +kernel, by decide +revert +kernel, rfl, _, rfl, by decide +revert +kernel⟩

/-- A task in the trap save store whose record holds a contained error. -/
def tainted : State := modCpu inSys fun c => { c with trapPoison := true }

theorem wit_TrapReturn_more : tainted.cpu.trapPoison = true ∧ inSys.cpu.trapPoison = false ∧ inHandler tainted = true ∧
    tainted.cpu.sys.tepc.toNat % 4 = 0 ∧ tainted.cpu.sys.nest = false ∧ tainted.cpu.sys.idle = false ∧
    tainted.cpu.sys.tact = 0 ∧ Runs (sysAttr 0) .eret tainted ∧ inFw.cpu.dctl.getLsbD 3 = false ∧
    ∃ c, tainted.cpu.trapped = some c ∧ canGrant tainted tainted.cpu.id c.need = true := by
  exact ⟨rfl, by decide +kernel, by decide +kernel, by decide +kernel, by decide +kernel, by decide +kernel,
    by decide +kernel, runs_of (by decide +kernel), by decide +kernel, _, rfl, by decide +kernel⟩

theorem wit_PrivilegeTraps : task.cpu.lane = none ∧ task.cpu.live.pfx.v = false ∧ task.cpu.priv.toNat < 2 ∧
    task.cpu.priv = 0 ∧ task.cpu.priv.toNat < readLevel .tcause ∧ task.cpu.priv.toNat < writeLevel .tquant ∧
    inHandler task = false ∧ task.cpu.live.viq = [] ∧ handlerOnly .tact = true := by decide +kernel

theorem wit_HandlerRestrictions : inSys.cpu.lane = none ∧ inSys.cpu.live.pfx.v = false ∧ inHandler inSys = true ∧
    (inSys.tenants.get inSys.cpu.live.tenant).featmask = 0 ∧ inSys.cpu.live.viq = [] := by decide +kernel

/-- The task's handler with a host interrupt pending, at firmware level, and the core that waits for one. -/
def woken : State := modCpu inSys fun c => { c with pendHost := true }
def high : State := modCpu inSys fun c => { c with priv := 2 }
def asleep : State := modCpu woken fun c => { c with halt := .waiti }

theorem wit_SystemInstructions : Runs (sysAttr 0) (.traps 3) task ∧ Runs (sysAttr 2) .halt high ∧
    Runs (sysAttr 0) .waiti inSys ∧ inHandler inSys = true ∧ wakes inSys = false ∧ Runs (sysAttr 0) .waiti woken ∧
    inHandler woken = true ∧ wakes woken = true ∧ asleep.cpu.halt = .waiti ∧ wakes asleep = true ∧
    (reg task 0).toNat = 0 ∧ (reg task 2).toNat ≠ 0 ∧ Runs (sysAttr 1) (.tlbinv 1) inSys ∧
    bits (reg inSys 0).toNat 6 10 = 0 ∧ bits (reg inSys 0).toNat 52 12 = 0 ∧
    bits (reg (withG inSys 7 0x40) 7).toNat 6 10 ≠ 0 ∧ Runs (sysAttr 1) (.tlbinv 7) (withG inSys 7 0x40) ∧
    Runs (sysAttr 0) (.codesync 1 2) task := by
  exact ⟨runs_of (by decide +kernel), runs_of (by decide +kernel), runs_of (by decide +kernel), by decide +kernel,
    by decide +kernel, runs_of (by decide +kernel), by decide +kernel, by decide +kernel, by decide +kernel,
    by decide +kernel, by decide +kernel, by decide +kernel, runs_of (by decide +kernel), by decide +kernel,
    by decide +kernel, by decide +kernel, runs_of (by decide +kernel), runs_of (by decide +kernel)⟩

/-- A push that waits on a full `vq`, before an index computation and an indexed store. -/
def pushing : State :=
  let q (i : Instr) (base : Option Word) : VEntry := ⟨wordOf i, 0xFF0, base, none, Pfx.none, false, [], none⟩
  modLive task fun c =>
    { c with
      vec := { c.vec with vl := 2, vq := List.replicate 8 0, regs := c.vec.regs.set 5 { tag := some .i64, img := 0 } }
      viq := [q (.vrsum 6 5 0 true) none, q (.vidx 3 .i64 0) none, q (.vstIndexed 5 1 3 0 false .i64) (some 0x10100)] }

/-- R97: behind the waiting push the front knows what the indexed store will touch, and waits for nothing else. -/
theorem test_foresee : pushWaits pushing = true ∧
    (foresee pushing).cpu.ahead = some [⟨false, true, [(0x10100, 8), (0x10101, 8)]⟩] ∧
    memBusy (foresee pushing) (.ld 7 1 .d 0) = false ∧ memBusy (foresee pushing) (.ld 7 1 .d 0x100) = true := by
  decide +kernel

/-- Core 1 runs a task of tenant 0 with a store that waits for a queued load. -/
def elsewhere : State :=
  { inSys with parked := [(1, { Core.reset 1 with who := .task, live := (behind [waitingStore]).cpu.live })] }

/-- The same task stopped by a trap. -/
def elsewhereStopped : State :=
  { elsewhere with parked := elsewhere.parked.map fun p =>
      (p.1, { p.2 with who := .sys, live := Ctx.reset, trapped := some p.2.live }) }

/-- R96, R275, R382: TLBINV waits for the store of a stopped context that holds a translation which it names, and for none
of another tenant. -/
theorem test_tlbinv_stopped : storesPending elsewhereStopped 0 = true ∧ storesPending elsewhereStopped 1 = false := by
  decide +kernel

theorem wit_SystemInstructions_pending : storesPending inSys (reg inSys 0) = false ∧
    storesPending elsewhere (reg elsewhere 0) = true ∧ Runs (sysAttr 1) (.tlbinv 0) elsewhere := by
  exact ⟨by decide +kernel, by decide +kernel, runs_of (by decide +kernel)⟩

theorem wit_PrefixAndDebug : Runs { lend := .refuse } (.pfx 1 true 2 true 3) task ∧
    Runs { lend := .predicate } (.dmark 1) task ∧ Runs { lend := .copyG, drain := true } (.dsample 7 3) task := by
  exact ⟨runs_of (by decide +kernel), runs_of (by decide +kernel), runs_of (by decide +kernel)⟩

theorem wit_SpecialRegisterMoves : (handlerOnly .tself = false ∨ inHandler task = true) ∧
    Runs { lend := .refuse, drain := sprDrains .tself, level := readLevel .tself } (.mfs 7 .tself) task ∧
    (handlerOnly .tact = false ∨ inHandler inSys = true) ∧
    Runs { lend := .refuse, drain := sprDrains .tact, level := writeLevel .tact } (.mts 7 .tact) inSys := by
  exact ⟨.inl rfl, runs_of (by decide +kernel), .inr (by decide +kernel), runs_of (by decide +kernel)⟩

/-- The task's handler with `tsel` set, and with a record of no task outstanding in its cluster. -/
def picking (n : BitVec 6) : State := modCpu inSys fun c => { c with sys := { c.sys with tsel := n } }
def other : FaultRec :=
  { handle := 0, addr := 0x5000, cause := 4, access := 0, elem := 0, word := 0, pc := 0x1000, owner := .other }
def owed : State := modCluster inSys 0 fun k => { k with outstanding := [(3, other)] }

theorem wit_SpecialRegisterFields : task.cpu.who = .task ∧
    (∀ n ∈ [(0 : BitVec 6), 1, 31, 32, 33, 34, 63], (picking n).cpu.who = .sys ∧ (picking n).cpu.sys.idle = false ∧
      (picking n).cpu.trapped.isSome = true ∧ (picking n).cpu.sys.tsel = n) ∧
    (clusterAt owed 0).outstanding.find? (fun p => p.1 = bits 3 0 32) = some (bits 3 0 32, other) ∧ other.owner = .other ∧
    bits 3 32 2 ≠ 3 ∧ (clusterAt inSys 0).outstanding.find? (fun p => p.1 = bits 3 0 32) = none ∧
    bits (3 * 2 ^ 32) 32 2 = 3 ∧ (0x10 : Word).getLsbD 4 = true := by decide +kernel

/-- 8-byte words in memory from an address on, and the task with the kinds of two levels. -/
def words (s : State) (a : Nat) (ws : List Nat) : State := { s with mem := memPut s.mem a (ws.map (toBytes 8)).flatten }
def parent : State := modLive task fun c => { c with kinds := [0, 1], level := 1 }

/-- What `MaySpawn` asks for while no future is used. -/
def maySpawnOk (s : State) (a b : Reg) : Bool :=
  decide ((reg s a).toNat % 4 = 0) && decide (optLevel (reg s b) < s.cpu.live.kinds.length) &&
  decide (optXfer (reg s b) / 2 ^ optArgs (reg s b) = 0) && decide (transfers s (reg s b) = []) && s.futs.isEmpty &&
  slotsLeft s (spawnBlocks s (transfers s (reg s b)).length) && decide (s.cpu.live.held.length < 256)

theorem maySpawn_of {s : State} {a b : Reg} (h : maySpawnOk s a b = true) : MaySpawn s a b := by
  simp only [maySpawnOk, Bool.and_eq_true, decide_eq_true_eq, List.isEmpty_iff] at h
  obtain ⟨⟨⟨⟨⟨⟨h1, h2⟩, h3⟩, h4⟩, h5⟩, h6⟩, h7⟩ := h
  refine ⟨h1, h2, h3, ?_, ?_, ?_, slot_of h5 h6⟩
  · rw [h4]; simp
  · rw [h4]; simp
  · rw [h4]; simp; omega

/-- A gate of one counter at 0x10100, at a threshold. -/
def gated (thr : Nat) : State := words (withG parent 8 0x10000) 0x10000 [1, 0x10100, thr]

/-- The reads of SPAWNG on such a gate all go through; `isOpen` says whether its counter is there yet. -/
def gateOk (s : State) (isOpen : Bool) : Bool :=
  let i := Instr.spawng 7 2 0 8
  good (loadN s i 0x10000 8) fun n s1 => n == 1 &&
    good (loadWords s1 i 0x10008 (2 * n)) fun ws s2 => good (gatePairs s2 i ws) fun ps s3 =>
      ps.all (·.2.2) == isOpen && maySpawnOk (invalidate s3 s3.cpu.id) 2 0 &&
        saves (makeRoom (s3.cpu.recs.length + 1) (invalidate s3 s3.cpu.id) s3.cpu.id
          (recBytes (continuation (setG (invalidate s3 s3.cpu.id) 7 0))))

theorem wit_SpawnEffects : reclaimable parent = false ∧ Runs (taskAttr true) (.spawn 7 2 0) parent ∧
    MaySpawn parent 2 0 ∧
    (∃ u, makeRoom (parent.cpu.recs.length + 1) parent parent.cpu.id (recBytes (continuation (setG parent 7 0))) = .ok u ∧
      ∃ h t, allocFut u 0 = some (h, t)) ∧
    (∀ thr ∈ [0, 1], reclaimable (gated thr) = false ∧ Runs (taskAttr true) (.spawng 7 2 0 8) (gated thr) ∧
      (reg (gated thr) 8).toNat = 0x10000) ∧ gateOk (gated 0) true = true ∧ gateOk (gated 1) false = true := by
  refine ⟨by decide +kernel, runs_of (by decide +kernel), maySpawn_of (by decide +kernel), ?_, ?_, by decide +kernel,
    by decide +kernel⟩
  · exact ⟨parent, rfl, alloc_of 0 rfl (by decide +kernel)⟩
  · intro thr ht
    simp only [List.mem_cons, List.not_mem_nil, or_false] at ht
    rcases ht with rfl | rfl
    · exact ⟨by decide +kernel, runs_of (by decide +kernel), by decide +kernel⟩
    · exact ⟨by decide +kernel, runs_of (by decide +kernel), by decide +kernel⟩

/-- The task, of the future in slot 5, with a reference in g5 to a future of slot 6 in some state. -/
def holding (st : FutState) : State :=
  let s := setFut (setFut task 5 { Fut.reset with st := .pending, count := 1 }) 6 { Fut.reset with st := st, count := 1 }
  modLive (withG s 5 6) fun c => { c with tself := 5, held := [6] }

/-- The task with nothing held. -/
def free : State := modLive (holding .pending) fun c => { c with held := [] }

/-- The task that holds the future of slot 6, whose own task waits on its core with a reference to the one of slot 7. -/
def ending : State :=
  modCpu (holding .pending) fun c => { c with
    recs := [forcedRec task { Ctx.reset with tself := 6, held := [7] } .suspended .none false true] }

theorem wit_TaskEnd : Runs (taskAttr true) (.finish 3) ending ∧ ending.cpu.live.held = [6] ∧
    hDev ending.cpu.live.tself = ending.devid ∧ hGen ending.cpu.live.tself = (entryAt ending ending.cpu.live.tself).gen ∧
    (entryAt ending ending.cpu.live.tself).st = .pending ∧ EndDrops ending ending.cpu.live.held (fun h => h = 6 ∨ h = 7) ∧
    (∀ x, x = 6 ∨ x = 7 → ¬SameFuture x ending.cpu.live.tself) := by
  refine ⟨runs_of (by decide +kernel), by decide +kernel, by decide +kernel, by decide +kernel, by decide +kernel,
    ⟨fun h hh => .inl ?_, fun n r hr _ h hh => .inr ?_, fun g hg => ?_⟩, ?_⟩
  · have e : ending.cpu.live.held = [6] := by decide +kernel
    rw [e] at hh; exact List.mem_singleton.mp hh
  · unfold coreAt at hr
    split at hr
    · have e : ending.cpu.recs.map (·.ctx.held) = [[7]] := by decide +kernel
      have hm := List.mem_map_of_mem (f := fun r : Rec => r.ctx.held) hr
      rw [e, List.mem_singleton] at hm
      rw [hm] at hh; exact List.mem_singleton.mp hh
    · cases hr
  · cases hg
  · rintro x (rfl | rfl) <;> (unfold SameFuture; decide +kernel)

/-- R249, R253: FINISH settles the task's own future, and reclaims the task whose one reference it held. -/
theorem test_finish : after ending (.finish 3) (fun t => t.cpu.who == .idle && (futAt t 5).st == .resolved &&
    (futAt t 5).result == 3 && (futAt t 6).st == .free && t.cpu.recs.isEmpty) = true := by decide +kernel

/-- Device 0 of two, and a task that holds references of each kind of the other device's: known here and not. -/
def paired : State :=
  { holding .resolved with ndev := 2, peerFuts := [(peerKey (2 ^ 54 + 6), { Fut.reset with st := .resolved, count := 1 })] }

/-- The task with a held list of a length, of a future with all its references in use, or in a table of slots that are full. -/
def laden (n : Nat) : State := modLive (holding .pending) fun c => { c with held := List.replicate n 6 }
def counted : State := setFut (holding .pending) 6 { Fut.reset with st := .pending, count := 2 ^ 32 - 1 }
def tight : State := { laden 6 with ftsize := 1 }

theorem wit_HandleInstructions_limits : (reg (laden 255) 3).toNat = 3 ∧ ¬(laden 255).cpu.live.held.length + 3 ≤ 256 ∧
    ¬(futAt counted 6).count + (reg counted 3).toNat < 2 ^ 32 ∧ counted.cpu.live.held.length + 3 ≤ 256 ∧
    moreBlocks (laden 6) 3 ≠ 0 ∧ slotsLeft (laden 6) (moreBlocks (laden 6) 3 - 1) = true ∧
    slotsLeft tight (moreBlocks tight 3 - 1) = false ∧ moreBlocks (holding .pending) 3 = 0 := by decide +kernel

theorem wit_HandleInstructions : handleHeld task task.cpu.live (reg task 5) = false ∧
    (∀ st ∈ [FutState.pending, .resolved, .failed], Runs (taskAttr false) (.fpoll 7 5) (holding st) ∧
      handleHeld (holding st) (holding st).cpu.live (reg (holding st) 5) = true ∧
      (holding st).cpu.live.held.length + (reg (holding st) 3).toNat ≤ 256 ∧
      (futAt (holding st) (hSlot (reg (holding st) 5))).count + (reg (holding st) 3).toNat < 2 ^ 32 ∧
      (futAt (holding st) (hSlot (reg (holding st) 5))).st = st ∧
      settled (holding st) (reg (holding st) 5) = (st != .pending)) := by
  refine ⟨by decide +kernel, fun st ht => ?_⟩
  simp only [List.mem_cons, List.not_mem_nil, or_false] at ht
  rcases ht with rfl | rfl | rfl
  · exact ⟨runs_of (by decide +kernel), by decide +kernel, by decide +kernel, by decide +kernel, by decide +kernel, by decide +kernel⟩
  · exact ⟨runs_of (by decide +kernel), by decide +kernel, by decide +kernel, by decide +kernel, by decide +kernel, by decide +kernel⟩
  · exact ⟨runs_of (by decide +kernel), by decide +kernel, by decide +kernel, by decide +kernel, by decide +kernel, by decide +kernel⟩

/-- A handle of the other device, which its table settles. -/
theorem wit_HandleInstructions_peer :
    (let s := modLive (withG paired 5 (2 ^ 54 + 6)) fun c => { c with held := [2 ^ 54 + 6] }
     handleHeld s s.cpu.live (reg s 5) = true ∧ (entryAt s (reg s 5)).st = .resolved ∧ hDev (reg s 5) = 1 ∧
       settled s (reg s 5) = true) := by decide +kernel

/-- A doomed task, and one at the deepest hold. -/
def doom : State := setFut free 5 { Fut.reset with st := .doomed }
def doomBehind : State := modLive doom fun c => { c with viq := (behind []).cpu.live.viq }
def deep : State := modLive task fun c => { c with depth := 255 }

theorem wit_ReclamationInstructions : Runs (taskAttr false) .rpoint task ∧ reclaimable task = false ∧
    Runs (taskAttr false) .rpoint doom ∧ reclaimable doom = true ∧ task.cpu.live.depth < 255 ∧ task.cpu.live.depth = 0 ∧
    255 ≤ deep.cpu.live.depth ∧ deep.cpu.live.depth ≠ 0 ∧ Runs (taskAttr false) .rhold deep ∧
    doom.cpu.live.viq = [] ∧ doomBehind.cpu.live.viq ≠ [] ∧ reclaimable doomBehind = true ∧
    Runs (taskAttr false) .rpoint doomBehind := by
  exact ⟨runs_of (by decide +kernel), by decide +kernel, runs_of (by decide +kernel), by decide +kernel, by decide +kernel,
    by decide +kernel, by decide +kernel, by decide +kernel, runs_of (by decide +kernel), by decide +kernel,
    by decide +kernel, by decide +kernel, runs_behind (by decide +kernel)⟩

/-- The task with another ready context on its core, so that a wait that is signalled gives the core up. -/
def shared (s : State) : State :=
  modCpu s fun c => { c with recs := [forcedRec s s.cpu.live .ready .none false false] }

/-- The premises of `Waits`, of a wait that is signalled or not. -/
def waitsOk (s : State) (b : Reg) (kl : BitVec 7) (vs signalled : Bool) (wt : Wait) : Bool :=
  !preApplies s && (!signalled || !othersReady s) &&
  saves (saveRec s (coopRec s (retire s).cpu.live (reg s b) kl (liveState (reg s b) kl vs)
    (if signalled then .ready else .suspended) wt false))

theorem wit_WaitInstructions : (∀ st ∈ [FutState.pending, .resolved], reclaimable (holding st) = false ∧
      Runs (taskAttr true) (.await 7 5 2 1 true) (holding st) ∧
      handleHeld (holding st) (holding st).cpu.live (reg (holding st) 5) = true ∧
      settled (holding st) (reg (holding st) 5) = (st != .pending) ∧
      waitsOk (holding st) 2 1 true (st != .pending) (.future 6 7) = true) ∧
    (shared (holding .resolved)).cpu.hold ≠ .wait ∧ othersReady (shared (holding .resolved)) = true ∧
    preApplies (shared (holding .resolved)) = false := by
  refine ⟨fun st ht => ?_, by decide +kernel, by decide +kernel, by decide +kernel⟩
  simp only [List.mem_cons, List.not_mem_nil, or_false] at ht
  rcases ht with rfl | rfl
  · exact ⟨by decide +kernel, runs_of (by decide +kernel), by decide +kernel, by decide +kernel, by decide +kernel⟩
  · exact ⟨by decide +kernel, runs_of (by decide +kernel), by decide +kernel, by decide +kernel, by decide +kernel⟩

/-- A task that waits for one of the handles listed at 0x10000. -/
def listed : State := words (holding .pending) 0x10000 [6]

theorem wit_WaitInstructions_more : Runs (taskAttr true) (.awaitany 3 1 2 0 false) (withG listed 3 1) ∧
    good (loadWords (withG listed 3 1) (.awaitany 3 1 2 0 false) 0x10000 1) (fun hs t =>
      hs.all (handleHeld t t.cpu.live) && waitsOk t 2 0 false false (.any hs 3)) = true ∧
    Runs (taskAttr true) (.yield 2 0 false) task ∧ preApplies task = false ∧
    (∃ u, saveRec task (coopRec task (retire task).cpu.live (reg task 2) 0 (liveState (reg task 2) 0 false) .ready .none
      (!task.cpu.live.pin)) = .ok u) ∧
    Runs (taskAttr true) (.cwait 3 1 2 0 false) task ∧ (∃ p t, Reaches task .read (reg task 1).toNat 8 p t ∧
      poisoned t (placePa p) 8 = false) ∧ ¬ reg task 3 ≤ 0 ∧ reg task 7 ≤ 0 := by
  refine ⟨runs_of (by decide +kernel), by decide +kernel, runs_of (by decide +kernel), by decide +kernel,
    saved_of (by decide +kernel), runs_of (by decide +kernel), ?_, by decide +kernel, by decide +kernel⟩
  obtain ⟨p, t, h⟩ := acts_of (s := task) (k := .read) (va := (reg task 1).toNat) (n := 8) (by decide +kernel)
  exact ⟨p, t, h.reaches, h.sound.resolve_left nofun⟩

/-- What a CWAIT is held with, whose counter has completed it meanwhile or not; a core whose Woodshed has no space left. -/
def heldAt (met : Bool) : HoldAt :=
  { word := wordOf (.cwait 3 1 2 0 false), wait := if met then .counted (.hbm 0x10000 0) 5 3 else .counter (.hbm 0x10000 0) 9 3,
    size := 1024, switches := true }
def heldTask (met : Bool) : State :=
  modCpu task fun c => { c with hold := .wait, live := { c.live with holdAt := some (heldAt met) } }
def noSpace (s : State) : State :=
  modCpu s fun c => { c with ctxlim := 1, recs := crowded.cpu.recs, shedHead := 0,
                             shed := [{ off := 0, len := ringSize c, live := true }] }

theorem wit_WaitInstructions_room : (∀ m ∈ [false, true], heldHere (heldTask m) = true ∧
      (heldTask m).cpu.live.holdAt = some (heldAt m) ∧ reclaimable (heldTask m) = false ∧
      Runs (taskAttr true) (.cwait 3 1 2 0 false) (heldTask m) ∧ holdMet (heldTask m) (heldAt m).wait = m) ∧
    holdRoom (heldTask false) (heldAt false) = true ∧ holdRoom (noSpace (heldTask false)) (heldAt false) = false ∧
    heldHere (noSpace (heldTask false)) = true ∧ Runs (taskAttr true) (.cwait 3 1 2 0 false) (noSpace (heldTask false)) ∧
    (match saveRec (noSpace task) (coopRec task (retire task).cpu.live (reg task 2) 0 false .suspended (heldAt false).wait false) with
     | .full => true
     | _ => false) = true := by
  refine ⟨fun m hm => ?_, by decide +kernel, by decide +kernel, by decide +kernel, runs_of (by decide +kernel),
    by decide +kernel⟩
  simp only [List.mem_cons, List.not_mem_nil, or_false] at hm
  rcases hm with rfl | rfl
  · exact ⟨by decide +kernel, by decide +kernel, by decide +kernel, runs_of (by decide +kernel), by decide +kernel⟩
  · exact ⟨by decide +kernel, by decide +kernel, by decide +kernel, runs_of (by decide +kernel), by decide +kernel⟩

/-- R261: a held CWAIT waits while the ring is full, and returns with a result once its counter has reached its threshold,
full or not. -/
theorem test_held_wait : after (noSpace (heldTask false)) (.cwait 3 1 2 0 false) (fun t => t.cpu.stall.isSome &&
      t.cpu.live.pc == 0x1000 && t.cpu.hold == .wait) = true ∧
    after (noSpace (heldTask true)) (.cwait 3 1 2 0 false) (fun t => t.cpu.stall.isNone && t.cpu.live.pc == 0x1004 &&
      t.cpu.hold == .none) = true := by decide +kernel

/-- A CWAIT that was held, whose counter has completed it meanwhile, and whose task a handler has made ready. -/
def overtaken : State := modCpu (heldTask true) fun c => { c with hold := .none }

theorem wit_WaitInstructions_held : overtaken.cpu.live.holdAt = some (heldAt true) ∧ heldHere overtaken = false ∧
    reg overtaken 3 ≤ 5 ∧ Runs (taskAttr true) (.cwait 3 1 2 0 false) overtaken ∧
    reclaimable overtaken = false ∧ preApplies overtaken = false ∧
    (∃ p t, Reaches overtaken .read (reg overtaken 1).toNat 8 p t ∧ poisoned t (placePa p) 8 = false) := by
  refine ⟨by decide +kernel, by decide +kernel, by decide +kernel, runs_of (by decide +kernel), by decide +kernel,
    by decide +kernel, ?_⟩
  obtain ⟨p, t, h⟩ := acts_of (s := overtaken) (k := .read) (va := (reg overtaken 1).toNat) (n := 8) (by decide +kernel)
  exact ⟨p, t, h.reaches, h.sound.resolve_left nofun⟩

/-- Acceptance of an MXSYNC changes neither the clusters nor the task's handle. -/
theorem accepts_keeps {s : State} {k : Nat} {d : Reg} (h : acceptsOk s = true) :
    ∃ n t, Accepts s k false d n t ∧ t.clusters = s.clusters ∧ t.cpu.live.tself = s.cpu.live.tself ∧
      t.cpu.id = s.cpu.id := by
  obtain ⟨n, t, hl, u, hu, rfl⟩ := accepts_of k false d h
  refine ⟨n, _, ⟨hl, u, hu, rfl⟩, ?_⟩
  unfold allocToken allocAt at hu
  split at hu
  · cases hu
  · cases hu
    simp only [Bool.false_eq_true, if_false]
    unfold setEntry setFut setG
    repeat' split
    all_goals exact ⟨rfl, rfl, rfl⟩

theorem wit_RemoteRequests : (reg task 1).toNat < 2 ^ 50 ∧ podDev (reg task 1) < task.ndev ∧
    podLocal (reg task 1) % sizeBytes .d = 0 ∧ remoteOut task task.cpu.id < 64 ∧ Runs (engineAttr 1) (.radd 7 1 2 .d) task ∧
    ∃ h t, Accepts task 3 true 7 h t := by
  exact ⟨by decide +kernel, by decide +kernel, by decide +kernel, by decide +kernel, runs_of (by decide +kernel),
    accepts_of 3 true 7 (by decide +kernel)⟩

/-- Who issued the jobs of the engines. -/
def issuer : Env := { tenant := 0, priv := 0, core := 0, pin := false, handle := 0, word := 0, pc := 0x1000 }

/-- A task that waits for a place at its engine, with the words that it read; and one whose engines have no place. -/
def offering (s : State) (ws : List Word) : State := waitOffered s ws
def full : State :=
  let job : FlueJob := { copy := .fill 0x11000 0 8, len := 8, token := 9, chunk := 0, active := false, env := issuer }
  let r : Remote := { token := 9, member := 0, sz := .d, addr := 0, data := 0, env := issuer }
  { modCluster task 0 (fun k => { k with flue := List.replicate 64 job }) with remotes := List.replicate 64 r }

theorem wit_RemoteRequests_more : ¬ podDev (reg (withG task 5 0x10000000000) 5) < task.ndev ∧
    ¬ (reg (withG task 5 0x4000000000000) 5).toNat < 2 ^ 50 ∧ podLocal (reg task 4) % sizeBytes .d ≠ 0 ∧
    watchHit watched (podLocal (reg watched 1)) 8 true true = some 0 ∧ offered watched = none ∧
    Runs (engineAttr 1) (.radd 7 1 2 .d) watched ∧ offered (offering watched []) ≠ none ∧
    Runs (engineAttr 1) (.radd 7 1 2 .d) (offering watched []) ∧ 64 ≤ remoteOut full full.cpu.id ∧
    full.cpu.live.held.length < 256 ∧ tokenSlot full ≠ none ∧ Runs (engineAttr 1) (.radd 7 1 2 .d) full := by
  exact ⟨by decide +kernel, by decide +kernel, by decide +kernel, by decide +kernel, by decide +kernel,
    runs_of (by decide +kernel), by decide +kernel, runs_of (by decide +kernel), by decide +kernel, by decide +kernel,
    slot_of rfl (by decide +kernel), runs_of (by decide +kernel)⟩

/-- Descriptors of CPY2D and CPGATH at 0x10000, with eight bytes in one row and one index. -/
def rows : State := words task 0x10000 [0x18000, 0x11000, 8 + 2 ^ 32, 8 + 8 * 2 ^ 32]
def gather : State := words task 0x10000 [0x18000, 0x11000, 0x12000, 64, 8 + 2 * 2 ^ 32, 0]

theorem wit_CopyRequests : Runs (engineAttr 3) (.cpy1d 7 1 2 3) task ∧ flueFull task = false ∧
    firstCode (copyCodes task.cpu.live.pin (.lin 0x10000 0x11000 8) false) = none ∧
    firstCode (copyCodes task.cpu.live.pin (.lin 0x10000 0x10004 8) false) = some 2 ∧ (∃ h t, Accepts task 1 true 7 h t) ∧
    (reg task 1).toNat % 32 = 0 ∧
    (∃ ws t, loadWords rows (.cpy2d 7 1) 0x10000 4 = .ok ws t ∧
      firstCode (copyCodes rows.cpu.live.pin (rowsJob ws) false) = none) ∧
    (∃ ws t, loadWords gather (.cpgath 7 1) 0x10000 6 = .ok ws t ∧
      firstCode (copyCodes gather.cpu.live.pin (gatherJob ws) (gatherReserved ws)) = none) := by
  refine ⟨runs_of (by decide +kernel), by decide +kernel, by decide +kernel, by decide +kernel,
    accepts_of 1 true 7 (by decide +kernel), by decide +kernel, ?_, ?_⟩
  · obtain ⟨ws, t, h, hp⟩ := ok_of (x := loadWords rows (.cpy2d 7 1) 0x10000 4)
      (p := fun ws _ => decide (firstCode (copyCodes rows.cpu.live.pin (rowsJob ws) false) = none)) (by decide +kernel)
    exact ⟨ws, t, h, of_decide_eq_true hp⟩
  · obtain ⟨ws, t, h, hp⟩ := ok_of (x := loadWords gather (.cpgath 7 1) 0x10000 6)
      (p := fun ws _ => decide (firstCode (copyCodes gather.cpu.live.pin (gatherJob ws) (gatherReserved ws)) = none))
      (by decide +kernel)
    exact ⟨ws, t, h, of_decide_eq_true hp⟩

theorem wit_CopyRequests_more : flueFull full = true ∧ full.cpu.live.held.length < 256 ∧ tokenSlot full ≠ none ∧
    Runs (engineAttr 3) (.cpy2d 7 1) full ∧ offered (offering task [1, 2, 3, 4]) = some [1, 2, 3, 4] ∧
    flueFull (offering task [1, 2, 3, 4]) = false ∧ (∃ h t, Accepts (offering task [1, 2, 3, 4]) 1 true 7 h t) ∧
    Runs (engineAttr 3) (.cpy2d 7 1) (offering task [1, 2, 3, 4]) ∧ offered task = none ∧ (reg task 4).toNat % 32 ≠ 0 := by
  exact ⟨by decide +kernel, by decide +kernel, slot_of rfl (by decide +kernel), runs_of (by decide +kernel), rfl,
    by decide +kernel, accepts_of 1 true 7 (by decide +kernel), runs_of (by decide +kernel), rfl, by decide +kernel⟩

/-- The task, whose tenant has bank 0 of the cluster, with some of the bank's state. -/
def banked (f : Bank → Bank) : State :=
  modBank (withG task 5 0x100) 0 0 fun b => f { b with owner := some 0, rows := BitVec.allOnes 64 }

/-- A tenant that may use no bank. -/
def poor : State := { withG task 5 0x100 with tenants := Vector.replicate 16 { someTenant with bankmax := 0 } }

theorem wit_BankInstructions : badBank (capture task false 0) = false ∧ badRange (capture (withG task 5 0x100) true 5) = false ∧
    (bankAt (withG task 5 0x100) 0 0).clearing = false ∧ (bankAt (withG task 5 0x100) 0 0).jobs.any isRel = false ∧
    (bankAt (withG task 5 0x100) 0 0).owner = none ∧
    bankCount (withG task 5 0x100) 0 < ((withG task 5 0x100).tenants.get 0).bankmax ∧
    Begins mtxAttr false false (withG task 5 0x100) ∧
    (bankAt (banked id) 0 0).owner = some 0 ∧ (bankAt (banked fun b => { b with owner := some 3 }) 0 0).owner = some 3 ∧
    (poor.tenants.get 0).bankmax ≤ bankCount poor 0 ∧ Begins mtxAttr false false poor ∧
    boundTo (bankAt (banked id) 0 0) 0 = true ∧
    (let set := rowSet (rangeRow (capture (banked id) true 5)) (rangeCount (capture (banked id) true 5))
     (bankAt (banked id) 0 0).rows &&& set = set) ∧ boundTo (bankAt task 0 0) 0 = false := by
  exact ⟨by decide +kernel, by decide +kernel, by decide +kernel, by decide +kernel, by decide +kernel, by decide +kernel,
    begins_of (by decide +kernel), by decide +kernel, by decide +kernel, by decide +kernel, begins_of (by decide +kernel),
    by decide +kernel, by decide +kernel, by decide +kernel⟩

/-- A tile descriptor at 0x10000: one K block and one column of format 5. -/
def tile : State := words (banked id) 0x10000 [0x11000, 2, 0, 5 * 2 ^ 32 + 2 ^ 40 + 2 ^ 48]

/-- A bank with a row job of the running task. -/
def busyBank : State := banked fun b => { b with jobs := [.zero 0 1 task.cpu.live.tself] }

/-- Two BF16 elements in v3, and a tile of BF16 latest in bank order. -/
def rowReady : State :=
  modVec (banked fun b => { b with latest := some 5 }) fun v =>
    { v with vl := 2, regs := v.regs.set (3 : Fin 32) { tag := some .bf16, img := 0x3F803F80 } }

theorem wit_BankJobs : badBank (capture tile false 0) = false ∧ Begins mtxAttr false false tile ∧
    (capture tile true 1).toNat % 32 = 0 ∧
    (∃ ws u, loadWords tile (.mxload 7 0 1) (capture tile true 1).toNat 4 = .ok ws u ∧ badTile ws = false ∧
      boundTo (bankAt u (clusterOf u.cpu.id) 0) u.cpu.live.tenant = true ∧ ∃ h t, Accepts u 2 true 7 h t) ∧
    boundTo (bankAt busyBank 0 0) 0 = true ∧ Begins mtxAttr false false busyBank ∧
    (∃ h t, Accepts busyBank 2 false 7 h t ∧ (uncovered 0 (bankAt t (clusterOf t.cpu.id) 0).jobs).1 = true ∧
      t.cpu.live.tself = busyBank.cpu.live.tself) ∧
    (∃ h t, Accepts (banked id) 2 false 7 h t ∧ (uncovered 0 (bankAt t (clusterOf t.cpu.id) 0).jobs).1 = false ∧
      (bankAt t (clusterOf t.cpu.id) 0).failed = [] ∧ t.cpu.live.tself = (banked id).cpu.live.tself) ∧
    (rowReady.cpu.live.vec.regs.get 3).tag = some .bf16 ∧ rowTag .bf16 = true ∧
    rowReady.cpu.live.vec.vl * tyBits .bf16 ≤ grantBits rowReady ∧
    firstCode (rowCodes rowReady (bankAt rowReady 0 0) 0 0 3 .bf16) = none ∧ rowBuffers (bankAt rowReady 0 0) < 4 ∧
    Begins mtxAttr true true rowReady := by
  refine ⟨by decide +kernel, begins_of (by decide +kernel), by decide +kernel, ?_, by decide +kernel,
    begins_of (by decide +kernel), ?_, ?_, by decide +kernel, by decide +kernel, by decide +kernel, by decide +kernel,
    by decide +kernel, begins_of (by decide +kernel)⟩
  · obtain ⟨ws, u, h, hp⟩ := ok_of (x := loadWords tile (.mxload 7 0 1) (capture tile true 1).toNat 4)
      (p := fun ws u => !badTile ws && boundTo (bankAt u (clusterOf u.cpu.id) 0) u.cpu.live.tenant && acceptsOk u) (by decide +kernel)
    simp only [Bool.and_eq_true, Bool.not_eq_true'] at hp
    exact ⟨ws, u, h, hp.1.1, hp.1.2, accepts_of 2 true 7 hp.2⟩
  · obtain ⟨n, t, ha, hc, hs, hi⟩ := accepts_keeps (s := busyBank) (k := 2) (d := 7) (by decide +kernel)
    refine ⟨n, t, ha, ?_, hs⟩
    rw [hi]; unfold bankAt clusterAt; rw [hc]; decide +kernel
  · obtain ⟨n, t, ha, hc, hs, hi⟩ := accepts_keeps (s := banked id) (k := 2) (d := 7) (by decide +kernel)
    refine ⟨n, t, ha, ?_, ?_, hs⟩
    · rw [hi]; unfold bankAt clusterAt; rw [hc]; decide +kernel
    · rw [hi]; unfold bankAt clusterAt; rw [hc]; decide +kernel

theorem wit_AccumulatorRead : badBank (capture rowReady false 0) = false ∧ badRowWord (capture rowReady true 0) = false ∧
    boundTo (bankAt rowReady 0 0) 0 = true ∧ (bankAt rowReady 0 0).rows.getLsbD (rowField (capture rowReady true 0)) = true ∧
    rowReady.cpu.live.vec.vl * 32 ≤ grantBits rowReady ∧ (bankAt rowReady 0 0).jobs.any (writesRow 0) = false ∧
    (∀ i, i < 2 → (bankAt rowReady 0 0).poisonAcc.getLsbD i = false) ∧ rowReady.cpu.live.vec.vl ≠ 0 ∧
    Begins mtxAttr true true rowReady ∧ (banked id).cpu.live.vec.vl = 0 ∧ Begins mtxAttr true true (banked id) := by
  exact ⟨by decide +kernel, by decide +kernel, by decide +kernel, by decide +kernel, by decide +kernel, by decide +kernel,
    by decide +kernel, by decide +kernel, begins_of (by decide +kernel), by decide +kernel, begins_of (by decide +kernel)⟩

/-- The task, whose device has a group of itself alone in slot 0; and the descriptors of a group and of a collective. -/
def grouped : State := { task with groups := [(0, newGroup task 7 [0] 0)] }
def making : State := words task 0x10000 [7, 0]
def refusing : State := words task 0x10000 [7, 5]
def collecting : State := words grouped 0x10000 [0x11000, 0x12000, 0, 4, 4, 0, 0, 0]

theorem wit_GroupInstructions : (reg task 1).toNat % 8 = 0 ∧ Runs fabAttr (.fgrp 7 1 5) (withG making 5 1) ∧
    (∃ ws t, loadWords making (.fgrp 7 1 5) 0x10000 2 = .ok ws t ∧ groupRefusals t (ws.headD 0) ws.tail = [] ∧
      freeGroup t = some 0 ∧ rankOf t (ws.tail.map memberOf) = some 0) ∧
    (∃ ws t, loadWords refusing (.fgrp 7 1 5) 0x10000 2 = .ok ws t ∧ groupRefusals t (ws.headD 0) ws.tail ≠ []) ∧
    (groupFor grouped (reg grouped 0)).isSome = true ∧ Runs fabAttr (.fgqry 7 0) grouped ∧
    groupFor task (reg task 0) = none := by
  refine ⟨by decide +kernel, runs_of (by decide +kernel), ?_, ?_, by decide +kernel, runs_of (by decide +kernel),
    by decide +kernel⟩
  · obtain ⟨ws, t, h, hp⟩ := ok_of (x := loadWords making (.fgrp 7 1 5) 0x10000 2)
      (p := fun ws t => decide (groupRefusals t (ws.headD 0) ws.tail = [] ∧ freeGroup t = some 0 ∧
        rankOf t (ws.tail.map memberOf) = some 0)) (by decide +kernel)
    exact ⟨ws, t, h, of_decide_eq_true hp⟩
  · obtain ⟨ws, t, h, hp⟩ := ok_of (x := loadWords refusing (.fgrp 7 1 5) 0x10000 2)
      (p := fun ws t => decide (groupRefusals t (ws.headD 0) ws.tail ≠ [])) (by decide +kernel)
    exact ⟨ws, t, h, of_decide_eq_true hp⟩

theorem wit_GroupInstructions_more : grouped.cpu.live.held.length < 256 ∧ tokenSlot grouped ≠ none ∧ bulkPending grouped < 64 ∧
    (∃ h t, Accepts grouped 5 true 7 h t) ∧ Runs fabAttr (.fcoll 7 1) collecting ∧ tokenSlot collecting ≠ none ∧
    (∃ ws u, loadWords collecting (.fcoll 7 1) 0x10000 8 = .ok ws u ∧ (groupFor u (ws.getD 2 0)).isSome = true ∧
      badColl ws 1 = false ∧ badBuffers (collOf ws) 1 = false ∧
      (if collFlags ws = 1 then urgentPending u < 16 else bulkPending u < 64) ∧ ∃ h t, Accepts u 4 true 7 h t) := by
  refine ⟨by decide +kernel, slot_of rfl (by decide +kernel), by decide +kernel, accepts_of 5 true 7 (by decide +kernel),
    runs_of (by decide +kernel), slot_of rfl (by decide +kernel), ?_⟩
  obtain ⟨ws, u, h, hp⟩ := ok_of (x := loadWords collecting (.fcoll 7 1) 0x10000 8)
    (p := fun ws u => decide ((groupFor u (ws.getD 2 0)).isSome = true ∧ badColl ws 1 = false ∧
      badBuffers (collOf ws) 1 = false ∧ (if collFlags ws = 1 then urgentPending u < 16 else bulkPending u < 64) ∧
      acceptsOk u = true)) (by decide +kernel)
  obtain ⟨h1, h2, h3, h4, h5⟩ := of_decide_eq_true hp
  exact ⟨ws, u, h, h1, h2, h3, h4, accepts_of 4 true 7 h5⟩

/-- The words of a collective that waits for its place. -/
def again : State := offering grouped [0x11000, 0x12000, 0, 4, 0x400000004, 0, 0, 0]

theorem wit_GroupInstructions_again : offered again = some [0x11000, 0x12000, 0, 4, 0x400000004, 0, 0, 0] ∧
    (groupFor again 0).isSome = true ∧ bulkPending again < 64 ∧ again.cpu.live.held.length < 256 ∧ tokenSlot again ≠ none ∧
    (∃ h t, Accepts again 4 true 7 h t) ∧ Runs fabAttr (.fcoll 7 1) again ∧ offered collecting = none ∧
    (reg task 0).toNat = 0 ∧ (reg task 1).toNat % 8 = 0 ∧ 524288 < (reg (withG task 5 0x80001) 5).toNat := by
  exact ⟨rfl, by decide +kernel, by decide +kernel, by decide +kernel, slot_of rfl (by decide +kernel),
    accepts_of 4 true 7 (by decide +kernel), runs_of (by decide +kernel), rfl, by decide +kernel, by decide +kernel,
    by decide +kernel⟩

/-- Whether all the elements fit the grant. -/
def fitsOk (s : State) (ws : List Nat) : Bool := ws.all fun w => s.cpu.live.vec.vl * w ≤ grantBits s

theorem fits_of {s : State} {ws : List Nat} (h : fitsOk s ws = true) : Fits s ws := by
  intro w hw
  exact of_decide_eq_true (List.all_eq_true.mp h w hw)

/-- A pair of tags that a member accepts, of a type, at widths that fit. -/
def pairOk (s : State) (form : VForm) (a b : Reg) (ok : Ty → Bool) (ty : Ty) : Bool :=
  match pairOf s form a b ok with
  | some p => p.ty = ty && fitsOk s (tyBits p.ty :: readWidths form p.ta p.tb)
  | none => false

theorem pair_of {s : State} {form : VForm} {a b : Reg} {ok : Ty → Bool} {ty : Ty} (h : pairOk s form a b ok ty = true) :
    ∃ p, pairOf s form a b ok = some p ∧ p.ty = ty ∧ Fits s (tyBits p.ty :: readWidths form p.ta p.tb) := by
  unfold pairOk at h
  split at h
  · next p hp =>
    simp only [Bool.and_eq_true, decide_eq_true_eq] at h
    exact ⟨p, hp, h.1, fits_of h.2⟩
  · cases h

/-- `lanes` with other tags on v1 and v2, and with another vl. -/
def tagged (x y : Tag) : State :=
  modVec lanes fun v => { v with regs := (v.regs.set (1 : Fin 32) { v.regs.get 1 with tag := x }).set (2 : Fin 32) { v.regs.get 2 with tag := y } }
def long (n : Nat) : State := modVec lanes fun v => { v with vl := n }

/-- `lanes` with a prefix that leaves a copy in v4. -/
def lanesCopy : State := withPfx lanes { v := true, pg := 0, ps := false, pd := 4, pc := true, pk := 0 }

theorem wit_VectorDestination : (prefixOf lanes).v = false ∧ lanes.cpu.live.vec.vl ≠ 0 ∧
    lanes.cpu.live.vec.vl * tyBits .i32 ≤ 16384 ∧ (prefixOf task).v = false ∧ task.cpu.live.vec.vl = 0 ∧
    (prefixOf lanesCopy).v = true ∧ (prefixOf lanesCopy).pc = true ∧ lanesCopy.cpu.live.vec.vl ≠ 0 := by decide +kernel

theorem wit_VectorLength : reclaimable task = false ∧ Runs (lengthAttr true) (.vsetlw 3 2 1 2) task ∧ discarded task = false ∧
    (∃ p u, Reaches task .read (reg task 1).toNat 8 p u ∧ poisoned u (placePa p) 8 = false) ∧
    preApplies task = false ∧ saves (saveRec (setLength task 8 2) (forcedRec (setLength task 8 2) (setLength task 8 2).cpu.live
      .suspended (.strip (.hbm 0x10000 0) 11) false true)) = true ∧ Begins (lengthAttr false) false false task ∧
    heldHere task = false := by
  refine ⟨by decide +kernel, runs_of (by decide +kernel), by decide +kernel, ?_, by decide +kernel, by decide +kernel,
    begins_of (by decide +kernel), by decide +kernel⟩
  obtain ⟨p, t, h⟩ := acts_of (s := task) (k := .read) (va := (reg task 1).toNat) (n := 8) (by decide +kernel)
  exact ⟨p, t, h.reaches, h.sound.resolve_left nofun⟩

/-- A VSETLW that is held, with its counter below its threshold, or at it for a request of no element from 0. -/
def stripAt : HoldAt := { heldAt false with word := wordOf (.vsetlw 3 2 1 2), wait := .strip (.hbm 0x10000 0) 11 }
def heldLength : State := modCpu task fun c => { c with hold := .wait, live := { c.live with holdAt := some stripAt } }

theorem wit_VectorLength_held : heldHere heldLength = true ∧ reclaimable heldLength = false ∧ discarded heldLength = false ∧
    Runs (lengthAttr true) (.vsetlw 3 2 1 2) heldLength ∧ Runs (lengthAttr true) (.vsetlw 0 0 1 2) heldLength ∧
    heldLength.cpu.live.holdAt = some stripAt ∧ stripAt.wait = .strip (.hbm 0x10000 0) 11 ∧
    poisoned heldLength (placePa (.hbm 0x10000 0)) 8 = false ∧ holdRoom (noSpace heldLength) stripAt = false := by
  exact ⟨by decide +kernel, by decide +kernel, by decide +kernel, runs_of (by decide +kernel), runs_of (by decide +kernel),
    by decide +kernel, rfl, by decide +kernel, by decide +kernel⟩

theorem wit_VectorLength_met : Runs (lengthAttr true) (.vsetlw 0 0 1 2) task ∧ (reg task 0).toNat = 0 ∧
    (setLength task 0 2).cpu.live.vec.vl = 0 ∧ Runs (lengthAttr true) (.vsetl 7 2 2) task := by
  exact ⟨runs_of (by decide +kernel), by decide +kernel, by decide +kernel, runs_of (by decide +kernel)⟩

/-- A vector state image at 0x10000 with the header of one group, and all else zero. -/
def vsaved : State := words lanes 0x10018 [2 ^ 40 + 2 ^ 48]

/-- The reads of a VRESTORE from 0x10000 all pass, and find an image that it accepts. -/
def restores (s : State) : Bool :=
  let (ps, got, t) := probeFrom s [] .read (rangeUnits 0x10000 0 64)
  (firstFail ps).isNone &&
  (match loadUnits t false ps with
   | (some hs, u) => !badImage u (hs.map (·.2)).flatten &&
     (let (qs, _, v) := probeFrom u got .read (rangeUnits 0x10000 64 (1792 + 32 * imageBytes u))
      (firstFail qs).isNone && (loadUnits v false qs).1.isSome)
   | _ => false)

theorem wit_VectorStateInstructions : Begins (vecAttr .predicate false) true true lanes ∧ (vreg lanes 1).tag = some .i32 ∧
    tyArith .i32 = true ∧ Fits lanes [tyBits .i32] ∧ lanes.cpu.live.vec.vl ≤ (reg lanes 3).toNat ∧
    (reg (withG lanes 5 1) 5).toNat < (withG lanes 5 1).cpu.live.vec.vl ∧ 1 ≤ (reg (withG lanes 5 1) 5).toNat := by
  exact ⟨begins_of (by decide +kernel), by decide +kernel, by decide +kernel, fits_of (by decide +kernel), by decide +kernel,
    by decide +kernel, by decide +kernel⟩

theorem wit_VectorStateInstructions_saved : Begins { storeAttr with hasK := false, drain := true } true true lanes ∧
    (firstFail (probeAll lanes .write (rangeUnits 0x10000 0 (vsaveImage lanes).length)).1).isNone = true := by
  exact ⟨begins_of (by decide +kernel), by decide +kernel⟩

theorem wit_VectorStateInstructions_begins : Begins (vecAttr .predicate false) true true vsaved :=
  begins_of (by decide +kernel)

theorem wit_VectorStateInstructions_restored : restores vsaved = true := by decide +kernel

theorem wit_VectorArithmetic : Begins (vecAttr .copyV) true true lanes ∧
    (∃ p, pairOf lanes .vv 1 2 tyInt = some p ∧ p.ty = .i32 ∧ Fits lanes (tyBits p.ty :: readWidths .vv p.ta p.tb)) ∧
    (∃ p, pairOf (tagged (some .fp32) (some .fp32)) .vs 1 3 tyArith = some p ∧ p.ty = .fp32 ∧
      Fits (tagged (some .fp32) (some .fp32)) (tyBits p.ty :: readWidths .vs p.ta p.tb)) := by
  exact ⟨begins_of (by decide +kernel), pair_of (by decide +kernel), pair_of (by decide +kernel)⟩

theorem wit_VectorUnaryAndFused : (vreg (tagged (some .fp32) none) 1).tag = some .fp32 ∧ tyFp .fp32 = true ∧
    Fits (tagged (some .fp32) none) [tyBits .fp32] ∧ Begins (vecAttr .copyV) true true (tagged (some .fp32) none) ∧
    (vreg lanes 1).tag = some .i32 ∧ fmaTags .i32 .i32 = true ∧
    ∃ p, pairOf lanes .vv 1 2 tyArith = some p ∧ p.ty = .i32 ∧ Fits lanes (tyBits p.ty :: readWidths .vv p.ta p.tb) := by
  exact ⟨by decide +kernel, by decide +kernel, fits_of (by decide +kernel), begins_of (by decide +kernel),
    by decide +kernel, by decide +kernel, pair_of (by decide +kernel)⟩

/-- `lanes` with v1 of a type and v2 scales, for the packing members. -/
def packed (t : Ty) : State := tagged (some t) (some .e8m0)

theorem wit_VectorConversions : (vreg (packed .fp32) 1).tag = some .fp32 ∧ Fits (packed .fp32) [tyBits .bf16, tyBits .fp32] ∧
    Fits (packed .fp32) [tyBits .e4m3, tyBits .fp32] ∧ cvtOk .fp32 .bf16 = true ∧ efOk .fp32 .bf16 = true ∧
    (packed .fp32).cpu.live.vec.vl ≠ 0 ∧ packSource .fp32 = true ∧ packTarget .e4m3 = true ∧
    Begins pairAttr true true (packed .fp32) ∧ Begins (vecAttr .copyV) true true (packed .fp32) ∧
    (vreg (packed .e4m3) 1).tag = some .e4m3 ∧ (vreg (packed .e4m3) (nextReg 1)).tag = some .e8m0 ∧
    Fits (packed .e4m3) [tyBits .fp32, tyBits .e4m3] ∧ Begins pairAttr true true (packed .e4m3) := by
  exact ⟨by decide +kernel, fits_of (by decide +kernel), fits_of (by decide +kernel), by decide +kernel, by decide +kernel,
    by decide +kernel, by decide +kernel, by decide +kernel, begins_of (by decide +kernel), begins_of (by decide +kernel),
    by decide +kernel, by decide +kernel, fits_of (by decide +kernel), begins_of (by decide +kernel)⟩

/-- A forced save that would stop the next vector instruction at an element. -/
def cutting (n : Nat) (s : State) : State := modCpu s fun c => { c with cut := some n }

theorem wit_cuts : cutAt (cutting 1 (packed .fp32)) 1 = some 1 ∧ Begins (vecAttr .copyV) true true (cutting 1 (packed .fp32)) ∧
    cutAt (cutting 1 lanes) 1 = some 1 ∧ Begins (vecAttr .copyV) true true (cutting 1 lanes) ∧
    Begins storeAttr true true (cutting 1 lanes) ∧ cutAt (packed .fp32) 1 = none ∧ cutAt lanes 1 = none ∧
    (packed .fp32).cpu.live.vec.vl ≠ 0 := by
  exact ⟨by decide +kernel, begins_of (by decide +kernel), by decide +kernel, begins_of (by decide +kernel),
    begins_of (by decide +kernel), by decide +kernel, by decide +kernel, by decide +kernel⟩

theorem wit_VectorReductions_tree : lanes.cpu.live.vec.vl ≤ 2048 ∧ lanes.cpu.live.vec.vl ≤ 2 ^ 1 ∧
    2 ^ (1 - 1) < lanes.cpu.live.vec.vl ∧ task.cpu.live.vec.vl ≤ 2 ^ 0 ∧ active lanes 0 1 = true := by decide +kernel

theorem wit_VectorReductions : (vreg lanes 1).tag = some .i32 ∧ tyInt .i32 = true ∧ tyArith .i32 = true ∧
    Fits lanes [tyBits .i32, tyBits .i32] ∧ Fits lanes [tyBits .i32] ∧ Begins (vecAttr .copyV) true true lanes ∧
    lanes.cpu.live.vec.vq.length < 8 := by
  exact ⟨by decide +kernel, by decide +kernel, by decide +kernel, fits_of (by decide +kernel), fits_of (by decide +kernel),
    begins_of (by decide +kernel), by decide +kernel⟩

/-- R160, R163, R178: VMVSX leaves element 0 alone where the mask of its prefix has bit 0 clear. -/
theorem test_vmvsx_masked : after (withPfx lanes { v := true, pg := 0, ps := false, pd := 0, pc := false, pk := 1 }) (.vmvsx 1 3)
      (fun t => (vreg t 1).img == (vreg lanes 1).img) = true ∧
    after lanes (.vmvsx 1 3) (fun t => slot (vreg t 1).img 0 32 == 3 && slot (vreg t 1).img 1 32 == 5) = true := by
  decide +kernel

/-- R82, R158, R161: VMERGE widens a signalling NaN of FP16 to the default NaN of FP32 and raises the invalid exception. -/
theorem test_vmerge_nan :
    after (modVec (tagged (some .fp16) (some .fp32)) fun v => { v with regs := v.regs.set (1 : Fin 32) ⟨some .fp16, 0x7C01⟩ })
      (.vmerge .vv 3 1 2 0)
    (fun t => slot (vreg t 3).img 0 32 == 0x7FC00000 && t.cpu.live.fst &&& flagNV == flagNV) = true := by decide +kernel

/-- The push of `pushing`, before a load of the index register. -/
def pushingLoad : State :=
  let q (i : Instr) (base : Option Word) : VEntry := ⟨wordOf i, 0xFF0, base, none, Pfx.none, false, [], none⟩
  words (modLive pushing fun c =>
    { c with viq := [q (.vrsum 6 5 0 true) none, q (.vldUnit 3 1 0 false .i64) (some 0x10200),
                     q (.vstIndexed 5 1 3 0 false .i64) (some 0x10100)] }) 0x10200 [0x20, 0x28]

/-- R97, R273: what the load gives is read when the front learns from it where the store goes, and stays, whatever memory
holds later. -/
theorem test_foresee_load :
    let s := foresee pushingLoad
    s.cpu.ahead.map (·.map (·.bytes)) = some [[(0x10200, 8), (0x10208, 8)], [(0x10120, 8), (0x10128, 8)]] ∧
    (foresee (words s 0x10200 [0, 0])).cpu.ahead = s.cpu.ahead ∧ memBusy s (.ld 7 1 .d 0x100) = false ∧
    memBusy s (.ld 7 1 .d 0x120) = true := by
  decide +kernel

/-- R82, R136, R161, R172: VRSUM of one element, a signalling NaN, is the default NaN and raises the invalid exception. -/
theorem test_sum_nan :
    after (modVec (tagged (some .fp32) (some .fp32)) fun v =>
        { v with vl := 1, regs := v.regs.set (1 : Fin 32) ⟨some .fp32, 0xFF800001⟩ }) (.vrsum 3 1 0 false)
    (fun t => slot (vreg t 3).img 0 32 == 0x7FC00000 && t.cpu.live.fst &&& flagNV == flagNV) = true := by decide +kernel

/-- R107: marked groups that the resuming core's own task holds count toward the need. -/
theorem test_marks :
    let s := modCluster task 0 fun k =>
      { k with marks := 0b110, grants := Vector.ofFn fun i : Fin 8 => if i = 0 then 0b111 else if i = 4 then 0b110000 else 0 }
    marked (markFor s 0 6) 0 = 0b110 ∧ marked (markFor s 0 7) 0 = 0b100110 := by decide +kernel

/-- R229: the futures of a table are those of its bytes, and a table elsewhere, of zeros, has none. -/
theorem test_table :
    (((readTable { task with mem := memPut task.mem (task.ftbase + 64 * 5) [1, 3, 0, 0, 7, 0, 0, 0, 2] }).futs.find 5).map
      fun f => (f.st, f.kind, f.gen, f.count)) = some (.pending, 3, 7, 2) ∧
    (keepTable (setFut task 5 { Fut.reset with st := .pending }) { task with ftbase := task.ftbase + 0x1000000 }).futs = [] := by
  decide +kernel

theorem wit_VectorMoves : (vreg lanes 1).tag = some .i32 ∧ Fits lanes [tyBits .i32] ∧ Begins (vecAttr .copyV) true true lanes ∧
    Begins (vecAttr .copyG) true true lanes ∧ Begins (vecAttr .copyG) false false lanes := by
  exact ⟨by decide +kernel, fits_of (by decide +kernel), begins_of (by decide +kernel), begins_of (by decide +kernel),
    begins_of (by decide +kernel)⟩

theorem wit_VectorPermutations : (vreg lanes 1).tag = some .i32 ∧ (vreg lanes 2).tag = some .i32 ∧ tyInt .i32 = true ∧
    Fits lanes [tyBits .i32, tyBits .i32] ∧ Fits lanes [tyBits .i32] ∧ Begins (vecAttr .copyV) true true lanes ∧
    ∃ p, pairOf lanes .vv 1 2 (fun _ => true) = some p ∧ p.ty = .i32 ∧
      Fits lanes (tyBits p.ty :: readWidths .vv p.ta p.tb) := by
  exact ⟨by decide +kernel, by decide +kernel, by decide +kernel, fits_of (by decide +kernel), fits_of (by decide +kernel),
    begins_of (by decide +kernel), pair_of (by decide +kernel)⟩

theorem wit_MaskInstructions : (∃ p, pairOf (tagged (some .fp32) (some .fp32)) .vv 1 2 tyFp = some p ∧ p.ty = .fp32 ∧
      Fits (tagged (some .fp32) (some .fp32)) (tyBits p.ty :: readWidths .vv p.ta p.tb)) ∧
    Begins (vecAttr .predicate) true true (tagged (some .fp32) (some .fp32)) ∧
    (vreg (tagged (some .fp32) (some .fp32)) 1).tag = some .fp32 ∧ tyFp .fp32 = true ∧
    Fits (tagged (some .fp32) (some .fp32)) [tyBits .fp32] ∧ Begins (vecAttr .copyG) true true lanes ∧
    lanes.cpu.live.vec.vl ≠ 0 ∧ task.cpu.live.vec.vl = 0 ∧ (1 : KReg) ≠ 0 ∧ (0 : Fin 7).val + 1 = (1 : KReg).val := by
  exact ⟨pair_of (by decide +kernel), begins_of (by decide +kernel), by decide +kernel, by decide +kernel,
    fits_of (by decide +kernel), begins_of (by decide +kernel), by decide +kernel, by decide +kernel, by decide, by decide⟩

/-- Vector accesses that all pass, and that load without poison. -/
def unitsOk (s : State) (k : Kind) (us : List Unit_) : Bool :=
  (firstFail (probeAll s k us).1).isNone && (k != .read || (loadUnits (probeAll s k us).2 false (probeAll s k us).1).1.isSome)

theorem wit_VectorLoads : Fits lanes [tyBits .i32] ∧ (vreg lanes 2).tag = some .i32 ∧ tyInt .i32 = true ∧
    Begins (vecAttr .copyV) true true lanes ∧ Begins (vecAttr .copyV) true true task ∧ task.cpu.live.vec.vl = 0 ∧
    lanes.cpu.live.vec.vl ≠ 0 ∧
    (let us := elemUnits .i32 (fun j => 0x10000 + 4 * j) (memElems lanes 0)
     misaligned us = none ∧ unitsOk lanes .read us = true) ∧
    (let us := elemUnits .i32 (fun j => if j = 0 then 0x10001 else 0x10000) (memElems lanes 0)
     misaligned us ≠ none) ∧
    (long 32).cpu.live.vec.vl % 32 = 0 ∧ (long 32).cpu.live.vec.vl ≠ 0 ∧ Begins segAttr true true (long 32) ∧
    unitsOk (long 32) .read (segUnits (long 32) .e4m3 0x10000) = true := by
  exact ⟨fits_of (by decide +kernel), by decide +kernel, by decide +kernel, begins_of (by decide +kernel),
    begins_of (by decide +kernel), by decide +kernel, by decide +kernel, by decide +kernel, by decide +kernel,
    by decide +kernel, by decide +kernel, begins_of (by decide +kernel), by decide +kernel⟩

/-- 32 elements of E4M3 in v1 and their scales in v2. -/
def segment : State := modVec (packed .e4m3) fun v => { v with vl := 32 }

theorem wit_VectorStores : (vreg lanes 1).tag = some .i32 ∧ Fits lanes [tyBits .i32] ∧ Begins storeAttr true true lanes ∧
    (let us := elemUnits .i32 (fun j => 0x10000 + 4 * j) (memElems lanes 0)
     misaligned us = none ∧ unitsOk lanes .write us = true) ∧
    (vreg (tagged (some .e2m1) none) 1).tag = some .e2m1 ∧
    (let us := nibbleUnits 0x10000 (memElems (tagged (some .e2m1) none) 0)
     misaligned us = none ∧ unitsOk (tagged (some .e2m1) none) .write us = true) ∧
    (vreg segment 1).tag = some .e4m3 ∧ (vreg segment (nextReg 1)).tag = some .e8m0 ∧ Begins storeAttr true true segment ∧
    segment.cpu.live.vec.vl % 32 = 0 ∧ unitsOk segment .write (segUnits segment .e4m3 0x10000) = true := by
  exact ⟨by decide +kernel, fits_of (by decide +kernel), begins_of (by decide +kernel), by decide +kernel,
    by decide +kernel, by decide +kernel, by decide +kernel, by decide +kernel, begins_of (by decide +kernel),
    by decide +kernel, by decide +kernel⟩

/-- The accesses of a stop are the first alone or both, of two of which only the first lies below it. -/
theorem cut_of {s : State} {nt : Bool} {k : Nat} {ps : List (Unit_ × Probe)}
    (h : (ps.length == 2 && ps.head?.all (·.1.elem < k) && (loadUnits s nt (ps.take 1)).1.isSome &&
      (loadUnits s nt ps).1.isSome) = true) : ∃ bs v, loadUnits s nt (cutUnits s false k ps) = (some bs, v) := by
  match ps, h with
  | [a, b], h =>
    simp only [List.head?_cons, Option.all_some, List.take_succ_cons, List.take_zero, Bool.and_eq_true,
      decide_eq_true_eq] at h
    obtain ⟨⟨⟨-, hk⟩, h1⟩, h2⟩ := h
    have hc : cutUnits s false k [a, b] = [a] ∨ cutUnits s false k [a, b] = [a, b] := by
      simp only [cutUnits, List.filter_cons, List.filter_nil, hk, decide_true, Bool.true_or, if_true]
      split
      · exact .inr rfl
      · exact .inl rfl
    obtain ⟨bs, hb⟩ : ∃ bs, (loadUnits s nt (cutUnits s false k [a, b])).1 = some bs := by
      rcases hc with hc | hc <;> rw [hc]
      · exact Option.isSome_iff_exists.mp h1
      · exact Option.isSome_iff_exists.mp h2
    exact ⟨bs, (loadUnits s nt (cutUnits s false k [a, b])).2, Prod.ext hb rfl⟩

/-- What `cut_of` asks for, of accesses that all pass. -/
def cutOk (s : State) (k : Nat) (us : List Unit_) : Bool :=
  let (ps, t) := probeAll s .read us
  (firstFail ps).isNone && ps.length == 2 && ps.head?.all (·.1.elem < k) && (loadUnits t false (ps.take 1)).1.isSome &&
    (loadUnits t false ps).1.isSome

/-- 64 elements of E4M3 in two segments. -/
def segments : State := modVec (packed .e4m3) fun v => { v with vl := 64 }

theorem wit_VectorLoads_cut : cutOk (cutting 1 lanes) 1 (elemUnits .i32 (fun j => 0x10000 + 4 * j) (memElems lanes 0)) = true ∧
    cutAt (cutting 40 segments) 32 = some 32 ∧ cutOk (cutting 40 segments) 32 (segUnits segments .e4m3 0x10000) = true ∧
    Begins segAttr true true (cutting 40 segments) ∧ Begins storeAttr true true (cutting 40 segments) ∧
    cutAt (cutting 1 lanes) 2 = none ∧ cutAt segments 32 = none := by
  exact ⟨by decide +kernel, by decide +kernel, by decide +kernel, begins_of (by decide +kernel), begins_of (by decide +kernel),
    by decide +kernel, by decide +kernel⟩

/-- The first access that fails, after those before it. -/
theorem failsAt_of : ∀ {l : List (Unit_ × Probe)} {u : Unit_} {p : Probe}, firstFail l = some (u, p) →
    FailsAt l (beforeFail l) u p
  | [], _, _, h => by cases h
  | x :: xs, u, p, h => by
    unfold firstFail at h
    rw [List.find?_cons] at h
    cases hx : passed x.2 with
    | false =>
      rw [hx] at h
      cases h
      refine ⟨xs, by simp [beforeFail, hx], by simp [beforeFail, hx], fun ps hp => ?_⟩
      rw [hp] at hx; cases hx
    | true =>
      rw [hx] at h
      obtain ⟨after, h1, h2, h3⟩ := failsAt_of (l := xs) h
      refine ⟨after, by simp [beforeFail, hx]; exact h1, ?_, h3⟩
      intro y hy
      simp only [beforeFail, List.takeWhile_cons, hx, if_true, List.mem_cons] at hy
      rcases hy with rfl | hy
      · cases hq : y.2 with
        | ok ps => exact ⟨ps, rfl⟩
        | watch w => rw [hq] at hx; cases hx
        | bad c => rw [hq] at hx; cases hx
      · exact h2 y hy

/-- A failing access of an instruction's: its element and whether a watchpoint stops it, and whether a load's accesses
before it go through. -/
def failing (s : State) (k : Kind) (us : List Unit_) : Option (Nat × Bool × Bool) :=
  let (ps, t) := probeAll s k us
  (firstFail ps).map fun x => (x.1.elem, (match x.2 with
    | .watch _ => true
    | _ => false), k != .read || (loadUnits t false (beforeFail ps ++ afterFail t ps)).1.isSome)

/-- The accesses of two I32 elements from an address. -/
def two (a : Nat) : List Unit_ := elemUnits .i32 (fun j => a + 4 * j) (memElems lanes 0)

/-- `lanes` with a watchpoint on 0x10000. -/
def watching : State := { lanes with dbg := watched.dbg }

theorem wit_VectorTraps_faults : failing lanes .read (two 0x1FFFC) = some (1, false, true) ∧
    failing lanes .read (two 0x90000) = some (0, false, true) ∧ failing watching .read (two 0x10000) = some (0, true, true) ∧
    failing watching .read (two 0xFFFC) = some (0, false, true) ∧
    failing lanes .write (two 0x1FFFC) = some (1, false, true) ∧ misaligned (two 0x1FFFC) = none ∧
    (misaligned (two 0x10001)).isSome = true ∧
    failing (long 32) .read (segUnits (long 32) .e4m3 0x90000) = some (0, false, true) ∧
    failing segment .write (segUnits segment .e4m3 0x90000) = some (0, false, true) ∧
    (failing lanes .write (rangeUnits 0x90000 0 (vsaveImage lanes).length)).isSome = true ∧
    (failing lanes .read (rangeUnits 0x90000 0 64)).isSome = true ∧ restores lanes = false ∧
    (reg task 1).toNat % 64 = 0 ∧ (reg task 4).toNat % 64 ≠ 0 := by decide +kernel

theorem wit_VectorTraps_begins : Begins (vecAttr .predicate) true true task ∧ Begins (vecAttr .copyG) true true task ∧
    Begins pairAttr true true task ∧ Begins segAttr true true (long 40) ∧ Begins storeAttr true true watching ∧
    Begins (vecAttr .predicate false) true true lanes ∧ Begins (vecAttr .copyV) true true watching ∧
    Begins { storeAttr with hasK := false, drain := true } true true watching ∧ Begins pairAttr true true (long 100) := by
  exact ⟨begins_of (by decide +kernel), begins_of (by decide +kernel), begins_of (by decide +kernel),
    begins_of (by decide +kernel), begins_of (by decide +kernel), begins_of (by decide +kernel), begins_of (by decide +kernel),
    begins_of (by decide +kernel), begins_of (by decide +kernel)⟩

theorem wit_VectorTraps_tags : (∀ m ∈ oneSource .vv 3 1 2 1 0 .e4m3 .rne false, m.src = 1 ∨ m.src = 3) ∧
    (vreg task 3).tag = none ∧ tyFp .i32 = false ∧ combine .i32 .fp32 = none ∧
    (vreg (tagged (some .i32) (some .fp32)) 2).tag = some .fp32 ∧ tyInt .fp32 = false ∧ fmaTags .i32 .i64 = false ∧
    fmaTags .i32 .i32 = true ∧ ¬ (long 100).cpu.live.vec.vl * 32 ≤ grantBits (long 100) ∧
    (vreg (packed .e4m3) (nextReg 1)).tag = some .e8m0 ∧ (long 40).cpu.live.vec.vl % 32 ≠ 0 ∧
    (long 40).cpu.live.vec.vl * 8 ≤ grantBits (long 40) ∧ capture task false 0 = 0 := by decide +kernel

theorem wit_VectorTraps : (vreg task 1).tag = none ∧ Begins (vecAttr .copyV) true true task ∧
    (∃ p, pairOf (long 100) .vv 1 2 tyArith = some p ∧ p.ty = .i32) ∧
    grantBits (long 100) < (long 100).cpu.live.vec.vl * tyBits .i32 ∧ Begins (vecAttr .copyV) true true (long 100) ∧
    (vreg task 1).tag ≠ some .i32 ∧ Begins storeAttr true true task ∧ (vreg (long 100) 1).tag = some .i32 ∧
    Begins storeAttr true true (long 100) := by
  refine ⟨by decide +kernel, begins_of (by decide +kernel), ?_, by decide +kernel, begins_of (by decide +kernel),
    by decide +kernel, begins_of (by decide +kernel), by decide +kernel, begins_of (by decide +kernel)⟩
  obtain ⟨p, h, ht, -⟩ := pair_of (s := lanes) (form := .vv) (a := 1) (b := 2) (ok := tyArith) (ty := .i32) (by decide +kernel)
  exact ⟨p, h, ht⟩

/-- The task at the end of its quantum, with another context ready. -/
def expired : State := modCpu (shared task) fun c => { c with quantum := c.tquant }

/-- The task with a pre-emption request of a mode, of a class above its own, that has waited a quantum. -/
def asked (mode : Nat) (cls : Nat) : State := modCpu task fun c => { c with preMode := mode, preClass := cls, preAge := c.tquant }

/-- The save that a forced switch makes. -/
def leaves (s : State) : Bool := saves (saveRec s (forcedRec s s.cpu.live .ready .none false false))

theorem wit_InterruptEvents : task.cpu.halt = .running ∧ inHandler task = false ∧
    (modCpu task fun c => { c with pendError := true }).cpu.pendError = true ∧
    (modCpu task fun c => { c with pendHost := true }).cpu.pendHost = true ∧
    (let s := modCpu task fun c => { c with ttimer := 0x8000000000000000 }
     s.cpu.pendError = false ∧ s.cpu.pendHost = false ∧ s.cpu.pendPreempt = false ∧ s.cpu.ttimer.getLsbD 63 = true ∧
       s.cpu.ttimer.toNat % 2 ^ 63 ≤ s.devtime.toNat) ∧ task.cpu.ttimer.getLsbD 63 = false := by decide +kernel

theorem wit_InterruptEvents_switch : quantumDue expired = true ∧ leaves expired = true ∧
    (asked 1 3).cpu.preMode = 1 ∧ preStale (asked 1 3) = false ∧ preStale (asked 1 0) = true ∧
    (∀ m ∈ [2, 3], (asked m 3).cpu.preMode = m ∧ preStale (asked m 3) = false ∧ switchable (asked m 3) = true ∧
      leaves (asked m 3) = true) ∧
    (asked 1 3).cpu.tquant ≤ (asked 1 3).cpu.preAge ∧ switchable (asked 1 3) = true ∧ leaves (asked 1 3) = true := by
  decide +kernel

/-- Core 0 idle, with the task's context ready; with that context in the Woodshed, signalled there or not; with a resident
context beside it and no room for either; and on core 1, which core 0 may steal. -/
def ready : State := modCpu (shared parent) fun c => { c with who := .idle }
def spilled (due : Bool) : State :=
  modCpu ready fun c => { c with recs := c.recs.map fun r => { r with spill := some 0, due := due } }
def stranded (st : RecState) : State :=
  modCpu (spilled false) fun c => { c with ctxlim := 1, recs := c.recs ++ ready.cpu.recs.map fun r =>
    { r with st := st, ctx := { r.ctx with tself := 9 } } }
def stealing : State :=
  let rs := ready.cpu.recs.map fun r => { r with steal := true }
  { modCpu ready fun c => { c with recs := [] } with parked := [(1, { Core.reset 1 with recs := rs })] }

/-- A task that a wait for room holds. -/
def held (doomed : Bool) : State := modCpu (if doomed then doom else task) fun c => { c with hold := .wait }

/-- A code directory of one entry, and its image, whose words are all literals, in one page of tenant 0 that the
directory's address maps to. -/
def coded : State :=
  let dir : TlbEntry := { page with va := codeDir, pa := 0x20000 }
  let s := modCpu task fun c => { c with tlb := [dir, page], live := { c.live with pc := 0x10000 } }
  let s := words s 0x20000 [0x10000, 1 + 2 ^ 32, 0x10000, 0x10100, 0x10200, 0, 0, 0]
  { s with mem := memPut s.mem 0x10200 [0xFF, 0xFF] }

theorem wit_SchedulingEvents : (∃ r u, refetchDue (spilled true) = some r ∧ refetch (spilled true) r = some u) ∧
    (∃ r, (refetchDue ready).bind (refetch ready) = none ∧ ready.cpu.who = .idle ∧ ready.cpu.halt = .running ∧ choice ready = some r ∧
      r.spill = none) ∧
    (∃ n r u, stealing.cpu.who = .idle ∧ stealing.cpu.halt = .running ∧ choice stealing = none ∧
      stealTarget stealing = some (n, r) ∧
      makeRoom (stealing.cpu.recs.length + 1) stealing stealing.cpu.id (recBytes r) = .ok u) := by
  refine ⟨?_, ?_, ?_⟩
  · have h : (match refetchDue (spilled true) with
      | some r => (refetch (spilled true) r).isSome
      | none => false) = true := by decide +kernel
    split at h
    · next r hr => exact ⟨r, _, hr, (Option.some_get h).symm⟩
    · cases h
  · have h : (match choice ready with
      | some r => r.spill.isNone
      | none => false) = true := by decide +kernel
    split at h
    · next r hr => exact ⟨r, by decide +kernel, rfl, rfl, hr, Option.isNone_iff_eq_none.mp h⟩
    · cases h
  · have h : (match stealTarget stealing with
      | some x => saves (makeRoom (stealing.cpu.recs.length + 1) stealing stealing.cpu.id (recBytes x.2))
      | none => false) = true := by decide +kernel
    split at h
    · next x hx =>
      obtain ⟨u, hu⟩ := saved_of h
      exact ⟨x.1, x.2, u, rfl, rfl, by decide +kernel, hx, hu⟩
    · cases h

/-- What selection finds: the record chosen is in the Woodshed and comes back or not, and a resident one may run. -/
def selects (s : State) : Option (Bool × Bool) :=
  (choice s).bind fun r => if r.spill.isSome && ((refetchDue s).bind (refetch s)).isNone then
    some ((refetch s r).isSome, (firstOf (goesBefore s) ((readyRecs s).filter fun r =>
      r.spill.isNone && canGrant s s.cpu.id r.ctx.need)).isSome) else none

theorem wit_SchedulingEvents_spilled : selects (spilled false) = some (true, false) ∧
    selects (stranded .ready) = some (false, true) ∧ selects (stranded .suspended) = some (false, false) ∧
    (∀ s ∈ [spilled false, stranded .ready, stranded .suspended], s.cpu.who = .idle ∧ s.cpu.halt = .running) := by
  decide +kernel

/-- Two ready contexts, the one of which that comes first in rank has just been passed over by its wait. -/
def passing (h : Word) : State :=
  modCpu ready fun c => { c with passed := some h, recs := c.recs ++ ready.cpu.recs.map fun r =>
    { r with ctx := { r.ctx with tself := 2 ^ 49, cls := 0 } } }

/-- R244, R265: the other one runs. -/
theorem wit_SchedulingEvents_passed : (choice (passing 77)).map (·.ctx.tself) = (choice ready).map (·.ctx.tself) ∧
    ((choice ready).map fun r => (choice (passing r.ctx.tself)).map (·.ctx.tself)) = some (some (2 ^ 49)) := by
  decide +kernel

/-- The stepped task at the step's end. -/
def stepped : State :=
  { modLive task fun c => { c with stepDue := true } with dbg := { task.dbg with dstep := true } }

theorem wit_SchedulingEvents_more : (∀ b ∈ [false, true], (held b).cpu.hold = .wait ∧ (held b).cpu.who = .task ∧
      reclaimable (held b) = b) ∧ coded.cpu.who ≠ .idle ∧ coded.cpu.halt = .running ∧ (codeLine coded).isNone = true ∧
    (match (fillLine coded 0x10000).1 with
     | .inr ws => ws.length == 16
     | .inl _ => false) = true ∧ stepReady stepped = true := by decide +kernel

/-- A fault record of the task, waiting for delivery and delivered, with its task held in place. -/
def fault : FaultRec :=
  { handle := 0, addr := 0x5000, cause := 4, access := 0, elem := 0, word := 0, pc := 0x1000, owner := .task 0 0 }
def reported (r : FaultRec) : State :=
  modCluster (modCpu task fun c => { c with hold := .inPlace }) 0 fun k =>
    { k with fsBase := 0x30000, deliveries := [r], outstanding := [(3, r)] }

theorem wit_FaultServiceEvents : (clusterAt (reported fault) 0).deliveries = fault :: [] ∧
    (clusterAt (reported fault) 0).outstanding.length < 2 ^ (clusterAt (reported fault) 0).fsLog ∧
    replayOk (reported fault) (clusterAt (reported fault) 0).fsBase 2048 = true ∧ clusterOf (reported fault).cpu.id = 0 ∧
    (∀ r ∈ [fault, other, { fault with owner := .task 0 77 }],
      (clusterAt (writeBack (reported r) 0) 0).outstanding.find? (fun p => p.1 = 3) = some (3, r)) ∧
    (∀ n : BitVec 2, let u := modCluster (writeBack (reported fault) 0) 0 fun k => { k with ackSeq := 3, ackAction := n, ackErr := false }
      stuckAt u 0 0 ≠ .gone ∧ stuckAt u 0 77 = .gone) ∧
    (clusterAt (writeBack (reported fault) 0) 0).outstanding.find? (fun p => p.1 = 4) = none := by decide +kernel

/-- A copy of eight bytes at the head of the Flue's queue, from a page that is mapped and from one that is not. -/
def copyOf (src : Nat) : FlueJob :=
  { copy := .lin 0x11000 src 8, len := 8, token := 9, chunk := 0, active := false, env := issuer }
def flueing (src : Nat) : State := modCluster task 0 fun k => { k with flue := [copyOf src] }

/-- A remote load of this device, and one of another. -/
def away1 (dev : Nat) : State :=
  { task with remotes := [{ token := 9, member := 0, sz := .d, addr := BitVec.ofNat 64 (dev * 2 ^ 40 + 0x10000), data := 0, env := issuer }] }

/-- How a remote access performed here ends. -/
def ends (r : Remote) : Option Bool :=
  match (performRemote (away1 0) 1024 r.env.tenant r.env.priv r.member r.sz (podLocal r.addr) r.data).1 with
  | .done _ => some true
  | .failed _ => some false
  | .waits => none

theorem wit_TransferEvents : flueFull task = false ∧ remoteOut task task.cpu.id < 64 ∧
    (∀ src ∈ [0x10000, 0x90000], (clusterAt (flueing src) 0).flue[0]? = some (copyOf src) ∧
      ((clusterAt (flueing src) 0).flue.filter (·.active)).length < 4) ∧
    (readChunk (flueing 0x10000) (copyOf 0x10000) (span 0 8)).1.stop.isNone = true ∧
    (readChunk (flueing 0x90000) (copyOf 0x90000) (span 0 8)).1.stop.isSome = true ∧
    ((away1 0).remotes.find? fun r => r.token = 9 && podDev r.addr = (away1 0).devid).isSome = true ∧
    (away1 0).remotes.map ends = [some true] ∧ (away1 0).remotes.map (fun r => ends { r with addr := 0x90000 }) = [some false] ∧
    ((away1 1).remotes.find? fun r => r.token = 9 && podDev r.addr != (away1 1).devid).isSome = true ∧
    ((away1 1).remotes.find? fun r => r.token = 9).isSome = true := by decide +kernel

/-- Core 1 waits for a Flue entry, of which some are free. -/
def flueWaits : State :=
  { modCluster State.reset 0 fun k => { k with flueWait := [1] } with
    parked := [(1, { task.cpu with id := 1, stall := some { since := 0, desc := some [], word := none } })] }

/-- R329: the entry goes to core 1. -/
theorem wit_TransferEvents_entry : entryFreed flueWaits = some 1 ∧ entryFreed task = none := by decide +kernel

/-- Replies for tokens that no request has: of this device, of no device, and of another one's future, known here or not. -/
theorem wit_TransferEvents_news : paired.remotes = [] ∧ hDev 6 = paired.devid ∧ paired.ndev ≤ hDev 0x80000000000000 ∧
    hDev 0x40000000000005 ≠ paired.devid ∧ hDev 0x40000000000005 < paired.ndev ∧ hDev 0x40000000000006 ≠ paired.devid ∧
    hDev 0x40000000000006 < paired.ndev ∧
    (entryAt paired 0x40000000000005).st = .free ∧ (entryAt paired 0x40000000000006).st ≠ .free ∧
    (entryAt paired 0x40000000000006).st ≠ .block := by decide +kernel

/-- Bank 0 with one job, or being cleared. -/
def jobbed (j : Job) : State := banked fun b => { b with jobs := [j] }

/-- A load of one K block and one column of BF16 from an address. -/
def loadFrom (a : Nat) : Job := .load a 2 0 0 5 1 1 9 issuer

theorem wit_BankEvents : (bankAt (banked fun b => { b with clearing := true }) 0 0).clearing = true ∧
    (bankAt (jobbed (.zero 0 4 0)) 0 0).jobs = .zero 0 4 0 :: [] ∧
    (bankAt (jobbed (.row false 1 0 4 .bf16 0 0 0)) 0 0).jobs = .row false 1 0 4 .bf16 0 0 0 :: [] ∧
    (∀ a ∈ [0x11000, 0x90000], (bankAt (jobbed (loadFrom a)) 0 0).jobs = loadFrom a :: []) ∧
    (match (engineBytes (jobbed (loadFrom 0x11000)) issuer (tileAddrs 0x11000 2 0 0 5 1 1)).1 with
     | .inr p => !marksAny p.2
     | .inl _ => false) = true ∧
    (match (engineBytes (jobbed (loadFrom 0x90000)) issuer (tileAddrs 0x90000 2 0 0 5 1 1)).1 with
     | .inr _ => false
     | .inl _ => true) = true := by decide +kernel

theorem wit_BankEvents_row : { Bank.reset with usable := true, fmt := 4 }.usable = true ∧ fmtClass 4 = .int ∧
    fmtClass 1 = .mx ∧ fmtClass 5 = .bf16 ∧ (0 : Nat) < 64 ∧ (1 : Nat) ≠ 0 ∧ (255 : Nat) < 256 ∧
    (16383 : Nat) / 256 ≠ 0 ∧ 60 + 4 ≤ 64 := by decide

/-- R315: the logarithms of 3 and of a quarter, Align of 1 and 3 with 8 bits, and what it keeps of -3. -/
theorem wit_BlockIs : IsLog 3 1 1 ∧ IsLog 1 4 (-2) ∧ Aligned [.fin false 1 1, .fin false 3 1] 8 (-6) ∧
    kept (-6) (.fin true 3 1) = -192 := by
  refine ⟨⟨fun _ => by decide, by omega⟩, ⟨by omega, fun _ => by decide⟩, ⟨?_, ?_, ?_⟩, by decide⟩
  · intro h; obtain ⟨n, d, h⟩ := h (.fin false 1 1) (by simp); cases h
  · intro n a d hm ha l ⟨hl, hn⟩
    rcases Int.lt_or_le l 0 with h0 | h0
    · omega
    · have := hl h0
      simp only [List.mem_cons, FpVal.fin.injEq, List.not_mem_nil, or_false] at hm
      have h2 : 2 ^ l.toNat < 4 := by rcases hm with ⟨-, rfl, rfl⟩ | ⟨-, rfl, rfl⟩ <;> omega
      have h3 : l.toNat < 2 := (Nat.pow_lt_pow_iff_right (by decide : 1 < 2)).mp (by simpa using h2)
      omega
  · intro _; exact ⟨false, 3, 1, by simp, by decide, ⟨fun _ => by decide, by omega⟩⟩

/-- The group of one device with a barrier, and with a collective from and to some addresses, matched or not. -/
def queueing (o : GroupOp) : Machine.Group := { newGroup task 7 [0] 0 with bulk := [o] }
def barrier : GroupOp :=
  { token := 9, coll := none, matched := false, done := 0, env := issuer, got := [], late := [] }
def moving (src dst : Word) : GroupOp := { barrier with coll := some (collOf [src, dst, 0, 4, 4, 0, 0, 0]) }
def reduction : GroupOp := moving 0x11000 0x12000
def matched (o : GroupOp) : GroupOp := { o with matched := true }
def grouping (o : GroupOp) : State := { task with groups := [(0, queueing o)] }

/-- The operation that another member accepted beside an operation of this device. -/
def peer (tag : BitVec 32) (o : GroupOp) : PeerOp :=
  { tag := tag, members := [(0, 0), (0, 1)], coll := o.coll.map fun c =>
      { kind := c.kind, op := c.op, fmt := c.fmt, count := c.count, chunk := c.chunk, root := c.root, urgent := false } }
def pairing (o : GroupOp) : Machine.Group := { newGroup task 7 [0, 1] 0 with bulk := [o] }

theorem wit_GroupEvents : (grouping barrier).groups.find 0 = some (queueing barrier) ∧
    matchFirst (groupOps (queueing barrier) false) = some (barrier, []) ∧ barrier.coll = none ∧
    matchFirst (groupOps (queueing reduction) false) = some (reduction, [matched reduction]) ∧ reduction.coll ≠ none ∧
    groupOps (queueing (matched reduction)) false = matched reduction :: [] ∧ (matched reduction).coll = reduction.coll ∧
    (grouping (matched reduction)).groups.any (fun p => p.2.urgent.any (·.matched)) = false ∧
    ([] : List PeerOp).length + 1 = (queueing barrier).members.length ∧ ([] : List PeerOp).length + 1 ≠ (pairing barrier).members.length ∧
    (∀ o ∈ [barrier, reduction], [peer 7 o].length + 1 = (pairing o).members.length) := by decide +kernel

theorem wit_GroupEvents_peers : SameOp (pairing barrier) false barrier (peer 7 barrier) ∧
    SameOp (pairing reduction) false reduction (peer 7 reduction) ∧ ¬SameOp (pairing barrier) false barrier (peer 8 barrier) := by
  exact ⟨⟨rfl, rfl, .inl ⟨rfl, rfl⟩⟩, ⟨rfl, rfl, .inr ⟨_, _, rfl, rfl, rfl, rfl, rfl, rfl, rfl, rfl, rfl⟩⟩,
    fun h => absurd h.1 (by decide)⟩

/-- What one chunk of a collective meets: a refused read, poison read, and whether every result has a place. -/
def chunkMeets (s : State) (o : GroupOp) : Option (Bool × Bool) :=
  let c := o.coll.getD (collOf [])
  let need := ((inputElems c 1 0 0).map fun e => (List.range 4).map fun k => c.inp + e * 4 + k).flatten
  let fresh := inputUnits c (need.filter fun a => !(o.got.map (·.1)).contains a)
  match engineBytes s o.env fresh with
  | (.inl _, _) => none
  | (.inr (bs, marks), t) =>
    let read := o.got ++ fresh.zip (bs.zip marks)
    let mine := need.map fun a => ((read.find? fun x => x.1 = a).map (·.2)).getD (0, 0)
    let all := o.late ++ chunkResult (queueing o) c 0 (elemsOf 4 4 (mine.map (·.1))) []
    let last := chunkCount c 1 ≤ o.done + 1
    let r := placeResults t o.env c (all.filter fun x => last || unitWhole c 1 (all.map (·.1)) x.1)
    some (marksAny (mine.map (·.2)), r.1.all fun x => resultFits r.2 x.2)

theorem wit_GroupEvents_chunks : chunkMeets (grouping reduction) reduction = some (false, true) ∧
    chunkMeets (grouping reduction) (moving 0x90000 0x12000) = none ∧
    chunkMeets (grouping reduction) (moving 0x11000 0x90000) = some (false, false) ∧
    chunkMeets { grouping reduction with poison := [(0x11000 / 128, 1)] } reduction = some (true, true) ∧
    (queueing reduction).members ≠ [] := by decide +kernel

/-- A collective whose token nobody holds, with a result of its last chunk still to write. -/
def abandoning : State :=
  setFut (grouping (matched { reduction with late := [(0, 0x3F800000)] })) 9 { Fut.reset with st := .doomed }

theorem wit_GroupEvents_abandoned : leavesLate abandoning 0 = true ∧ leavesLate (grouping (matched reduction)) 0 = false ∧
    ((abandoning.groups.find 0).map fun g => (groupOps g false).map (·.coll.isSome)) = some [true] := by decide +kernel

/-- The same collective in chunks of one element. -/
def oneByOne : GroupOp := matched { barrier with coll := some (collOf [0x11000, 0x12000, 0, 4, 1, 0, 0, 0]) }

/-- The state after its next chunk, and what the operation keeps for later ones: addresses of IN and elements of OUT. -/
def nextChunk (s : State) : State :=
  match execCollChunk 0 false [] s with
  | .next t => t
  | _ => s
def keeps (s : State) : List (List Nat × List Nat) :=
  ((s.groups.find 0).map fun g => g.bulk.map fun o => (o.got.map (·.1), o.late.map (·.1))).getD []
def inChunks : State := { grouping oneByOne with mem := [(0x11001, 0x3F), (0x11005, 0x40)] }

/-- R274: the first of two chunks that share an aligned 8-byte unit leaves its result and the other half of its input with
the operation, and the second writes the unit whole. -/
theorem test_coll_unit : keeps (nextChunk inChunks) = [([0x11004, 0x11005, 0x11006, 0x11007], [0])] ∧
    (nextChunk inChunks).mem = inChunks.mem ∧ keeps (nextChunk (nextChunk inChunks)) = [([], [])] ∧
    memTake (nextChunk (nextChunk inChunks)).mem 0x12000 8 = [0, 0x3F, 0, 0, 0, 0x40, 0, 0] := by decide +kernel

/-- R256, R274, R367: an abandoned collective writes the result that waits for the rest of its unit, and its group fails. -/
theorem test_abandoned : memTake (nextChunk abandoning).mem 0x12000 4 = [0, 0, 0x80, 0x3F] ∧
    ((nextChunk abandoning).groups.find 0).map (·.failed) = some true := by decide +kernel

/-- The state after the token of the group's barrier has lost its last reference. -/
def droppedBarrier : State :=
  dropRefs (setFut (grouping { barrier with token := 9 }) 9 { Fut.reset with st := .pending, kind := 5, count := 1 }) [9]

/-- R256, R367: the group fails, the arrival stands and the token is discarded; a later operation fails at once. -/
theorem test_barrier_dropped :
    (droppedBarrier.groups.find 0).map (fun g => (g.failed, g.bulk.length)) = some (true, 1) ∧
    (futAt droppedBarrier 9).st = .free ∧
    ((failGroup droppedBarrier 0).groups.find 0).map (·.bulk.length) = some 1 := by decide +kernel

/-- A tree of a list, level by level, so that the sums of `VectorReductions` and `GroupEvents` have the trees they name. -/
def treeBy {α : Type} (f : α → α → α) (z : α) : Nat → List α → α
  | 0, l => l.headD z
  | n + 1, l => if l.length < 2 then l.headD z else treeBy f z n (level f z l)

theorem length_level {α : Type} (f : α → α → α) (z : α) (l : List α) : (level f z l).length = (l.length + 1) / 2 := by
  simp [level]

theorem treeBy_fuel {α : Type} (f : α → α → α) (z : α) : ∀ (n m : Nat) (l : List α), l.length ≤ n → l.length ≤ m →
    treeBy f z n l = treeBy f z m l
  | 0, 0, _, _, _ => rfl
  | 0, m + 1, l, h, _ => by simp [treeBy, show l.length < 2 by omega]
  | n + 1, 0, l, _, h => by simp [treeBy, show l.length < 2 by omega]
  | n + 1, m + 1, l, hn, hm => by
    simp only [treeBy]
    split
    · rfl
    · exact treeBy_fuel f z n m _ (by rw [length_level]; omega) (by rw [length_level]; omega)

theorem wit_IsTree {α : Type} (f : α → α → α) (z : α) : IsTree f z fun l => treeBy f z l.length l := by
  refine ⟨fun x => by simp [treeBy], fun l h => ?_⟩
  obtain ⟨n, hn⟩ : ∃ n, l.length = n + 1 := ⟨l.length - 1, by omega⟩
  simp only [hn, treeBy, show ¬(n + 1 < 2) by omega, if_false]
  exact treeBy_fuel f z _ _ _ (by rw [length_level]; omega) (Nat.le_refl _)

/-- A queue of tenant 0 with an entry that the Reel has not read; an entry that the Reel refuses, and one that it dispatches,
with its launch record, its object and the page table that maps them. -/
def queued1 : State := { task with queues := task.queues.set (queueSlot (.host 0 0)) { Queue.reset with en := true, tail := 1 } }
def entry (bad : Bool) : Entry :=
  { queue := .host 0 0, lrec := 0x2000, deadline := 0, compl := 0x6000, tier := 0, reserved := bad, seq := 1,
    arrival := 0, readAt := 0 }
def pending (bad : Bool) : State :=
  let s := words task 0 [1 + 2 ^ 36]
  let s := words s 0x1000 [0xF]
  let s := words s 0x2000 [0x3000, 1]
  let s := words s 0x3000 [0x4B4F4B48 + 2 ^ 32 + 2 ^ 48, 0x4000]
  let s := words s 0x4000 [1 + 9 * 2 ^ 8 + 11 * 2 ^ 16, 0, 0, 0x5000, 1]
  let s := words s 0x5000 [0x40000]
  { s with reel := { s.reel with pending := [entry bad] } }

theorem wit_ReelEvents : (State.reset.hostRoute.get 0).toNat < 768 ∧
    entryWaits (mgmtFirst queued1) ((mgmtFirst queued1).queues.get (queueSlot (.host 0 0))) = true ∧
    (queued1.tenants.get (queueTenant (.host 0 0))).state ≠ 2 ∧
    (queued1.queues.get (queueSlot (.host 0 0))).en = true ∧
    (∀ b ∈ [false, true], (pending b).reel.next ≤ (pending b).clock ∧ pickEntry (pending b) = some (entry b) ∧
      (pending b).reel.pending ≠ []) ∧
    State.reset.boot ≠ .recovery ∧ { State.reset with boot := .recovery }.boot = .recovery ∧
    (planEntry (pending true) (entry true)).1 = .refuse 4 none ∧ slotsLeft (pending false) 0 = true ∧
    freeSlot { pending false with ftsize := 0, futs := [(0, { Fut.reset with st := .pending })] } = none ∧
    dispatchCore { pending false with tenants := Vector.replicate 16 { someTenant with clusters := 0 } } 0 = none ∧
    (match planEntry (pending false) (entry false) with
     | (.run _ _ pc, t) => pc == 0x40000 && t.futs.isEmpty && dispatchCore t 0 == some 0
     | _ => false) = true := by decide +kernel

/-- Entries of tiers 0 and 3, the one of tier 3 first, and 15 dispatches to other tiers since the last to tier 3. -/
def tiers (now : Word) : State :=
  let s := pending false
  { s with devtime := now, reel := { s.reel with since3 := 15, pending := [{ entry false with tier := 3 }, entry false] } }

/-- R392, R393: the entry of tier 3 goes before once it has waited 1 ms, and Since3 starts again; the root of an entry starts
on core 0. -/
theorem wit_ReelEvents_pick : (pickEntry (tiers 999999)).map (·.tier) = some 0 ∧
    (pickEntry (tiers 1000000)).map (·.tier) = some 3 ∧
    (match allocFut (planEntry (pending false) (entry false)).2 0 with
     | some (_, u) => saves (makeRoom 5 u 0 1024)
     | none => false) = true ∧ dispatchCore State.reset 0 = none ∧
    (match execDispatch (tiers 1000000) with
     | .next t => t.reel.since3 == 0 && t.reel.pending == [entry false]
     | _ => false) = true := by decide +kernel

/-- R391: of two entries read in one cycle that of the lower host stands first. -/
theorem test_arrival_order : insertEntry (entry false) [{ entry true with readAt := 1 }, { entry true with queue := .host 1 0 }] =
    [{ entry true with readAt := 1 }, entry false, { entry true with queue := .host 1 0 }] := by decide +kernel

/-- A launch that has ended, and a tenant that drains with nothing left. -/
def ended : State :=
  let l : Launch := { queue := .host 0 0, seq := 1, compl := 0x10300, deadline := 0, dispatched := 0, root := 9,
                      cancelled := false, ended := some 0 }
  { task with reel := { task.reel with launches := [l] } }
def drained : State := { State.reset with tenants := State.reset.tenants.set (3 : Fin 16) { someTenant with state := 2 } }

theorem wit_ReelEvents_more : (ended.reel.launches.find? fun l => l.root = 9 && l.ended.isSome).isSome = true ∧
    tenantWaits ended 0 = true ∧ tenantWaits drained 3 = false ∧
    (drained.tenants.get 3).state = 2 ∧ tenantRuns drained 3 = false ∧ tenantJobs drained 3 = false ∧
    (drained.tenants.get (queueTenant (.host 0 3))).state = 2 := by decide +kernel

/-- A range of memory opened to host 0. -/
def opened : State := { State.reset with opened := [(0, 0, 0x1000)] }

/-- R19, R186, R190: a write of a host to an opened range of a TCM leaves its bytes, where WRPA of the port writes them. -/
theorem test_bar2_tcm :
    (physWrite false State.reset 0 tcmBase [5]).mem = [] ∧ memGet (physWrite true State.reset 0 tcmBase [5]).mem tcmBase = 5 := by
  decide +kernel

theorem wit_ManagementEvents : openedTo opened 0 (0 * 2 ^ 36 + 8) 4 = true ∧ openedTo opened 0 (0 * 2 ^ 36 + 0x1000) 4 = false ∧
    3 ≤ (7 : Fin 8).val ∧ (2 : Fin 8).val < 3 ∧ ctlBase ≤ (0x8200000000 : BitVec 40).toNat ∧
    (0x8200000000 : BitVec 40).toNat < ctlEnd ∧ State.reset.boot = .off ∧ State.reset.cpu.id < 768 ∧
    0 * 2 ^ 36 + 8 < ctlBase ∧ Memory.wf opened.mem = true ∧ inSram (tcmBase + 8) = true ∧
    State.reset.boot ≠ .recovery ∧ State.reset.firmware = false ∧ { State.reset with firmware := true }.firmware = true := by
  decide +kernel

/-- R191, R402: boot writes the future table to zero under key slot 0, and nothing outside it. -/
theorem test_zero_table :
    let t := zeroTable { task with ftbase := 0x10000, mem := [(8, 9), (0x10000, 5)], keys := task.keys.set (0 : Fin 64) 7 }
    t.mem = [(8, 9)] ∧ keyOf t (0x10000 / 128) = 7 ∧ keyOf t 0 = 0 := by decide +kernel

/-- A core that the Spedy port has halted with its task, and one that it has halted in the handler. -/
def spedy : State := { haltCore task with debugOk := true }
def spedyIn : State := { haltCore inSys with debugOk := true }

theorem wit_DebugPort : State.reset.debugOk = false ∧ spedy.debugOk = true ∧ isHalted (coreAt spedy 0) = true ∧
    (coreAt spedy 0).who = .idle ∧ (coreAt spedy 0).trapped.isSome = true ∧ spedy.boot ≠ .recovery ∧
    isHalted (coreAt spedyIn 0) = true ∧ (coreAt spedyIn 0).who ≠ .idle ∧ (0x7FFFFFFFFF : BitVec 40).toNat + 0 < hbmEnd ∧
    inSram ((0x7FFFFFFFFF : BitVec 40).toNat + 1) = true ∧ Memory.wf spedy.mem = true ∧
    (futAt { spedy with futs := [(3, { Fut.reset with st := .block, held := [7] })] } 3).st = .block ∧
    (0x1000 : BitVec 40).toNat + 8 ≤ hbmEnd := by
  decide +kernel

/-- R427: a task that HALT has stopped on its core ends at a RUN with FAIL, and goes on at one without. -/
theorem test_run_fail :
    let s := modCpu task fun c => { c with halt := .halted }
    (runCore s true).cpu.who = .idle ∧ (runCore s false).cpu.who = .task := by decide +kernel

/-- R103, R143: of changed bytes of a record the reserved bit of `fst` reads 0, and GN is a number of groups. -/
theorem test_rec_clamps :
    let r := trappedRec task task.cpu.live 0
    let q := recOf r (((recImage r).set 28 0xFF).set 37 0x74)
    fstRead q.ctx.fst = 0xF0 ∧ q.ctx.gn = 4 := by decide +kernel

/-- The set of the line of 0x10000 full of four other lines, dirty or clean. -/
def fullSet (dirty : Bool) : State :=
  let at_ (n : Nat) : List L1Line := cached.cpu.l1.map fun l => { l with line := 0x200 + 128 * n, dirty := if dirty then l.dirty else 0 }
  modCpu task fun c => { c with l1 := at_ 1 ++ at_ 2 ++ at_ 3 ++ at_ 4 }

theorem wit_CachedStoreFrame_full : ∀ d ∈ [false, true], (∀ l ∈ (fullSet d).cpu.l1, l.line ≠ 0x10000 / 128) ∧
    4 ≤ ((fullSet d).cpu.l1.filter fun l => l.line % 128 = 0x10000 / 128 % 128).length ∧
    keyOf (fullSet d) (0x10000 / 128) = (fullSet d).keys.get 0 ∧
    (∀ l ∈ (fullSet d).cpu.l1, l.dirty ≠ 0 → keyOf (fullSet d) l.line = (fullSet d).keys.get l.key) ∧
    (fullSet d).memOk ∧ (fullSet d).cpu.l1.any (·.dirty != 0) = d := by
  unfold State.memOk; decide +kernel

/-- The task's handler at READY: with room, with a ring that is full, held there or not yet, and with a Woodshed that no
page holds; and at a return whose task needs two groups of a cluster that has one. -/
def readying : State := acting 2
def unready : State := modCpu readying fun c => { c with ctxlim := 1, recs := crowded.cpu.recs }
def ungranted : State :=
  let s := modCluster inSys 0 fun k => { k with marks := 0xFE }
  modCpu s fun c => { c with trapped := c.trapped.map fun x => { x with need := 2 } }

/-- How room is found for the record of the trapped task. -/
def roomFor (s : State) : Option Saved :=
  s.cpu.trapped.map fun c =>
    let ctx := exempted c (s.cpu.dctl.getLsbD 1)
    let h := s.cpu.sys
    makeRoom (s.cpu.recs.length + 1) s s.cpu.id (recBytes
      { ctx := { ctx with pc := h.tepc, holdAt := if h.tepc = c.pc then c.holdAt else none }
        st := .ready, wait := .none, forced := true, liveG := BitVec.allOnes 64
        liveK := if c.need = 0 then 0 else BitVec.allOnes 7, liveV := c.need != 0, order := s.clock, since := s.clock
        steal := false, atPoint := false, spill := none, due := false, poison := s.cpu.trapPoison })

/-- Whether a save finds room, meets a full ring, or a page that fails. -/
inductive Room | ok | full | fault deriving DecidableEq
def roomOf : Saved → Room
  | .ok _ => .ok
  | .full => .full
  | .fault _ => .fault

theorem wit_TrapReturn_ready : (∀ s ∈ [readying, noSpace readying, modCpu (noSpace readying) fun c => { c with hold := .eret },
      unready, ungranted], Runs (sysAttr 0) .eret s ∧ inHandler s = true ∧ s.cpu.sys.tepc.toNat % 4 = 0 ∧ s.cpu.sys.nest = false ∧
      s.cpu.sys.idle = false ∧ s.cpu.sys.tact.getLsbD 0 = false ∧ s.cpu.trapped.isSome = true) ∧
    readying.cpu.sys.tact.getLsbD 1 = true ∧ ungranted.cpu.sys.tact.getLsbD 1 = false ∧
    ungranted.cpu.trapped.map (fun c => canGrant ungranted 0 c.need) = some false ∧
    (roomFor readying).map roomOf = some .ok ∧ (roomFor ungranted).map roomOf = some .ok ∧
    (roomFor (noSpace readying)).map roomOf = some .full ∧ (roomFor unready).map roomOf = some .fault ∧
    (noSpace readying).cpu.hold ≠ .eret := by
  refine ⟨fun s hs => ?_, by decide +kernel⟩
  simp only [List.mem_cons, List.not_mem_nil, or_false] at hs
  rcases hs with rfl | rfl | rfl | rfl | rfl <;> exact ⟨runs_of (by decide +kernel), by decide +kernel⟩

/-- With no record anywhere and no gate, the end of a task drops the handles on its held list alone. -/
theorem drops_of {s : State} (h : s.cpu.recs = []) (p : s.parked = []) (g : s.gates = []) (l : List Word) : EndDrops s l (· ∈ l) := by
  refine ⟨fun _ h => h, fun n r hr => ?_, fun x hx => by rw [g] at hx; cases hx⟩
  unfold coreAt at hr
  split at hr
  · rw [h] at hr; cases hr
  · rw [p] at hr; cases hr

/-- The trapped task, of a pending future, with a reference to another, at FAIL. -/
def failEret : State :=
  let s := takeTrap (holding .pending) 0x0F 1
  modCpu s fun c => { c with sys := { c.sys with tact := 1 } }

theorem wit_TrapReturn_fail : Runs (sysAttr 0) .eret failEret ∧ inHandler failEret = true ∧ failEret.cpu.sys.tepc.toNat % 4 = 0 ∧
    failEret.cpu.sys.nest = false ∧ failEret.cpu.sys.idle = false ∧ failEret.cpu.sys.tact.getLsbD 0 = true ∧
    failEret.cpu.trapped.map (fun c => (hDev c.tself, hGen c.tself, c.held)) = some (failEret.devid, (entryAt failEret 5).gen, [6]) ∧
    failEret.cpu.trapped.map (·.tself) = some 5 ∧ (entryAt failEret 5).st = .pending ∧
    EndDrops failEret [6] (· ∈ ([6] : List Word)) ∧ ¬SameFuture 6 5 := by
  refine ⟨runs_of (by decide +kernel), by decide +kernel, by decide +kernel, by decide +kernel, by decide +kernel,
    by decide +kernel, by decide +kernel, by decide +kernel, by decide +kernel,
    drops_of (by decide +kernel) (by decide +kernel) (by decide +kernel) [6], by unfold SameFuture; decide +kernel⟩

/-- A core whose records may not take one more, with a Woodshed whose pages the system page table holds. -/
def evicting (s : State) : State :=
  modCpu (words (words s 0 [1 + 2 ^ 36]) 0x1000 [0x2F]) fun c => { c with ctxlim := 1, recs := crowded.cpu.recs, wsbase := 0x100000 }

/-- The spawner with no room for its record, its ring full or its Woodshed held by no page. -/
def unroomed : State := modCpu parent fun c => { c with ctxlim := 1, recs := crowded.cpu.recs }

theorem wit_SpawnEffects_room :
    (∀ s ∈ [noSpace parent, unroomed, evicting parent], reclaimable s = false ∧ heldHere s = false ∧
      Runs (taskAttr true) (.spawn 7 2 0) s ∧ MaySpawn s 2 0) ∧
    (let room (s : State) := roomOf (makeRoom (s.cpu.recs.length + 1) s s.cpu.id (recBytes (continuation (setG s 7 0))))
     room (noSpace parent) = .full ∧ room unroomed = .fault ∧ room (evicting parent) = .ok) ∧
    FitsCache parent.cpu 1024 ∧ ¬FitsCache unroomed.cpu 1024 ∧ victim parent parent.cpu none = none ∧
    (victim unroomed unroomed.cpu none).isSome = true ∧
    (∀ r ∈ crowded.cpu.recs, roomOf (evict (noSpace parent) 0 r) = .full ∧ roomOf (evict unroomed 0 r) = .fault ∧
      roomOf (evict (evicting parent) 0 r) = .ok) := by
  refine ⟨fun s hs => ?_, by decide +kernel, by unfold FitsCache; decide +kernel, by unfold FitsCache; decide +kernel,
    by decide +kernel, by decide +kernel, by decide +kernel⟩
  simp only [List.mem_cons, List.not_mem_nil, or_false] at hs
  rcases hs with rfl | rfl | rfl <;>
    exact ⟨by decide +kernel, by decide +kernel, runs_of (by decide +kernel), maySpawn_of (by decide +kernel)⟩

/-- How the save of a wait's context finds room. -/
def waitRoom (s : State) (b : Reg) (kl : BitVec 7) (vs signalled : Bool) (wt : Wait) : Room :=
  roomOf (saveRec s (coopRec s (retire s).cpu.live (reg s b) kl (liveState (reg s b) kl vs)
    (if signalled then .ready else .suspended) wt false))

/-- The task that holds a settled future, with a cooperative request of a higher class. -/
def asking : State := modCpu (holding .resolved) fun c => { c with preMode := 1, preClass := 3 }

theorem wit_WaitInstructions_preempt : Cooperates asking ∧ ¬Cooperates (holding .resolved) ∧
    reclaimable asking = false ∧ heldHere asking = false ∧ Runs (taskAttr true) (.await 7 5 2 1 true) asking ∧
    Runs (taskAttr true) (.yield 2 0 false) asking ∧ settled asking (reg asking 5) = true ∧ othersReady asking = false ∧
    handleHeld asking asking.cpu.live (reg asking 5) = true ∧
    waitRoom asking 2 1 true true (.future 6 7) = .ok ∧ waitRoom (noSpace asking) 2 1 true true (.future 6 7) = .full ∧
    waitRoom (modCpu asking fun c => { c with ctxlim := 1, recs := crowded.cpu.recs }) 2 1 true true (.future 6 7) = .fault := by
  exact ⟨by decide +kernel, by decide +kernel, by decide +kernel, by decide +kernel, runs_of (by decide +kernel),
    runs_of (by decide +kernel), by decide +kernel, by decide +kernel, by decide +kernel, by decide +kernel,
    by decide +kernel, by decide +kernel⟩

/-- R386: the request acts at the wait, though its future is settled: the context is saved as ready and the core is idle. -/
theorem test_cooperates : after asking (.await 7 5 2 1 true) (fun t => t.cpu.who == .idle && t.cpu.preMode == 0 &&
      t.cpu.recs.map (·.st) == [.ready]) = true ∧
    after (holding .resolved) (.await 7 5 2 1 true) (fun t => t.cpu.who == .task && t.cpu.live.pc == 0x1004) = true := by
  decide +kernel

/-- How the save of a VSETLW's context finds room. -/
def stripRoom (s : State) : Room :=
  let t := setLength s (reg s 2).toNat 2
  roomOf (saveRec t (forcedRec t { t.cpu.live with stepDue := false } .suspended
    (.strip (.hbm 0x10000 0) ((reg s 3).toNat + t.cpu.live.vec.vl)) false true))

theorem wit_VectorLength_room : (∀ s ∈ [task, asked 1 3, noSpace task, crowded], reclaimable s = false ∧ heldHere s = false ∧
      Runs (lengthAttr true) (.vsetlw 3 2 1 2) s ∧ discarded s = false ∧ (∃ p u, Reaches s .read (reg s 1).toNat 8 p u)) ∧
    stripRoom task = .ok ∧ stripRoom (asked 1 3) = .ok ∧ stripRoom (noSpace task) = .full ∧ stripRoom crowded = .fault ∧
    Cooperates (asked 1 3) ∧ ¬Cooperates task := by
  refine ⟨fun s hs => ?_, by decide +kernel⟩
  simp only [List.mem_cons, List.not_mem_nil, or_false] at hs
  rcases hs with rfl | rfl | rfl | rfl <;>
    exact ⟨by decide +kernel, by decide +kernel, runs_of (by decide +kernel), by decide +kernel, reaches_of (by decide +kernel)⟩

/-- R103, R104: eight elements of 32 bits get one lane group, 100 get two, and with the groups of the cluster marked one. -/
theorem test_grant : bridle (withG task 2 8) 8 32 = 1 ∧ bridle task 100 32 = 2 ∧ bridle task 2048 32 = 8 ∧
    bridle (modCluster task 0 fun k => { k with marks := 0xFE }) 2048 32 = 1 ∧
    bridle (modCluster task 0 fun k => { k with marks := 0xF0 }) 2048 32 = 4 := by decide +kernel

/-- A vector state image with one header field out of its range. -/
def badImages : List State :=
  [words lanes 0x10018 [2 ^ 40], words lanes 0x10018 [2 ^ 41 + 2 ^ 48], words vsaved 0x10020 [17], words vsaved 0x10000 [257],
   words vsaved 0x10008 [2048]]
def refuses (s : State) : Bool := badImage s (memTake s.mem 0x10000 64)

theorem wit_VectorStateInstructions_refused : badImages.all refuses = true ∧ refuses vsaved = false ∧
    refuses (words vsaved 0x10000 [256]) = false ∧
    refuses (words vsaved 0x10008 [2047]) = false := by decide +kernel

/-- Conversions that write their source, directly or by the copy of their prefix, before a save that would stop them. -/
def copied : State := cutting 1 (withPfx (packed .fp32) { v := true, pg := 0, ps := false, pd := 1, pc := true, pk := 0 })

theorem wit_VectorConversions_overwrites : Overwrites (cutting 1 (packed .fp32)) 1 1 ∧ Overwrites copied 3 1 ∧
    ¬Overwrites (cutting 1 (packed .fp32)) 3 1 ∧ cutAt copied 1 = some 1 ∧ cutAt (cutting 1 (packed .fp32)) 1 = some 1 ∧
    efOk .fp32 .bf16 = true ∧ Begins (vecAttr .copyV) true true copied ∧
    Overwrites (cutting 1 lanes) 2 2 ∧ ¬Overwrites (cutting 1 lanes) 3 2 := by
  exact ⟨by unfold Overwrites; decide +kernel, by unfold Overwrites; decide +kernel, by unfold Overwrites; decide +kernel,
    by decide +kernel, by decide +kernel, by decide +kernel, begins_of (by decide +kernel), by unfold Overwrites; decide +kernel,
    by unfold Overwrites; decide +kernel⟩

/-- The task with no element, the source of a conversion tagged. -/
def noElements : State := modVec (packed .fp32) fun v => { v with vl := 0 }

theorem wit_VectorConversions_none : (vreg noElements 1).tag = some .fp32 ∧ Fits noElements [tyBits .bf16, tyBits .fp32] ∧
    noElements.cpu.live.vec.vl = 0 ∧ cutAt noElements 1 = none ∧ Begins (vecAttr .copyV) true true noElements ∧
    Begins pairAttr true true noElements := by
  exact ⟨by decide +kernel, fits_of (by decide +kernel), by decide +kernel, by decide +kernel, begins_of (by decide +kernel),
    begins_of (by decide +kernel)⟩

/-- R55, R152: a conversion whose copy writes its source runs to its end though a save would stop it, and one that writes
another register stops. -/
theorem test_copied_source : after copied (.vcvt 3 1 .bf16 0 .ef) (fun t => t.cpu.live.pc == 0x1004 && vreg t 1 == vreg t 3) = true ∧
    after (cutting 1 (packed .fp32)) (.vcvt 3 1 .bf16 0 .ef) (fun t => t.cpu.live.pc == 0x1000 && t.cpu.live.vec.vbeg == 1) = true := by
  decide +kernel

/-- An idle core with its ready context in a Woodshed that the system page table holds, its pc there as it was written or
another. -/
def shedded (pc : Nat) : State :=
  modCpu (words (evicting ready) 0x100010 [pc]) fun c => { c with
    recs := ready.cpu.recs.map fun r =>
      { r with forced := false, liveG := 0, liveK := 0, liveV := false, spill := some 0, ctx := { r.ctx with gn := 0 } }
    shed := [{ off := 0, len := 128, live := true }] }

/-- What the refetch of the one record of an idle core reads: whether its slot translates, whether its bytes are those that
it was evicted with, and the pc that it comes back with. -/
def readsBack (s : State) : Option (Bool × Bool × Word) :=
  s.cpu.recs.head?.bind fun r => r.spill.map fun off =>
    let n := slotLen (coreAt s 0) off
    let read := (shedRead 0 (n / 64 + 1) s (s.cpu.wsbase.toNat + off) n).1
    (read.isSome, ((read.getD []).drop 16).take (recImage r).length == recImage r, (fromShed s 0 r).1.ctx.pc)

/-- R258, R263: a record comes back as its bytes in the Woodshed give it. -/
theorem wit_SchedulingEvents_shed : readsBack (shedded 0x1000) = some (true, true, 0x1000) ∧
    readsBack (shedded 0x4444) = some (true, false, 0x4444) := by decide +kernel

/-- One that is read back has its grant. -/
theorem wit_SchedulingEvents_granted : ((spilled false).cpu.recs.all fun r => match refetch (spilled false) r with
    | some u => (u.cpu.recs.find? fun x => x.ctx.tself = r.ctx.tself).any fun q => canGrant u u.cpu.id q.ctx.need
    | none => false) = true := by decide +kernel

/-- A task in the retry latch on core 0, of a pending future, behind a queued instruction or not, at a scalar load. -/
def latchedTask (older : Bool) : State :=
  let s := holding .pending
  let e : VEntry := { word := wordOf (.ld 7 1 .d 0), pc := 0x1000, cap0 := none, cap1 := none, pfx := Pfx.none, once := false,
                      stores := [] }
  let c := { s.cpu.live with latch := some e, latchQ := false, viq := if older then (behind []).cpu.live.viq else [] }
  modCpu s fun k => { k with who := .idle, recs := [forcedRec s c .latched .none false false] }

theorem wit_FaultServiceEvents_latched : (∀ b ∈ [false, true],
      stuckAt (latchedTask b) 0 5 = .latched ∧
      (latchedTask b).cpu.recs.map (fun r => (r.ctx.tself, r.ctx.held, r.ctx.latch.isSome, r.ctx.latchQ, r.ctx.viq.isEmpty)) =
        [(5, [6], true, false, !b)]) ∧
    hDev 5 = (latchedTask false).devid ∧ hGen 5 = (entryAt (latchedTask false) 5).gen ∧
    (entryAt (latchedTask false) 5).st = .pending ∧ ¬SameFuture 6 5 ∧ (latchedTask false).gates = [] := by
  unfold SameFuture; decide +kernel

/-- The handle of that task is in no record's held list, so its end drops the handle it holds alone. -/
theorem wit_FaultServiceEvents_drops : EndDrops (latchedTask false) [6] (· ∈ ([6] : List Word)) := by
  refine ⟨fun _ h => h, fun n r hr hd => ?_, fun g hg => ?_⟩
  · unfold coreAt at hr
    split at hr
    · have e : (latchedTask false).cpu.recs.map (·.ctx.tself) = [5] := by decide +kernel
      have hm := List.mem_map_of_mem (f := fun r : Rec => r.ctx.tself) hr
      rw [e, List.mem_singleton] at hm
      rw [hm] at hd; exact absurd hd (by decide)
    · have p : (latchedTask false).parked = [] := by decide +kernel
      rw [p] at hr; cases hr
  · have e : (latchedTask false).gates = [] := by decide +kernel
    rw [e] at hg; cases hg

/-- R249, R385: FAIL of a task whose instruction is the oldest settles its future at once; behind a queued one it leaves the
task ready, to fail at its instruction. -/
theorem test_fail_stuck : (futAt (failStuck (latchedTask false) 0 5 0 9) 5).st = .failed ∧
    (futAt (failStuck (latchedTask true) 0 5 0 9) 5).st = .pending ∧
    (failStuck (latchedTask true) 0 5 0 9).cpu.recs.map (fun r => (r.st, r.ctx.failWith)) = [(.ready, some 9)] := by
  decide +kernel

/-- Futures that a peer may observe: of this device, settled or not. -/
theorem wit_TransferEvents_observe : (∀ st ∈ [FutState.resolved, .failed], hDev 6 = (holding st).devid ∧
      handleNames (holding st) 6 = true ∧ settled (holding st) 6 = true) ∧
    handleNames (holding .pending) 6 = true ∧ settled (holding .pending) 6 = false ∧
    handleNames (holding .resolved) 7 = false ∧ hDev 0x40000000000005 ≠ (holding .resolved).devid := by decide +kernel

/-- R228, R271: the peer that takes a settled future is told its value and drops its reference. -/
theorem test_observe : ((peerObserves (setFut task 6 { Fut.reset with st := .resolved, count := 1, result := 7 }) 6 true).answer ==
      [7, 0, 0, 0, 0, 0, 0, 0, 1] &&
    (futAt (peerObserves (setFut task 6 { Fut.reset with st := .resolved, count := 1 }) 6 true) 6).st == .free) = true := by
  decide +kernel

/-- Launches that have ended, of which one was cancelled. -/
def cancelledToo : State :=
  { ended with reel := { ended.reel with launches := ended.reel.launches.map fun l => { l with cancelled := true } } }

theorem wit_ReelEvents_cancelled :
    ((ended.reel.launches.find? fun l => l.root = 9 && l.ended.isSome).map (·.cancelled)) = some false ∧
    ((cancelledToo.reel.launches.find? fun l => l.root = 9 && l.ended.isSome).map (·.cancelled)) = some true := by
  decide +kernel

/-- R426, R402: the port answers in RECOVERY once it is authorized, and not before. -/
theorem wit_DebugPort_recovery : { spedy with boot := .recovery }.debugOk = true ∧
    { spedy with boot := .recovery, debugOk := false }.debugOk = false := by decide +kernel

/-- Entries that a dispatch refuses or cannot serve, one for each reason. -/
def plansAs (s : State) (e : Entry) : Nat :=
  match (planEntry s e).1 with
  | .refuse st none => st
  | .refuse st (some _) => 100 + st
  | .run _ _ _ => 0
def pendingOk : State := pending false
def goodEntry : Entry := entry false

theorem wit_ReelEvents_refused : [{ goodEntry with lrec := 8 }, { goodEntry with compl := 0x6008 }].map (plansAs pendingOk) = [4, 4] ∧
    (reelPlace pendingOk 0 .write 0x40000000).1 = none ∧ (reelRead pendingOk 0 0x40000000 64).1 = none := by decide +kernel

theorem wit_ReelEvents_record : [words pendingOk 0x2008 [0], words pendingOk 0x3000 [0]].map (plansAs · goodEntry) = [104, 104] := by
  decide +kernel

theorem wit_ReelEvents_image : plansAs (words pendingOk 0x4000 [0]) goodEntry = 102 ∧
    (readImages pendingOk 0 0x40000000 1).1 = none := by decide +kernel

/-- The placed word that a step runs. -/
def placed : State := State.reset.withFetchWord 32 0x0842FFF8

theorem wit_StepRunsDecoded : Issues placed { tenant := 0, line := 1, words := lineWith 0x40 0x0842FFF8 }
    (.addi 2 2 0xFFF8) ∧ stepping placed = false := by
  exact ⟨⟨rfl, rfl, rfl, by decide +kernel, by decide +kernel, by decide +kernel, by decide +kernel, by decide +kernel, rfl,
    rfl, rfl, by decide +kernel, by decide +kernel, by decide +kernel, by decide +kernel, by decide +kernel⟩,
    by decide +kernel⟩

theorem wit_StepRunsDecoded_stepped : stepping stepped = true := by decide +kernel

/-- The placed state with its instruction waiting, and held, at its place. -/
def waits : State := modCpu placed fun c => { c with stall := some { since := 0, desc := none, word := some 0x0842FFF8 } }
def holds : State :=
  modCpu placed fun c => { c with hold := .wait, live := { c.live with holdAt := some { heldAt false with word := 0x0842FFF8 } } }

theorem wit_StepRunsDecoded_again : Reissues waits 0x0842FFF8 (.addi 2 2 0xFFF8) ∧ Reissues holds 0x0842FFF8 (.addi 2 2 0xFFF8) := by
  refine ⟨⟨rfl, rfl, rfl, by decide +kernel, by decide +kernel, by decide +kernel, by decide +kernel, by decide +kernel,
    .inl ⟨_, rfl, rfl⟩, fun _ _ => ⟨by decide +kernel, ?_⟩, rfl, rfl, by decide +kernel⟩,
    ⟨rfl, rfl, rfl, by decide +kernel, by decide +kernel, by decide +kernel, by decide +kernel, by decide +kernel,
    .inr ⟨rfl, by decide +kernel, _, rfl, rfl⟩, fun h => absurd rfl h, rfl, rfl, by decide +kernel⟩⟩
  have h : (nextJob waits).isNone = true := by decide +kernel
  exact Option.isNone_iff_eq_none.mp h

/-- The same, waiting at an engine. -/
def waitsThere : State := modCpu waits fun c => { c with stall := some { since := 0, desc := some [], word := some 0x0842FFF8 } }

theorem wit_StepRunsDecoded_engine : Reissues waitsThere 0x0842FFF8 (.addi 2 2 0xFFF8) := by
  exact ⟨rfl, rfl, rfl, by decide +kernel, by decide +kernel, by decide +kernel, by decide +kernel, by decide +kernel,
    .inl ⟨_, rfl, rfl⟩, fun _ h => absurd h (by decide +kernel), rfl, rfl, by decide +kernel⟩

/-- R377, R419: a load that takes ALIGN was issued, and counts. -/
theorem test_counts_trap : (match execLd 7 4 .d 0 task with
    | .next t => t.cpu.who == .sys && (noted (.ld 7 4 .d 0) task t).cpu.counters.get 0 == 1
    | _ => false) = true := by decide +kernel

theorem wit_EncodeDecode : WellFormed (.vmv .vi 31 0 31 7) = true ∧ encode (.vmv .vi 31 0 31 7) = some 0xE6F83FC4 := by
  decide +kernel

theorem wit_DecodeEncode : 0xE6F83FC4 < 2 ^ 32 ∧ decode 0xE6F83FC4 = .ok (.vmv .vi 31 0 31 7) := by decide +kernel

theorem wit_StepKeepsMemoryForm : placed.memOk ∧ goesOn (step placed) := by
  unfold State.memOk goesOn
  refine ⟨by decide +kernel, ?_⟩
  have h : (match step placed with
    | .next _ => true
    | _ => false) = true := by decide +kernel
  split at h
  · next t ht => exact ⟨t, ht⟩
  · cases h

theorem reset_inv : State.reset.memOk := by unfold State.memOk; decide

end Sys2Proof.Tests
end

section
/-!
SUPPORT. What MFS reads of a special register after an MTS of a value: the fields of the registers, the context and the
trap registers that a register acts on, and what the writes that reach memory or a cluster leave alone.
-/

namespace Sys2Proof.Machine

/-- A field of a written value at its place, with every other bit zero (R6). -/
def fieldOf (v : Word) (lo len : Nat) : Word := BitVec.ofNat 64 (bits v.toNat lo len * 2 ^ lo)

theorem bits_zero (x len : Nat) : bits x 0 len = x % 2 ^ len := by simp [bits]

/-- A register of k bits that is loaded from a value reads as the value's low k bits. -/
theorem setWidth_ofNat_eq_fieldOf (k : Nat) (v : Word) :
    (BitVec.ofNat k v.toNat).setWidth 64 = fieldOf v 0 k := by
  apply BitVec.eq_of_toNat_eq
  simp [fieldOf, bits_zero]

theorem w_mod_eq_fieldOf (v : Word) (k : Nat) : w (v.toNat % 2 ^ k) = fieldOf v 0 k := by
  simp [fieldOf, bits_zero, w]

/-- A rounding mode that names no mode reads RNE, and bit 3 reads zero (R143, R144). -/
theorem fstRead_fstWrite (v : Word) :
    fstRead (fstWrite v) = (if bits v.toNat 0 3 < 5 then fieldOf v 0 3 else 0) + fieldOf v 4 5 := by
  apply BitVec.eq_of_toNat_eq
  by_cases h : v.toNat % 8 < 5
  · simp [fstRead, fstWrite, fieldOf, bits, h, Nat.not_le.mpr h, BitVec.toNat_add]; omega
  · simp [fstRead, fstWrite, fieldOf, bits, h, Nat.not_lt.mp h]; omega

/-- The image of a latch is the number that it was loaded from (R58). -/
theorem pfxBits_pfxOf (n : Nat) : pfxBits (pfxOf n) = n % 2 ^ 16 := by
  simp only [pfxBits, pfxOf, bits, Fin.ofNat, Nat.toNat_testBit]
  omega

/-! The context and the trap registers that a register acts on (R370, R371). -/

section
variable {s : State} (f : Ctx → Ctx) (g : Handler → Handler)

/-- A context is there for the registers of R370's list: a task's own, or in a handler the trapped one. -/
def HasView (s : State) : Prop := s.cpu.who = .task ∨ (trappedCtx s).isSome

theorem trappedCtx_sys {c : Ctx} (hw : s.cpu.who = .sys) (hi : s.cpu.sys.idle = false) (hc : s.cpu.trapped = some c) :
    trappedCtx s = some c := by
  simp [trappedCtx, handlerOf, inHandler, hw, hi, hc]

/-- Under NEST the context of the system handler changes, with none trapped none does, and else the trapped one. -/
theorem modView_handler (h : s.cpu.who ≠ .task) :
    (s.cpu.who = .fw ∧ (handlerOf s).nest = true ∧
      modView s f = modCpu s fun c => { c with sys := { c.sys with ctx := f c.sys.ctx } }) ∨
    (¬(s.cpu.who = .fw ∧ (handlerOf s).nest = true) ∧ (inHandler s && (handlerOf s).idle) = true ∧ modView s f = s) ∨
    (¬(s.cpu.who = .fw ∧ (handlerOf s).nest = true) ∧ (inHandler s && (handlerOf s).idle) = false ∧
      modView s f = modCpu s fun c => { c with trapped := c.trapped.map f }) := by
  by_cases hn : s.cpu.who = .fw ∧ (handlerOf s).nest = true
  · exact .inl ⟨hn.1, hn.2, by simp [modView, hn]⟩
  · cases hi : inHandler s && (handlerOf s).idle with
    | true => exact .inr (.inl ⟨hn, rfl, by simp [modView, h, hn, hi]⟩)
    | false => exact .inr (.inr ⟨hn, rfl, by simp [modView, h, hn, hi]⟩)

theorem modView_task (h : s.cpu.who = .task) : modView s f = modLive s f := if_pos h

theorem viewCtx_task (h : s.cpu.who = .task) : viewCtx s = s.cpu.live := if_pos h

/-- A write that acts on a context leaves the level and its trap registers as they are. -/
@[simp] theorem modView_who : (modView s f).cpu.who = s.cpu.who := by
  by_cases hw : s.cpu.who = .task
  · rw [modView_task f hw]; rfl
  · obtain ⟨-, -, e⟩ | ⟨-, -, e⟩ | ⟨-, -, e⟩ := modView_handler f hw <;> rw [e] <;> rfl

@[simp] theorem handlerOf_modView : handlerOf (modView s f) = handlerOf s := by
  by_cases hw : s.cpu.who = .task
  · rw [modView_task f hw]; rfl
  · obtain ⟨hf, -, e⟩ | ⟨-, -, e⟩ | ⟨-, -, e⟩ := modView_handler f hw
    · rw [e]; simp [handlerOf, hf]
    · rw [e]
    · rw [e]; rfl

/-- In a handler the trapped context is the one that a write acts on. -/
theorem trappedCtx_modView (h : s.cpu.who ≠ .task) : trappedCtx (modView s f) = (trappedCtx s).map f := by
  have hh : inHandler (modView s f) = inHandler s := by simp [inHandler]
  unfold trappedCtx
  simp only [handlerOf_modView, modView_who, hh]
  obtain ⟨hf, hn, e⟩ | ⟨hn, hi, e⟩ | ⟨hn, hi, e⟩ := modView_handler f h
  · simp [hf, hn, e]
  · simp [hn, hi]
  · simp [hn, hi, e]

/-- The context that a register acts on is the one that it reads. -/
theorem viewCtx_modView (h : HasView s) : viewCtx (modView s f) = f (viewCtx s) := by
  by_cases hw : s.cpu.who = .task
  · rw [modView_task f hw, viewCtx_task hw, viewCtx_task (by exact hw)]; rfl
  · obtain ⟨c, hc⟩ := Option.isSome_iff_exists.mp (h.resolve_left hw)
    simp [viewCtx, hw, trappedCtx_modView f hw, hc]

/-- The trap registers that a write acts on are those that it reads. -/
theorem handlerOf_modHandler : handlerOf (modHandler s g) = g (handlerOf s) := by
  unfold handlerOf modHandler
  simp only [modCpu_cpu]
  split <;> simp_all

@[simp] theorem modHandler_priv : (modHandler s g).cpu.priv = s.cpu.priv := by
  simp only [modHandler, modCpu_cpu]; split <;> rfl

end

/-! Writes at the home, which change memory alone (R189, R191, R403). -/

/-- A state that differs in memory at most, with the keys and the poison marks of its lines. -/
def SameButMemory (s t : State) : Prop :=
  t = { s with mem := t.mem, lineKey := t.lineKey, poison := t.poison }

theorem SameButMemory.trans {s t u : State} (h : SameButMemory s t) (h' : SameButMemory t u) : SameButMemory s u := by
  unfold SameButMemory at *; rw [h', h]

theorem SameButMemory.foldl {α : Type} {f : State → α → State} (h : ∀ s a, SameButMemory s (f s a)) (l : List α)
    (s : State) : SameButMemory s (l.foldl f s) := by
  induction l generalizing s with
  | nil => rfl
  | cons a l ih => exact (h s a).trans (ih _)

theorem touchLine_sameButMemory (s : State) (k : Fin 64) (l : Nat) : SameButMemory s (touchLine s k l) := by
  unfold touchLine; dsimp only; split <;> rfl

theorem writePhys_sameButMemory (s : State) (k : Fin 64) (pa : Nat) (bs : List Byte) :
    SameButMemory s (writePhys s k pa bs) :=
  (SameButMemory.foldl (fun s l => touchLine_sameButMemory s k l) _ s).trans rfl

theorem flushLine_sameButMemory (s : State) (l : L1Line) : SameButMemory s (flushLine s l) :=
  SameButMemory.foldl (fun s i => by split <;> [exact writePhys_sameButMemory ..; rfl]) _ s

theorem SameButMemory.cpu_eq {s t : State} (h : SameButMemory s t) : t.cpu = s.cpu := by rw [h]
theorem SameButMemory.clusters_eq {s t : State} (h : SameButMemory s t) : t.clusters = s.clusters := by rw [h]
theorem SameButMemory.soot_eq {s t : State} (h : SameButMemory s t) : t.soot = s.soot := by rw [h]

theorem modCore_clusters (s : State) (n : Nat) (f : Core → Core) : (modCore s n f).clusters = s.clusters := by
  unfold modCore setCore; split <;> rfl

theorem modCore_id (s : State) (n : Nat) (f : Core → Core) : (modCore s n f).cpu.id = s.cpu.id := by
  unfold modCore setCore
  split
  · next h => exact h.symm
  · rfl

/-- The write-back of dirty lines leaves the clusters and the core's number (R187). -/
theorem writeBack_clusters (s : State) (n : Nat) : (writeBack s n).clusters = s.clusters :=
  (modCore_clusters ..).trans (SameButMemory.foldl flushLine_sameButMemory _ s).clusters_eq

@[simp] theorem writeBack_id (s : State) (n : Nat) : (writeBack s n).cpu.id = s.cpu.id :=
  (modCore_id ..).trans (congrArg Core.id (SameButMemory.foldl flushLine_sameButMemory _ s).cpu_eq)

/-! A cluster after a change, and an acknowledgement (R371, R385). -/

@[simp] theorem clusterAt_modCluster (s : State) (n : Nat) (f : Cluster → Cluster) :
    clusterAt (modCluster s n f) n = f (clusterAt s n) := by
  simp [clusterAt, modCluster, setCluster, find_put]

@[simp] theorem modCluster_cpu (s : State) (n : Nat) (f : Cluster → Cluster) : (modCluster s n f).cpu = s.cpu := rfl

end Sys2Proof.Machine
end

section
/-!
PROOF. The fields of every special register after a write, group by group in the order of the maps.
-/

namespace Sys2Proof.Machine

variable (s : State) (v : Word)

/-! The vector registers, `fst` and `pfxl` (R58, R116, R117, R143, R144). -/

section
variable {s} (h : HasView s)
include h

theorem vbeg_written : readSpr (writeSpr s .vbeg v) .vbeg = w (min v.toNat 2047) :=
  congrArg (fun c : Ctx => w c.vec.vbeg) (viewCtx_modView _ h)

theorem vred_written : readSpr (writeSpr s .vred v) .vred = v :=
  congrArg (fun c : Ctx => c.vec.vred) (viewCtx_modView _ h)

theorem efr_written : readSpr (writeSpr s .efr v) .efr = fieldOf v 0 32 := by
  rw [← setWidth_ofNat_eq_fieldOf 32 v]
  exact congrArg (fun c : Ctx => c.vec.efr.setWidth 64) (viewCtx_modView _ h)

theorem fst_written :
    readSpr (writeSpr s .fst v) .fst = (if bits v.toNat 0 3 < 5 then fieldOf v 0 3 else 0) + fieldOf v 4 5 := by
  rw [← fstRead_fstWrite]
  exact congrArg (fun c : Ctx => fstRead c.fst) (viewCtx_modView _ h)

end

theorem pfxl_written_task (h : s.cpu.who = .task) : readSpr (writeSpr s .pfxl v) .pfxl = 0 := by
  have hw : writeSpr s .pfxl v = s := if_pos h
  rw [hw]
  exact if_pos h

theorem pfxl_written_trapped (h : s.cpu.who ≠ .task) (hc : (trappedCtx s).isSome) :
    readSpr (writeSpr s .pfxl v) .pfxl = fieldOf v 0 16 := by
  have hw : writeSpr s .pfxl v = modView s fun c => { c with pfx := pfxOf (v.toNat % 2 ^ 16) } := if_neg h
  have hr : readSpr (writeSpr s .pfxl v) .pfxl = w (pfxBits (viewCtx (writeSpr s .pfxl v)).pfx) :=
    if_neg (by rw [hw, modView_who]; exact h)
  rw [hr, hw, viewCtx_modView _ (.inr hc), pfxBits_pfxOf, Nat.mod_mod, w_mod_eq_fieldOf]

theorem vslip_written : readSpr (writeSpr s .vslip v) .vslip = fieldOf v 0 4 := w_mod_eq_fieldOf v 4

/-! The registers of the running task (R192, R231). -/

section
variable {s} (h : s.cpu.who = .task)
include h

theorem modTask_task (f : Ctx → Ctx) : modTask s f = modLive s f := if_neg (by simp [h])

theorem taskCtx_task : taskCtx s = s.cpu.live := if_neg (by simp [h])

theorem taskCtx_modTask (f : Ctx → Ctx) : taskCtx (modTask s f) = f s.cpu.live := by
  rw [modTask_task h]; exact taskCtx_task (s := modLive s f) h

theorem tidx_written : readSpr (writeSpr s .tidx v) .tidx = fieldOf v 0 7 := by
  rw [← setWidth_ofNat_eq_fieldOf 7 v]
  exact congrArg (fun c : Ctx => c.tidx.setWidth 64) (taskCtx_modTask h _)

theorem tprio_written : readSpr (writeSpr s .tprio v) .tprio =
    w (min (bits v.toNat 0 2) s.cpu.live.limit + s.cpu.live.limit * 4 + min (bits v.toNat 0 2) s.cpu.live.limit * 16) := by
  rw [bits_zero]
  exact congrArg (fun c : Ctx => w (c.cls + c.limit * 4 + c.cls * 16)) (taskCtx_modTask h _)

end

/-- `ptroot` is the ROOT of the tenant of the context whose task registers are read (R192, R387). -/
theorem ptroot_written : readSpr (writeSpr s .ptroot v) .ptroot = fieldOf v 16 24 := by
  have hg : ∀ x, (s.tenants.set (taskCtx s).tenant x).get (taskCtx s).tenant = x :=
    fun x => Vector.getElem_set_self _
  show w (bits ((s.tenants.set (taskCtx s).tenant _).get (taskCtx s).tenant).root.toNat 16 24 * 2 ^ 16) = _
  rw [hg]
  simp only [w, bits, BitVec.toNat_ofNat]
  refine congrArg (BitVec.ofNat 64) ?_
  rw [bits]
  omega

/-! The context and Woodshed registers (R231). -/

theorem tquant_written : readSpr (writeSpr s .tquant v) .tquant = w (max 256 (bits v.toNat 0 24)) := by
  rw [bits_zero]; rfl

theorem ctxlim_written : readSpr (writeSpr s .ctxlim v) .ctxlim = w (lim 1 64 (bits v.toNat 0 7)) := by
  rw [bits_zero]; rfl

theorem ftsize_written : readSpr (writeSpr s .ftsize v) .ftsize = w (lim 16 30 (bits v.toNat 0 5)) := by
  rw [bits_zero]; rfl

/-- A write of one to PRESS clears it, and USED and HOLD are read only. -/
theorem wsstat_written : readSpr (writeSpr s .wsstat v) .wsstat = w (ringUsed s.cpu +
    (s.cpu.press && !v.getLsbD 32).toNat * 2 ^ 32 + (s.cpu.hold = .wait || s.cpu.hold = .eret).toNat * 2 ^ 33) := by
  cases hb : v.getLsbD 32 with
  | false =>
    have hw : writeSpr s .wsstat v = s := if_neg (ne_true_of_eq_false hb)
    rw [hw, Bool.not_false, Bool.and_true]; rfl
  | true =>
    have hw : writeSpr s .wsstat v = modCpu s fun c => { c with press := false } := if_pos hb
    rw [hw, Bool.not_true, Bool.and_false]; rfl

/-! The trap registers (R371). -/

theorem tcause_written : readSpr (writeSpr s .tcause v) .tcause = fieldOf v 0 9 := by
  rw [← setWidth_ofNat_eq_fieldOf 9 v]
  exact congrArg (fun h : Handler => h.tcause.setWidth 64) (handlerOf_modHandler _)

theorem tval_written : readSpr (writeSpr s .tval v) .tval = v := congrArg Handler.tval (handlerOf_modHandler _)

theorem tepc_written : readSpr (writeSpr s .tepc v) .tepc = v := congrArg Handler.tepc (handlerOf_modHandler _)

theorem tsel_written : readSpr (writeSpr s .tsel v) .tsel = fieldOf v 0 6 := by
  rw [← setWidth_ofNat_eq_fieldOf 6 v]
  exact congrArg (fun h : Handler => h.tsel.setWidth 64) (handlerOf_modHandler _)

theorem tact_written : readSpr (writeSpr s .tact v) .tact = fieldOf v 0 2 := by
  rw [← setWidth_ofNat_eq_fieldOf 2 v]
  exact congrArg (fun h : Handler => h.tact.setWidth 64) (handlerOf_modHandler _)

/-- TPRIV alone of `tstatus` is written. -/
theorem tstatus_written : readSpr (writeSpr s .tstatus v) .tstatus = w (s.cpu.priv.toNat + bits v.toNat 2 2 * 4 +
    (handlerOf s).nest.toNat * 16 + (handlerOf s).idle.toNat * 32) := by
  have hw : writeSpr s .tstatus v = modHandler s fun h => { h with tpriv := BitVec.ofNat 2 (v.toNat / 4) } := rfl
  have hr : ∀ t, readSpr t .tstatus = w (t.cpu.priv.toNat + (handlerOf t).tpriv.toNat * 4 +
    (handlerOf t).nest.toNat * 16 + (handlerOf t).idle.toNat * 32) := fun _ => rfl
  rw [hr, hw, modHandler_priv, handlerOf_modHandler, BitVec.toNat_ofNat]
  rfl

/-! `tgval`, by `tsel` (R371). -/

section
variable {s} {c : Ctx} (hc : trappedCtx s = some c)
include hc

/-- For a g register, `tgval` is that register of the trapped context. -/
theorem tgval_written_register (hw : s.cpu.who ≠ .task) (h0 : 0 < (handlerOf s).tsel.toNat)
    (h1 : (handlerOf s).tsel.toNat < 32) : readSpr (writeSpr s .tgval v) .tgval = v := by
  have hs : writeSpr s .tgval v = modView s fun c => { c with g := c.g.set (Fin.ofNat 32 (handlerOf s).tsel.toNat) v } :=
    if_pos (by simp [h0, h1])
  show readTgval (writeSpr s .tgval v) = v
  rw [hs]
  simp [readTgval, trappedCtx_modView _ hw, hc, h1, h0.ne', Vector.get_eq_getElem]

/-- For anything else a write has no effect: `tgval` reads the handle, the tenant or 0. -/
theorem tgval_written_other (h : (handlerOf s).tsel.toNat = 0 ∨ 31 < (handlerOf s).tsel.toNat) :
    readSpr (writeSpr s .tgval v) .tgval = if (handlerOf s).tsel.toNat = 32 then c.tself
      else if (handlerOf s).tsel.toNat = 33 then w c.tenant.val else 0 := by
  have hs : writeSpr s .tgval v = s := if_neg (by simp; omega)
  show readTgval (writeSpr s .tgval v) = _
  rw [hs]
  unfold readTgval
  rw [hc]
  obtain h | h := h
  · simp [h]
  · simp [show (handlerOf s).tsel.toNat ≠ 0 by omega, show ¬(handlerOf s).tsel.toNat < 32 by omega]

end

/-! `fsring` and `fsack` (R371, R385). -/

theorem fsring_written : readSpr (writeSpr s .fsring v) .fsring =
    w (lim 4 16 (bits v.toNat 0 5) + bits v.toNat 12 28 * 2 ^ 12) := by
  rw [bits_zero]
  exact congrArg (fun k : Cluster => w (k.fsLog + k.fsBase)) (clusterAt_modCluster ..)

/-- What `fsack` reads in a cluster. -/
def ackWord (k : Cluster) : Word := w (k.ackSeq.toNat + k.ackAction.toNat * 2 ^ 32 + k.ackErr.toNat * 2 ^ 63)

theorem readSpr_fsack : readSpr s .fsack = ackWord (clusterAt s (clusterOf s.cpu.id)) := rfl

theorem clusterAt_writeBack (core n : Nat) : clusterAt (writeBack s core) n = clusterAt s n := by
  unfold clusterAt; rw [writeBack_clusters]

theorem writeSpr_fsack : writeSpr s .fsack v =
    acknowledge (writeBack s s.cpu.id) (clusterOf s.cpu.id) (v.toNat % 2 ^ 32) (bits v.toNat 32 2) := rfl

/-- An acknowledgement of no outstanding record, or of a reserved action, sets ERR alone. -/
theorem acknowledge_refused (n seq action : Nat)
    (h : (clusterAt s n).outstanding.find? (fun p => p.1 = seq) = none ∨ action = 3) :
    acknowledge s n seq action = modCluster s n fun k => { k with ackErr := true } := by
  unfold acknowledge
  split
  · rfl
  · next hf => rw [if_pos (h.resolve_left (by rw [hf]; simp))]

/-- An acknowledgement of a record that is of no task notes itself and frees the record's slot. -/
theorem acknowledge_other {n seq action : Nat} {r : FaultRec}
    (hf : (clusterAt s n).outstanding.find? (fun p => p.1 = seq) = some (seq, r)) (ho : r.owner = .other)
    (ha : action ≠ 3) : acknowledge s n seq action = freeSlotSeq (modCluster s n fun k =>
      { k with ackSeq := BitVec.ofNat 32 seq, ackAction := BitVec.ofNat 2 action, ackErr := false }) n seq := by
  unfold acknowledge
  rw [hf]
  simp [ho, ha]

theorem fsack_written {r : FaultRec} (hf : (clusterAt s (clusterOf s.cpu.id)).outstanding.find?
      (fun p => p.1 = bits v.toNat 0 32) = some (bits v.toNat 0 32, r))
    (ho : r.owner = .other) (ha : bits v.toNat 32 2 ≠ 3) : readSpr (writeSpr s .fsack v) .fsack = fieldOf v 0 34 := by
  rw [bits_zero] at hf
  rw [writeSpr_fsack, acknowledge_other _ (by rw [clusterAt_writeBack]; exact hf) ho ha, readSpr_fsack]
  simp only [freeSlotSeq, modCluster_cpu, writeBack_id, clusterAt_modCluster]
  simp only [ackWord, bits, BitVec.toNat_ofNat, Bool.toNat_false]
  refine congrArg (BitVec.ofNat 64) ?_
  rw [bits]
  omega

theorem fsack_refused (h : (clusterAt s (clusterOf s.cpu.id)).outstanding.find?
      (fun p => p.1 = bits v.toNat 0 32) = none ∨ bits v.toNat 32 2 = 3) :
    readSpr (writeSpr s .fsack v) .fsack = w ((clusterAt s (clusterOf s.cpu.id)).ackSeq.toNat +
      (clusterAt s (clusterOf s.cpu.id)).ackAction.toNat * 2 ^ 32 + 2 ^ 63) := by
  rw [bits_zero] at h
  rw [writeSpr_fsack, acknowledge_refused _ _ _ _ (by rw [clusterAt_writeBack]; exact h), readSpr_fsack]
  simp only [modCluster_cpu, writeBack_id, clusterAt_modCluster, clusterAt_writeBack]
  simp [ackWord]

/-! The debug registers (R409). -/

theorem dctl_written : readSpr (writeSpr s .dctl v) .dctl = fieldOf v 0 6 := setWidth_ofNat_eq_fieldOf 6 v

theorem dbten_written : readSpr (writeSpr s .dbten v) .dbten = fieldOf v 0 5 := setWidth_ofNat_eq_fieldOf 5 v

theorem dstep_written : readSpr (writeSpr s .dstep v) .dstep = fieldOf v 0 1 := by
  rw [← w_mod_eq_fieldOf, Nat.pow_one, ← Nat.div_one v.toNat]
  exact congrArg w (Nat.toNat_testBit v.toNat 0)

/-- A write of one to bit 4 of `dstat` clears it, and the others are read only. -/
theorem dstat_written : readSpr (writeSpr s .dstat v) .dstat =
    (if v.getLsbD 4 then s.cpu.dstat &&& 0x0F else s.cpu.dstat).setWidth 64 := by
  cases hb : v.getLsbD 4 with
  | false =>
    have hw : writeSpr s .dstat v = s := if_neg (ne_true_of_eq_false hb)
    rw [hw]; rfl
  | true =>
    have hw : writeSpr s .dstat v = modCpu s fun c => { c with dstat := c.dstat &&& 0x0F } := if_pos hb
    rw [hw]; rfl

section
variable (i : Fin 4)

theorem groupOfSpr_indexed : ∀ i : Fin 4, groupOfSpr (.ibrk i) = .debug ∧ groupOfSpr (.wtch i) = .debug ∧
    groupOfSpr (.wctl i) = .debug := by decide

theorem readSpr_debug {r : Spr} (h : groupOfSpr r = .debug) : readSpr s r = readDebug s r := by rw [readSpr, h]

theorem writeSpr_debug {r : Spr} (h : groupOfSpr r = .debug) : writeSpr s r v = writeDebug s r v := by
  rw [writeSpr, h]

theorem ibrk_written : readSpr (writeSpr s (.ibrk i) v) (.ibrk i) = v := by
  have h := (groupOfSpr_indexed i).1
  rw [writeSpr_debug _ _ h, readSpr_debug _ h]; exact Vector.getElem_set_self _

theorem wtch_written : readSpr (writeSpr s (.wtch i) v) (.wtch i) = v &&& ~~~7 := by
  have h := (groupOfSpr_indexed i).2.1
  rw [writeSpr_debug _ _ h, readSpr_debug _ h]; exact Vector.getElem_set_self _

theorem wctl_written : readSpr (writeSpr s (.wctl i) v) (.wctl i) =
    w (bits v.toNat 0 4 + lim 3 31 (bits v.toNat 4 5) * 16) := by
  have h := (groupOfSpr_indexed i).2.2
  rw [writeSpr_debug _ _ h, readSpr_debug _ h, bits_zero]
  have hl : lim 3 31 (bits v.toNat 4 5) ≤ 31 := by unfold lim; omega
  show ((s.dbg.wctl.set i _).get i).setWidth 64 = _
  rw [show ∀ x, (s.dbg.wctl.set i x).get i = x from fun _ => Vector.getElem_set_self _]
  apply BitVec.eq_of_toNat_eq
  simp [w]
  omega

end

theorem trring_written : readSpr (writeSpr s .trring v) .trring =
    w (lim 6 20 (bits v.toNat 0 5) + bits v.toNat 12 28 * 2 ^ 12) := by
  rw [bits_zero]; rfl

/-- The selection of `drsel`, which the selected entry's own fields stand beside. -/
theorem drsel_written_select :
    bits (readSpr (writeSpr s .drsel v) .drsel).toNat 0 4 = bits v.toNat 0 4 := by
  have hr : ∃ e : Option Draught, readSpr (writeSpr s .drsel v) .drsel =
    w ((BitVec.ofNat 4 v.toNat).toNat + (e.map fun e => e.tenant.val * 256 + 4096).getD 0) := ⟨_, rfl⟩
  obtain ⟨e, hr⟩ := hr
  rw [hr]
  cases e with
  | none => simp [bits, w]
  | some e => simp [bits, w]; omega

variable {s} in
/-- With an empty entry selected, `drsel` reads its selection alone. -/
theorem readSpr_drsel_none (h : s.cpu.draughts.get (Fin.ofNat 16 s.cpu.drsel.toNat) = none) :
    readSpr s .drsel = w s.cpu.drsel.toNat := by
  show w (_ + (Option.map _ (s.cpu.draughts.get _)).getD 0) = _
  rw [h]
  rfl

/-- CLR of `drsel` leaves no entry to select and nothing lost. -/
theorem drsel_written_clear (h : v.getLsbD 4 = true) : readSpr (writeSpr s .drsel v) .drsel = fieldOf v 0 4 ∧
    readSpr (writeSpr s .drsel v) .drlost = 0 := by
  have hw : writeSpr s .drsel v = modCpu s fun c =>
      { c with drsel := BitVec.ofNat 4 v.toNat, draughts := Vector.replicate 16 none, drlost := 0 } := by
    have hb : v.toNat.testBit 4 = true := h
    show writeDrsel s v.toNat = _
    simp [writeDrsel, hb]
  rw [hw]
  refine ⟨?_, rfl⟩
  rw [readSpr_drsel_none (Vector.getElem_replicate _), modCpu_cpu, BitVec.toNat_ofNat]
  exact w_mod_eq_fieldOf v 4

/-- The fields of `soot` are set, also where a starting log clears slot 0 of each slice in memory (R409, R422). -/
theorem writeSoot_fields (n : Nat) :
    (writeSoot s n).soot.en = n.testBit 0 ∧ (writeSoot s n).soot.replay = n.testBit 1 ∧
    (writeSoot s n).soot.log2 = lim 8 24 (bits n 2 5) ∧ (writeSoot s n).soot.base = bits n 12 28 * 2 ^ 12 := by
  unfold writeSoot
  dsimp only
  split
  · rw [(SameButMemory.foldl (fun t i => writePhys_sameButMemory ..) _ _).soot_eq]
    exact ⟨rfl, rfl, rfl, rfl⟩
  · exact ⟨rfl, rfl, rfl, rfl⟩

theorem soot_written : readSpr (writeSpr s .soot v) .soot =
    w (bits v.toNat 0 2 + lim 8 24 (bits v.toNat 2 5) * 4 + bits v.toNat 12 28 * 2 ^ 12) := by
  obtain ⟨hen, hreplay, hlog2, hbase⟩ := writeSoot_fields s v.toNat
  show w ((writeSoot s v.toNat).soot.en.toNat + (writeSoot s v.toNat).soot.replay.toNat * 2 +
    (writeSoot s v.toNat).soot.log2 * 4 + (writeSoot s v.toNat).soot.base) = _
  rw [hen, hreplay, hlog2, hbase, Nat.toNat_testBit, Nat.toNat_testBit]
  congr 3
  simp only [bits]
  omega

/-- The special registers that are read only (R6). -/
def readOnlySprs : List Spr :=
  [.vl, .vgrant, .vwidth, .vqlen, .tself, .tlevel, .thold, .tcmbase, .cspbase, .tenant, .kbind, .cpstat, .podcfg,
    .rmtstat, .tevc, .tpend, .cycle, .devtime, .coreid, .clusterid, .devid, .wear, .islst, .drprod, .drcons, .drcyc,
    .drlost]

/-- A write of a register that is read only changes nothing (R6). -/
theorem writeSpr_readOnly : ∀ r ∈ readOnlySprs, writeSpr s r v = s := by
  simp only [readOnlySprs, List.forall_mem_cons, List.not_mem_nil, false_imp_iff, implies_true, and_true]
  and_intros <;> rfl

/-- Settles O20: each register by its field lemma; one that holds what it reads, as `ftbase`
or `tvec`, reads it by computation. -/
theorem specialRegisterFields : Obligations.SpecialRegisterFields := by
  intro s v i
  refine ⟨fun hw => ?task, fun hw hi c hc => ?handler, vslip_written s v, tquant_written s v, ctxlim_written s v, rfl,
    ftsize_written s v, rfl, rfl, rfl, wsstat_written s v, fun _ => ptroot_written s v, tcause_written s v,
    tval_written s v, tepc_written s v, rfl, rfl, tstatus_written s v, tsel_written s v, tact_written s v, rfl,
    fsring_written s v, fun _ => fsack_written s v, fsack_refused s v, dctl_written s v, rfl, dstep_written s v,
    dbten_written s v, ibrk_written s v i, dstat_written s v, wtch_written s v i, wctl_written s v i, rfl,
    trring_written s v, drsel_written_select s v, drsel_written_clear s v, soot_written s v, rfl, writeSpr_readOnly s v⟩
  case task =>
    have hv : HasView s := .inl hw
    exact ⟨vbeg_written v hv, vred_written v hv, efr_written v hv, tidx_written v hw, fst_written v hv,
      pfxl_written_task s v hw, tprio_written v hw⟩
  case handler =>
    have ht := trappedCtx_sys hw hi hc
    have hn : s.cpu.who ≠ .task := by simp [hw]
    have hsel : (handlerOf s).tsel = s.cpu.sys.tsel := by simp [handlerOf, hw]
    have hs : (trappedCtx s).isSome := by simp [ht]
    have hv : HasView s := .inr hs
    refine ⟨vbeg_written v hv, vred_written v hv, efr_written v hv, fst_written v hv,
      pfxl_written_trapped s v hn hs, ?_, ?_, ?_, ?_⟩ <;> rw [← hsel]
    · exact tgval_written_register v ht hn
    · exact fun h => (tgval_written_other v ht (.inr (by omega))).trans (if_pos h)
    · exact fun h => (tgval_written_other v ht (.inr (by omega))).trans (by simp [h, w])
    · exact fun h => (tgval_written_other v ht (by omega)).trans (by rw [if_neg (by omega), if_neg (by omega)])

end Sys2Proof.Machine
end

section
/-!
SUPPORT. The memory form: a lemma `f_mem` says that the operation `f` leaves the memory as it is, a lemma `f_wf` that it
keeps the memory's canonical form. They stand in the order of the model's definitions, and each proof cites the lemmas
of the operations that its definition calls.
-/

namespace Sys2Proof.Machine

variable {s t : State}

/-- A fold over operations that leave the memory as it is. -/
theorem foldl_mem {α : Type} {f : State → α → State} (hf : ∀ t a, (f t a).mem = t.mem) (l : List α) (s : State) :
    (l.foldl f s).mem = s.mem :=
  List.foldlRecOn (motive := fun t : State => t.mem = s.mem) l f rfl fun t ht a _ => (hf t a).trans ht

/-- A fold over operations that keep the memory's form. -/
theorem foldl_wf {α : Type} {f : State → α → State} (hf : ∀ t a, Memory.wf t.mem → Memory.wf (f t a).mem)
    (l : List α) (hs : Memory.wf s.mem) : Memory.wf (l.foldl f s).mem :=
  List.foldlRecOn (motive := fun t : State => Memory.wf t.mem = true) l f hs fun t ht a _ => hf t a ht

/-- Dropping listed bytes, as a reset of a range does, keeps the form. -/
theorem risingFrom_filter {lo : Nat} {m : List Host.Cell} (p : Host.Cell → Bool) (hm : risingFrom lo m = true) :
    risingFrom lo (m.filter p) = true := by
  induction m generalizing lo with
  | nil => rfl
  | cons c m ih =>
    obtain ⟨k, b⟩ := c
    simp only [risingFrom, Bool.and_eq_true, decide_eq_true_eq] at hm
    obtain ⟨⟨hk, hb⟩, hm⟩ := hm
    by_cases hp : p (k, b)
    · rw [List.filter_cons_of_pos hp]
      simp only [risingFrom, Bool.and_eq_true, decide_eq_true_eq]
      exact ⟨⟨hk, hb⟩, ih hm⟩
    · rw [List.filter_cons_of_neg hp]
      exact ih (risingFrom_mono (Nat.le_succ_of_le hk) hm)

/-- The invariant of an outcome: a next state has the memory in its form, and a fault or a refusal leaves nothing to
show. -/
def OutWf (o : Out) : Prop := ∀ t, o = .next t → Memory.wf t.mem = true

@[simp] theorem outWf_next : OutWf (.next t) ↔ Memory.wf t.mem = true := by simp [OutWf]

@[simp] theorem outWf_fault {r} : OutWf (.fault r) := by simp [OutWf]

@[simp] theorem outWf_refused {r} : OutWf (.refused r) := by simp [OutWf]

/-- The state that an access leaves, whether it has a value or stops. -/
def Acc.state {α : Type} : Acc α → State
  | .ok _ s => s
  | .stop s => s

end Sys2Proof.Machine
end

section
/-!
SUPPORT. The memory form and the state's operations: caches, page walks, futures, records, traces and launches.
-/

namespace Sys2Proof.Machine

variable {s t : State}

@[simp] theorem setCore_mem {c} : (setCore s c).mem = s.mem := by
  unfold setCore; split <;> rfl

@[simp] theorem modCore_mem {f : Core → Core} {n} : (modCore s n f).mem = s.mem := by
  unfold modCore; simp

@[simp] theorem turnTo_mem {n} : (turnTo s n).mem = s.mem := by
  unfold turnTo; split <;> rfl

theorem onCore_wf {f : State → State} {n} (hs : Memory.wf s.mem) (hf : ∀ u, Memory.wf u.mem → Memory.wf (f u).mem) :
    Memory.wf (onCore s n f).mem := by
  unfold onCore
  rw [turnTo_mem]
  exact hf _ (by rwa [turnTo_mem])

@[simp] theorem setCluster_mem {n c} : (setCluster s n c).mem = s.mem := rfl

@[simp] theorem modCluster_mem {f : Cluster → Cluster} {n} : (modCluster s n f).mem = s.mem := rfl

@[simp] theorem bump_mem {i} : (bump s i).mem = s.mem := rfl

theorem readPhys_wf {k pa n} (hs : Memory.wf s.mem) : Memory.wf (readPhys s k pa n).2.mem := touch_wf k pa n hs

theorem flushLine_wf {l} (hs : Memory.wf s.mem) : Memory.wf (flushLine s l).mem :=
  foldl_wf (fun _ _ ht => by split <;> [exact writePhys_wf _ _ _ ht; exact ht]) _ hs

theorem writeBack_wf {core} (hs : Memory.wf s.mem) : Memory.wf (writeBack s core).mem := by
  unfold writeBack
  rw [modCore_mem]
  exact foldl_wf (fun _ _ => flushLine_wf) _ hs

theorem writeBackIf_wf {p : ℕ → Bool} {core} (hs : Memory.wf s.mem) : Memory.wf (writeBackIf s core p).mem := by
  unfold writeBackIf; grind only [writeBack_wf]

@[simp] theorem invalidate_mem {core} : (invalidate s core).mem = s.mem := by
  unfold invalidate; simp

theorem l1Room_wf {line} (hs : Memory.wf s.mem) : Memory.wf (l1Room s line).mem := by
  unfold l1Room; grind only [writeBack_wf, modCpu_mem]

theorem l1Rekey_wf {k line} (hs : Memory.wf s.mem) : Memory.wf (l1Rekey s k line).mem := by
  unfold l1Rekey; grind only [modCpu_mem, writeBack_wf]

theorem l1Load_wf {k stream pa n} (hs : Memory.wf s.mem) : Memory.wf (l1Load s k stream pa n).2.mem := by
  unfold l1Load; grind only [l1Rekey_wf, bump_mem, readPhys_wf, modCpu_mem, l1Room_wf]

theorem storeFill_wf {k line} (hs : Memory.wf s.mem) : Memory.wf (storeFill s k line).2.mem := by
  unfold storeFill; grind only [bump_mem, l1Room_wf, readPhys_wf]

theorem l1Store_wf {k pa bs} (hs : Memory.wf s.mem) : Memory.wf (l1Store s k pa bs).mem := by
  unfold l1Store; grind only [l1Rekey_wf, modCpu_mem, storeFill_wf]

theorem streamStore_wf {k pa bs} (hs : Memory.wf s.mem) : Memory.wf (streamStore s k pa bs).mem := by
  unfold streamStore; grind only [writePhys_wf, l1Rekey_wf, writeBack_wf, modCpu_mem]

/-- A page walk only reads its entries, and a read is no more than a touch of the line. -/
theorem walk_wf {tenant va ls t} (hs : Memory.wf s.mem) : Memory.wf (walk s tenant va ls t).2.mem := by
  induction ls generalizing s t with
  | nil => exact hs
  | cons l ls ih => unfold walk; grind only [readPhys_wf]

theorem translate_wf {core cl tenant va} (hs : Memory.wf s.mem) :
    Memory.wf (translate s core cl tenant va).2.mem := by
  unfold translate; grind only [modCore_mem, bump_mem, walk_wf, modCluster_mem]

theorem resolveWith_wf {got core home tenant priv pin k va} (hs : Memory.wf s.mem) :
    Memory.wf (resolveWith s got core home tenant priv pin k va).2.2.mem := by
  unfold resolveWith; grind only [translate_wf]

theorem resolve_wf {core home tenant priv pin k va} (hs : Memory.wf s.mem) :
    Memory.wf (resolve s core home tenant priv pin k va).2.mem := by
  unfold resolve; grind only [resolveWith_wf]

@[simp] theorem setFut_mem {slot f} : (setFut s slot f).mem = s.mem := rfl

@[simp] theorem setEntry_mem {hd f} : (setEntry s hd f).mem = s.mem := by
  unfold setEntry; split <;> rfl

@[simp] theorem takeBlocks_mem {n} : (takeBlocks n s).mem = s.mem := by
  induction n generalizing s with
  | zero => rfl
  | succ n ih =>
    unfold takeBlocks
    split
    · exact ih
    · rfl

@[simp] theorem freeBlock_mem {n} : (freeBlock s n).mem = s.mem := rfl

@[simp] theorem fillBlocks_mem : (fillBlocks s).mem = s.mem :=
  foldl_mem (fun t p => by dsimp only; split <;> rfl) _ s

@[simp] theorem settleBlocks_mem : (settleBlocks s).mem = s.mem := by
  unfold settleBlocks
  dsimp only
  rw [fillBlocks_mem]
  split
  · exact takeBlocks_mem
  · exact foldl_mem (fun _ _ => freeBlock_mem) _ s

theorem allocAt_mem {kind slot r} (h : allocAt s kind slot = some r) : r.2.mem = s.mem := by
  cases slot with
  | none => exact absurd h (by simp [allocAt])
  | some n => obtain rfl := Option.some.inj h; rfl

theorem allocFut_mem {kind r} (h : allocFut s kind = some r) : r.2.mem = s.mem := allocAt_mem h

theorem allocToken_mem {kind r} (h : allocToken s kind = some r) : r.2.mem = s.mem := allocAt_mem h

@[simp] theorem noteEnd_mem {slot gen} : (noteEnd s slot gen).mem = s.mem := rfl

@[simp] theorem freeFut_mem {slot} : (freeFut s slot).mem = s.mem := rfl

@[simp] theorem freeEntry_mem {hd} : (freeEntry s hd).mem = s.mem := by
  unfold freeEntry; split <;> simp

@[simp] theorem post_mem {cl r} : (post s cl r).mem = s.mem := rfl

@[simp] theorem signal_mem {h} : (signal s h).mem = s.mem := foldl_mem (fun _ _ => modCore_mem) _ s

@[simp] theorem wakeCounter_mem {pa v} : (wakeCounter s pa v).mem = s.mem := foldl_mem (fun _ _ => modCore_mem) _ s

@[simp] theorem settle_mem {hd failed v} : (settle s hd failed v).mem = s.mem := by
  unfold settle; grind only [noteEnd_mem, signal_mem, setEntry_mem, freeEntry_mem]

@[simp] theorem failGroup_mem {n} : (failGroup s n).mem = s.mem := by
  unfold failGroup
  split
  · rfl
  · dsimp only
    split
    · rfl
    · split
      · exact post_mem
      · exact foldl_mem (fun _ _ => post_mem.trans settle_mem) _ _

theorem shedWrite_wf {core fuel va bs} (hs : Memory.wf s.mem) (h : shedWrite core fuel s va bs = .inr t) :
    Memory.wf t.mem := by
  induction fuel generalizing s va bs with
  | zero => obtain rfl := Sum.inr.inj h; exact hs
  | succ fuel ih => unfold shedWrite at h; grind only [walk_wf, writePhys_wf]

theorem shedRead_wf {core fuel va n} (hs : Memory.wf s.mem) : Memory.wf (shedRead core fuel s va n).2.mem := by
  induction fuel generalizing s va n with
  | zero => exact hs
  | succ fuel ih => unfold shedRead; grind only [walk_wf, readPhys_wf]

theorem takeRec_wf {core hd} (hs : Memory.wf s.mem) : Memory.wf (takeRec s core hd).mem := by
  unfold takeRec; grind only [shedWrite_wf, modCore_mem]

theorem dropOnce_wf {h} (hs : Memory.wf s.mem) : Memory.wf (dropOnce s h).2.mem := by
  unfold dropOnce
  have hf : ∀ u : State, ((List.range 96).foldl (fun t c =>
      if (clusterAt t c).flue.any (fun j => j.token = h) then
        modCluster t c fun k => { k with flue := k.flue.filter fun j => j.token != h }
      else t) u).mem = u.mem := foldl_mem (fun t c => by split <;> rfl) _
  grind only [setEntry_mem, freeEntry_mem, freeFut_mem, setFut_mem, failGroup_mem, takeRec_wf]

theorem dropAll_wf {fuel hs'} (hs : Memory.wf s.mem) : Memory.wf (dropAll fuel hs' s).mem := by
  induction fuel generalizing s hs' with
  | zero => exact hs
  | succ fuel ih =>
    cases hs' with
    | nil => exact hs
    | cons h l => exact ih (dropOnce_wf hs)

@[simp] theorem freedTogether_mem : (freedTogether s t).mem = t.mem := rfl

theorem dropRefs_wf {hds} (hs : Memory.wf s.mem) : Memory.wf (dropRefs s hds).mem := by
  unfold dropRefs; grind only [freedTogether_mem, dropAll_wf]

theorem dropHeld_wf {hd} (hs : Memory.wf s.mem) : Memory.wf (dropHeld s hd).mem := by
  unfold dropHeld; grind only [dropRefs_wf, modLive_mem]

@[simp] theorem setGrant_mem {core gs} : (setGrant s core gs).mem = s.mem := rfl

@[simp] theorem grantTo_mem {n} : (grantTo s n).mem = s.mem := rfl

@[simp] theorem markReady_mem : (markReady s).mem = s.mem :=
  foldl_mem (fun t _ => foldl_mem (fun u r => by split <;> rfl) _ t) _ s

/-- An evicted record leaves by writes to the shed area alone. -/
theorem evict_wf {core r} (hs : Memory.wf s.mem) (h : evict s core r = .ok t) : Memory.wf t.mem := by
  unfold evict at h
  dsimp only at h
  split at h
  · cases h
  · split at h
    · cases h
    · next u hu =>
      have hu : Memory.wf u.mem := by
        split at hu
        · obtain rfl := Sum.inr.inj hu; exact hs
        · exact shedWrite_wf hs hu
      split at h
      · cases h
      · next v hv =>
        obtain rfl := Saved.ok.inj h
        rw [modCore_mem]
        exact shedWrite_wf hu hv

theorem makeRoomFor_wf {incoming fuel core need} (hs : Memory.wf s.mem)
    (h : makeRoomFor incoming fuel s core need = .ok t) : Memory.wf t.mem := by
  induction fuel generalizing s with
  | zero => obtain rfl := Saved.ok.inj h; exact hs
  | succ fuel ih => unfold makeRoomFor at h; grind only [evict_wf]

theorem makeRoom_wf {fuel core need} (hs : Memory.wf s.mem) (h : makeRoom fuel s core need = .ok t) :
    Memory.wf t.mem := makeRoomFor_wf hs h

theorem enterGates_wf (hs : Memory.wf s.mem) : Memory.wf (enterGates s).mem := by
  refine foldl_wf (fun t g ht => ?_) _ hs
  grind only [makeRoom_wf, modCore_mem]

theorem openGates_wf {pa v} (hs : Memory.wf s.mem) : Memory.wf (openGates s pa v).mem := by
  unfold openGates; grind only [enterGates_wf]

theorem counterPoint_wf {pa v} (hs : Memory.wf s.mem) : Memory.wf (counterPoint s pa v).mem := by
  unfold counterPoint; grind only [openGates_wf, wakeCounter_mem]

theorem traceRec_wf {kind cause handle value} (hs : Memory.wf s.mem) :
    Memory.wf (traceRec s kind cause handle value).mem := by
  unfold traceRec; grind only [writePhys_wf, modCpu_mem]

@[simp] theorem unwait_mem : (unwait s).mem = s.mem := by
  unfold unwait; dsimp only; split <;> simp

theorem leaveCoreAt_wf {pc} (hs : Memory.wf s.mem) : Memory.wf (leaveCoreAt s pc).mem := by
  unfold leaveCoreAt; grind only [unwait_mem, traceRec_wf, setGrant_mem, modCpu_mem, bump_mem]

theorem leaveCore_wf (hs : Memory.wf s.mem) : Memory.wf (leaveCore s).mem := by
  unfold leaveCore; grind only [leaveCoreAt_wf]

theorem saveRec_wf {r} (hs : Memory.wf s.mem) (h : saveRec s r = .ok t) : Memory.wf t.mem := by
  unfold saveRec at h
  grind only [makeRoomFor_wf, leaveCoreAt_wf, modCpu_mem]

@[simp] theorem ctlWrite_mem {pa new} : (ctlWrite s pa new).mem = s.mem := by
  unfold ctlWrite; grind only [modCore_mem]

theorem reelPlace_wf {tenant k va} (hs : Memory.wf s.mem) : Memory.wf (reelPlace s tenant k va).2.mem := by
  unfold reelPlace; grind only [walk_wf]

theorem reelBytes_wf {tenant vas} (hs : Memory.wf s.mem) : Memory.wf (reelBytes s tenant vas).2.mem := by
  induction vas generalizing s with
  | nil => exact hs
  | cons va vas ih => unfold reelBytes; grind only [reelPlace_wf, readPhys_wf]

theorem reelRead_wf {tenant va n} (hs : Memory.wf s.mem) : Memory.wf (reelRead s tenant va n).2.mem := by
  unfold reelRead; grind only [reelBytes_wf]

theorem reelWrite_wf {tenant va bs} (hs : Memory.wf s.mem) : Memory.wf (reelWrite s tenant va bs).mem := by
  induction bs generalizing s va with
  | nil => exact hs
  | cons b bs ih => unfold reelWrite; grind only [reelPlace_wf, writePhys_wf]

theorem complete_wf {c} (hs : Memory.wf s.mem) : Memory.wf (complete s c).mem := by
  unfold complete; grind only [reelWrite_wf]

theorem completeAll_wf {cs} (hs : Memory.wf s.mem) : Memory.wf (completeAll s cs).mem :=
  foldl_wf (fun _ _ => complete_wf) _ hs

@[simp] theorem logError_mem {e} : (logError s e).mem = s.mem := by
  unfold logError; grind only [modCore_mem]

theorem goFatal_wf {unit address} (hs : Memory.wf s.mem) : Memory.wf (goFatal s unit address).mem := by
  unfold goFatal; grind only [logError_mem, completeAll_wf]

end Sys2Proof.Machine
end

section
/-!
SUPPORT. The memory form and what the instructions share: operands, accesses, traps, ends of tasks and the front.
-/

namespace Sys2Proof.Machine

variable {s t : State}

@[simp] theorem result_mem {d v} : (result s d v).mem = s.mem := by
  unfold result; dsimp only; split <;> simp

theorem loadAt_wf {stream p n} (hs : Memory.wf s.mem) : Memory.wf (loadAt s stream p n).2.mem := by
  unfold loadAt; grind only [l1Load_wf]

theorem storeAt_wf {stream p bs} (hs : Memory.wf s.mem) : Memory.wf (storeAt s stream p bs).mem := by
  cases p with
  | hbm pa k =>
    unfold storeAt
    dsimp only
    split
    · exact streamStore_wf hs
    · exact l1Store_wf hs
  | sram pa => exact memPut_wf _ _ hs
  | ctl pa => unfold storeAt; rwa [ctlWrite_mem]

theorem performHeld_wf {l} (hs : Memory.wf s.mem) : Memory.wf (performHeld s l).mem :=
  foldl_wf (fun _ _ => storeAt_wf) _ hs

theorem retire_wf (hs : Memory.wf s.mem) : Memory.wf (retire s).mem := by
  unfold retire; grind only [performHeld_wf, modCpu_mem]

@[simp] theorem jump_mem {t} : (jump s t).mem = s.mem := rfl

@[simp] theorem accrue_mem {f} : (accrue s f).mem = s.mem := rfl

/-- A trap taken in the firmware's own context makes the device fatal, whose completions are written to memory. -/
theorem takeTrap_wf {cause tval} (hs : Memory.wf s.mem) : Memory.wf (takeTrap s cause tval).mem := by
  unfold takeTrap; grind only [modCpu_mem, unwait_mem, traceRec_wf, goFatal_wf, bump_mem, setGrant_mem]

theorem trap_wf {cause tval} (hs : Memory.wf s.mem) : Memory.wf (trap s cause tval).mem := by
  unfold trap; grind only [takeTrap_wf]

theorem haltTask_wf {regs : Handler → Handler} (hs : Memory.wf s.mem) : Memory.wf (haltTask s regs).mem := by
  unfold haltTask; grind only [traceRec_wf, unwait_mem, modCpu_mem, bump_mem, setGrant_mem]

theorem debugStop_wf {cause tval idx bhit whit} (hs : Memory.wf s.mem) :
    Memory.wf (debugStop s cause tval idx bhit whit).mem := by
  unfold debugStop; grind only [modCpu_mem, unwait_mem, haltTask_wf, takeTrap_wf]

@[simp] theorem endedOn_mem {core hd} : (endedOn s core hd).mem = s.mem := by
  unfold endedOn; dsimp only; split <;> simp

@[simp] theorem endedHere_mem {hd} : (endedHere s hd).mem = s.mem := by
  unfold endedHere; simp

theorem endTask_wf {failed v} (hs : Memory.wf s.mem) : Memory.wf (endTask s failed v).mem := by
  unfold endTask; grind only [leaveCore_wf, dropRefs_wf, settle_mem, endedHere_mem]

theorem reclaim_wf (hs : Memory.wf s.mem) : Memory.wf (reclaim s).mem := by
  unfold reclaim; grind only [endTask_wf]

@[simp] theorem spillRecord_mem {handle word pc} : (spillRecord s handle word pc).mem = s.mem := rfl

theorem latchTask_wf {entry point cause va k elem word} (hs : Memory.wf s.mem) :
    Memory.wf (latchTask s entry point cause va k elem word).mem := by
  unfold latchTask; grind only [post_mem, saveRec_wf, modCpu_mem, bump_mem, spillRecord_mem]

theorem memFault_wf {i caps cause va k elem} (hs : Memory.wf s.mem) :
    Memory.wf (memFault s i caps cause va k elem).mem := by
  unfold memFault; grind only [latchTask_wf, takeTrap_wf]

@[simp] theorem waitHere_mem : (waitHere s).mem = s.mem := rfl

theorem poisonTask_wf (hs : Memory.wf s.mem) : Memory.wf (poisonTask s).mem := by
  unfold poisonTask; grind only [waitHere_mem, endTask_wf, goFatal_wf]

/-- An access that stops leaves its state; one with a value goes on. -/
theorem Acc.bind_wf {α β : Type} {x : Acc α} {f : α → State → Acc β} (hx : Memory.wf x.state.mem)
    (hf : ∀ a u, Memory.wf u.mem → Memory.wf (f a u).state.mem) : Memory.wf (x.bind f).state.mem := by
  cases x with
  | ok a u => exact hf a u hx
  | stop u => exact hx

theorem Acc.done_wf {α : Type} {x : Acc α} {f : α → State → State} (hx : Memory.wf x.state.mem)
    (hf : ∀ a u, Memory.wf u.mem → Memory.wf (f a u).mem) : Memory.wf (x.done f).mem := by
  cases x with
  | ok a u => exact hf a u hx
  | stop u => exact hx

theorem resolveLive_wf {k va} (hs : Memory.wf s.mem) : Memory.wf (resolveLive s k va).2.mem := by
  unfold resolveLive; grind only [resolve_wf]

theorem resolveLiveWith_wf {got k va} (hs : Memory.wf s.mem) : Memory.wf (resolveLiveWith s got k va).2.2.mem := by
  unfold resolveLiveWith; grind only [resolveWith_wf]

theorem checkAccess_wf {i k va n} (hs : Memory.wf s.mem) : Memory.wf (checkAccess s i k va n).state.mem := by
  unfold checkAccess; grind only [trap_wf, debugStop_wf, resolveLive_wf, memFault_wf, Acc.state]

theorem loadN_wf {i va n} (hs : Memory.wf s.mem) : Memory.wf (loadN s i va n).state.mem := by
  unfold loadN
  refine Acc.bind_wf (checkAccess_wf hs) fun p u hu => ?_
  have hl := loadAt_wf (stream := false) (p := p) (n := n) hu
  split
  · next h => rw [h] at hl; exact hl
  · next h => rw [h] at hl; exact poisonTask_wf hl

theorem issueStore_wf {va p bs} (hs : Memory.wf s.mem) : Memory.wf (issueStore s va p bs).mem := by
  unfold issueStore; grind only [modLive_mem, storeAt_wf]

theorem loadWords_wf {i va n} (hs : Memory.wf s.mem) : Memory.wf (loadWords s i va n).state.mem := by
  induction n generalizing s va with
  | zero => exact hs
  | succ n ih =>
    unfold loadWords
    exact Acc.bind_wf (loadN_wf hs) fun _ _ hu => Acc.bind_wf (ih hu) fun _ _ hv => hv

theorem homeRead_wf {p n} (hs : Memory.wf s.mem) : Memory.wf (homeRead s p n).2.mem := by
  unfold homeRead; grind only [readPhys_wf]

theorem homeWrite_wf {p bs} (hs : Memory.wf s.mem) : Memory.wf (homeWrite s p bs).mem := by
  cases p with
  | hbm pa k => exact writePhys_wf _ _ _ hs
  | sram pa => exact memPut_wf _ _ hs
  | ctl pa => unfold homeWrite; rwa [ctlWrite_mem]

theorem settleL1_wf {p n} (hs : Memory.wf s.mem) : Memory.wf (settleL1 s p n).mem := by
  unfold settleL1; grind only [writeBackIf_wf, modCpu_mem]

@[simp] theorem sootStop_mem {sl} : (sootStop s sl).mem = s.mem := rfl

theorem sootRecord_wf {pa requester sl} (hs : Memory.wf s.mem) : Memory.wf (sootRecord s pa requester sl).mem := by
  unfold sootRecord; grind only [writePhys_wf, sootStop_mem]

theorem sootLog_wf {pa requester} (hs : Memory.wf s.mem) : Memory.wf (sootLog s pa requester).mem := by
  unfold sootLog; grind only [sootStop_mem, writePhys_wf, sootRecord_wf]

@[simp] theorem replayed_mem {pa} : (replayed s pa).mem = s.mem := by
  unfold replayed; split <;> rfl

theorem enqueue_wf {i caps} (hs : Memory.wf s.mem) : Memory.wf (enqueue s i caps).mem := by
  unfold enqueue; grind only [retire_wf, modLive_mem]

theorem delay_wf {i caps} (hs : Memory.wf s.mem) : Memory.wf (delay s i caps).mem := by
  unfold delay; grind only [enqueue_wf, waitHere_mem]

theorem front_wf {k : State → State} {a i} (hs : Memory.wf s.mem)
    (hk : ∀ u, Memory.wf u.mem → Memory.wf (k u).mem) : OutWf (front a i s k) := by
  unfold front; grind only [trap_wf, waitHere_mem, reclaim_wf, retire_wf, OutWf]

/-- An instruction of the front keeps the form when its body does: a wait, a trap or a reclaimed task keeps it too. -/
theorem issue_wf {body : State → State} {a i} (hs : Memory.wf s.mem)
    (hbody : ∀ u, Memory.wf u.mem → Memory.wf (body u).mem) : OutWf (issue a i s body) := by
  unfold issue; grind only [front_wf, waitHere_mem]

/-- A vector instruction, which the front may also put into the VIQ. -/
theorem issueV_wf {body : State → State} {a grant lanes i caps} (hs : Memory.wf s.mem)
    (hbody : ∀ u, Memory.wf u.mem → Memory.wf (body u).mem) : OutWf (issueV a grant lanes i caps s body) := by
  unfold issueV; grind only [front_wf, trap_wf, waitHere_mem, enqueue_wf, delay_wf]

theorem traceLeave_wf (hs : Memory.wf s.mem) : Memory.wf (traceLeave s).mem := by
  unfold traceLeave; grind only [traceRec_wf]

theorem leaveHandler_wf (hs : Memory.wf s.mem) : Memory.wf (leaveHandler s).mem := by
  unfold leaveHandler; grind only [modCpu_mem, traceLeave_wf]

theorem endTrapped_wf {c code} (hs : Memory.wf s.mem) : Memory.wf (endTrapped s c code).mem := by
  unfold endTrapped; grind only [modCpu_mem, dropRefs_wf, settle_mem, endedHere_mem]

theorem failTrapped_wf {code} (hs : Memory.wf s.mem) : Memory.wf (failTrapped s code).mem := by
  unfold failTrapped; grind only [leaveHandler_wf, endTrapped_wf]

theorem readyTrapped_wf {c hd} (hs : Memory.wf s.mem) : Memory.wf (readyTrapped s c hd).mem := by
  unfold readyTrapped; grind only [makeRoom_wf, modCpu_mem, leaveHandler_wf, waitHere_mem, spillRecord_mem, trap_wf]

theorem placeTrapped_wf {c hd} (hs : Memory.wf s.mem) : Memory.wf (placeTrapped s c hd).mem := by
  unfold placeTrapped; grind only [grantTo_mem, traceRec_wf, modCpu_mem]

theorem putTrapped_wf {c hd} (hs : Memory.wf s.mem) : Memory.wf (putTrapped s c hd).mem := by
  unfold putTrapped; grind only [placeTrapped_wf, endTask_wf]

theorem restoreTrapped_wf {c hd} (hs : Memory.wf s.mem) : Memory.wf (restoreTrapped s c hd).mem := by
  unfold restoreTrapped; grind only [putTrapped_wf, leaveHandler_wf]

theorem returnTrap_wf (hs : Memory.wf s.mem) : Memory.wf (returnTrap s).mem := by
  unfold returnTrap; grind only [trap_wf, modCpu_mem, traceRec_wf, traceLeave_wf, leaveHandler_wf, failTrapped_wf,
      readyTrapped_wf, restoreTrapped_wf]

end Sys2Proof.Machine
end

section
/-!
SUPPORT. The memory form and the scalar instructions, atomics, fault records and switches of tasks.
-/

namespace Sys2Proof.Machine

variable {s t : State}

theorem produce_wf {v : State → Word} {i d} (hs : Memory.wf s.mem) : OutWf (produce i d s v) := by
  unfold produce; grind only [issue_wf, retire_wf, result_mem]

theorem alu_wf {r : ℕ → ℕ → ℕ → ℤ} {i d a b w} (hs : Memory.wf s.mem) : OutWf (alu i d a b w s r) := by
  unfold alu; grind only [produce_wf]

theorem alu1_wf {r : ℕ → ℕ → ℤ} {i d a w} (hs : Memory.wf s.mem) : OutWf (alu1 i d a w s r) := by
  unfold alu1; grind only [produce_wf]

theorem shiftConst_wf {r : ℕ → ℕ → ℤ} {i d a w} (hs : Memory.wf s.mem) : OutWf (shiftConst i d a w s r) := by
  unfold shiftConst; grind only [produce_wf]

theorem execJ_wf {imm} (hs : Memory.wf s.mem) : OutWf (execJ imm s) := by
  refine issue_wf hs fun u hu => ?_
  grind only [jump_mem]

theorem execJl_wf {imm} (hs : Memory.wf s.mem) : OutWf (execJl imm s) := by
  refine issue_wf hs fun u hu => ?_
  grind only [jump_mem, setG_mem]

theorem execJrl_wf {d a} (hs : Memory.wf s.mem) : OutWf (execJrl d a s) := by
  refine issue_wf hs fun u hu => ?_
  grind only [trap_wf, jump_mem, setG_mem]

theorem branch_wf {c : Word → Word → Bool} {i a b imm} (hs : Memory.wf s.mem) : OutWf (branch i a b imm s c) := by
  unfold branch; grind only [issue_wf, jump_mem, retire_wf]

theorem loadTo_wf {ea : State → ℕ} {i d sz} (hs : Memory.wf s.mem) : OutWf (loadTo i d sz s ea) := by
  unfold loadTo; grind only [issue_wf, Acc.done_wf, loadN_wf, retire_wf, result_mem]

theorem storeFrom_wf {ea : State → ℕ} {i d sz} (hs : Memory.wf s.mem) : OutWf (storeFrom i d sz s ea) := by
  unfold storeFrom; grind only [issue_wf, Acc.done_wf, checkAccess_wf, retire_wf, issueStore_wf]

theorem atomicPoint_wf {p} (hs : Memory.wf s.mem) : Memory.wf (atomicPoint s p).mem := by
  unfold atomicPoint; grind only [counterPoint_wf]

theorem atomicWrite_wf {p bs} (hs : Memory.wf s.mem) : Memory.wf (atomicWrite s p bs).mem := by
  unfold atomicWrite; grind only [atomicPoint_wf, homeWrite_wf]

theorem atomicAccess_wf {f : ℕ → Option ℕ} {fin : ℕ → State → State} {i k va n rel acq} (hs : Memory.wf s.mem)
    (hfin : ∀ x0 u, Memory.wf u.mem → Memory.wf (fin x0 u).mem) :
    Memory.wf (atomicAccess s i k va n rel acq f fin).mem := by
  unfold atomicAccess; grind only [Acc.done_wf, checkAccess_wf, waitHere_mem, poisonTask_wf, writeBack_wf,
      settleL1_wf, homeRead_wf, atomicWrite_wf, atomicPoint_wf, replayed_mem, sootLog_wf, invalidate_mem]

theorem amo_wf {new : ℕ → ℕ → ℕ → Option ℕ} {i d a b rel acq x} (hs : Memory.wf s.mem) :
    OutWf (amo i d a b rel acq x s new) := by
  unfold amo; grind only [issue_wf, atomicAccess_wf, retire_wf, setG_mem]

theorem execCinit_wf {a b} (hs : Memory.wf s.mem) : OutWf (execCinit a b s) := by
  refine issue_wf hs fun u hu => ?_
  grind only [atomicAccess_wf, retire_wf]

theorem execCadd_wf {a b} (hs : Memory.wf s.mem) : OutWf (execCadd a b s) := by
  refine issue_wf hs fun u hu => ?_
  grind only [atomicAccess_wf, retire_wf]

theorem counterRead_wf {v : ℕ → State → Word} {i d a} (hs : Memory.wf s.mem) : OutWf (counterRead i d a s v) := by
  unfold counterRead; grind only [issue_wf, atomicAccess_wf, retire_wf, result_mem]

theorem deliver_wf {cl} (hs : Memory.wf s.mem) : Memory.wf (deliver s cl).mem := by
  unfold deliver; grind only [writePhys_wf, atomicWrite_wf, replayed_mem, sootLog_wf, modCluster_mem]

@[simp] theorem unlatch_mem {f : Ctx → Ctx} {core hd} : (unlatch s core hd f).mem = s.mem := by
  unfold unlatch; simp

theorem failStuck_wf {core hd word code} (hs : Memory.wf s.mem) :
    Memory.wf (failStuck s core hd word code).mem := by
  unfold failStuck; grind only [unlatch_mem, dropRefs_wf, settle_mem, endedOn_mem, takeRec_wf, modCore_mem,
      onCore_wf, endTask_wf]

@[simp] theorem retryStuck_mem {core hd} : (retryStuck s core hd).mem = s.mem := by
  unfold retryStuck; split <;> simp

@[simp] theorem freeSlotSeq_mem {cl seq} : (freeSlotSeq s cl seq).mem = s.mem := rfl

theorem acknowledge_wf {cl seq action} (hs : Memory.wf s.mem) : Memory.wf (acknowledge s cl seq action).mem := by
  unfold acknowledge; grind only [modCluster_mem, freeSlotSeq_mem, retryStuck_mem, failStuck_wf]

theorem execFaultRecordDelivery_wf {cl} (hs : Memory.wf s.mem) : OutWf (execFaultRecordDelivery cl s) := by
  unfold execFaultRecordDelivery; grind only [deliver_wf, OutWf]

theorem ackFrom_wf {cl seq action} (hs : Memory.wf s.mem) : Memory.wf (ackFrom s cl seq action).mem := by
  unfold ackFrom; grind only [acknowledge_wf, writeBack_wf]

theorem completionEdge_wf {hd} (hs : Memory.wf s.mem) : Memory.wf (completionEdge s hd).mem := by
  unfold completionEdge; grind only [invalidate_mem, writeBack_wf]

theorem takeFuture_wf {hd d index} (hs : Memory.wf s.mem) : Memory.wf (takeFuture s hd d index).mem := by
  unfold takeFuture; grind only [completionEdge_wf, modLive_mem, setG_mem, dropHeld_wf]

theorem finishWait_wf {wt} (hs : Memory.wf s.mem) : Memory.wf (finishWait s wt).mem := by
  unfold finishWait; grind only [takeFuture_wf, setG_mem, invalidate_mem]

theorem begin_wf {c} (hs : Memory.wf s.mem) : Memory.wf (begin_ s c).mem := by
  unfold begin_; grind only [traceRec_wf, modCpu_mem]

@[simp] theorem onceBack_mem {r} : (onceBack s r).mem = s.mem := by
  unfold onceBack; split <;> simp

theorem resume_wf {r} (hs : Memory.wf s.mem) : Memory.wf (resume s r).mem := by
  unfold resume; grind only [takeRec_wf, grantTo_mem, begin_wf, endTask_wf, finishWait_wf, onceBack_mem]

end Sys2Proof.Machine
end

section
/-!
SUPPORT. The memory form and the engines: remote accesses, Kiln, copies and the fabric.
-/

namespace Sys2Proof.Machine

variable {s t : State}

@[simp] theorem hold_mem {hd} : (hold s hd).mem = s.mem := rfl

@[simp] theorem waitOffered_mem {desc} : (waitOffered s desc).mem = s.mem := rfl

@[simp] theorem offeredAgain_mem : (offeredAgain s).mem = s.mem := rfl

theorem tokenChecks_wf {k : State → State} (hs : Memory.wf s.mem)
    (hk : ∀ u, Memory.wf u.mem → Memory.wf (k u).mem) : Memory.wf (tokenChecks s k).mem := by
  unfold tokenChecks; grind only [trap_wf]

theorem acceptJob_wf {kind mem d desc} {k : Word → State → State} (hs : Memory.wf s.mem)
    (hk : ∀ h u, Memory.wf u.mem → Memory.wf (k h u).mem) : Memory.wf (acceptJob s kind mem d desc k).mem := by
  unfold acceptJob
  split
  · rwa [waitOffered_mem]
  · next h t ha =>
    have ht : Memory.wf t.mem := by rw [allocToken_mem ha]; exact hs
    refine hk _ _ ?_
    rw [setG_mem, hold_mem]
    split
    · exact writeBack_wf ht
    · rwa [setEntry_mem]

theorem offer_wf {k : Word → State → State} {kind mem d full desc} (hs : Memory.wf s.mem)
    (hk : ∀ x0 u, Memory.wf u.mem → Memory.wf (k x0 u).mem) : Memory.wf (offer s kind mem d full desc k).mem := by
  unfold offer; grind only [waitOffered_mem, acceptJob_wf, tokenChecks_wf]

theorem remote_wf {i member d a b sz} (hs : Memory.wf s.mem) : OutWf (remote i member d a b sz s) := by
  unfold remote; grind only [issue_wf, trap_wf, debugStop_wf, offer_wf, retire_wf]

theorem performRemote_wf {requester tenant priv member sz va data} (hs : Memory.wf s.mem) :
    Memory.wf (performRemote s requester tenant priv member sz va data).2.mem := by
  unfold performRemote; grind only [resolve_wf, homeRead_wf, homeWrite_wf, atomicWrite_wf, replayed_mem, sootLog_wf]

@[simp] theorem answerRemote_mem {r e} : (answerRemote s r e).mem = s.mem := by
  unfold answerRemote; split <;> simp

theorem peerObserves_wf {hd take} (hs : Memory.wf s.mem) : Memory.wf (peerObserves s hd take).mem := by
  unfold peerObserves; grind only [writeBack_wf, dropRefs_wf]

theorem execRemoteAccess_wf {req} (hs : Memory.wf s.mem) : OutWf (execRemoteAccess req s) := by
  unfold execRemoteAccess; grind only [performRemote_wf, answerRemote_mem, peerObserves_wf, OutWf]

@[simp] theorem peerSettled_mem {hd failed value} : (peerSettled s hd failed value).mem = s.mem := by
  unfold peerSettled; grind only [setEntry_mem, settle_mem]

theorem execRemoteReply_wf {token failed value} (hs : Memory.wf s.mem) :
    OutWf (execRemoteReply token failed value s) := by
  unfold execRemoteReply; grind only [peerSettled_mem, answerRemote_mem, OutWf]

theorem execTargetUnreachable_wf {token performed} (hs : Memory.wf s.mem) :
    OutWf (execTargetUnreachable token performed s) := by
  unfold execTargetUnreachable; grind only [performRemote_wf, answerRemote_mem, OutWf]

theorem execRmtAccept_wf (hs : Memory.wf s.mem) : OutWf (execRmtAccept s) := by
  unfold execRmtAccept; grind only [offeredAgain_mem, OutWf]

@[simp] theorem modBank_mem {f : Bank → Bank} {cl n} : (modBank s cl n f).mem = s.mem := rfl

@[simp] theorem popJobs_mem {fuel cl n} : (popJobs fuel s cl n).mem = s.mem := by
  induction fuel generalizing s with
  | zero => rfl
  | succ fuel ih =>
    unfold popJobs
    split
    · exact ih.trans settle_mem
    · exact ih
    · rfl

@[simp] theorem finishJob_mem {f : Bank → Bank} {cl n} : (finishJob s cl n f).mem = s.mem := by
  unfold finishJob; grind only [modBank_mem, popJobs_mem]

theorem execRowJob_wf {cl bank} (hs : Memory.wf s.mem) : OutWf (execRowJob cl bank s) := by
  unfold execRowJob; grind only [finishJob_mem, OutWf]

theorem execAccumulatorZeroJob_wf {cl bank} (hs : Memory.wf s.mem) : OutWf (execAccumulatorZeroJob cl bank s) := by
  unfold execAccumulatorZeroJob; grind only [finishJob_mem, OutWf]

theorem execBankClear_wf {cl bank} (hs : Memory.wf s.mem) : OutWf (execBankClear cl bank s) := by
  unfold execBankClear; grind only [modBank_mem, OutWf]

theorem resolveFor_wf {e k va} (hs : Memory.wf s.mem) : Memory.wf (resolveFor s e k va).2.mem := by
  unfold resolveFor; grind only [resolve_wf]

theorem engineByte_wf {e va} (hs : Memory.wf s.mem) : Memory.wf (engineByte s e va).2.mem := by
  unfold engineByte; grind only [resolveFor_wf, homeRead_wf]

theorem engineBytes_wf {e vas} (hs : Memory.wf s.mem) : Memory.wf (engineBytes s e vas).2.mem := by
  induction vas generalizing s with
  | nil => exact hs
  | cons va vas ih => unfold engineBytes; grind only [engineByte_wf]

theorem execTileLoad_wf {cl bank} (hs : Memory.wf s.mem) : OutWf (execTileLoad cl bank s) := by
  unfold execTileLoad; grind only [engineBytes_wf, settle_mem, finishJob_mem, OutWf]

theorem mtx_wf {body : State → State} {i grant a b} (hs : Memory.wf s.mem)
    (hbody : ∀ u, Memory.wf u.mem → Memory.wf (body u).mem) : OutWf (mtx i grant a b s body) := by
  unfold mtx; grind only [issueV_wf]

theorem engineCheck_wf {k : State → State} {cs} (hs : Memory.wf s.mem)
    (hk : ∀ u, Memory.wf u.mem → Memory.wf (k u).mem) : Memory.wf (engineCheck s cs k).mem := by
  unfold engineCheck; grind only [trap_wf]

@[simp] theorem accept_mem {n j} : (accept s n j).mem = s.mem := by
  unfold accept; grind only [modBank_mem, popJobs_mem]

theorem execMxbind_wf {d a b} (hs : Memory.wf s.mem) : OutWf (execMxbind d a b s) := by
  refine mtx_wf hs fun u hu => ?_
  grind only [engineCheck_wf, delay_wf, retire_wf, setG_mem, modBank_mem, modCluster_mem]

theorem execMxload_wf {d a b} (hs : Memory.wf s.mem) : OutWf (execMxload d a b s) := by
  refine mtx_wf hs fun u hu => ?_
  grind only [trap_wf, Acc.done_wf, loadWords_wf, tokenChecks_wf, engineCheck_wf, offer_wf, modBank_mem,
      retire_wf, accept_mem]

theorem rowInstr_wf {i clear a b c} (hs : Memory.wf s.mem) : OutWf (rowInstr i clear a b c s) := by
  unfold rowInstr; grind only [mtx_wf, trap_wf, engineCheck_wf, delay_wf, retire_wf, accept_mem]

theorem execMxsync_wf {d a} (hs : Memory.wf s.mem) : OutWf (execMxsync d a s) := by
  refine mtx_wf hs fun u hu => ?_
  grind only [tokenChecks_wf, engineCheck_wf, offer_wf, retire_wf, accept_mem, modBank_mem, settle_mem]

theorem execMxrd_wf {d a b} (hs : Memory.wf s.mem) : OutWf (execMxrd d a b s) := by
  refine mtx_wf hs fun u hu => ?_
  grind only [trap_wf, engineCheck_wf, delay_wf, poisonTask_wf, retire_wf, modLive_mem]

theorem execMxzero_wf {d a b} (hs : Memory.wf s.mem) : OutWf (execMxzero d a b s) := by
  refine mtx_wf hs fun u hu => ?_
  grind only [engineCheck_wf, retire_wf, accept_mem, setG_mem]

theorem execMxrel_wf {a} (hs : Memory.wf s.mem) : OutWf (execMxrel a s) := by
  refine mtx_wf hs fun u hu => ?_
  grind only [engineCheck_wf, retire_wf, accept_mem]

theorem execMxqry_wf {d a} (hs : Memory.wf s.mem) : OutWf (execMxqry d a s) := by
  refine mtx_wf hs fun u hu => ?_
  grind only [engineCheck_wf, retire_wf, setG_mem]

theorem execKilnAccept_wf (hs : Memory.wf s.mem) : OutWf (execKilnAccept s) := by
  unfold execKilnAccept; grind only [offeredAgain_mem, OutWf]

@[simp] theorem joinFlue_mem : (joinFlue s).mem = s.mem := by
  unfold joinFlue; split <;> rfl

theorem flueOffer_wf {i d desc c} (hs : Memory.wf s.mem) : Memory.wf (flueOffer s i d desc c).mem := by
  unfold flueOffer; grind only [joinFlue_mem, offer_wf, unwait_mem, retire_wf, settle_mem, modCluster_mem]

theorem execCpy1d_wf {d a b c} (hs : Memory.wf s.mem) : OutWf (execCpy1d d a b c s) := by
  refine issue_wf hs fun u hu => ?_
  grind only [engineCheck_wf, flueOffer_wf]

theorem execCpfill_wf {d a b c} (hs : Memory.wf s.mem) : OutWf (execCpfill d a b c s) := by
  refine issue_wf hs fun u hu => ?_
  grind only [engineCheck_wf, flueOffer_wf]

theorem describedJob_wf {job : List Word → Copy} {reserved : List Word → Bool} {i d a n} (hs : Memory.wf s.mem) :
    OutWf (describedJob i d a n s job reserved) := by
  unfold describedJob; grind only [issue_wf, flueOffer_wf, trap_wf, Acc.done_wf, loadWords_wf, engineCheck_wf]

theorem execCpqry_wf {d} (hs : Memory.wf s.mem) : OutWf (execCpqry d s) := by
  refine issue_wf hs fun u hu => ?_
  grind only [retire_wf, setG_mem]

theorem execFlueAccept_wf (hs : Memory.wf s.mem) : OutWf (execFlueAccept s) := by
  unfold execFlueAccept; grind only [turnTo_mem, OutWf]

theorem gatherIndex_wf {e idx iw j} (hs : Memory.wf s.mem) : Memory.wf (gatherIndex s e idx iw j).2.mem := by
  unfold gatherIndex; grind only [engineBytes_wf]

theorem sourceOf_wf {job dst i} (hs : Memory.wf s.mem) : Memory.wf (sourceOf s job dst i).2.mem := by
  unfold sourceOf; grind only [gatherIndex_wf]

theorem flueRead_wf {e va} (hs : Memory.wf s.mem) : Memory.wf (flueRead s e va).2.mem := by
  unfold flueRead; grind only [resolveFor_wf, homeRead_wf]

theorem readByte_wf {job i} (hs : Memory.wf s.mem) : Memory.wf (readByte s job i).2.mem := by
  unfold readByte; grind only [sourceOf_wf, flueRead_wf]

theorem readChunk_wf {job is} (hs : Memory.wf s.mem) : Memory.wf (readChunk s job is).2.mem := by
  induction is generalizing s with
  | nil => exact hs
  | cons i is ih => unfold readChunk; grind only [readByte_wf]

theorem placeChunk_wf {e l} (hs : Memory.wf s.mem) : Memory.wf (placeChunk s e l).2.mem := by
  induction l generalizing s with
  | nil => exact hs
  | cons x l ih => exact ih (resolveFor_wf hs)

theorem writeChunk_wf {whole l} (hs : Memory.wf s.mem) : Memory.wf (writeChunk s whole l).mem := by
  refine foldl_wf (fun t x ht => ?_) _ hs
  grind only [homeWrite_wf]

@[simp] theorem dropJob_mem {cl hd} : (dropJob s cl hd).mem = s.mem := rfl

@[simp] theorem failJob_mem {cl job e} : (failJob s cl job e).mem = s.mem := by
  unfold failJob; split <;> simp

theorem stopChunk_wf {cl job c e} (hs : Memory.wf s.mem) : Memory.wf (stopChunk s cl job c e).mem := by
  unfold stopChunk; grind only [failJob_mem, placeChunk_wf, writeChunk_wf]

theorem finishChunk_wf {cl job c} (hs : Memory.wf s.mem) : Memory.wf (finishChunk s cl job c).mem := by
  unfold finishChunk; grind only [placeChunk_wf, failJob_mem, writeChunk_wf, settle_mem, dropJob_mem, modCluster_mem]

theorem doChunk_wf {cl job} (hs : Memory.wf s.mem) : Memory.wf (doChunk s cl job).mem := by
  unfold doChunk; grind only [readChunk_wf, stopChunk_wf, finishChunk_wf]

theorem execFlueChunk_wf {cl job} (hs : Memory.wf s.mem) : OutWf (execFlueChunk cl job s) := by
  unfold execFlueChunk; grind only [doChunk_wf, OutWf]

theorem execPfx_wf {pg ps pd pc pk} (hs : Memory.wf s.mem) : OutWf (execPfx pg ps pd pc pk s) := by
  refine issue_wf hs fun u hu => ?_
  grind only [modLive_mem, retire_wf]

theorem execDmark_wf {a} (hs : Memory.wf s.mem) : OutWf (execDmark a s) := by
  refine issue_wf hs fun u hu => ?_
  grind only [retire_wf, traceRec_wf]

theorem execDsample_wf {d a} (hs : Memory.wf s.mem) : OutWf (execDsample d a s) := by
  refine issue_wf hs fun u hu => ?_
  grind only [retire_wf, result_mem]

@[simp] theorem makeGroup_mem {tagWord ws} : (makeGroup s tagWord ws).2.mem = s.mem := by
  unfold makeGroup; grind only

theorem execFgrp_wf {d a b} (hs : Memory.wf s.mem) : OutWf (execFgrp d a b s) := by
  refine issue_wf hs fun u hu => ?_
  grind only [trap_wf, retire_wf, setG_mem, Acc.done_wf, loadWords_wf, makeGroup_mem]

theorem execFgqry_wf {d a} (hs : Memory.wf s.mem) : OutWf (execFgqry d a s) := by
  refine issue_wf hs fun u hu => ?_
  grind only [trap_wf, retire_wf, setG_mem]

@[simp] theorem joinGroup_mem {i n urgent c hd} : (joinGroup s i n urgent c hd).mem = s.mem := by
  unfold joinGroup; grind only [failGroup_mem]

theorem execFbar_wf {d a} (hs : Memory.wf s.mem) : OutWf (execFbar d a s) := by
  refine issue_wf hs fun u hu => ?_
  have hgo : ∀ v, Memory.wf v.mem → Memory.wf (match groupFor v (getG v a) with
      | none => trap v 0x0B 2
      | some (n, _) => offer v 5 true d (64 ≤ bulkPending v) [] fun h t =>
          retire (joinGroup t (.fbar d a) n false none h)).mem := fun v hv => by
    split
    · exact trap_wf hv
    · exact offer_wf hv fun _ _ hw => retire_wf (by rwa [joinGroup_mem])
  split
  · exact hgo u hu
  · exact tokenChecks_wf hu hgo

theorem offerColl_wf {i d ws n} (hs : Memory.wf s.mem) : Memory.wf (offerColl s i d ws n).mem := by
  unfold offerColl; grind only [offer_wf, retire_wf, joinGroup_mem]

theorem startColl_wf {i d ws} (hs : Memory.wf s.mem) : Memory.wf (startColl s i d ws).mem := by
  unfold startColl; grind only [trap_wf, offerColl_wf]

theorem execFcoll_wf {d a} (hs : Memory.wf s.mem) : OutWf (execFcoll d a s) := by
  refine issue_wf hs fun u hu => ?_
  grind only [startColl_wf, tokenChecks_wf, trap_wf, Acc.done_wf, loadWords_wf]

theorem execCollAccept_wf (hs : Memory.wf s.mem) : OutWf (execCollAccept s) := by
  unfold execCollAccept; grind only [offeredAgain_mem, OutWf]

theorem placeResults_wf {e c l} (hs : Memory.wf s.mem) : Memory.wf (placeResults s e c l).2.mem := by
  induction l generalizing s with
  | nil => exact hs
  | cons x l ih => exact ih (placeChunk_wf hs)

theorem writeResults_wf {whole c ls} (hs : Memory.wf s.mem) : Memory.wf (writeResults s whole c ls).mem :=
  foldl_wf (fun _ _ ht => by split <;> [exact writeChunk_wf ht; exact ht]) _ hs

theorem doCollChunk_wf {n g urgent op c inputs} (hs : Memory.wf s.mem) :
    Memory.wf (doCollChunk s n g urgent op c inputs).mem := by
  unfold doCollChunk; grind only [engineBytes_wf, failGroup_mem, placeResults_wf, writeResults_wf, settle_mem]

theorem writeLate_wf {g} (hs : Memory.wf s.mem) : Memory.wf (writeLate s g).mem := by
  refine foldl_wf (fun t o ht => ?_) _ hs
  dsimp only
  split
  · exact writeResults_wf (placeResults_wf ht)
  · exact ht

theorem leaveGroup_wf {n} (hs : Memory.wf s.mem) : Memory.wf (leaveGroup s n).mem := by
  unfold leaveGroup; grind only [failGroup_mem, writeLate_wf]

theorem execFgfree_wf {a} (hs : Memory.wf s.mem) : OutWf (execFgfree a s) := by
  refine issue_wf hs fun u hu => ?_
  grind only [trap_wf, leaveGroup_wf, retire_wf]

theorem execCollChunk_wf {slot urgent inputs} (hs : Memory.wf s.mem) :
    OutWf (execCollChunk slot urgent inputs s) := by
  unfold execCollChunk; grind only [leaveGroup_wf, doCollChunk_wf, OutWf]

theorem execGroupMatch_wf {slot urgent peers} (hs : Memory.wf s.mem) :
    OutWf (execGroupMatch slot urgent peers s) := by
  unfold execGroupMatch; grind only [failGroup_mem, settle_mem, OutWf]

theorem execGroupFail_wf {slot} (hs : Memory.wf s.mem) : OutWf (execGroupFail slot s) := by
  unfold execGroupFail; grind only [leaveGroup_wf, OutWf]

end Sys2Proof.Machine
end

section
/-!
SUPPORT. The memory form and the system instructions, the fetch, tasks and interrupts.
-/

namespace Sys2Proof.Machine

variable {s t : State}

theorem execTraps_wf {n} (hs : Memory.wf s.mem) : OutWf (execTraps n s) := by
  refine issue_wf hs fun u hu => ?_
  grind only [trap_wf, retire_wf]

theorem execBrk_wf {n} (hs : Memory.wf s.mem) : OutWf (execBrk n s) := by
  refine issue_wf hs fun u hu => ?_
  grind only [debugStop_wf, retire_wf]

theorem execEret_wf (hs : Memory.wf s.mem) : OutWf (execEret s) := by
  refine issue_wf hs fun u hu => ?_
  grind only [returnTrap_wf, trap_wf]

theorem execHalt_wf (hs : Memory.wf s.mem) : OutWf (execHalt s) := by
  refine issue_wf hs fun u hu => ?_
  grind only [modCpu_mem, retire_wf]

theorem execWaiti_wf (hs : Memory.wf s.mem) : OutWf (execWaiti s) := by
  refine issue_wf hs fun u hu => ?_
  grind only [trap_wf, retire_wf, modCpu_mem]

theorem execWaitiWake_wf (hs : Memory.wf s.mem) : OutWf (execWaitiWake s) := by
  unfold execWaitiWake; grind only [modCpu_mem, OutWf]

@[simp] theorem dropCode_mem {lo len} : (dropCode s lo len).mem = s.mem := foldl_mem (fun _ _ => modCore_mem) _ s

@[simp] theorem dropMaps_mem {ps} : (dropMaps s ps).mem = s.mem := rfl

theorem execCodesync_wf {a b} (hs : Memory.wf s.mem) : OutWf (execCodesync a b s) := by
  refine issue_wf hs fun u hu => ?_
  grind only [retire_wf, writeBackIf_wf, dropCode_mem, dropMaps_mem]

@[simp] theorem dropTlb_mem {p : TlbEntry → Bool} :
    (dropTlb s p).mem = s.mem := foldl_mem (fun _ _ => modCore_mem) _ s

theorem execTlbinv_wf {a} (hs : Memory.wf s.mem) : OutWf (execTlbinv a s) := by
  refine issue_wf hs fun u hu => ?_
  grind only [trap_wf, waitHere_mem, retire_wf, dropTlb_mem]

theorem execL1wb_wf {a b} (hs : Memory.wf s.mem) : OutWf (execL1wb a b s) := by
  refine issue_wf hs fun u hu => ?_
  grind only [retire_wf, writeBackIf_wf]

theorem fillRead_wf {k va n} (hs : Memory.wf s.mem) : Memory.wf (fillRead s k va n).2.mem := by
  unfold fillRead; grind only [resolveLive_wf, homeRead_wf]

@[simp] theorem holdLine_mem {cl tag data} : (holdLine s cl tag data).mem = s.mem := rfl

theorem clusterRead_wf {k va n} (hs : Memory.wf s.mem) : Memory.wf (clusterRead s k va n).2.mem := by
  unfold clusterRead; grind only [resolveLive_wf, readPhys_wf, holdLine_mem, fillRead_wf]

theorem streamRead_wf {va n} (hs : Memory.wf s.mem) : Memory.wf (streamRead s va n).2.mem := by
  induction n generalizing s va with
  | zero => unfold streamRead; exact hs
  | succ n ih => unfold streamRead; grind only [fillRead_wf]

theorem findEntry_wf {a n i} (hs : Memory.wf s.mem) : Memory.wf (findEntry s a n i).2.mem := by
  induction n generalizing s i with
  | zero => exact hs
  | succ n ih =>
    unfold findEntry
    have hr := clusterRead_wf (k := .read) (va := codeDir + 64 * i) (n := 64) hs
    generalize clusterRead s .read (codeDir + 64 * i) 64 = r at hr
    obtain ⟨_ | e, u⟩ := r
    · exact hr
    · dsimp only
      split
      · exact hr
      · exact ih hr

theorem expand_wf {dict bm n w p} (hs : Memory.wf s.mem) : Memory.wf (expand s dict bm n w p).2.mem := by
  induction n generalizing s w p with
  | zero => exact hs
  | succ n ih => unfold expand; grind only [streamRead_wf, clusterRead_wf]

theorem fillLine_wf {a} (hs : Memory.wf s.mem) : Memory.wf (fillLine s a).2.mem := by
  unfold fillLine; grind only [findEntry_wf, clusterRead_wf, streamRead_wf, expand_wf]

@[simp] theorem enterLine_mem {ws} : (enterLine s ws).mem = s.mem := rfl

theorem fetchFault_wf {e} (hs : Memory.wf s.mem) : Memory.wf (fetchFault s e).mem := by
  unfold fetchFault; grind only [latchTask_wf, takeTrap_wf, poisonTask_wf]

theorem fetchLine_wf (hs : Memory.wf s.mem) : Memory.wf (fetchLine s).mem := by
  unfold fetchLine; grind only [fillLine_wf, enterLine_mem, fetchFault_wf]

theorem execCodeLineFill_wf (hs : Memory.wf s.mem) : OutWf (execCodeLineFill s) := by
  unfold execCodeLineFill; grind only [fetchLine_wf, OutWf]

theorem execIllegalWord_wf {word} (hs : Memory.wf s.mem) : OutWf (execIllegalWord word s) := by
  unfold execIllegalWord; grind only [trap_wf, OutWf]

theorem fop_wf {f : State → ℕ × Flags} {i d} (hs : Memory.wf s.mem) : OutWf (fop i d s f) := by
  unfold fop; grind only [issue_wf, retire_wf, result_mem, accrue_mem]

theorem fop2_wf {f : Dir → FpVal → FpVal → FpVal × Flags} {i d a b fmt rm} (hs : Memory.wf s.mem) :
    OutWf (fop2 i d a b fmt rm s f) := by
  unfold fop2; grind only [fop_wf]

theorem fopCmp_wf {f : FpVal → FpVal → ℕ × Flags} {i d a b fmt} (hs : Memory.wf s.mem) :
    OutWf (fopCmp i d a b fmt s f) := by
  unfold fopCmp; grind only [fop_wf]

theorem fop1_wf {f : Dir → Word → ℕ × Flags} {i d a rm} (hs : Memory.wf s.mem) : OutWf (fop1 i d a rm s f) := by
  unfold fop1; grind only [fop_wf]

theorem fmaOp_wf {i d a b c fmt rm neg} (hs : Memory.wf s.mem) : OutWf (fmaOp i d a b c fmt rm neg s) := by
  unfold fmaOp; grind only [fop_wf]

@[simp] theorem endHold_mem : (endHold s).mem = s.mem := rfl

theorem atPoint_wf {met : Wait → State → State} {k : State → State} (hs : Memory.wf s.mem)
    (hmet : ∀ x0 u, Memory.wf u.mem → Memory.wf (met x0 u).mem) (hk : ∀ u, Memory.wf u.mem → Memory.wf (k u).mem) :
    Memory.wf (atPoint s met k).mem := by
  unfold atPoint; grind only [reclaim_wf, endHold_mem, waitHere_mem]

@[simp] theorem holdWait_mem {hd} : (holdWait s hd).mem = s.mem := rfl

theorem orHold_wf {x : Saved} {k : State → State} {hd} (hs : Memory.wf s.mem)
    (hx : ∀ t, x = .ok t → Memory.wf t.mem) (hk : ∀ u, Memory.wf u.mem → Memory.wf (k u).mem) :
    Memory.wf (orHold s hd x k).mem := by
  unfold orHold; grind only [holdWait_mem, trap_wf]

theorem checkHandles_wf {l} {k : State → State} (hs : Memory.wf s.mem)
    (hk : ∀ u, Memory.wf u.mem → Memory.wf (k u).mem) : Memory.wf (checkHandles s l k).mem := by
  induction l with
  | nil => exact hk s hs
  | cons h l ih =>
    unfold checkHandles
    split
    · exact ih
    · exact trap_wf hs

theorem spawnChecks_wf {k : State → State} {a b} (hs : Memory.wf s.mem)
    (hk : ∀ u, Memory.wf u.mem → Memory.wf (k u).mem) : Memory.wf (spawnChecks s a b k).mem := by
  unfold spawnChecks; grind only [trap_wf, checkHandles_wf]

@[simp] theorem spawnerWith_mem {d o hd} : (spawnerWith s d o hd).mem = s.mem := by
  unfold spawnerWith; simp

theorem spawnNow_wf {i kind d a b} (hs : Memory.wf s.mem) : Memory.wf (spawnNow s i kind d a b).mem := by
  refine orHold_wf hs (fun t => makeRoom_wf hs) fun u hu => ?_
  dsimp only
  split
  · exact trap_wf hu
  · next h t ha =>
    have ht : Memory.wf t.mem := by rw [allocFut_mem ha]; exact hu
    exact begin_wf (leaveCoreAt_wf (by rwa [spawnerWith_mem]))

theorem execSpawn_wf {d a b} (hs : Memory.wf s.mem) : OutWf (execSpawn d a b s) :=
  issue_wf hs fun _ hu => atPoint_wf hu (fun _ _ hv => hv) fun _ hv =>
    spawnChecks_wf hv fun _ => spawnNow_wf

theorem gatePairs_wf {i l} (hs : Memory.wf s.mem) : Memory.wf (gatePairs s i l).state.mem := by
  induction l using List.twoStepInduction generalizing s with
  | nil => exact hs
  | singleton _ => exact hs
  | cons_cons addr thr rest ih _ =>
    unfold gatePairs
    refine Acc.bind_wf (checkAccess_wf hs) fun p u hu => ?_
    dsimp only
    split
    · exact poisonTask_wf hu
    · exact Acc.bind_wf (ih (atomicPoint_wf (homeRead_wf (settleL1_wf hu)))) fun _ _ hv => hv

theorem spawnGated_wf {d a b pairs} (hs : Memory.wf s.mem) : Memory.wf (spawnGated s d a b pairs).mem := by
  unfold spawnGated
  dsimp only
  split
  · exact trap_wf hs
  · next h t ha =>
    have ht : Memory.wf t.mem := by rw [allocFut_mem ha]; exact hs
    exact retire_wf (by dsimp only; rwa [spawnerWith_mem])

theorem execSpawng_wf {d a b c} (hs : Memory.wf s.mem) : OutWf (execSpawng d a b c s) := by
  refine issue_wf hs fun _ hu => atPoint_wf hu (fun _ _ hv => hv) fun v hv => ?_
  dsimp only
  split
  · exact trap_wf hv
  · refine Acc.done_wf (loadN_wf hv) fun n w hw => ?_
    split
    · exact trap_wf hw
    · refine Acc.done_wf (loadWords_wf hw) fun ws x hx => Acc.done_wf (gatePairs_wf hx) fun ps y hy => ?_
      refine spawnChecks_wf (by rwa [invalidate_mem]) fun z hz => ?_
      split
      · exact spawnNow_wf hz
      · exact spawnGated_wf hz

theorem execFinish_wf {a} (hs : Memory.wf s.mem) : OutWf (execFinish a s) := by
  refine issue_wf hs fun u hu => ?_
  grind only [endTask_wf]

theorem execFfail_wf {a} (hs : Memory.wf s.mem) : OutWf (execFfail a s) := by
  refine issue_wf hs fun u hu => ?_
  grind only [endTask_wf]

theorem withHandle_wf {k : Word → State → State} {i a} (hs : Memory.wf s.mem)
    (hk : ∀ x0 u, Memory.wf u.mem → Memory.wf (k x0 u).mem) : OutWf (withHandle i a s k) := by
  unfold withHandle; grind only [issue_wf, checkHandles_wf]

theorem execFref_wf {a b} (hs : Memory.wf s.mem) : OutWf (execFref a b s) := by
  refine withHandle_wf hs fun _ u hu => ?_
  grind only [trap_wf, setEntry_mem, retire_wf, modLive_mem]

theorem execFdrop_wf {a} (hs : Memory.wf s.mem) : OutWf (execFdrop a s) := by
  refine withHandle_wf hs fun _ u hu => ?_
  grind only [retire_wf, dropHeld_wf]

theorem execFpoll_wf {d a} (hs : Memory.wf s.mem) : OutWf (execFpoll d a s) := by
  refine withHandle_wf hs fun _ u hu => ?_
  grind only [completionEdge_wf, retire_wf, setG_mem]

theorem execFtake_wf {d a} (hs : Memory.wf s.mem) : OutWf (execFtake d a s) := by
  refine withHandle_wf hs fun _ u hu => ?_
  grind only [retire_wf, takeFuture_wf, modLive_mem, setG_mem]

theorem execRpoint_wf (hs : Memory.wf s.mem) : OutWf (execRpoint s) := by
  refine issue_wf hs fun u hu => ?_
  grind only [waitHere_mem, reclaim_wf, retire_wf]

theorem execRhold_wf (hs : Memory.wf s.mem) : OutWf (execRhold s) := by
  refine issue_wf hs fun u hu => ?_
  grind only [trap_wf, retire_wf, modLive_mem]

theorem execRrel_wf (hs : Memory.wf s.mem) : OutWf (execRrel s) := by
  refine issue_wf hs fun u hu => ?_
  grind only [trap_wf, retire_wf, modLive_mem]

theorem execTself_wf {d} (hs : Memory.wf s.mem) : OutWf (execTself d s) := by
  refine issue_wf hs fun u hu => ?_
  grind only [retire_wf, setG_mem]

@[simp] theorem preDone_mem : (preDone s).mem = s.mem := rfl

@[simp] theorem applyLive_mem {lg kl vs} : (applyLive s lg kl vs).mem = s.mem := by
  unfold applyLive; dsimp only; split <;> simp

theorem returnHere_wf {b kl vs wt} (hs : Memory.wf s.mem) : Memory.wf (returnHere b kl vs wt s).mem := by
  unfold returnHere; grind only [finishWait_wf, retire_wf, applyLive_mem, endHold_mem]

@[simp] theorem switched_mem : (switched s t).mem = t.mem := by
  unfold switched; grind only [preDone_mem, modCpu_mem]

theorem waitWith_wf {i b kl vs signalled wt steal} (hs : Memory.wf s.mem) :
    Memory.wf (waitWith s i b kl vs signalled wt steal).mem := by
  unfold waitWith; grind only [returnHere_wf, orHold_wf, saveRec_wf, switched_mem]

theorem execAwait_wf {d a b kl vs} (hs : Memory.wf s.mem) : OutWf (execAwait d a b kl vs s) := by
  refine issue_wf hs fun u hu => ?_
  grind only [atPoint_wf, returnHere_wf, checkHandles_wf, waitWith_wf]

theorem execAwaitany_wf {d a b kl vs} (hs : Memory.wf s.mem) : OutWf (execAwaitany d a b kl vs s) := by
  refine issue_wf hs fun u hu => ?_
  grind only [atPoint_wf, returnHere_wf, trap_wf, Acc.done_wf, loadWords_wf, checkHandles_wf, waitWith_wf]

theorem execYield_wf {b kl vs} (hs : Memory.wf s.mem) : OutWf (execYield b kl vs s) :=
  issue_wf hs fun _ hu => atPoint_wf hu (fun _ _ hv => hv) fun _ hv =>
    orHold_wf hv (fun _ => saveRec_wf hv) fun _ hw => by rwa [switched_mem]

theorem execCwait_wf {d a b kl vs} (hs : Memory.wf s.mem) : OutWf (execCwait d a b kl vs s) := by
  refine issue_wf hs fun u hu => ?_
  grind only [atPoint_wf, returnHere_wf, Acc.done_wf, checkAccess_wf, poisonTask_wf, settleL1_wf, homeRead_wf,
      atomicPoint_wf, waitWith_wf]

theorem takeInterrupt_wf {cause} (hs : Memory.wf s.mem) : Memory.wf (takeInterrupt s cause).mem := by
  unfold takeInterrupt; grind only [modCpu_mem, takeTrap_wf]

theorem interrupt_wf {cause} (hs : Memory.wf s.mem) : Memory.wf (interrupt cause s).mem := by
  unfold interrupt; grind only [takeInterrupt_wf]

theorem forceOut_wf {k : State → State} (hs : Memory.wf s.mem) (hk : ∀ u, Memory.wf u.mem → Memory.wf (k u).mem) :
    Memory.wf (forceOut s k).mem := by
  unfold forceOut; grind only [saveRec_wf]

theorem execQuantumExpiry_wf (hs : Memory.wf s.mem) : OutWf (execQuantumExpiry s) :=
  outWf_next.mpr (by split <;> [exact forceOut_wf hs fun _ hu => hu; exact hs])

theorem preempt_wf {act : State → State} {mode} (hact : ∀ u, Memory.wf u.mem → Memory.wf (act u).mem)
    (hs : Memory.wf s.mem) : Memory.wf (preempt mode act s).mem := by
  unfold preempt; grind only [preDone_mem]

theorem execPreemptReqCooperative_wf (hs : Memory.wf s.mem) : OutWf (execPreemptReqCooperative s) :=
  outWf_next.mpr (preempt_wf (fun _ hu => hu) hs)

theorem execPreemptReqForced_wf (hs : Memory.wf s.mem) : OutWf (execPreemptReqForced s) := by
  unfold execPreemptReqForced; grind only [preempt_wf, forceOut_wf, preDone_mem, OutWf]

theorem execPreemptReqToHandler_wf (hs : Memory.wf s.mem) : OutWf (execPreemptReqToHandler s) := by
  unfold execPreemptReqToHandler; grind only [preempt_wf, forceOut_wf, modCpu_mem, preDone_mem, interrupt_wf, OutWf]

theorem execPreemptCoopTimeout_wf (hs : Memory.wf s.mem) : OutWf (execPreemptCoopTimeout s) := by
  unfold execPreemptCoopTimeout; grind only [preempt_wf, forceOut_wf, preDone_mem, OutWf]

theorem fromShed_wf {core r} (hs : Memory.wf s.mem) : Memory.wf (fromShed s core r).2.mem := by
  unfold fromShed; grind only [shedRead_wf]

theorem refetch_wf {r} (hs : Memory.wf s.mem) (h : refetch s r = some t) : Memory.wf t.mem := by
  unfold refetch at h
  grind only [makeRoom_wf, fromShed_wf, takeRec_wf, logError_mem, modCpu_mem, bump_mem]

theorem resumeBack_wf {hd} (hs : Memory.wf s.mem) : Memory.wf (resumeBack s hd).mem := by
  unfold resumeBack; grind only [resume_wf]

theorem selectReady_wf (hs : Memory.wf s.mem) : Memory.wf (selectReady s).mem := by
  unfold selectReady; grind only [resume_wf, refetch_wf, resumeBack_wf]

theorem plainWake_wf (hs : Memory.wf s.mem) : Memory.wf (plainWake s).mem := by
  unfold plainWake; grind only [counterPoint_wf]

theorem execReadySelection_wf (hs : Memory.wf s.mem) : OutWf (execReadySelection s) := by
  refine outWf_next.mpr ?_
  split
  · next h =>
    obtain ⟨r, -, hr⟩ := Option.bind_eq_some_iff.mp h
    exact refetch_wf hs hr
  · split
    · exact selectReady_wf hs
    · exact hs

theorem execSteal_wf (hs : Memory.wf s.mem) : OutWf (execSteal s) := by
  unfold execSteal; grind only [makeRoom_wf, fromShed_wf, takeRec_wf, writeBack_wf, invalidate_mem, modCpu_mem,
      bump_mem, OutWf]

theorem execSpillHoldEnd_wf (hs : Memory.wf s.mem) : OutWf (execSpillHoldEnd s) := by
  unfold execSpillHoldEnd; grind only [reclaim_wf, modCpu_mem, OutWf]

end Sys2Proof.Machine
end

section
/-!
SUPPORT. The memory form and the device: launches of the Reel, management, registers and the debug port.
-/

namespace Sys2Proof.Machine

variable {s t : State}

theorem portDoes_wf (hs : Memory.wf s.mem) (ht : Memory.wf t.mem) : Memory.wf (portDoes s t).mem := by
  unfold portDoes; split <;> assumption

theorem execDoorbell_wf {host queue tail} (hs : Memory.wf s.mem) : OutWf (execDoorbell host queue tail s) := by
  unfold execDoorbell; grind only [portDoes_wf, OutWf]

theorem execHostSignal_wf {host} (hs : Memory.wf s.mem) : OutWf (execHostSignal host s) := by
  unfold execHostSignal; grind only [portDoes_wf, modCore_mem, OutWf]

theorem arrive_wf {id} (hs : Memory.wf s.mem) : Memory.wf (arrive s id).mem := by
  unfold arrive; grind only [readPhys_wf, complete_wf]

theorem arriveAll_wf {fuel q} (hs : Memory.wf s.mem) : Memory.wf (arriveAll fuel s q).mem := by
  induction fuel generalizing s with
  | zero => exact hs
  | succ fuel ih =>
    unfold arriveAll
    split
    · exact ih (arrive_wf hs)
    · exact hs

theorem mgmtFirst_wf (hs : Memory.wf s.mem) : Memory.wf (mgmtFirst s).mem := by
  unfold mgmtFirst; grind only [arriveAll_wf]

theorem execEntryArrival_wf {queue} (hs : Memory.wf s.mem) : OutWf (execEntryArrival queue s) := by
  unfold execEntryArrival; grind only [arrive_wf, mgmtFirst_wf, OutWf]

@[simp] theorem takeEntry_mem {e} : (takeEntry s e).mem = s.mem := rfl

theorem readImages_wf {tenant imgt n} (hs : Memory.wf s.mem) : Memory.wf (readImages s tenant imgt n).2.mem := by
  induction n generalizing s imgt with
  | zero => exact hs
  | succ n ih => unfold readImages; grind only [reelRead_wf]

theorem planImage_wf {tenant l} (hs : Memory.wf s.mem) : Memory.wf (planImage s tenant l).2.mem := by
  unfold planImage; grind only [reelRead_wf, readImages_wf]

theorem complOk_wf {tenant compl} (hs : Memory.wf s.mem) : Memory.wf (complOk s tenant compl).2.mem := by
  unfold complOk; grind only [reelPlace_wf]

theorem planEntry_wf {e} (hs : Memory.wf s.mem) : Memory.wf (planEntry s e).2.mem := by
  unfold planEntry; grind only [complOk_wf, reelRead_wf, planImage_wf]

theorem startRoot_wf {e l d pc core} (hs : Memory.wf s.mem) : Memory.wf (startRoot s e l d pc core).mem := by
  unfold startRoot
  split
  · exact complete_wf hs
  · next h t ha =>
    have ht : Memory.wf t.mem := by rw [allocFut_mem ha]; exact hs
    dsimp only
    split
    · next u hu => simpa using makeRoom_wf ht hu
    · exact hs

theorem dispatchEntry_wf {e} (hs : Memory.wf s.mem) : Memory.wf (dispatchEntry s e).mem := by
  unfold dispatchEntry; grind only [planEntry_wf, complete_wf, takeEntry_mem, startRoot_wf]

theorem execDispatch_wf (hs : Memory.wf s.mem) : OutWf (execDispatch s) := by
  unfold execDispatch; grind only [dispatchEntry_wf, OutWf]

@[simp] theorem dropLaunch_mem {root} : (dropLaunch s root).mem = s.mem := rfl

theorem finishLaunch_wf {l} (hs : Memory.wf s.mem) : Memory.wf (finishLaunch s l).mem := by
  unfold finishLaunch; grind only [complete_wf, dropLaunch_mem, writeBack_wf, dropRefs_wf]

theorem execLaunchCompletion_wf {root} (hs : Memory.wf s.mem) : OutWf (execLaunchCompletion root s) := by
  unfold execLaunchCompletion; grind only [finishLaunch_wf, OutWf]

theorem giveUp_wf {l} (hs : Memory.wf s.mem) : Memory.wf (giveUp s l).mem := by
  unfold giveUp; grind only [dropRefs_wf]

theorem cancelAll_wf {p : QueueId → BitVec 32 → Bool} (hs : Memory.wf s.mem) : Memory.wf (cancelAll s p).mem :=
  foldl_wf (fun _ _ => giveUp_wf) _ (completeAll_wf hs)

theorem execCancel_wf {host queue seq} (hs : Memory.wf s.mem) : OutWf (execCancel host queue seq s) := by
  unfold execCancel; grind only [arriveAll_wf, mgmtFirst_wf, portDoes_wf, cancelAll_wf, OutWf]

theorem execTenantDrain_wf {tenant} (hs : Memory.wf s.mem) : OutWf (execTenantDrain tenant s) := by
  unfold execTenantDrain; grind only [cancelAll_wf, OutWf]

@[simp] theorem freeBanks_mem {t} : (freeBanks s t).mem = s.mem := rfl

theorem execTenantDrainEnd_wf {tenant} (hs : Memory.wf s.mem) : OutWf (execTenantDrainEnd tenant s) := by
  unfold execTenantDrainEnd; grind only [dropTlb_mem, freeBanks_mem, OutWf]

theorem physRead_wf {sram key pa n} (hs : Memory.wf s.mem) : Memory.wf (physRead sram s key pa n).2.mem := by
  unfold physRead; grind only [readPhys_wf]

theorem physWrite_wf {sram key pa bs} (hs : Memory.wf s.mem) : Memory.wf (physWrite sram s key pa bs).mem := by
  unfold physWrite
  split
  · rwa [ctlWrite_mem]
  · exact foldl_wf (fun _ _ ht => by split <;> [exact memPut_wf _ _ ht; exact ht]) _ (writePhys_wf _ _ _ hs)

theorem execBar2Access_wf {host offset access} (hs : Memory.wf s.mem) :
    OutWf (execBar2Access host offset access s) := by
  unfold execBar2Access
  lift_lets
  intro pa
  split
  · exact outWf_next.mpr hs
  · split
    · split
      · split
        next n _ _ b u h =>
        have hr := physRead_wf (sram := false) (key := 0) (pa := pa) (n := n) hs
        rw [h] at hr
        exact outWf_next.mpr hr
      · exact outWf_next.mpr hs
    · refine outWf_next.mpr ?_
      split
      · exact physWrite_wf hs
      · exact hs

@[simp] theorem bar0Write_mem {host off bs} : (bar0Write s host off bs).mem = s.mem := by
  unfold bar0Write; grind only []

theorem execRegisterWrite_wf {pa access} (hs : Memory.wf s.mem) : OutWf (execRegisterWrite pa access s) := by
  unfold execRegisterWrite; grind only [ctlWrite_mem, bar0Write_mem, OutWf]

@[simp] theorem mailAnswer_mem {bs} : (mailAnswer s bs).mem = s.mem := rfl

@[simp] theorem extend_mem {m d} : (extend s m d).mem = s.mem := rfl

@[simp] theorem measure_mem {m image} : (measure s m image).mem = s.mem := rfl

/-- Boot takes bytes out of memory, and the addresses that are left still rise (R229, R402). -/
theorem zeroTable_wf (hs : Memory.wf s.mem) : Memory.wf (zeroTable s).mem := risingFrom_filter _ hs

theorem bootRegs_wf {x} (hs : Memory.wf s.mem) : Memory.wf (bootRegs s x).mem := by
  unfold bootRegs
  dsimp only
  rw [foldl_mem fun _ _ => modCore_mem]
  exact zeroTable_wf hs

theorem execBoot_wf {images} (hs : Memory.wf s.mem) : OutWf (execBoot images s) := by
  unfold execBoot; grind only [measure_mem, mailAnswer_mem, bootRegs_wf, OutWf]

theorem execKeySlotWrite_wf {slot key} (hs : Memory.wf s.mem) : OutWf (execKeySlotWrite slot key s) := by
  unfold execKeySlotWrite; grind only [OutWf]

theorem byFirmware_wf {f : State → State} (hs : Memory.wf s.mem) (hf : ∀ u, Memory.wf u.mem → Memory.wf (f u).mem) :
    OutWf (byFirmware s f) :=
  outWf_next.mpr (by split <;> [exact hf s hs; exact hs])

theorem execTenantKeyLoad_wf {slot wrapped} (hs : Memory.wf s.mem) : OutWf (execTenantKeyLoad slot wrapped s) := by
  unfold execTenantKeyLoad; grind only [byFirmware_wf]

theorem execMeasurementExtend_wf {reg digest} (hs : Memory.wf s.mem) :
    OutWf (execMeasurementExtend reg digest s) := by
  unfold execMeasurementExtend; grind only [byFirmware_wf, extend_mem]

theorem execAttestationRequest_wf {nonce} (hs : Memory.wf s.mem) : OutWf (execAttestationRequest nonce s) := by
  unfold execAttestationRequest; grind only [byFirmware_wf, mailAnswer_mem]

theorem execDebugAuthorization_wf {request} (hs : Memory.wf s.mem) : OutWf (execDebugAuthorization request s) := by
  unfold execDebugAuthorization; grind only [byFirmware_wf, measure_mem]

theorem execCorrectedError_wf {unit address} (hs : Memory.wf s.mem) :
    OutWf (execCorrectedError unit address s) := by
  unfold execCorrectedError; grind only [logError_mem, OutWf]

@[simp] theorem markSite_mem {site} : (markSite s site).mem = s.mem := by
  unfold markSite; split <;> simp

theorem execContainedError_wf {error} (hs : Memory.wf s.mem) : OutWf (execContainedError error s) := by
  unfold execContainedError; grind only [logError_mem, markSite_mem, OutWf]

theorem execUncontainedError_wf {unit address} (hs : Memory.wf s.mem) :
    OutWf (execUncontainedError unit address s) := by
  unfold execUncontainedError; grind only [goFatal_wf, OutWf]

theorem execThermalThrottle_wf {die} (hs : Memory.wf s.mem) : OutWf (execThermalThrottle die s) := by
  unfold execThermalThrottle; grind only [OutWf]

theorem execThermalTrip_wf {die} (hs : Memory.wf s.mem) : OutWf (execThermalTrip die s) := by
  unfold execThermalTrip; grind only [goFatal_wf, OutWf]

@[simp] theorem turnOff_mem {cl n} : (turnOff s cl n).mem = s.mem := by
  unfold turnOff; grind only [setCluster_mem]

theorem execPowerAdjust_wf {points lanes} (hs : Memory.wf s.mem) : OutWf (execPowerAdjust points lanes s) := by
  refine outWf_next.mpr ?_
  split
  · exact foldl_wf (fun _ _ ht => by rwa [turnOff_mem]) _
      (foldl_wf (fun _ _ ht => by exact ht) _ (foldl_wf (fun _ _ ht => by exact ht) _ hs))
  · exact hs

theorem execWearUpdate_wf {island age eol} (hs : Memory.wf s.mem) : OutWf (execWearUpdate island age eol s) := by
  unfold execWearUpdate; grind only [OutWf]

@[simp] theorem modHandler_mem {f : Handler → Handler} : (modHandler s f).mem = s.mem := rfl

@[simp] theorem modView_mem {f : Ctx → Ctx} : (modView s f).mem = s.mem := by
  unfold modView; grind only [modLive_mem, modCpu_mem]

@[simp] theorem modTask_mem {f : Ctx → Ctx} : (modTask s f).mem = s.mem := by
  unfold modTask; split <;> rfl

@[simp] theorem writeVector_mem {r v} : (writeVector s r v).mem = s.mem := by
  unfold writeVector; grind only [modView_mem, modCpu_mem]

@[simp] theorem writeTask_mem {r v} : (writeTask s r v).mem = s.mem := by
  unfold writeTask; grind only [modTask_mem, modCpu_mem]

@[simp] theorem writeUnit_mem {r v} : (writeUnit s r v).mem = s.mem := by
  unfold writeUnit; split <;> rfl

@[simp] theorem writeTgval_mem {v} : (writeTgval s v).mem = s.mem := by
  unfold writeTgval; dsimp only; split <;> simp

@[simp] theorem writeTrap_mem {r v} : (writeTrap s r v).mem = s.mem := by
  unfold writeTrap; split <;> simp

theorem writeSystem_wf {r v} (hs : Memory.wf s.mem) : Memory.wf (writeSystem s r v).mem := by
  unfold writeSystem; grind only [modCluster_mem, acknowledge_wf, writeBack_wf]

@[simp] theorem writeDrsel_mem {n} : (writeDrsel s n).mem = s.mem := rfl

theorem writeSoot_wf {n} (hs : Memory.wf s.mem) : Memory.wf (writeSoot s n).mem := by
  unfold writeSoot
  dsimp only
  split
  · exact foldl_wf (fun _ _ => writePhys_wf _ _ _) _ hs
  · exact hs

@[simp] theorem endSteps_mem : (endSteps s).mem = s.mem := foldl_mem (fun _ _ => modCore_mem) _ s

theorem writeDebug_wf {r v} (hs : Memory.wf s.mem) : Memory.wf (writeDebug s r v).mem := by
  unfold writeDebug; grind only [modCpu_mem, endSteps_mem, writeDrsel_mem, writeSoot_wf]

theorem writeSpr_wf {r v} (hs : Memory.wf s.mem) : Memory.wf (writeSpr s r v).mem := by
  unfold writeSpr; grind only [writeVector_mem, writeTask_mem, writeUnit_mem, writeTrap_mem, writeSystem_wf,
      writeDebug_wf]

@[simp] theorem afterRead_mem {r} : (afterRead s r).mem = s.mem := by
  unfold afterRead; split <;> rfl

theorem execMfs_wf {d spr} (hs : Memory.wf s.mem) : OutWf (execMfs d spr s) := by
  refine issue_wf hs fun u hu => ?_
  grind only [trap_wf, retire_wf, setG_mem, afterRead_mem]

theorem execMts_wf {a spr} (hs : Memory.wf s.mem) : OutWf (execMts a spr s) := by
  refine issue_wf hs fun u hu => ?_
  grind only [trap_wf, retire_wf, writeSpr_wf]

theorem takeStep_wf (hs : Memory.wf s.mem) : Memory.wf (takeStep s).mem := by
  unfold takeStep; grind only [debugStop_wf, modLive_mem]

theorem execSingleStep_wf (hs : Memory.wf s.mem) : OutWf (execSingleStep s) := by
  unfold execSingleStep; grind only [takeStep_wf, OutWf]

theorem takeBreak_wf {n} (hs : Memory.wf s.mem) : Memory.wf (takeBreak s n).mem := by
  unfold takeBreak; grind only [debugStop_wf]

theorem execDraughtClear_wf (hs : Memory.wf s.mem) : OutWf (execDraughtClear s) := by
  unfold execDraughtClear; grind only [writeDrsel_mem, OutWf]

theorem withPort_wf {f : State → State} (hs : Memory.wf s.mem) (hf : ∀ u, Memory.wf u.mem → Memory.wf (f u).mem) :
    OutWf (withPort s f) :=
  outWf_next.mpr (by split <;> [exact hf s hs; exact hs])

theorem haltCore_wf (hs : Memory.wf s.mem) : Memory.wf (haltCore s).mem := by
  unfold haltCore; grind only [haltTask_wf, modCpu_mem]

theorem execSpedyHalt_wf {core} (hs : Memory.wf s.mem) : OutWf (execSpedyHalt core s) := by
  unfold execSpedyHalt; grind only [withPort_wf, onCore_wf, haltCore_wf]

theorem runCore_wf {fail} (hs : Memory.wf s.mem) : Memory.wf (runCore s fail).mem := by
  unfold runCore; grind only [modCpu_mem, endTrapped_wf, putTrapped_wf, makeRoom_wf, endTask_wf]

theorem execSpedyRun_wf {core fail} (hs : Memory.wf s.mem) : OutWf (execSpedyRun core fail s) := by
  unfold execSpedyRun; grind only [withPort_wf, onCore_wf, runCore_wf]

theorem execCoreRestart_wf {core} (hs : Memory.wf s.mem) : OutWf (execCoreRestart core s) := by
  unfold execCoreRestart; grind only [modCore_mem, OutWf]

theorem execRdctx_wf {core} (hs : Memory.wf s.mem) : OutWf (execRdctx core s) := by
  unfold execRdctx; grind only [withPort_wf]

theorem execRdspr_wf {core spr} (hs : Memory.wf s.mem) : OutWf (execRdspr core spr s) := by
  unfold execRdspr; grind only [withPort_wf, onCore_wf, afterRead_mem]

theorem execWrspr_wf {core spr value} (hs : Memory.wf s.mem) : OutWf (execWrspr core spr value s) := by
  unfold execWrspr; grind only [withPort_wf, onCore_wf, writeSpr_wf]

theorem pokeByte_wf {key pa b} (hs : Memory.wf s.mem) : Memory.wf (pokeByte s key pa b).mem := by
  unfold pokeByte
  split
  · exact memPut_wf _ _ hs
  · exact writePhys_wf _ _ _ hs

theorem execRdpa_wf {pa count key} (hs : Memory.wf s.mem) : OutWf (execRdpa pa count key s) := by
  unfold execRdpa; grind only [withPort_wf]

theorem execWrpa_wf {pa bytes key} (hs : Memory.wf s.mem) : OutWf (execWrpa pa bytes key s) :=
  withPort_wf hs fun _ hu => physWrite_wf (foldl_wf (fun _ _ => pokeByte_wf) _ hu)

theorem execRdft_wf {n} (hs : Memory.wf s.mem) : OutWf (execRdft n s) := by
  unfold execRdft; grind only [withPort_wf]

end Sys2Proof.Machine
end

section
/-!
SUPPORT. The memory form and the vector instructions.
-/

namespace Sys2Proof.Machine

variable {s t : State}

@[simp] theorem modVec_mem {f : VecState → VecState} : (modVec s f).mem = s.mem := rfl

@[simp] theorem putV_mem {d v} : (putV s d v).mem = s.mem := rfl

@[simp] theorem setBeg_mem {k} : (setBeg s k).mem = s.mem := rfl

@[simp] theorem stayAt_mem {k} : (stayAt s k).mem = s.mem := rfl

@[simp] theorem clearBeg_mem : (clearBeg s).mem = s.mem := rfl

theorem retireV_wf (hs : Memory.wf s.mem) : Memory.wf (retireV s).mem := by
  unfold retireV; grind only [retire_wf, clearBeg_mem]

theorem lanes_wf {k : State → State} {tagsOk widths} (hs : Memory.wf s.mem)
    (hk : ∀ u, Memory.wf u.mem → Memory.wf (k u).mem) : Memory.wf (lanes s tagsOk widths k).mem := by
  unfold lanes; grind only [trap_wf]

theorem vector_wf {body : State → State} {a i caps} (hs : Memory.wf s.mem)
    (hbody : ∀ u, Memory.wf u.mem → Memory.wf (body u).mem) : OutWf (vector a i caps s body) := by
  unfold vector; grind only [issueV_wf]

theorem writeElems_wf {act : ℕ → Bool} {f : ℕ → Elt} {d t} (hs : Memory.wf s.mem) :
    Memory.wf (writeElems s d t act f).mem := by
  unfold writeElems; grind only [retireV_wf, putV_mem, accrue_mem]

theorem writeMask_wf {f : ℕ → Bool × Flags} {d k} (hs : Memory.wf s.mem) : Memory.wf (writeMask s d k f).mem := by
  unfold writeMask; grind only [retireV_wf, modVec_mem, accrue_mem]

theorem withPair_wf {ok : Ty → Bool} {more : Ty → List ℕ} {k : Pair → State → State} {form a b}
    (hs : Memory.wf s.mem) (hk : ∀ x0 u, Memory.wf u.mem → Memory.wf (k x0 u).mem) :
    Memory.wf (withPair s form a b ok more k).mem := by
  unfold withPair; grind only [trap_wf, lanes_wf]

@[simp] theorem setLength_mem {n wc} : (setLength s n wc).mem = s.mem := rfl

theorem execVsetl_wf {d a wc} (hs : Memory.wf s.mem) : OutWf (execVsetl d a wc s) :=
  issue_wf hs fun _ hu => atPoint_wf hu (fun _ _ hv => hv) fun _ hv =>
    retire_wf (by rwa [result_mem, setLength_mem])

theorem stripWait_wf {i p thr} (hs : Memory.wf s.mem) (ht : Memory.wf t.mem) :
    Memory.wf (stripWait s t i p thr).mem := by
  unfold stripWait; grind only [orHold_wf, saveRec_wf, preDone_mem]

theorem stripLook_wf {below : State → State → ℕ → State} {p d a wc} (hs : Memory.wf s.mem)
    (hbelow : ∀ u0 u1 x0, Memory.wf u0.mem → Memory.wf u1.mem → Memory.wf (below u0 u1 x0).mem) :
    Memory.wf (stripLook s p d a wc below).mem := by
  unfold stripLook; grind only [poisonTask_wf, settleL1_wf, homeRead_wf, atomicPoint_wf, setLength_mem,
      invalidate_mem, endHold_mem, retire_wf, result_mem]

theorem heldStrip_wf {k : State → State} {d a wc} (hs : Memory.wf s.mem)
    (hk : ∀ u, Memory.wf u.mem → Memory.wf (k u).mem) : Memory.wf (heldStrip s d a wc k).mem := by
  unfold heldStrip; grind only [stripLook_wf, endHold_mem, waitHere_mem]

theorem execVsetlw_wf {d a b wc} (hs : Memory.wf s.mem) : OutWf (execVsetlw d a b wc s) := by
  refine issue_wf hs fun u hu => ?_
  grind only [reclaim_wf, heldStrip_wf, Acc.done_wf, checkAccess_wf, stripLook_wf, stripWait_wf]

theorem execVtag_wf {d t} (hs : Memory.wf s.mem) : OutWf (execVtag d t s) := by
  refine vector_wf hs fun u hu => ?_
  grind only [retireV_wf, modVec_mem]

theorem execVclr_wf {d} (hs : Memory.wf s.mem) : OutWf (execVclr d s) := by
  refine vector_wf hs fun u hu => ?_
  grind only [retireV_wf, modVec_mem]

theorem execVfold_wf {d a} (hs : Memory.wf s.mem) : OutWf (execVfold d a s) := by
  refine vector_wf hs fun u hu => ?_
  grind only [trap_wf, lanes_wf, retireV_wf, modVec_mem, accrue_mem]

theorem execVmaxq_wf {d wc} (hs : Memory.wf s.mem) : OutWf (execVmaxq d wc s) := by
  refine issueV_wf hs fun u hu => ?_
  grind only [retire_wf, result_mem]

theorem vbin_wf {ok : Ty → Bool} {f : Pair → ℕ → ℕ → Elt} {i form d a b k} (hs : Memory.wf s.mem) :
    OutWf (vbin i form d a b k s ok f) := by
  unfold vbin; grind only [vector_wf, withPair_wf, writeElems_wf]

theorem vun_wf {ok : Ty → Bool} {f : Ty → ℕ → Elt} {i d a k} (hs : Memory.wf s.mem) :
    OutWf (vun i d a k s ok f) := by
  unfold vun; grind only [vector_wf, trap_wf, lanes_wf, writeElems_wf]

theorem vfmaOp_wf {i negP negZ form d a b k} (hs : Memory.wf s.mem) :
    OutWf (vfmaOp i negP negZ form d a b k s) := by
  unfold vfmaOp; grind only [vector_wf, lanes_wf, writeElems_wf, trap_wf]

@[simp] theorem efStop_mem {d tgt k run n} : (efStop s d tgt k run n).mem = s.mem := rfl

theorem convert_wf {i sat d a tgt k rm} (hs : Memory.wf s.mem) : OutWf (convert i sat d a tgt k rm s) := by
  unfold convert; grind only [vector_wf, trap_wf, lanes_wf, efStop_mem, writeElems_wf, modVec_mem]

theorem execVpackmx_wf {d a t rm} (hs : Memory.wf s.mem) : OutWf (execVpackmx d a t rm s) := by
  refine vector_wf hs fun u hu => ?_
  grind only [trap_wf, lanes_wf, retireV_wf, accrue_mem, modVec_mem]

theorem execVunpkmx_wf {d a t rm} (hs : Memory.wf s.mem) : OutWf (execVunpkmx d a t rm s) := by
  refine vector_wf hs fun u hu => ?_
  grind only [trap_wf, lanes_wf, writeElems_wf]

theorem probePieces_wf {got k ps} (hs : Memory.wf s.mem) : Memory.wf (probePieces s got k ps).2.2.mem := by
  induction ps generalizing s got with
  | nil => exact hs
  | cons p ps ih => unfold probePieces; grind only [resolveLiveWith_wf]

theorem probe_wf {got k u} (hs : Memory.wf s.mem) : Memory.wf (probe s got k u).2.2.mem := by
  unfold probe; grind only [probePieces_wf]

theorem probeFrom_wf {got k us} (hs : Memory.wf s.mem) : Memory.wf (probeFrom s got k us).2.2.mem := by
  induction us generalizing s got with
  | nil => exact hs
  | cons u us ih => exact ih (probe_wf hs)

theorem probeAll_wf {k us} (hs : Memory.wf s.mem) : Memory.wf (probeAll s k us).2.mem := by
  unfold probeAll; grind only [probeFrom_wf]

theorem stopAt_wf {i caps k u p} (hs : Memory.wf s.mem) : Memory.wf (stopAt s i caps k u p).mem := by
  unfold stopAt; grind only [debugStop_wf, memFault_wf]

theorem settleAll_wf {ps} (hs : Memory.wf s.mem) : Memory.wf (settleAll s ps).mem := by
  unfold settleAll
  split
  · exact foldl_wf (fun _ _ => settleL1_wf) _ hs
  · exact hs

theorem settleRead_wf {ps} (hs : Memory.wf s.mem) : Memory.wf (settleRead s ps).mem := by
  unfold settleRead
  split
  · exact foldl_wf (fun _ _ => settleL1_wf) _ hs
  · exact hs

theorem loadPlaces_wf {nt ps} (hs : Memory.wf s.mem) : Memory.wf (loadPlaces s nt ps).2.mem := by
  induction ps generalizing s with
  | nil => exact hs
  | cons p ps ih =>
    unfold loadPlaces
    have hr := loadAt_wf (stream := nt) (p := p.1) (n := p.2) hs
    generalize loadAt s nt p.1 p.2 = r at hr
    obtain ⟨_ | bs, u⟩ := r
    · exact hr
    · have hq := ih hr
      dsimp only
      generalize loadPlaces u nt ps = q at hq
      obtain ⟨_ | more, v⟩ := q <;> exact hq

theorem loadUnits_wf {nt us} (hs : Memory.wf s.mem) : Memory.wf (loadUnits s nt us).2.mem := by
  induction us generalizing s with
  | nil => exact hs
  | cons x us ih =>
    obtain ⟨u, p⟩ := x
    unfold loadUnits
    split
    · next ps =>
      have hr := loadPlaces_wf (nt := nt) (ps := ps) (settleRead_wf (ps := ps) hs)
      generalize loadPlaces (settleRead s ps) nt ps = r at hr
      obtain ⟨_ | bs, v⟩ := r
      · exact hr
      · have hq := ih hr
        dsimp only
        generalize loadUnits v nt us = q at hq
        obtain ⟨_ | more, w⟩ := q <;> exact hq
    · exact ih hs

theorem storePlaces_wf {nt ps bs} (hs : Memory.wf s.mem) : Memory.wf (storePlaces s nt ps bs).mem := by
  induction ps generalizing s bs with
  | nil => exact hs
  | cons p ps ih => exact ih (storeAt_wf hs)

theorem storeUnits_wf {bytes : Unit_ → List Byte} {nt l} (hs : Memory.wf s.mem) :
    Memory.wf (storeUnits s nt bytes l).mem := by
  refine foldl_wf (fun t x ht => ?_) _ hs
  split
  · exact settleAll_wf (storePlaces_wf ht)
  · exact ht

@[simp] theorem putLoaded_mem {d t l} : (putLoaded s d t l).mem = s.mem := rfl

theorem withBytes_wf {k : List (Unit_ × List Byte) → State → State} {nt l} (hs : Memory.wf s.mem)
    (hk : ∀ x0 u, Memory.wf u.mem → Memory.wf (k x0 u).mem) : Memory.wf (withBytes s nt l k).mem := by
  unfold withBytes; grind only [loadUnits_wf, poisonTask_wf]

theorem loadAll_wf {put : State → List (Unit_ × List Byte) → State} {nt mode grain l} (hs : Memory.wf s.mem)
    (hput : ∀ u x0, Memory.wf u.mem → Memory.wf (put u x0).mem) :
    Memory.wf (loadAll s nt mode grain l put).mem := by
  unfold loadAll; grind only [withBytes_wf, stayAt_mem, retireV_wf]

theorem loadVec_wf {put : State → List (Unit_ × List Byte) → State} {i caps nt mode grain us} (hs : Memory.wf s.mem)
    (hput : ∀ u x0, Memory.wf u.mem → Memory.wf (put u x0).mem) :
    Memory.wf (loadVec s i caps nt mode grain us put).mem := by
  unfold loadVec; grind only [probeAll_wf, loadAll_wf, stopAt_wf, withBytes_wf, retireV_wf, modVec_mem, setBeg_mem]

theorem loadElems_wf {addr : ℕ → ℕ} {i caps d t k nt mode} (hs : Memory.wf s.mem) :
    Memory.wf (loadElems s i caps d t k nt mode addr).mem := by
  unfold loadElems; grind only [retireV_wf, trap_wf, loadVec_wf, putLoaded_mem]

theorem vld_wf {body : State → List Word → State} {i caps t} (hs : Memory.wf s.mem)
    (hbody : ∀ u x0, Memory.wf u.mem → Memory.wf (body u x0).mem) : OutWf (vld i caps t s body) := by
  unfold vld; grind only [vector_wf, lanes_wf]

theorem execVldUnit_wf {d a k nt t} (hs : Memory.wf s.mem) : OutWf (execVldUnit d a k nt t s) := by
  unfold execVldUnit; grind only [vld_wf, loadElems_wf]

theorem execVldFirstFault_wf {d a k nt t} (hs : Memory.wf s.mem) : OutWf (execVldFirstFault d a k nt t s) := by
  unfold execVldFirstFault; grind only [vld_wf, loadElems_wf]

theorem execVldStrided_wf {d a b k nt t} (hs : Memory.wf s.mem) : OutWf (execVldStrided d a b k nt t s) := by
  unfold execVldStrided; grind only [vld_wf, loadElems_wf]

theorem execVldIndexed_wf {d a b k nt t} (hs : Memory.wf s.mem) : OutWf (execVldIndexed d a b k nt t s) := by
  refine vector_wf hs fun u hu => ?_
  grind only [trap_wf, lanes_wf, loadElems_wf]

@[simp] theorem putSegments_mem {d t l} : (putSegments s d t l).mem = s.mem := rfl

theorem segChecks_wf {k : State → State} {t base} (hs : Memory.wf s.mem)
    (hk : ∀ u, Memory.wf u.mem → Memory.wf (k u).mem) : Memory.wf (segChecks s t base k).mem := by
  unfold segChecks; grind only [lanes_wf, trap_wf, retireV_wf]

theorem execVldSegmentMx_wf {d a t} (hs : Memory.wf s.mem) : OutWf (execVldSegmentMx d a t s) := by
  refine vector_wf hs fun u hu => ?_
  grind only [segChecks_wf, loadVec_wf, putSegments_mem]

theorem storeVec_wf {bytes : Unit_ → List Byte} {i caps nt ordered grain us} (hs : Memory.wf s.mem) :
    Memory.wf (storeVec s i caps nt ordered grain us bytes).mem := by
  unfold storeVec; grind only [probeAll_wf, stayAt_mem, storeUnits_wf, retireV_wf, stopAt_wf, setBeg_mem]

theorem storeElems_wf {addr : ℕ → ℕ} {i caps d t k nt ordered} (hs : Memory.wf s.mem) :
    Memory.wf (storeElems s i caps d t k nt ordered addr).mem := by
  unfold storeElems; grind only [retireV_wf, trap_wf, storeVec_wf]

theorem vst_wf {body : State → List Word → State} {i caps d t} (hs : Memory.wf s.mem)
    (hbody : ∀ u x0, Memory.wf u.mem → Memory.wf (body u x0).mem) : OutWf (vst i caps d t s body) := by
  unfold vst; grind only [vector_wf, lanes_wf]

theorem execVstUnit_wf {d a k nt t} (hs : Memory.wf s.mem) : OutWf (execVstUnit d a k nt t s) := by
  unfold execVstUnit; grind only [vst_wf, storeElems_wf]

theorem execVstOrdered_wf {d a k nt t} (hs : Memory.wf s.mem) : OutWf (execVstOrdered d a k nt t s) := by
  unfold execVstOrdered; grind only [vst_wf, storeElems_wf]

theorem execVstStrided_wf {d a b k nt t} (hs : Memory.wf s.mem) : OutWf (execVstStrided d a b k nt t s) := by
  unfold execVstStrided; grind only [vst_wf, storeElems_wf]

theorem execVstIndexed_wf {d a b k nt t} (hs : Memory.wf s.mem) : OutWf (execVstIndexed d a b k nt t s) := by
  refine vector_wf hs fun u hu => ?_
  grind only [trap_wf, lanes_wf, storeElems_wf]

theorem execVstSegmentMx_wf {d a t} (hs : Memory.wf s.mem) : OutWf (execVstSegmentMx d a t s) := by
  refine vector_wf hs fun u hu => ?_
  grind only [trap_wf, segChecks_wf, storeVec_wf]

theorem execVsave_wf {a} (hs : Memory.wf s.mem) : OutWf (execVsave a s) := by
  refine issueV_wf hs fun u hu => ?_
  grind only [trap_wf, storeVec_wf]

@[simp] theorem restoreImage_mem {b} : (restoreImage s b).mem = s.mem := rfl

theorem loadWhole_wf {k : List Byte → List TlbEntry → State → State} {i base got us} (hs : Memory.wf s.mem)
    (hk : ∀ x0 x1 u, Memory.wf u.mem → Memory.wf (k x0 x1 u).mem) :
    Memory.wf (loadWhole s i base got us k).mem := by
  unfold loadWhole; grind only [probeFrom_wf, stopAt_wf, withBytes_wf]

theorem execVrestore_wf {a} (hs : Memory.wf s.mem) : OutWf (execVrestore a s) := by
  refine vector_wf hs fun u hu => ?_
  grind only [trap_wf, loadWhole_wf, retire_wf, restoreImage_mem]

theorem permute_wf {f : State → Ty → ℕ → (ℕ → ℕ) → ℕ → ℕ} {i caps d a k} (hs : Memory.wf s.mem) :
    OutWf (permute i caps d a k s f) := by
  unfold permute; grind only [vector_wf, trap_wf, lanes_wf, writeElems_wf]

theorem execVrgath_wf {d a b k} (hs : Memory.wf s.mem) : OutWf (execVrgath d a b k s) := by
  refine vector_wf hs fun u hu => ?_
  grind only [lanes_wf, writeElems_wf, trap_wf]

theorem execVcompr_wf {d a k} (hs : Memory.wf s.mem) : OutWf (execVcompr d a k s) := by
  refine vector_wf hs fun u hu => ?_
  grind only [trap_wf, lanes_wf, writeElems_wf]

theorem indexed_wf {f : State → ℕ → ℕ} {i d t k} (hs : Memory.wf s.mem) : OutWf (indexed i d t k s f) := by
  unfold indexed; grind only [vector_wf, lanes_wf, writeElems_wf]

theorem execVmerge_wf {form d a b k} (hs : Memory.wf s.mem) : OutWf (execVmerge form d a b k s) := by
  refine vector_wf hs fun u hu => ?_
  grind only [withPair_wf, writeElems_wf]

theorem compare_wf {ok : Ty → Bool} {fi : ℤ → ℤ → Bool} {ff : FpVal → FpVal → Bool} {i form d a b k anyInvalid}
    (hs : Memory.wf s.mem) : OutWf (compare i form d a b k s ok fi ff anyInvalid) := by
  unfold compare; grind only [vector_wf, withPair_wf, writeMask_wf]

theorem execVclass_wf {d a b k} (hs : Memory.wf s.mem) : OutWf (execVclass d a b k s) := by
  refine vector_wf hs fun u hu => ?_
  grind only [trap_wf, lanes_wf, writeMask_wf]

theorem maskOp_wf {f : State → ℕ → Bool} {i d k} (hs : Memory.wf s.mem) : OutWf (maskOp i d k s f) := by
  unfold maskOp; grind only [vector_wf, writeMask_wf]

theorem maskCount_wf {f : List ℕ → Word} {i d a k} (hs : Memory.wf s.mem) : OutWf (maskCount i d a k s f) := by
  unfold maskCount; grind only [vector_wf, retireV_wf, result_mem]

@[simp] theorem takeOldest_mem : (takeOldest s).2.mem = s.mem := by
  unfold takeOldest; grind only [modVec_mem]

theorem overtake_mem (h : overtake s = some t) : t.mem = s.mem := by
  unfold overtake at h
  grind only [takeOldest_mem, setG_mem, modLive_mem]

@[simp] theorem pushVq_mem {v} : (pushVq s v).mem = s.mem := rfl

theorem withPush_wf {k : State → State} {i caps q v} (hs : Memory.wf s.mem)
    (hk : ∀ u, Memory.wf u.mem → Memory.wf (k u).mem) : Memory.wf (withPush s i caps q v k).mem := by
  unfold withPush; grind only [pushVq_mem, overtake_mem, delay_wf]

theorem reduceTo_wf {more : State → State} {i caps d q t r} (hs : Memory.wf s.mem)
    (hmore : ∀ u, Memory.wf u.mem → Memory.wf (more u).mem) : Memory.wf (reduceTo s i caps d q t r more).mem := by
  unfold reduceTo; grind only [withPush_wf, retireV_wf, putV_mem, accrue_mem]

theorem reduce_wf {i d a q} {ok : Ty → Bool} {res : Ty → Ty} {f : State → Ty → Elt} (hs : Memory.wf s.mem) :
    OutWf (reduce i d a q s ok res f) := by
  refine vector_wf hs fun u hu => ?_
  split
  · exact trap_wf hu
  · exact lanes_wf hu fun _ hv => reduceTo_wf hv fun _ hw => hw

@[simp] theorem sumStop_mem {r n} : (sumStop s r n).mem = s.mem := rfl

theorem execVrsumo_wf {d a b k q} (hs : Memory.wf s.mem) : OutWf (execVrsumo d a b k q s) := by
  refine vector_wf hs fun u hu => ?_
  grind only [trap_wf, lanes_wf, sumStop_mem, reduceTo_wf, modVec_mem]

theorem execVmvsx_wf {d b} (hs : Memory.wf s.mem) : OutWf (execVmvsx d b s) := by
  refine vector_wf hs fun u hu => ?_
  grind only [trap_wf, lanes_wf, writeElems_wf]

theorem execVmvxs_wf {d a} (hs : Memory.wf s.mem) : OutWf (execVmvxs d a s) := by
  refine vector_wf hs fun u hu => ?_
  grind only [trap_wf, lanes_wf, retireV_wf, result_mem]

theorem execVqpop_wf {d} (hs : Memory.wf s.mem) : OutWf (execVqpop d s) := by
  refine issueV_wf hs fun u hu => ?_
  grind only [takeOldest_mem, retireV_wf, result_mem]

theorem execVqlen_wf {d} (hs : Memory.wf s.mem) : OutWf (execVqlen d s) := by
  refine issueV_wf hs fun u hu => ?_
  grind only [retireV_wf, result_mem]

theorem execVmv_wf {form d a b k} (hs : Memory.wf s.mem) : OutWf (execVmv form d a b k s) := by
  refine vector_wf hs fun u hu => ?_
  grind only [trap_wf, lanes_wf, writeElems_wf]

end Sys2Proof.Machine
end

section
/-!
PROOF. Every step keeps the memory form (O58): every constructor of the model, then the choice of what a step does
and what follows it.
-/

namespace Sys2Proof.Machine

variable {s t : State}

@[simp] theorem wroteBy_mem {popped pc rs} : (wroteBy popped s t pc rs).mem = t.mem := by
  unfold wroteBy; split <;> rfl

/-- An outcome's invariant passes through what follows a next state. -/
theorem onNext_wf {o : Out} {f : State → State} (ho : OutWf o) (hf : ∀ u, Memory.wf u.mem → Memory.wf (f u).mem) :
    OutWf (onNext o f) := by
  cases o with
  | next u => exact outWf_next.mpr (hf u (outWf_next.mp ho))
  | fault r => exact outWf_fault
  | refused r => exact outWf_refused

/-- Every constructor of the dispatch, by the lemma of its meaning; those that share an operation share its case. -/
theorem exec_wf {i} (hs : Memory.wf s.mem) : OutWf (exec i s) := by
  cases i <;> rw [exec]
  case add | sub | and | or | xor | andn | orn | shl | shr | sha | ror | mul | mulh | mulhn | div | divn | rem
    | remn | min | max | minn | maxn | slt | sltn => exact alu_wf hs
  case clz | ctz | popc | brev => exact alu1_wf hs
  case addi | andi | ori | xori | slti | sltni | liw | lis | addpc | sel | lea => exact produce_wf hs
  case shli | shri | shai | rori => exact shiftConst_wf hs
  case fadd | fsub | fmul | fdiv => exact fop2_wf hs
  case fsqrt | fclass | fcvti | fcvtn | fcvtfi | fcvtfn | fcvtf => exact fop1_wf hs
  case fmin | fmax | fcmpeq | fcmplt | fcmple | fcmpun => exact fopCmp_wf hs
  case fma | fnma => exact fmaOp_wf hs
  case j => exact execJ_wf hs
  case jl => exact execJl_wf hs
  case jrl => exact execJrl_wf hs
  case beq | bne | blt | bge | bltn | bgen => exact branch_wf hs
  case ld | xld => exact loadTo_wf hs
  case st | xst => exact storeFrom_wf hs
  case amoSwap | amoAdd | amoAnd | amoOr | amoXor | amoMin | amoMax | amoMinn | amoMaxn | amoCas => exact amo_wf hs
  case cinit => exact execCinit_wf hs
  case cadd => exact execCadd_wf hs
  case cread | ctest => exact counterRead_wf hs
  case rld | rst | radd | rswp => exact remote_wf hs
  case traps => exact execTraps_wf hs
  case brk => exact execBrk_wf hs
  case eret => exact execEret_wf hs
  case halt => exact execHalt_wf hs
  case waiti => exact execWaiti_wf hs
  case codesync => exact execCodesync_wf hs
  case tlbinv => exact execTlbinv_wf hs
  case l1wb => exact execL1wb_wf hs
  case mfs => exact execMfs_wf hs
  case mts => exact execMts_wf hs
  case pfx => exact execPfx_wf hs
  case spawn => exact execSpawn_wf hs
  case spawng => exact execSpawng_wf hs
  case finish => exact execFinish_wf hs
  case fref => exact execFref_wf hs
  case fdrop => exact execFdrop_wf hs
  case fpoll => exact execFpoll_wf hs
  case ftake => exact execFtake_wf hs
  case rpoint => exact execRpoint_wf hs
  case rhold => exact execRhold_wf hs
  case rrel => exact execRrel_wf hs
  case tself => exact execTself_wf hs
  case ffail => exact execFfail_wf hs
  case await => exact execAwait_wf hs
  case awaitany => exact execAwaitany_wf hs
  case yield => exact execYield_wf hs
  case cwait => exact execCwait_wf hs
  case cpy1d => exact execCpy1d_wf hs
  case cpy2d | cpgath => exact describedJob_wf hs
  case cpfill => exact execCpfill_wf hs
  case cpqry => exact execCpqry_wf hs
  case mxbind => exact execMxbind_wf hs
  case mxload => exact execMxload_wf hs
  case mxrow | mxrowz => exact rowInstr_wf hs
  case mxsync => exact execMxsync_wf hs
  case mxrd => exact execMxrd_wf hs
  case mxzero => exact execMxzero_wf hs
  case mxrel => exact execMxrel_wf hs
  case mxqry => exact execMxqry_wf hs
  case fgrp => exact execFgrp_wf hs
  case fcoll => exact execFcoll_wf hs
  case fbar => exact execFbar_wf hs
  case fgqry => exact execFgqry_wf hs
  case fgfree => exact execFgfree_wf hs
  case dmark => exact execDmark_wf hs
  case dsample => exact execDsample_wf hs
  case vsetl => exact execVsetl_wf hs
  case vsetlw => exact execVsetlw_wf hs
  case vtag => exact execVtag_wf hs
  case vclr => exact execVclr_wf hs
  case vfold => exact execVfold_wf hs
  case vsave => exact execVsave_wf hs
  case vrestore => exact execVrestore_wf hs
  case vmaxq => exact execVmaxq_wf hs
  case vadd | vsub | vrsub | vmul | vmulh | vmin | vmax | vdiv | vrem | vand | vor | vxor | vshl | vshr | vsha
    | vsadd | vssub | vavg => exact vbin_wf hs
  case vabs | vneg | vsqrt | vexp2 => exact vun_wf hs
  case vfma | vfms | vfnma | vfnms => exact vfmaOp_wf hs
  case vcvt | vcvts => exact convert_wf hs
  case vpackmx => exact execVpackmx_wf hs
  case vunpkmx => exact execVunpkmx_wf hs
  case vrsum | vrmax | vrmin | vrand | vror | vrxor | vrmaxi => exact reduce_wf hs
  case vrsumo => exact execVrsumo_wf hs
  case vslup | vsldn | vexpnd | vbcast | vrev | vzip | vunzip => exact permute_wf hs
  case vrgath => exact execVrgath_wf hs
  case vcompr => exact execVcompr_wf hs
  case viota | vidx => exact indexed_wf hs
  case vmerge => exact execVmerge_wf hs
  case vceq | vcne | vclt | vcle | vcgt | vcge | vcun => exact compare_wf hs
  case vclass => exact execVclass_wf hs
  case kand | kor | kxor | knot | kandn | ksbf | ksif | kmov => exact maskOp_wf hs
  case kpopc | kfirst => exact maskCount_wf hs
  case vldUnit => exact execVldUnit_wf hs
  case vldStrided => exact execVldStrided_wf hs
  case vldIndexed => exact execVldIndexed_wf hs
  case vldFirstFault => exact execVldFirstFault_wf hs
  case vldSegmentMx => exact execVldSegmentMx_wf hs
  case vstUnit => exact execVstUnit_wf hs
  case vstStrided => exact execVstStrided_wf hs
  case vstIndexed => exact execVstIndexed_wf hs
  case vstOrdered => exact execVstOrdered_wf hs
  case vstSegmentMx => exact execVstSegmentMx_wf hs
  case vmvsx => exact execVmvsx_wf hs
  case vmvxs => exact execVmvxs_wf hs
  case vqpop => exact execVqpop_wf hs
  case vqlen => exact execVqlen_wf hs
  case vmv => exact execVmv_wf hs
  case timer | host | error => exact outWf_next.mpr (interrupt_wf hs)
  case quantumExpiry => exact execQuantumExpiry_wf hs
  case preemptReqCooperative => exact execPreemptReqCooperative_wf hs
  case preemptReqForced => exact execPreemptReqForced_wf hs
  case preemptReqToHandler => exact execPreemptReqToHandler_wf hs
  case preemptCoopTimeout => exact execPreemptCoopTimeout_wf hs
  case readySelection => exact execReadySelection_wf hs
  case spillHoldEnd => exact execSpillHoldEnd_wf hs
  case steal => exact execSteal_wf hs
  case codeLineFill => exact execCodeLineFill_wf hs
  case faultRecordDelivery => exact execFaultRecordDelivery_wf hs
  case fsackRetry | fsackFail | fsackNote | fsackInvalid => exact outWf_next.mpr (ackFrom_wf hs)
  case flueAccept => exact execFlueAccept_wf hs
  case flueChunk => exact execFlueChunk_wf hs
  case kilnAccept => exact execKilnAccept_wf hs
  case tileLoad => exact execTileLoad_wf hs
  case rowJob => exact execRowJob_wf hs
  case accumulatorZeroJob => exact execAccumulatorZeroJob_wf hs
  case bankClear => exact execBankClear_wf hs
  case rmtAccept => exact execRmtAccept_wf hs
  case remoteAccess => exact execRemoteAccess_wf hs
  case remoteReply => exact execRemoteReply_wf hs
  case collAccept => exact execCollAccept_wf hs
  case groupMatch => exact execGroupMatch_wf hs
  case collChunk => exact execCollChunk_wf hs
  case groupFail => exact execGroupFail_wf hs
  case doorbell => exact execDoorbell_wf hs
  case cancel => exact execCancel_wf hs
  case hostSignal => exact execHostSignal_wf hs
  case bar2Access => exact execBar2Access_wf hs
  case entryArrival => exact execEntryArrival_wf hs
  case dispatch => exact execDispatch_wf hs
  case launchCompletion => exact execLaunchCompletion_wf hs
  case tenantDrain => exact execTenantDrain_wf hs
  case tenantDrainEnd => exact execTenantDrainEnd_wf hs
  case keySlotWrite => exact execKeySlotWrite_wf hs
  case attestationRequest => exact execAttestationRequest_wf hs
  case measurementExtend => exact execMeasurementExtend_wf hs
  case tenantKeyLoad => exact execTenantKeyLoad_wf hs
  case debugAuthorization => exact execDebugAuthorization_wf hs
  case spedyHalt => exact execSpedyHalt_wf hs
  case spedyRun => exact execSpedyRun_wf hs
  case rdctx => exact execRdctx_wf hs
  case rdspr => exact execRdspr_wf hs
  case wrspr => exact execWrspr_wf hs
  case rdpa => exact execRdpa_wf hs
  case wrpa => exact execWrpa_wf hs
  case rdft => exact execRdft_wf hs
  case singleStep => exact execSingleStep_wf hs
  case draughtClear => exact execDraughtClear_wf hs
  case registerWrite => exact execRegisterWrite_wf hs
  case boot => exact execBoot_wf hs
  case coreRestart => exact execCoreRestart_wf hs
  case waitiWake => exact execWaitiWake_wf hs
  case correctedError => exact execCorrectedError_wf hs
  case containedError => exact execContainedError_wf hs
  case uncontainedError => exact execUncontainedError_wf hs
  case thermalThrottle => exact execThermalThrottle_wf hs
  case thermalTrip => exact execThermalTrip_wf hs
  case powerAdjust => exact execPowerAdjust_wf hs
  case wearUpdate => exact execWearUpdate_wf hs
  case illegalWord => exact execIllegalWord_wf hs
  case targetUnreachable => exact execTargetUnreachable_wf hs

theorem Deed.run_wf {x} (hs : Memory.wf s.mem) : OutWf (Deed.run x s) := by
  unfold Deed.run; grind only [execFaultRecordDelivery_wf, execFlueChunk_wf, execBankClear_wf, execTileLoad_wf,
      execRowJob_wf, execAccumulatorZeroJob_wf, execGroupMatch_wf, execCollChunk_wf, execGroupFail_wf,
      execRemoteAccess_wf, execLaunchCompletion_wf, execEntryArrival_wf, execTenantDrain_wf,
      execTenantDrainEnd_wf, execDispatch_wf]

theorem restStep_wf (hs : Memory.wf s.mem) : OutWf (restStep s) := by
  unfold restStep; grind only [turnTo_mem, Deed.run_wf, plainWake_wf, OutWf]

@[simp] theorem armed_mem {i} : (armed i s).mem = s.mem := by
  unfold armed; grind only [modLive_mem]

@[simp] theorem disarm_mem : (disarm s).mem = s.mem := rfl

@[simp] theorem onceDone_mem : (onceDone s).mem = s.mem := rfl

@[simp] theorem onceNoted_mem {i} : (onceNoted i s t).mem = t.mem := by
  unfold onceNoted; split <;> [rfl; split <;> rfl]

@[simp] theorem frontWrote_mem {i} : (frontWrote i s t).mem = t.mem := by
  unfold frontWrote; grind only [wroteBy_mem]

@[simp] theorem keepWord_mem {i} : (keepWord i s).mem = s.mem := rfl

@[simp] theorem countIssue_mem : (countIssue s t).mem = t.mem := by unfold countIssue; split <;> rfl

@[simp] theorem noted_mem {i} : (noted i s t).mem = t.mem := by
  unfold noted; grind only [countIssue_mem, keepWord_mem, disarm_mem, bump_mem, onceNoted_mem, frontWrote_mem]

theorem issueWord_wf {word} (hs : Memory.wf s.mem) : OutWf (issueWord s word) := by
  unfold issueWord; grind only [onNext_wf, exec_wf, armed_mem, noted_mem, execIllegalWord_wf]

theorem fetchStep_wf (hs : Memory.wf s.mem) : OutWf (fetchStep s) := by
  unfold fetchStep; grind only [waitHere_mem, exec_wf, trap_wf, takeBreak_wf, issueWord_wf, OutWf]

theorem frontStep_wf (hs : Memory.wf s.mem) : OutWf (frontStep s) := by
  unfold frontStep; grind only [issueWord_wf, fetchStep_wf]

@[simp] theorem laneNoted_mem {i e} : (laneNoted i e s t).mem = t.mem := by
  unfold laneNoted; grind only [modVec_mem, wroteBy_mem, bump_mem, onceDone_mem]

@[simp] theorem foresee_mem : (foresee s).mem = s.mem := rfl

@[simp] theorem forget_mem : (forget s).mem = s.mem := rfl

theorem lanesFirst_wf {front : State → Out} (hs : Memory.wf s.mem)
    (hfront : ∀ u, Memory.wf u.mem → OutWf (front u)) : OutWf (lanesFirst s front) := by
  unfold lanesFirst; grind only [exec_wf, modCpu_mem, onNext_wf, foresee_mem, forget_mem, laneNoted_mem, OutWf]

theorem laneStep_wf (hs : Memory.wf s.mem) : OutWf (laneStep s) := by
  unfold laneStep; grind only [lanesFirst_wf, frontStep_wf]

theorem latchStep_wf {e} (hs : Memory.wf s.mem) : OutWf (latchStep s e) := by
  unfold latchStep; grind only [modLive_mem, laneStep_wf, lanesFirst_wf, issueWord_wf]

theorem failStep_wf {code} (hs : Memory.wf s.mem) : OutWf (failStep s code) := by
  unfold failStep; grind only [lanesFirst_wf, endTask_wf, waitHere_mem, OutWf]

theorem contextStep_wf (hs : Memory.wf s.mem) : OutWf (contextStep s) := by
  unfold contextStep; grind only [latchStep_wf, failStep_wf, laneStep_wf]

@[simp] theorem yieldTurn_mem : (yieldTurn s).mem = s.mem := by
  unfold yieldTurn; grind only [turnTo_mem]

theorem enginesFirst_wf {own : State → Out} (hs : Memory.wf s.mem) (hown : ∀ u, Memory.wf u.mem → OutWf (own u)) :
    OutWf (enginesFirst s own) := by
  unfold enginesFirst; grind only [turnTo_mem, Deed.run_wf, onNext_wf, yieldTurn_mem, OutWf]

theorem runStep_wf (hs : Memory.wf s.mem) : OutWf (runStep s) := by
  unfold runStep; grind only [restStep_wf, contextStep_wf, enginesFirst_wf, OutWf]

theorem idleStep_wf (hs : Memory.wf s.mem) : OutWf (idleStep s) := by
  unfold idleStep; grind only [exec_wf, modCpu_mem, restStep_wf]

theorem interruptStep_wf {cause} (hs : Memory.wf s.mem) : OutWf (interruptStep s cause) := by
  unfold interruptStep; grind only [exec_wf, takeInterrupt_wf, OutWf]

theorem cutDue_mem (h : cutDue s = some t) : t.mem = s.mem := by
  unfold cutDue at h
  split at h
  · obtain ⟨i, -, h⟩ := Option.bind_eq_some_iff.mp h
    obtain ⟨g, -, h⟩ := Option.bind_eq_some_iff.mp h
    dsimp only at h
    split at h
    · obtain rfl := Option.some.inj h; rfl
    · exact absurd h (by simp)
  · exact absurd h (by simp)

/-- The choice at an instruction boundary: a refetch, a halt, a cut, an interrupt, a switch, or the core's own work. -/
theorem boundary_wf (hs : Memory.wf s.mem) : OutWf (boundary s) := by
  unfold boundary; grind only [exec_wf, restStep_wf, cutDue_mem, onNext_wf, contextStep_wf, modCpu_mem,
      interruptStep_wf, idleStep_wf, runStep_wf]

theorem choose_wf (hs : Memory.wf s.mem) : OutWf (choose s) := by
  unfold choose; grind only [turnTo_mem, exec_wf, boundary_wf, OutWf]

@[simp] theorem draughtTick_mem : (draughtTick s).mem = s.mem := by
  unfold draughtTick; grind only [modCpu_mem]

theorem pass_wf (hs : Memory.wf s.mem) : Memory.wf (pass s).mem := by
  unfold pass; grind only [markReady_mem, settleBlocks_mem, enterGates_wf, draughtTick_mem]

theorem endStep_wf (ht : Memory.wf t.mem) : Memory.wf (endStep s t).mem := by
  unfold endStep; grind only [keepTable_wf, pass_wf]

/-- Settles O58: what a step chooses to do keeps the form (`choose_wf`), and so do the time that passes and the future
table that is written back after it (`endStep_wf`). -/
theorem stepKeepsMemoryForm : Obligations.StepKeepsMemoryForm := by
  intro s t hs h
  unfold step at h
  split at h
  · cases h
  · exact onNext_wf (choose_wf hs) (fun _ hu => endStep_wf hu) t h

end Sys2Proof.Machine
end

section
/-!
PROOF. A task that an `fsack` has failed is running still, and its end comes before the word at its pc (O54).
-/

namespace Sys2Proof.Machine

open Sys2Proof.Claims

/-- A task at an ADDI that an `fsack` with FAIL has failed with code 9. `failStuck` marks a task held in place so while
older instructions are in its VIQ, and once the lanes have completed those, nothing but the mark is left (R249, R385). -/
def failedTask : State := modLive (State.reset.withFetchWord 32 0x0842FFF8) fun c => { c with failWith := some 9 }

/-- The ADDI at the failed task's pc. -/
def failedNext : Instr := .addi 2 2 0xFFF8

theorem failedTask_issues :
    Issues failedTask { tenant := 0, line := 1, words := lineWith 0x40 0x0842FFF8 } failedNext where
  alive := rfl
  agenda := rfl
  running := rfl
  context := by decide +kernel
  refetch := by decide +kernel
  interrupt := by decide +kernel
  switch := by decide +kernel
  held := by decide +kernel
  stall := rfl
  latch := rfl
  queue := rfl
  step := by decide +kernel
  aligned := by decide +kernel
  line := by decide +kernel
  unbroken := by decide +kernel
  word := by decide +kernel

/-- A step after which the core runs no context. -/
def endsIdle : Out → Bool
  | .next t => t.cpu.who = .idle
  | _ => false

/-- The failed task ends. -/
theorem step_failedTask_endsIdle : endsIdle (step failedTask) = true := by decide +kernel

/-- The ADDI would leave it running. -/
theorem around_failedTask_goesOn : endsIdle (around failedNext failedTask) = false := by decide +kernel

/-- Refutes O54: `Issues` says nothing of `failWith`, and `contextStep` ends a failed task before the front issues the
word at its pc. -/
theorem not_stepRunsDecoded : ¬ Obligations.StepRunsDecoded := by
  intro h
  have hstep : step failedTask = around failedNext failedTask := (h failedTask _ 0 failedNext).1 failedTask_issues
  have hends : endsIdle (around failedNext failedTask) = true := hstep ▸ step_failedTask_endsIdle
  exact absurd (hends.symm.trans around_failedTask_goesOn) (by decide)

end Sys2Proof.Machine
end

section
/-!
PROOF. The special registers of a core at reset (O59): most read the same on every core, by computation; those of a
cluster or an island read one entry of a table that reset fills with one value.
-/

namespace Sys2Proof.Machine

open Sys2Proof.Claims

/-- The device at reset with core n in the turn. -/
def resetAt (n : Fin 768) : State := { State.reset with cpu := Core.reset n.val }

variable (n : Fin 768)

/-- A register that names neither its core nor its cluster reads on core n what it reads on core 0. -/
theorem readSpr_resetAt_of_zero {r : Spr} (hread : readSpr (resetAt n) r = readSpr (resetAt 0) r)
    (hvalue : resetValue n r = resetValue 0 r) (hzero : readSpr (resetAt 0) r = resetValue 0 r) :
    readSpr (resetAt n) r = resetValue n r := hread.trans (hzero.trans hvalue.symm)

theorem gmap_resetAt : gmap (resetAt n) n.val = 0 := Vector.get_replicate ..

theorem readSpr_resetAt_vgrant : readSpr (resetAt n) .vgrant = 0 := by
  show w (2048 * popN 8 (gmap (resetAt n) n.val).toNat + (gmap (resetAt n) n.val).toNat * 2 ^ 16 +
    popN 8 (gmap (resetAt n) n.val).toNat * 2 ^ 24) = 0
  rw [gmap_resetAt]
  decide +kernel

theorem readSpr_resetAt_cycle : readSpr (resetAt n) .cycle = 0 := Vector.get_replicate ..

/-- Both operating points of the island are 7 at reset, and its entitlement is 8. -/
theorem readSpr_resetAt_islst : readSpr (resetAt n) .islst = 0x877 := by
  have hpoint : ∀ i : Fin 256, State.reset.points.get i = 7 := Vector.get_replicate _ 7
  show w ((State.reset.points.get _).val + (State.reset.points.get _).val * 16 + 8 * 256) = 0x877
  rw [hpoint, hpoint]
  rfl

/-- The indexed debug registers read their entries, of which reset makes all alike. -/
theorem readSpr_resetAt_indexed (i : Fin 4) : readSpr (resetAt n) (.ibrk i) = 0 ∧ readSpr (resetAt n) (.wtch i) = 0 ∧
    readSpr (resetAt n) (.wctl i) = 0x30 := by
  obtain ⟨hb, hw, hc⟩ := groupOfSpr_indexed i
  rw [readSpr_debug _ hb, readSpr_debug _ hw, readSpr_debug _ hc]
  exact ⟨Vector.get_replicate .., Vector.get_replicate ..,
    congrArg (BitVec.setWidth 64) (Vector.get_replicate ..)⟩

theorem readSpr_resetAt {r : Spr} (hr : r ≠ .devid) : readSpr (resetAt n) r = resetValue n r := by
  cases r
  case devid => exact absurd rfl hr
  case vgrant => exact readSpr_resetAt_vgrant n
  case cycle => exact readSpr_resetAt_cycle n
  case islst => exact readSpr_resetAt_islst n
  case ibrk i => exact (readSpr_resetAt_indexed n i).1
  case wtch i => exact (readSpr_resetAt_indexed n i).2.1
  case wctl i => exact (readSpr_resetAt_indexed n i).2.2
  case pfxl | tlevel | thold | wssize | wsstat | ptroot | kbind | cpstat | podcfg | rmtstat | tpend | fsack | wear =>
    exact readSpr_resetAt_of_zero n rfl rfl (by decide +kernel)
  all_goals rfl

/-- Settles O59: the special registers by `readSpr_resetAt`, the tables by what reset fills them with. -/
theorem resetState : Obligations.ResetState := by
  refine ⟨by unfold State.memOk; decide, fun n r hr => readSpr_resetAt n hr, fun n r => ?_, ?_, ?_⟩
  · exact ⟨Vector.get_replicate .., Vector.get_replicate ..⟩
  · exact Vector.get_replicate _ 0
  · exact Vector.get_replicate _ 0

end Sys2Proof.Machine
end
section
/-!
PROOF. The decoder and the encoder (O55 to O57). A field that the encoder puts at its place is read back, so that each
word decodes to its instruction; and the fields that a decoder reads, with those that it holds to a fixed value, make up
the whole word.
-/

namespace Sys2Proof

/-! The codes of the operand kinds: each fits its field, and is read back (R39 to R41, R46). -/

theorem Size.code_lt (z : Size) : z.code < 8 := by cases z <;> decide
theorem Ty.code_lt (t : Ty) : t.code < 16 := by cases t <;> decide
theorem RM.code_lt (r : RM) : r.code < 8 := by cases r <;> decide
theorem Fmt.code_lt (f : Fmt) : f.code < 4 := by cases f <;> decide
theorem VForm.code_lt (f : VForm) : f.code < 4 := by cases f <;> decide

theorem Tag.code_lt (t : Tag) : Tag.code t < 32 := by
  cases t with
  | none => decide
  | some t => have := t.code_lt; simp only [Tag.code]; omega

@[simp] theorem Size.ofCode_code (z : Size) : Size.ofCode z.code = some z := by cases z <;> rfl
@[simp] theorem Ty.ofCode_code (t : Ty) : Ty.ofCode t.code = some t := by cases t <;> rfl
@[simp] theorem Ty.ofTag_code (t : Ty) : Ty.ofTag (t.code + 1) = some t := t.ofCode_code
@[simp] theorem RM.ofCode_code (r : RM) : RM.ofCode r.code = some r := by cases r <;> rfl
@[simp] theorem Fmt.get_code (f : Fmt) : Fmt.get ⟨f.code, f.code_lt⟩ = f := by cases f <;> rfl
@[simp] theorem VForm.ofCode_code (f : VForm) : VForm.ofCode f.code = some f := by cases f <;> rfl
@[simp] theorem Tag.ofCode_code (t : Tag) : Tag.ofCode (Tag.code t) = some t := by
  cases t with
  | none => rfl
  | some t => simp [Tag.code, Tag.ofCode]

theorem Spr.mem_all (r : Spr) : r ∈ Spr.all := by
  cases r with
  | ibrk n | wtch n | wctl n => fin_cases n <;> decide
  | _ => decide

theorem Spr.code_lt (r : Spr) : r.code < 2 ^ 16 :=
  (by decide : ∀ r ∈ Spr.all, r.code < 2 ^ 16) r r.mem_all

@[simp] theorem Spr.ofCode_code (r : Spr) : Spr.ofCode r.code = some r :=
  (by decide +kernel : ∀ r ∈ Spr.all, Spr.ofCode r.code = some r) r r.mem_all

theorem Size.ofCode_eq_some {n : Nat} {z : Size} : Size.ofCode n = some z ↔ n = z.code := by
  refine ⟨fun h => ?_, fun h => h ▸ z.ofCode_code⟩
  unfold Size.ofCode at h
  split at h <;> cases h <;> rfl

theorem Ty.ofCode_eq_some {n : Nat} {t : Ty} : Ty.ofCode n = some t ↔ n = t.code := by
  refine ⟨fun h => ?_, fun h => h ▸ t.ofCode_code⟩
  unfold Ty.ofCode at h
  split at h <;> cases h <;> rfl

theorem Ty.ofTag_eq_some {n : Nat} {t : Ty} : Ty.ofTag n = some t ↔ n = t.code + 1 := by
  cases n with
  | zero => simp [Ty.ofTag]
  | succ n => simp [Ty.ofTag, Ty.ofCode_eq_some]

theorem Tag.ofCode_eq_some {n : Nat} {t : Tag} : Tag.ofCode n = some t ↔ n = Tag.code t := by
  refine ⟨fun h => ?_, fun h => h ▸ Tag.ofCode_code t⟩
  cases n with
  | zero => cases h; rfl
  | succ n =>
    obtain ⟨u, hu, rfl⟩ := Option.map_eq_some_iff.mp h
    exact congrArg (· + 1) (Ty.ofCode_eq_some.mp hu)

theorem RM.ofCode_eq_some {n : Nat} {r : RM} : RM.ofCode n = some r ↔ n = r.code := by
  refine ⟨fun h => ?_, fun h => h ▸ r.ofCode_code⟩
  unfold RM.ofCode at h
  split at h <;> cases h <;> rfl

theorem VForm.ofCode_eq_some {n : Nat} {f : VForm} : VForm.ofCode n = some f ↔ n = f.code := by
  refine ⟨fun h => ?_, fun h => h ▸ f.ofCode_code⟩
  unfold VForm.ofCode at h
  split at h <;> cases h <;> rfl

theorem Spr.ofCode_eq_some {n : Nat} {r : Spr} : Spr.ofCode n = some r ↔ n = r.code := by
  refine ⟨fun h => ?_, fun h => h ▸ r.ofCode_code⟩
  rw [Spr.ofCode] at h
  have hcode := List.find?_some h
  exact (beq_iff_eq.mp hcode).symm

/-! A word that the encoder puts together, field by field. The equations of `put` are not proved by `rfl`, so that no
proof has the kernel compare sums by unfolding them. -/

theorem put_nil (b : Nat) : put b [] = b := by simp [put]

theorem put_cons (b c p : Nat) (fs : List (Nat × Nat)) : put b ((c, p) :: fs) = put b fs + c * 2 ^ p := by simp [put]

/-- How many bits the code of an operand of each kind takes (R39 to R41, R46). -/
inductive CodeFits : Nat → Nat → Prop
  | reg (r : Reg) : CodeFits r.val 5
  | kreg (k : KReg) : CodeFits k.val 3
  | shift (n : Fin 4) : CodeFits n.val 2
  | amount (n : Fin 64) : CodeFits n.val 6
  | flag (b : Bool) : CodeFits b.toNat 1
  | imm {n : Nat} (v : BitVec n) : CodeFits v.toNat n
  | size (z : Size) : CodeFits z.code 3
  | fmt (f : Fmt) : CodeFits f.code 2
  | rm (r : RM) : CodeFits r.code 3
  | form (f : VForm) : CodeFits f.code 2
  | ty (t : Ty) : CodeFits t.code 4
  | tyTag (t : Ty) : CodeFits (t.code + 1) 5
  | tag (t : Tag) : CodeFits (Tag.code t) 5
  | spr (r : Spr) : CodeFits r.code 16

theorem CodeFits.lt {c k : Nat} (h : CodeFits c k) : c < 2 ^ k := by
  cases h with
  | reg r => exact r.isLt
  | kreg k => exact k.isLt
  | shift n => exact n.isLt
  | amount n => exact n.isLt
  | flag b => exact b.toNat_lt
  | imm v => exact v.isLt
  | size z => exact z.code_lt
  | fmt f => exact f.code_lt
  | rm r => exact r.code_lt
  | form f => exact f.code_lt
  | ty t => exact t.code_lt
  | tyTag t => have := t.code_lt; omega
  | tag t => exact Tag.code_lt t
  | spr r => exact r.code_lt

/-- The places of the fields, of the listed widths, hold no bit of b, and no two of them overlap. -/
def apart (b : Nat) : List (Nat × Nat) → List Nat → Bool
  | (_, p) :: fs, k :: ks =>
    p + k ≤ 32 && fld b p k == 0 && (fs.zip ks).all (fun f => f.1.2 + f.2 ≤ p || p + k ≤ f.1.2) && apart b fs ks
  | _, _ => true

/-- What is read at a place of b with the fields put: a field that is there, or what b has there. -/
def readPut (b : Nat) : List (Nat × Nat) → List Nat → Nat → Nat → Nat
  | (c, p) :: fs, k :: ks, lo, len =>
    if p = lo ∧ k = len then c
    else if lo + len ≤ p ∨ p + k ≤ lo then readPut b fs ks lo len
    else fld (put b ((c, p) :: fs)) lo len
  | [], _, lo, len => b / 2 ^ lo % 2 ^ len
  | f :: fs, [], lo, len => fld (put b (f :: fs)) lo len

/-- A field put over bits that are all clear changes no other place. -/
theorem fld_add_other {n c p k lo len : Nat} (hn : fld n p k = 0) (hc : c < 2 ^ k)
    (h : lo + len ≤ p ∨ p + k ≤ lo) : fld (n + c * 2 ^ p) lo len = fld n lo len := by
  obtain h | h := h
  · obtain ⟨j, rfl⟩ := Nat.exists_eq_add_of_le h
    have hsplit : c * 2 ^ (lo + len + j) = 2 ^ lo * (2 ^ len * (c * 2 ^ j)) := by ring
    rw [fld, fld, hsplit, Nat.add_mul_div_left _ _ (by positivity), Nat.add_mul_mod_self_left]
  · obtain ⟨j, rfl⟩ := Nat.exists_eq_add_of_le h
    rw [fld] at hn
    have hcarry : n % 2 ^ (p + k) + c * 2 ^ p < 2 ^ (p + k) := by
      have hlow : n % 2 ^ (p + k) < 2 ^ p := by
        have hmod := Nat.mod_mul (a := 2 ^ p) (b := 2 ^ k) (x := n)
        rw [hn, mul_zero, add_zero] at hmod
        rw [pow_add, hmod]
        exact Nat.mod_lt _ (by positivity)
      calc n % 2 ^ (p + k) + c * 2 ^ p < 2 ^ p + c * 2 ^ p := by omega
        _ = (c + 1) * 2 ^ p := by ring
        _ ≤ 2 ^ k * 2 ^ p := Nat.mul_le_mul_right _ hc
        _ = 2 ^ (p + k) := by rw [pow_add, mul_comm]
    have hdiv : (n + c * 2 ^ p) / 2 ^ (p + k) = n / 2 ^ (p + k) := by
      conv_lhs =>
        rw [← Nat.div_add_mod n (2 ^ (p + k)), add_assoc, Nat.mul_add_div (by positivity), Nat.div_eq_of_lt hcarry,
          add_zero]
    rw [fld, fld, pow_add 2 (p + k), ← Nat.div_div_eq_div_mul, hdiv, Nat.div_div_eq_div_mul]

theorem fld_add_same {n c p k : Nat} (hn : fld n p k = 0) (hc : c < 2 ^ k) : fld (n + c * 2 ^ p) p k = c := by
  rw [fld] at hn
  rw [fld, Nat.add_mul_div_right _ _ (by positivity), Nat.add_mod, hn, zero_add, Nat.mod_mod, Nat.mod_eq_of_lt hc]

theorem apart_cons {b c p k : Nat} {fs : List (Nat × Nat)} {ks : List Nat} :
    apart b ((c, p) :: fs) (k :: ks) = true ↔ p + k ≤ 32 ∧ fld b p k = 0 ∧
      (∀ f ∈ fs.zip ks, f.1.2 + f.2 ≤ p ∨ p + k ≤ f.1.2) ∧ apart b fs ks = true := by
  simp [apart, and_assoc]

/-- Where no field is put, a word has what its base has. -/
theorem fld_put_other {b lo len : Nat} {fs : List (Nat × Nat)} {ks : List Nat}
    (hf : List.Forall₂ (fun f k => CodeFits f.1 k) fs ks) (ha : apart b fs ks = true)
    (h : ∀ f ∈ fs.zip ks, f.1.2 + f.2 ≤ lo ∨ lo + len ≤ f.1.2) : fld (put b fs) lo len = fld b lo len := by
  induction hf generalizing lo len with
  | nil => rw [put_nil]
  | @cons f k fs ks hfits _ ih =>
    obtain ⟨c, p⟩ := f
    obtain ⟨_, hclear, hdisj, ha⟩ := apart_cons.mp ha
    rw [List.zip_cons_cons, List.forall_mem_cons] at h
    have hzero : fld (put b fs) p k = 0 := (ih ha hdisj).trans hclear
    rw [put_cons, fld_add_other hzero hfits.lt h.1.symm, ih ha h.2]

theorem fld_put {b : Nat} {fs : List (Nat × Nat)} {ks : List Nat}
    (hf : List.Forall₂ (fun f k => CodeFits f.1 k) fs ks) (ha : apart b fs ks = true) (lo len : Nat) :
    fld (put b fs) lo len = readPut b fs ks lo len := by
  induction hf with
  | nil => rw [put_nil, readPut, fld]
  | @cons f k fs ks hfits htail ih =>
    obtain ⟨c, p⟩ := f
    obtain ⟨_, hclear, hdisj, ha⟩ := apart_cons.mp ha
    have hzero : fld (put b fs) p k = 0 := (fld_put_other htail ha hdisj).trans hclear
    rw [readPut]
    split
    case isTrue hat =>
      obtain ⟨rfl, rfl⟩ := hat
      rw [put_cons, fld_add_same hzero hfits.lt]
    case isFalse =>
      split
      case isTrue hoff => rw [put_cons, fld_add_other hzero hfits.lt hoff, ih ha]
      case isFalse => rfl

theorem put_lt {b : Nat} {fs : List (Nat × Nat)} {ks : List Nat}
    (hf : List.Forall₂ (fun f k => CodeFits f.1 k) fs ks) (ha : apart b fs ks = true) (hb : b < 2 ^ 32) :
    put b fs < 2 ^ 32 := by
  induction hf with
  | nil => rwa [put_nil]
  | @cons f k fs ks hfits htail ih =>
    obtain ⟨c, p⟩ := f
    obtain ⟨hp, hclear, hdisj, ha⟩ := apart_cons.mp ha
    have hzero : fld (put b fs) p k = 0 := (fld_put_other htail ha hdisj).trans hclear
    have hsame := fld_add_other (len := put b fs + c * 2 ^ p) hzero hfits.lt (.inr hp)
    have hdiv : put b fs / 2 ^ 32 = 0 := Nat.div_eq_of_lt (ih ha)
    rw [fld, fld, hdiv, Nat.zero_mod] at hsame
    have hle := Nat.div_le_self (put b fs + c * 2 ^ p) (2 ^ 32)
    rw [Nat.mod_eq_of_lt (hle.trans_lt Nat.lt_two_pow_self)] at hsame
    rw [put_cons]
    exact (Nat.div_eq_zero_iff_lt (by positivity)).mp hsame

/-! A word out of the fields that its decoder reads: each field is the difference of two of the parts below a position,
and the sum of them all is the part below bit 32. -/

@[simp] theorem Fmt.code_get (c : Fin 4) : (Fmt.get c).code = c.val := by fin_cases c <;> rfl

@[simp] theorem bt_toNat (w lo : Nat) : (bt w lo).toNat = fld w lo 1 := by
  have h : fld w lo 1 < 2 := Nat.mod_lt _ (by decide)
  unfold bt
  interval_cases fld w lo 1 <;> rfl

theorem fixed_eq_ok {α : Type} {w : Nat} {fs : List (Nat × Nat × Nat)} {k : Except Reject α} {x : α} :
    fixed w fs k = .ok x ↔ (∀ p ∈ fs, fld w p.1 p.2.1 = p.2.2) ∧ k = .ok x := by
  have hall : fs.all (fun p => fld w p.1 p.2.1 == p.2.2) = true ↔ ∀ p ∈ fs, fld w p.1 p.2.1 = p.2.2 := by
    simp only [List.all_eq_true, beq_iff_eq]
  rw [← hall, fixed]
  split <;> simp [*]

theorem need_eq_ok {α β : Type} {o : Option α} {r : Reject} {k : α → Except Reject β} {y : β} :
    need o r k = .ok y ↔ ∃ x, o = some x ∧ k x = .ok y := by
  cases o <;> simp [need]

/-- The bits below position k of a word. -/
def below (w k : Nat) : Nat := w % 2 ^ k

theorem below_zero (w : Nat) : below w 0 = 0 := Nat.mod_one w

theorem below_word {w : Nat} (h : w < 2 ^ 32) : below w 32 = w := Nat.mod_eq_of_lt h

theorem below_add (w lo len : Nat) : below w (lo + len) = below w lo + fld w lo len * 2 ^ lo := by
  rw [below, below, fld, pow_add, Nat.mod_mul, mul_comm (2 ^ lo)]

theorem fld_eq_iff {w lo len c : Nat} : fld w lo len = c ↔ below w (lo + len) = below w lo + c * 2 ^ lo := by
  rw [below_add, Nat.add_left_cancel_iff, Nat.mul_left_inj (by positivity)]

theorem fld_mul_cast (w lo len : Nat) : (fld w lo len : ℤ) * 2 ^ lo = below w (lo + len) - below w lo := by
  rw [below_add]; push_cast; ring

theorem fld_mod (w lo len : Nat) : fld w lo len % 2 ^ len = fld w lo len := Nat.mod_mod ..

section
variable {w : Nat} {i : Instr} (hw : below w 32 = w) (hz : below w 0 = 0)
include hw hz

theorem encode_of_decodeScalar {op : Nat} {f : Nat → Except Reject Instr} (hop : fld w 26 6 = op) (h : f w = .ok i)
    (hf : (op, f) ∈ [(0x01, decodeAlu), (0x08, decodeShi), (0x0E, decodeFop), (0x0F, decodeFma), (0x1B, decodeXmem),
      (0x1C, decodeAmo), (0x1D, decodeCtr), (0x1E, decodeRmt), (0x1F, decodeSys), (0x23, decodeTask),
      (0x24, decodeAwt), (0x25, decodeCpy), (0x26, decodeMtx), (0x27, decodeFab), (0x28, decodeDbg)]) :
    encode i = some w := by
  fin_cases hf
  all_goals
    simp only [decodeAlu, decodeShi, decodeFop, decodeFma, decodeXmem, decodeAmo, decodeCtr, decodeRmt, decodeSys,
      decodeTask, decodeAwt, decodeCpy, decodeMtx, decodeFab, decodeDbg] at h
    split at h
  all_goals
    revert h
    simp only [fixed_eq_ok, need_eq_ok, Except.ok.injEq, reduceCtorEq, List.forall_mem_cons, and_imp, false_implies,
      forall_exists_index]
  all_goals
    intros
    subst_vars
    refine congrArg some (Int.ofNat_inj.mp ?_)
    simp only [rg, f4, f64, bt_toNat, Fmt.code_get, RM.ofCode_eq_some, Size.ofCode_eq_some, BitVec.toNat_ofNat, fld_mod,
      put_cons, put_nil, fld_eq_iff, fld_mul_cast, Nat.reduceAdd, Nat.cast_add, Nat.cast_mul, Nat.cast_pow,
      Nat.cast_ofNat] at *
    omega

theorem encode_of_decodeVector {op : Nat} {f : Nat → Except Reject Instr} (hop : fld w 26 6 = op) (h : f w = .ok i)
    (hf : (op, f) ∈ [(0x30, decodeVcfg), (0x31, decodeVarith), (0x32, decodeVfma), (0x33, decodeVcvt),
      (0x34, decodeVred), (0x35, decodeVperm), (0x36, decodeVmask), (0x37, decodeVld),
      (0x38, decodeVst), (0x39, decodeVmov)]) :
    encode i = some w := by
  fin_cases hf
  all_goals
    simp only [decodeVcfg, decodeVarith, decodeVfma, decodeVcvt, decodeVred, decodeVperm, decodeVmask, decodeVld,
      decodeVst, decodeVmov] at h
    split at h
  all_goals
    revert h
    simp only [fixed_eq_ok, need_eq_ok, Except.ok.injEq, reduceCtorEq, List.forall_mem_cons, and_imp, false_implies,
      forall_exists_index]
  all_goals
    intros
    subst_vars
    refine congrArg some (Int.ofNat_inj.mp ?_)
    simp only [rg, kg, f4, bt_toNat, VForm.ofCode_eq_some, RM.ofCode_eq_some, Ty.ofCode_eq_some, Ty.ofTag_eq_some,
      Tag.ofCode_eq_some, put_cons, put_nil, fld_eq_iff, fld_mul_cast, Nat.reduceAdd, Nat.cast_add, Nat.cast_mul,
      Nat.cast_pow, Nat.cast_ofNat] at *
    omega

theorem encode_of_decodeFields (h : decodeFields w = .ok i) : encode i = some w := by
  unfold decodeFields at h
  split at h
  case h_1 | h_8 | h_14 | h_15 | h_27 | h_28 | h_29 | h_30 | h_31 | h_35 | h_36 | h_37 | h_38 | h_39 | h_40 =>
    rename_i hop
    exact encode_of_decodeScalar hw hz hop h (by simp)
  case h_41 | h_42 | h_43 | h_44 | h_45 | h_46 | h_47 | h_48 | h_49 | h_50 =>
    rename_i hop
    exact encode_of_decodeVector hw hz hop h (by simp)
  all_goals
    revert h
    simp only [fixed_eq_ok, need_eq_ok, Except.ok.injEq, reduceCtorEq, List.forall_mem_cons, and_imp, false_implies,
      forall_exists_index]
  all_goals
    intros
    subst_vars
    refine congrArg some (Int.ofNat_inj.mp ?_)
    simp only [rg, kg, f4, bt_toNat, Size.ofCode_eq_some, Spr.ofCode_eq_some, BitVec.toNat_ofNat, fld_mod,
      put_cons, put_nil, fld_eq_iff, fld_mul_cast, Nat.reduceAdd, Nat.cast_add, Nat.cast_mul, Nat.cast_pow,
      Nat.cast_ofNat] at *
    omega

end

theorem decode_eq_ok {w : Nat} {i : Instr} : decode w = .ok i ↔ decodeFields w = .ok i ∧ WellFormed i = true := by
  unfold decode WellFormed
  cases decodeFields w with
  | error r => simp
  | ok j =>
    by_cases hij : j = i
    · subst hij
      cases hd : j.defect <;> simp [hd]
    · cases hd : j.defect <;> simp [hd, hij]

/-- The word of an instruction has 32 bits, and its fields are the instruction's. -/
def RoundTrips (i : Instr) : Prop := ∀ n, encode i = some n → n < 2 ^ 32 ∧ decodeFields n = .ok i

theorem roundTrips_of {i : Instr} {b : Nat} {fs : List (Nat × Nat)} {ks : List Nat} (he : encode i = some (put b fs))
    (hf : List.Forall₂ (fun f k => CodeFits f.1 k) fs ks) (ha : apart b fs ks = true) (hb : b < 2 ^ 32)
    (hd : ∀ n, (∀ lo len, fld n lo len = readPut b fs ks lo len) → decodeFields n = .ok i) : RoundTrips i := by
  intro n hn
  obtain rfl : put b fs = n := Option.some.inj (he.symm.trans hn)
  exact ⟨put_lt hf ha hb, hd _ (fld_put hf ha)⟩

/-- The ALU (R43). -/
theorem roundTrips_alu (d a b : Reg) (w : Bool) :
    ∀ i ∈ [Instr.add d a b w, .sub d a b w, .and d a b w, .or d a b w, .xor d a b w, .andn d a b w, .orn d a b w,
      .shl d a b w, .shr d a b w, .sha d a b w, .ror d a b w, .mul d a b w, .mulh d a b w, .mulhn d a b w,
      .div d a b w, .divn d a b w, .rem d a b w, .remn d a b w, .min d a b w, .max d a b w, .minn d a b w,
      .maxn d a b w, .slt d a b w, .sltn d a b w, .clz d a w, .ctz d a w, .popc d a w, .brev d a w],
      RoundTrips i := by
  intro i hi
  fin_cases hi <;> refine roundTrips_of rfl (by repeat constructor) rfl (by decide) fun w₀ hw₀ => ?_
  all_goals simp [decodeFields, decodeAlu, fixed, rg, bt, hw₀, readPut]

/-- The immediates, the shifts by a constant, the constants, SEL and LEA (R43). -/
theorem roundTrips_immediates (d a b c : Reg) (imm : BitVec 16) (w : Bool) (n : Fin 64) (immx : BitVec 21)
    (sh : Fin 4) :
    ∀ i ∈ [Instr.addi d a imm, .andi d a imm, .ori d a imm, .xori d a imm, .slti d a imm, .sltni d a imm,
      .shli d a w n, .shri d a w n, .shai d a w n, .rori d a w n, .liw d immx, .lis d immx, .addpc d immx,
      .sel d a b c, .lea d a b sh], RoundTrips i := by
  intro i hi
  fin_cases hi <;> refine roundTrips_of rfl (by repeat constructor) rfl (by decide) fun w₀ hw₀ => ?_
  all_goals simp [decodeFields, decodeShi, fixed, rg, f4, f64, bt, hw₀, readPut]

/-- Scalar floating point (R43). -/
theorem roundTrips_fp (d a b c : Reg) (fmt src : Fmt) (rm : RM) :
    ∀ i ∈ [Instr.fadd d a b fmt rm, .fsub d a b fmt rm, .fmul d a b fmt rm, .fdiv d a b fmt rm, .fsqrt d a fmt rm,
      .fmin d a b fmt, .fmax d a b fmt, .fcmpeq d a b fmt, .fcmplt d a b fmt, .fcmple d a b fmt, .fcmpun d a b fmt,
      .fclass d a fmt, .fcvti d a fmt rm, .fcvtn d a fmt rm, .fcvtfi d a fmt rm, .fcvtfn d a fmt rm,
      .fcvtf d a src fmt rm, .fma d a b c fmt rm, .fnma d a b c fmt rm], RoundTrips i := by
  intro i hi
  fin_cases hi <;> refine roundTrips_of rfl (by repeat constructor) rfl (by decide) fun w₀ hw₀ => ?_
  all_goals simp [decodeFields, decodeFop, decodeFma, fixed, need, rg, f4, hw₀, readPut]

/-- Jumps and branches (R43). -/
theorem roundTrips_control (imm : BitVec 26) (d a b : Reg) (immx : BitVec 16) :
    ∀ i ∈ [Instr.j imm, .jl imm, .jrl d a, .beq a b immx, .bne a b immx, .blt a b immx, .bge a b immx,
      .bltn a b immx, .bgen a b immx], RoundTrips i := by
  intro i hi
  fin_cases hi <;> refine roundTrips_of rfl (by repeat constructor) rfl (by decide) fun w₀ hw₀ => ?_
  all_goals simp [decodeFields, fixed, rg, hw₀, readPut]

/-- Loads, stores, counters and remote accesses (R43). -/
theorem roundTrips_accesses (d a b : Reg) (sz : Size) (imm : BitVec 13) (sh : Fin 4) :
    ∀ i ∈ [Instr.ld d a sz imm, .st d a sz imm, .xld d a b sh sz, .xst d a b sh sz, .cinit a b, .cadd a b,
      .cread d a, .ctest d a b, .rld d a sz, .rst d a b sz, .radd d a b sz, .rswp d a b sz], RoundTrips i := by
  intro i hi
  fin_cases hi <;> refine roundTrips_of rfl (by repeat constructor) rfl (by decide) fun w₀ hw₀ => ?_
  all_goals simp [decodeFields, decodeXmem, decodeCtr, decodeRmt, fixed, need, rg, f4, hw₀, readPut]

/-- The atomics (R43). -/
theorem roundTrips_amo (d a b : Reg) (rel acq x : Bool) :
    ∀ i ∈ [Instr.amoSwap d a b rel acq x, .amoAdd d a b rel acq x, .amoAnd d a b rel acq x, .amoOr d a b rel acq x,
      .amoXor d a b rel acq x, .amoMin d a b rel acq x, .amoMax d a b rel acq x, .amoMinn d a b rel acq x,
      .amoMaxn d a b rel acq x, .amoCas d a b rel acq x], RoundTrips i := by
  intro i hi
  fin_cases hi <;> refine roundTrips_of rfl (by repeat constructor) rfl (by decide) fun w₀ hw₀ => ?_
  all_goals simp [decodeFields, decodeAmo, fixed, rg, bt, hw₀, readPut]

/-- The system instructions and the prefix (R43). -/
theorem roundTrips_system (n : Fin 64) (a b d pg pd : Reg) (spr : Spr) (ps pc : Bool) (pk : KReg) :
    ∀ i ∈ [Instr.traps n, .brk n, .eret, .halt, .waiti, .codesync a b, .tlbinv a, .l1wb a b, .mfs d spr, .mts a spr,
      .pfx pg ps pd pc pk], RoundTrips i := by
  intro i hi
  fin_cases hi <;> refine roundTrips_of rfl (by repeat constructor) rfl (by decide) fun w₀ hw₀ => ?_
  all_goals simp [decodeFields, decodeSys, fixed, need, rg, kg, f64, bt, hw₀, readPut]

/-- Tasks and waits (R43). -/
theorem roundTrips_tasks (d a b c : Reg) (kl : BitVec 7) (vs : Bool) :
    ∀ i ∈ [Instr.spawn d a b, .spawng d a b c, .finish a, .fref a b, .fdrop a, .fpoll d a, .ftake d a, .rpoint,
      .rhold, .rrel, .tself d, .ffail a, .await d a b kl vs, .awaitany d a b kl vs, .yield b kl vs,
      .cwait d a b kl vs], RoundTrips i := by
  intro i hi
  fin_cases hi <;> refine roundTrips_of rfl (by repeat constructor) rfl (by decide) fun w₀ hw₀ => ?_
  all_goals simp [decodeFields, decodeTask, decodeAwt, fixed, rg, bt, hw₀, readPut]

/-- The Flue, the Kiln, groups and debug (R43). -/
theorem roundTrips_engines (d a b c : Reg) :
    ∀ i ∈ [Instr.cpy1d d a b c, .cpy2d d a, .cpfill d a b c, .cpgath d a, .cpqry d, .mxbind d a b, .mxload d a b,
      .mxrow a b c, .mxrowz a b c, .mxsync d a, .mxrd d a b, .mxzero d a b, .mxrel a, .mxqry d a, .fgrp d a b,
      .fcoll d a, .fbar d a, .fgqry d a, .fgfree a, .dmark a, .dsample d a], RoundTrips i := by
  intro i hi
  fin_cases hi <;> refine roundTrips_of rfl (by repeat constructor) rfl (by decide) fun w₀ hw₀ => ?_
  all_goals simp [decodeFields, decodeCpy, decodeMtx, decodeFab, decodeDbg, fixed, rg, hw₀, readPut]

/-- The vector configuration and moves (R43). -/
theorem roundTrips_vcfg (d a b : Reg) (wc : Fin 4) (t : Tag) (form : VForm) (k : KReg) :
    ∀ i ∈ [Instr.vsetl d a wc, .vsetlw d a b wc, .vtag d t, .vclr d, .vfold d a, .vsave a, .vrestore a, .vmaxq d wc,
      .vmvsx d b, .vmvxs d a, .vqpop d, .vqlen d, .vmv form d a b k], RoundTrips i := by
  intro i hi
  fin_cases hi <;> refine roundTrips_of rfl (by repeat constructor) rfl (by decide) fun w₀ hw₀ => ?_
  all_goals simp [decodeFields, decodeVcfg, decodeVmov, fixed, need, rg, kg, f4, hw₀, readPut]

/-- Vector arithmetic (R43). -/
theorem roundTrips_varith (form : VForm) (d a b : Reg) (k : KReg) :
    ∀ i ∈ [Instr.vadd form d a b k, .vsub form d a b k, .vrsub form d a b k, .vmul form d a b k,
      .vmulh form d a b k, .vmin form d a b k, .vmax form d a b k, .vabs d a k, .vneg d a k, .vdiv form d a b k,
      .vrem form d a b k, .vsqrt d a k, .vexp2 d a k, .vand form d a b k, .vor form d a b k, .vxor form d a b k,
      .vshl form d a b k, .vshr form d a b k, .vsha form d a b k, .vsadd form d a b k, .vssub form d a b k,
      .vavg form d a b k], RoundTrips i := by
  intro i hi
  fin_cases hi <;> refine roundTrips_of rfl (by repeat constructor) rfl (by decide) fun w₀ hw₀ => ?_
  all_goals simp [decodeFields, decodeVarith, fixed, need, rg, kg, hw₀, readPut]

/-- The fused members, vector conversions and reductions (R43). -/
theorem roundTrips_vcvt (form : VForm) (d a b : Reg) (k : KReg) (t : Ty) (rm : RM) (q : Bool) :
    ∀ i ∈ [Instr.vfma form d a b k, .vfms form d a b k, .vfnma form d a b k, .vfnms form d a b k, .vcvt d a t k rm,
      .vcvts d a t k rm, .vpackmx d a t rm, .vunpkmx d a t rm, .vrsum d a k q, .vrsumo d a b k q, .vrmax d a k q,
      .vrmin d a k q, .vrand d a k q, .vror d a k q, .vrxor d a k q, .vrmaxi d a k q], RoundTrips i := by
  intro i hi
  fin_cases hi <;> refine roundTrips_of rfl (by repeat constructor) rfl (by decide) fun w₀ hw₀ => ?_
  all_goals simp [decodeFields, decodeVfma, decodeVcvt, decodeVred, fixed, need, rg, kg, bt, hw₀, readPut]

/-- Vector permutations (R43). -/
theorem roundTrips_vperm (form : VForm) (d a b : Reg) (k m : KReg) (t : Ty) :
    ∀ i ∈ [Instr.vslup form d a b k, .vsldn form d a b k, .vrgath d a b k, .vcompr d a k, .vexpnd d a k,
      .viota d m t k, .vidx d t k, .vbcast form d a b k, .vmerge form d a b k, .vrev d a k, .vzip d a k,
      .vunzip d a k], RoundTrips i := by
  intro i hi
  fin_cases hi <;> refine roundTrips_of rfl (by repeat constructor) rfl (by decide) fun w₀ hw₀ => ?_
  all_goals simp [decodeFields, decodeVperm, fixed, need, rg, kg, hw₀, readPut]

/-- Masks (R43). -/
theorem roundTrips_vmask (form : VForm) (d k m2 m3 : KReg) (a b m : Reg) :
    ∀ i ∈ [Instr.vceq form d a b k, .vcne form d a b k, .vclt form d a b k, .vcle form d a b k, .vcgt form d a b k,
      .vcge form d a b k, .vcun form d a b k, .vclass d a b k, .kand d m2 m3 k, .kor d m2 m3 k, .kxor d m2 m3 k,
      .knot d m2 k, .kandn d m2 m3 k, .ksbf d m2 k, .ksif d m2 k, .kpopc m m2 k, .kfirst m m2 k, .kmov d m2 k],
      RoundTrips i := by
  intro i hi
  fin_cases hi <;> refine roundTrips_of rfl (by repeat constructor) rfl (by decide) fun w₀ hw₀ => ?_
  all_goals simp [decodeFields, decodeVmask, fixed, need, rg, kg, hw₀, readPut]

/-- Vector loads and stores (R43). -/
theorem roundTrips_vmem (d a b : Reg) (k : KReg) (nt : Bool) (t : Ty) :
    ∀ i ∈ [Instr.vldUnit d a k nt t, .vldStrided d a b k nt t, .vldIndexed d a b k nt t, .vldFirstFault d a k nt t,
      .vldSegmentMx d a t, .vstUnit d a k nt t, .vstStrided d a b k nt t, .vstIndexed d a b k nt t,
      .vstOrdered d a k nt t, .vstSegmentMx d a t], RoundTrips i := by
  intro i hi
  fin_cases hi <;> refine roundTrips_of rfl (by repeat constructor) rfl (by decide) fun w₀ hw₀ => ?_
  all_goals simp [decodeFields, decodeVld, decodeVst, fixed, need, rg, kg, bt, hw₀, readPut]

theorem roundTrips (i : Instr) (h : encode i ≠ none) : RoundTrips i := by
  cases i with
  | add d a b w | sub d a b w | and d a b w | or d a b w | xor d a b w | andn d a b w | orn d a b w | shl d a b w
  | shr d a b w | sha d a b w | ror d a b w | mul d a b w | mulh d a b w | mulhn d a b w | div d a b w
  | divn d a b w | rem d a b w | remn d a b w | min d a b w | max d a b w | minn d a b w | maxn d a b w
  | slt d a b w | sltn d a b w => exact roundTrips_alu d a b w _ (by simp)
  | clz d a w | ctz d a w | popc d a w | brev d a w => exact roundTrips_alu d a 0 w _ (by simp)
  | addi d a imm | andi d a imm | ori d a imm | xori d a imm | slti d a imm | sltni d a imm =>
    exact roundTrips_immediates d a 0 0 imm false 0 0 0 _ (by simp)
  | shli d a w n | shri d a w n | shai d a w n | rori d a w n =>
    exact roundTrips_immediates d a 0 0 0 w n 0 0 _ (by simp)
  | liw d immx | lis d immx | addpc d immx => exact roundTrips_immediates d 0 0 0 0 false 0 immx 0 _ (by simp)
  | sel d a b c => exact roundTrips_immediates d a b c 0 false 0 0 0 _ (by simp)
  | lea d a b sh => exact roundTrips_immediates d a b 0 0 false 0 0 sh _ (by simp)
  | fadd d a b fmt rm | fsub d a b fmt rm | fmul d a b fmt rm | fdiv d a b fmt rm =>
    exact roundTrips_fp d a b 0 fmt .fp64 rm _ (by simp)
  | fsqrt d a fmt rm | fcvti d a fmt rm | fcvtn d a fmt rm | fcvtfi d a fmt rm | fcvtfn d a fmt rm =>
    exact roundTrips_fp d a 0 0 fmt .fp64 rm _ (by simp)
  | fmin d a b fmt | fmax d a b fmt | fcmpeq d a b fmt | fcmplt d a b fmt | fcmple d a b fmt | fcmpun d a b fmt =>
    exact roundTrips_fp d a b 0 fmt .fp64 .rne _ (by simp)
  | fclass d a fmt => exact roundTrips_fp d a 0 0 fmt .fp64 .rne _ (by simp)
  | fcvtf d a src fmt rm => exact roundTrips_fp d a 0 0 fmt src rm _ (by simp)
  | fma d a b c fmt rm | fnma d a b c fmt rm => exact roundTrips_fp d a b c fmt .fp64 rm _ (by simp)
  | j imm | jl imm => exact roundTrips_control imm 0 0 0 0 _ (by simp)
  | jrl d a => exact roundTrips_control 0 d a 0 0 _ (by simp)
  | beq a b immx | bne a b immx | blt a b immx | bge a b immx | bltn a b immx | bgen a b immx =>
    exact roundTrips_control 0 0 a b immx _ (by simp)
  | ld d a sz imm | st d a sz imm => exact roundTrips_accesses d a 0 sz imm 0 _ (by simp)
  | xld d a b sh sz | xst d a b sh sz => exact roundTrips_accesses d a b sz 0 sh _ (by simp)
  | cinit a b | cadd a b => exact roundTrips_accesses 0 a b .d 0 0 _ (by simp)
  | cread d a => exact roundTrips_accesses d a 0 .d 0 0 _ (by simp)
  | ctest d a b => exact roundTrips_accesses d a b .d 0 0 _ (by simp)
  | rld d a sz => exact roundTrips_accesses d a 0 sz 0 0 _ (by simp)
  | rst d a b sz | radd d a b sz | rswp d a b sz => exact roundTrips_accesses d a b sz 0 0 _ (by simp)
  | amoSwap d a b rel acq x | amoAdd d a b rel acq x | amoAnd d a b rel acq x | amoOr d a b rel acq x
  | amoXor d a b rel acq x | amoMin d a b rel acq x | amoMax d a b rel acq x | amoMinn d a b rel acq x
  | amoMaxn d a b rel acq x | amoCas d a b rel acq x => exact roundTrips_amo d a b rel acq x _ (by simp)
  | traps n | brk n => exact roundTrips_system n 0 0 0 0 0 .vl false false 0 _ (by simp)
  | eret | halt | waiti => exact roundTrips_system 0 0 0 0 0 0 .vl false false 0 _ (by simp)
  | codesync a b | l1wb a b => exact roundTrips_system 0 a b 0 0 0 .vl false false 0 _ (by simp)
  | tlbinv a => exact roundTrips_system 0 a 0 0 0 0 .vl false false 0 _ (by simp)
  | mfs d spr => exact roundTrips_system 0 0 0 d 0 0 spr false false 0 _ (by simp)
  | mts a spr => exact roundTrips_system 0 a 0 0 0 0 spr false false 0 _ (by simp)
  | pfx pg ps pd pc pk => exact roundTrips_system 0 0 0 0 pg pd .vl ps pc pk _ (by simp)
  | spawn d a b => exact roundTrips_tasks d a b 0 0 false _ (by simp)
  | spawng d a b c => exact roundTrips_tasks d a b c 0 false _ (by simp)
  | finish a | fdrop a | ffail a => exact roundTrips_tasks 0 a 0 0 0 false _ (by simp)
  | fref a b => exact roundTrips_tasks 0 a b 0 0 false _ (by simp)
  | fpoll d a | ftake d a => exact roundTrips_tasks d a 0 0 0 false _ (by simp)
  | rpoint | rhold | rrel => exact roundTrips_tasks 0 0 0 0 0 false _ (by simp)
  | tself d => exact roundTrips_tasks d 0 0 0 0 false _ (by simp)
  | await d a b kl vs | awaitany d a b kl vs | cwait d a b kl vs => exact roundTrips_tasks d a b 0 kl vs _ (by simp)
  | yield b kl vs => exact roundTrips_tasks 0 0 b 0 kl vs _ (by simp)
  | cpy1d d a b c | cpfill d a b c => exact roundTrips_engines d a b c _ (by simp)
  | cpy2d d a | cpgath d a | mxsync d a | mxqry d a | fcoll d a | fbar d a | fgqry d a | dsample d a =>
    exact roundTrips_engines d a 0 0 _ (by simp)
  | cpqry d => exact roundTrips_engines d 0 0 0 _ (by simp)
  | mxbind d a b | mxload d a b | mxrd d a b | mxzero d a b | fgrp d a b =>
    exact roundTrips_engines d a b 0 _ (by simp)
  | mxrow a b c | mxrowz a b c => exact roundTrips_engines 0 a b c _ (by simp)
  | mxrel a | fgfree a | dmark a => exact roundTrips_engines 0 a 0 0 _ (by simp)
  | vsetl d a wc => exact roundTrips_vcfg d a 0 wc none .vv 0 _ (by simp)
  | vsetlw d a b wc => exact roundTrips_vcfg d a b wc none .vv 0 _ (by simp)
  | vtag d t => exact roundTrips_vcfg d 0 0 0 t .vv 0 _ (by simp)
  | vclr d | vqpop d | vqlen d => exact roundTrips_vcfg d 0 0 0 none .vv 0 _ (by simp)
  | vfold d a | vmvxs d a => exact roundTrips_vcfg d a 0 0 none .vv 0 _ (by simp)
  | vsave a | vrestore a => exact roundTrips_vcfg 0 a 0 0 none .vv 0 _ (by simp)
  | vmaxq d wc => exact roundTrips_vcfg d 0 0 wc none .vv 0 _ (by simp)
  | vmvsx d b => exact roundTrips_vcfg d 0 b 0 none .vv 0 _ (by simp)
  | vmv form d a b k => exact roundTrips_vcfg d a b 0 none form k _ (by simp)
  | vadd form d a b k | vsub form d a b k | vrsub form d a b k | vmul form d a b k | vmulh form d a b k
  | vmin form d a b k | vmax form d a b k | vdiv form d a b k | vrem form d a b k | vand form d a b k
  | vor form d a b k | vxor form d a b k | vshl form d a b k | vshr form d a b k | vsha form d a b k
  | vsadd form d a b k | vssub form d a b k | vavg form d a b k => exact roundTrips_varith form d a b k _ (by simp)
  | vabs d a k | vneg d a k | vsqrt d a k | vexp2 d a k => exact roundTrips_varith .vv d a 0 k _ (by simp)
  | vfma form d a b k | vfms form d a b k | vfnma form d a b k | vfnms form d a b k =>
    exact roundTrips_vcvt form d a b k .i8 .rne false _ (by simp)
  | vcvt d a t k rm | vcvts d a t k rm => exact roundTrips_vcvt .vv d a 0 k t rm false _ (by simp)
  | vpackmx d a t rm | vunpkmx d a t rm => exact roundTrips_vcvt .vv d a 0 0 t rm false _ (by simp)
  | vrsum d a k q | vrmax d a k q | vrmin d a k q | vrand d a k q | vror d a k q | vrxor d a k q | vrmaxi d a k q =>
    exact roundTrips_vcvt .vv d a 0 k .i8 .rne q _ (by simp)
  | vrsumo d a b k q => exact roundTrips_vcvt .vv d a b k .i8 .rne q _ (by simp)
  | vslup form d a b k | vsldn form d a b k | vbcast form d a b k | vmerge form d a b k =>
    exact roundTrips_vperm form d a b k 0 .i8 _ (by simp)
  | vrgath d a b k => exact roundTrips_vperm .vv d a b k 0 .i8 _ (by simp)
  | vcompr d a k | vexpnd d a k | vrev d a k | vzip d a k | vunzip d a k =>
    exact roundTrips_vperm .vv d a 0 k 0 .i8 _ (by simp)
  | viota d m t k => exact roundTrips_vperm .vv d 0 0 k m t _ (by simp)
  | vidx d t k => exact roundTrips_vperm .vv d 0 0 k 0 t _ (by simp)
  | vceq form d a b k | vcne form d a b k | vclt form d a b k | vcle form d a b k | vcgt form d a b k
  | vcge form d a b k | vcun form d a b k => exact roundTrips_vmask form d k 0 0 a b 0 _ (by simp)
  | vclass d a b k => exact roundTrips_vmask .vv d k 0 0 a b 0 _ (by simp)
  | kand d m2 m3 k | kor d m2 m3 k | kxor d m2 m3 k | kandn d m2 m3 k =>
    exact roundTrips_vmask .vv d k m2 m3 0 0 0 _ (by simp)
  | knot d m2 k | ksbf d m2 k | ksif d m2 k | kmov d m2 k => exact roundTrips_vmask .vv d k m2 0 0 0 0 _ (by simp)
  | kpopc m m2 k | kfirst m m2 k => exact roundTrips_vmask .vv 0 k m2 0 0 0 m _ (by simp)
  | vldUnit d a k nt t | vldFirstFault d a k nt t | vstUnit d a k nt t | vstOrdered d a k nt t =>
    exact roundTrips_vmem d a 0 k nt t _ (by simp)
  | vldStrided d a b k nt t | vldIndexed d a b k nt t | vstStrided d a b k nt t | vstIndexed d a b k nt t =>
    exact roundTrips_vmem d a b k nt t _ (by simp)
  | vldSegmentMx d a t | vstSegmentMx d a t => exact roundTrips_vmem d a 0 0 false t _ (by simp)
  | _ => exact absurd rfl h

/-- Settles O56: an instruction with a word round-trips (`roundTrips`), and what is well-formed passes the last check. -/
theorem encodeDecode : Obligations.EncodeDecode := by
  intro i n hwf hn
  obtain ⟨hlt, hd⟩ := roundTrips i (by simp [hn]) n hn
  exact ⟨hlt, decode_eq_ok.mpr ⟨hd, hwf⟩⟩

/-- Settles O55: the decoder reads each of the ten words. -/
theorem specWords : Obligations.SpecWords := ⟨rfl, rfl, rfl, rfl, rfl, rfl, rfl, rfl, rfl, rfl⟩

/-- Settles O57: every decoder rebuilds the word from the fields that it reads (`encode_of_decodeFields`). -/
theorem decodeEncode : Obligations.DecodeEncode := by
  intro w i hw h
  obtain ⟨hf, hwf⟩ := decode_eq_ok.mp h
  exact ⟨hwf, encode_of_decodeFields (below_word hw) (below_zero w) hf⟩

end Sys2Proof
end

section
/-!
PROOF. What the scalar arithmetic instructions leave unchanged (O60): each leaves a result by `lands`, and for floating
point the exceptions of R83, which are bits 8 to 4 of `fst`.
-/

namespace Sys2Proof.Machine

open Sys2Proof.Claims

/-! The exceptions of every operation are accrued flags of `fst` (R83, R143). -/

/-- No bit but those of the five accrued flags. -/
def OnlyFlags (f : Flags) : Prop := f &&& ~~~0x1F0 = 0

theorem OnlyFlags.or {f g : Flags} (hf : OnlyFlags f) (hg : OnlyFlags g) : OnlyFlags (f ||| g) := by
  rw [OnlyFlags, BitVec.and_or_distrib_right, hf, hg]
  rfl

theorem OnlyFlags.ite {p : Prop} [Decidable p] {f g : Flags} (hf : OnlyFlags f) (hg : OnlyFlags g) :
    OnlyFlags (if p then f else g) := by
  split <;> assumption

theorem OnlyFlags.ite_snd {α : Type} {p : Prop} [Decidable p] {x y : α × Flags} (hx : OnlyFlags x.2)
    (hy : OnlyFlags y.2) : OnlyFlags (if p then x else y).2 := by
  split <;> assumption

theorem onlyFlags_zero : OnlyFlags 0 := rfl
theorem onlyFlags_nx : OnlyFlags flagNX := rfl
theorem onlyFlags_uf : OnlyFlags flagUF := rfl
theorem onlyFlags_nv : OnlyFlags flagNV := rfl
theorem onlyFlags_overflow : OnlyFlags (flagOF ||| flagNX) := rfl
theorem onlyFlags_dz : OnlyFlags flagDZ := rfl

theorem onlyFlags_snan (x : FpVal) : OnlyFlags (snan x) := by
  unfold snan
  split
  · exact onlyFlags_nv
  · exact onlyFlags_zero

theorem onlyFlags_fpAdd (d : Dir) (x y : FpVal) : OnlyFlags (fpAdd d x y).2 := by
  unfold fpAdd
  split
  case h_1 => exact (onlyFlags_snan _).or (onlyFlags_snan _)
  case h_2 => exact onlyFlags_snan _
  case h_3 => split <;> [exact onlyFlags_zero; exact onlyFlags_nv]
  all_goals exact onlyFlags_zero

theorem onlyFlags_fpMul (x y : FpVal) : OnlyFlags (fpMul x y).2 := by
  unfold fpMul
  split
  case h_1 => exact (onlyFlags_snan _).or (onlyFlags_snan _)
  case h_2 => exact onlyFlags_snan _
  case h_4 | h_5 => split <;> [exact onlyFlags_nv; exact onlyFlags_zero]
  all_goals exact onlyFlags_zero

theorem onlyFlags_fpDiv (x y : FpVal) : OnlyFlags (fpDiv x y).2 := by
  unfold fpDiv
  split
  case h_1 => exact (onlyFlags_snan _).or (onlyFlags_snan _)
  case h_2 => exact onlyFlags_snan _
  case h_3 => exact onlyFlags_nv
  case h_6 =>
    split <;> [split; exact onlyFlags_zero]
    · exact onlyFlags_nv
    · exact onlyFlags_dz
  all_goals exact onlyFlags_zero

theorem onlyFlags_fpFma (d : Dir) (negP negZ : Bool) (x y z : FpVal) : OnlyFlags (fpFma d negP negZ x y z).2 :=
  ((onlyFlags_fpMul _ _).or (onlyFlags_fpAdd _ _ _)).or (onlyFlags_snan _)

theorem onlyFlags_fpSqrt_fin (neg : Bool) (num den : Nat) : OnlyFlags (fpSqrt (.fin neg num den)).2 := by
  simp only [fpSqrt]
  split
  · exact onlyFlags_zero
  split
  · exact onlyFlags_nv
  generalize isqrt 1130 0 (num * 2 ^ 1200 / den) = s
  generalize num * 2 ^ 1200 = v
  split <;> exact onlyFlags_zero

theorem onlyFlags_fpSqrt (x : FpVal) : OnlyFlags (fpSqrt x).2 := by
  cases x with
  | nan sig => exact onlyFlags_snan _
  | inf neg => cases neg <;> [exact onlyFlags_zero; exact onlyFlags_nv]
  | fin neg num den => exact onlyFlags_fpSqrt_fin neg num den

theorem onlyFlags_fpMinMax (greater : Bool) (x y : FpVal) : OnlyFlags (fpMinMax greater x y).2 := by
  unfold fpMinMax
  simp only
  split <;> exact (onlyFlags_snan _).or (onlyFlags_snan _)

theorem onlyFlags_fpToInt (d : Dir) (lo hi : Int) (x : FpVal) : OnlyFlags (fpToInt d lo hi x).2 := by
  cases x with
  | nan sig => exact onlyFlags_nv
  | inf neg => exact onlyFlags_nv
  | fin neg num den => exact .ite_snd (.ite onlyFlags_nx onlyFlags_zero) onlyFlags_nv

theorem onlyFlags_toWord {x : Int × Flags} (hx : OnlyFlags x.2) : OnlyFlags (toWord x).2 := hx

theorem onlyFlags_roundFin (f : FloatFmt) (d : Dir) (sat neg : Bool) (num den : Nat) :
    OnlyFlags (roundFin f d sat neg num den).2 :=
  .ite_snd onlyFlags_overflow (.or (.ite onlyFlags_nx onlyFlags_zero) (.ite onlyFlags_uf onlyFlags_zero))

theorem onlyFlags_roundTo (f : FloatFmt) (d : Dir) (sat : Bool) (x : FpVal) : OnlyFlags (roundTo f d sat x).2 := by
  unfold roundTo
  split
  case h_1 => exact onlyFlags_zero
  case h_2 => split <;> exact onlyFlags_zero
  case h_3 => split <;> [exact onlyFlags_zero; exact onlyFlags_roundFin ..]

theorem onlyFlags_rounded (fmt : Fmt) (d : Dir) {x : FpVal × Flags} (hx : OnlyFlags x.2) :
    OnlyFlags (rounded fmt d x).2 :=
  hx.or (onlyFlags_roundTo ..)

/-! What a result leaves. -/

variable {s : State}

theorem reg_writeReg_other {r q : Reg} (h : q ≠ r) (v : Word) : reg (writeReg s r v) q = reg s q :=
  getG_setG_other s h v

/-- A g register written changes the g registers alone. -/
theorem writeReg_frame (s : State) (r : Reg) (v : Word) :
    writeReg s r v = modLive s fun c => { c with g := (writeReg s r v).cpu.live.g } := by
  unfold writeReg
  split <;> rfl

/-- What the g registers are after a result, over a state whose registers and prefix are those of s. -/
theorem lands_frame (s : State) (d : Reg) (v : Word) :
    ∃ g : Vector Word 32, lands s d v = advance (modLive s fun c => { c with g := g }) ∧
      ∀ r, r ≠ d → (s.cpu.live.pfx.v = true → s.cpu.live.pfx.pc = false → r ≠ s.cpu.live.pfx.pd) →
        reg (lands s d v) r = reg s r := by
  unfold lands
  simp only
  split
  · exact ⟨s.cpu.live.g, rfl, fun _ _ _ => rfl⟩
  split
  case isTrue hp =>
    obtain ⟨hv, hc⟩ := Bool.and_eq_true_iff.mp hp
    refine ⟨_, by rw [writeReg_frame (writeReg s d v), writeReg_frame s d v]; rfl, fun r hd hpd => ?_⟩
    exact (reg_writeReg_other (hpd hv (by simpa using hc)) v).trans (reg_writeReg_other hd v)
  case isFalse => exact ⟨_, by rw [writeReg_frame s d v], fun r hd _ => reg_writeReg_other hd v⟩

theorem onlyWrites_lands (s : State) (d : Reg) (v : Word) : OnlyWrites s (lands s d v) d 0 := by
  obtain ⟨g, ht, hr⟩ := lands_frame s d v
  refine ⟨by rw [ht]; rfl, hr, by rw [ht]; rfl, by rw [ht]; exact fun _ => rfl⟩

/-- A result beside accrued exceptions: `fst` gains their flags alone. -/
theorem onlyWrites_accrue (d : Reg) (v : Word) {f : Flags} (hf : OnlyFlags f) :
    OnlyWrites s (does s (lands (accrue s f) d v)) d 0x1F0 := by
  unfold does
  split
  · exact ⟨rfl, fun _ _ _ => rfl, rfl, fun _ => rfl⟩
  · obtain ⟨g, ht, hr⟩ := lands_frame (accrue s f) d v
    refine ⟨by rw [ht]; rfl, hr, ?_, by rw [ht]; exact fun _ => rfl⟩
    have hfst : (lands (accrue s f) d v).cpu.live.fst = s.cpu.live.fst ||| f := by rw [ht]; rfl
    rw [hfst, BitVec.and_or_distrib_right, hf]
    exact BitVec.or_zero

/-- A scalar floating-point instruction leaves its result and its exceptions, or nothing under a false predicate. -/
theorem fop_runs {i : Instr} {d : Reg} {f : State → Nat × Flags} (h : Runs scalarAttr i s)
    (hp : (isPoint i && reclaimable s) = false) :
    fop i d s f = .next (does s (lands (accrue s (f s).2) d (BitVec.ofNat 64 (f s).1))) := by
  unfold fop
  rw [issue_runs h hp]
  unfold does
  split
  · rfl
  · rename_i hd
    have hkept : discarded (accrue s (f s).2) = false := Bool.eq_false_iff.mpr hd
    exact congrArg Host.Outcome.next (retire_result (s := accrue s (f s).2) h.front hkept ..)

/-- An instruction with a g result writes that alone. -/
theorem produce_frame {i : Instr} {d : Reg} {v : State → Word} (he : exec i s = produce i d s v)
    (hp : (isPoint i && reclaimable s) = false) (h : Runs scalarAttr i s) :
    ∃ t, exec i s = .next t ∧ OnlyWrites s t d 0 :=
  ⟨_, he.trans (produce_runs h hp), onlyWrites_lands s d _⟩

theorem alu_frame {i : Instr} {d a b : Reg} {w : Bool} {r : Nat → Nat → Nat → Int} (he : exec i s = alu i d a b w s r) :
    (isPoint i && reclaimable s) = false → Runs scalarAttr i s → ∃ t, exec i s = .next t ∧ OnlyWrites s t d 0 :=
  produce_frame he

theorem shiftConst_frame {i : Instr} {d a : Reg} {w : Bool} {r : Nat → Nat → Int}
    (he : exec i s = shiftConst i d a w s r) :
    (isPoint i && reclaimable s) = false → Runs scalarAttr i s → ∃ t, exec i s = .next t ∧ OnlyWrites s t d 0 :=
  produce_frame he

theorem alu1_frame {i : Instr} {d a : Reg} {w : Bool} {r : Nat → Nat → Int} (he : exec i s = alu1 i d a w s r) :
    (isPoint i && reclaimable s) = false → Runs scalarAttr i s → ∃ t, exec i s = .next t ∧ OnlyWrites s t d 0 :=
  produce_frame he

/-- A scalar floating-point instruction writes its result and accrues its exceptions alone. -/
theorem fop_frame {i : Instr} {d : Reg} {f : State → Nat × Flags} (he : exec i s = fop i d s f)
    (hf : ∀ s, OnlyFlags (f s).2) (hp : (isPoint i && reclaimable s) = false) (h : Runs scalarAttr i s) :
    ∃ t, exec i s = .next t ∧ OnlyWrites s t d 0x1F0 :=
  ⟨_, he.trans (fop_runs h hp), onlyWrites_accrue d _ (hf s)⟩

theorem fop2_frame {i : Instr} {d a b : Reg} {fmt : Fmt} {rm : RM} {f : Dir → FpVal → FpVal → FpVal × Flags}
    (he : exec i s = fop2 i d a b fmt rm s f) (hf : ∀ dir x y, OnlyFlags (f dir x y).2) :
    (isPoint i && reclaimable s) = false → Runs scalarAttr i s → ∃ t, exec i s = .next t ∧ OnlyWrites s t d 0x1F0 :=
  fop_frame he fun _ => onlyFlags_rounded _ _ (hf ..)

theorem fop1_frame {i : Instr} {d a : Reg} {rm : RM} {f : Dir → Word → Nat × Flags}
    (he : exec i s = fop1 i d a rm s f) (hf : ∀ dir v, OnlyFlags (f dir v).2) :
    (isPoint i && reclaimable s) = false → Runs scalarAttr i s → ∃ t, exec i s = .next t ∧ OnlyWrites s t d 0x1F0 :=
  fop_frame he fun _ => hf ..

theorem fopCmp_frame {i : Instr} {d a b : Reg} {fmt : Fmt} {f : FpVal → FpVal → Nat × Flags}
    (he : exec i s = fopCmp i d a b fmt s f) (hf : ∀ x y, OnlyFlags (f x y).2) :
    (isPoint i && reclaimable s) = false → Runs scalarAttr i s → ∃ t, exec i s = .next t ∧ OnlyWrites s t d 0x1F0 :=
  fop_frame he fun _ => hf ..

theorem fmaOp_frame {i : Instr} {d a b c : Reg} {fmt : Fmt} {rm : RM} {neg : Bool}
    (he : exec i s = fmaOp i d a b c fmt rm neg s) :
    (isPoint i && reclaimable s) = false → Runs scalarAttr i s → ∃ t, exec i s = .next t ∧ OnlyWrites s t d 0x1F0 :=
  fop_frame he fun _ => onlyFlags_rounded _ _ (onlyFlags_fpFma ..)

/-- Settles O60: every integer member is a `produce`, whose frame is `onlyWrites_lands`; every floating-point member is a
`fop`, whose exceptions are flags of `fst`. -/
theorem scalarFrame : Obligations.ScalarFrame := by
  intro s d a b c w imm big k sh fmt src rm
  simp only [List.forall_mem_cons, List.not_mem_nil, false_implies, implies_true, and_true]
  constructor
  · exact ⟨alu_frame (exec_add ..) rfl, alu_frame (exec_sub ..) rfl, alu_frame (exec_and ..) rfl,
      alu_frame (exec_or ..) rfl, alu_frame (exec_xor ..) rfl, alu_frame (exec_andn ..) rfl,
      alu_frame (exec_orn ..) rfl, alu_frame (exec_shl ..) rfl, alu_frame (exec_shr ..) rfl,
      alu_frame (exec_sha ..) rfl, alu_frame (exec_ror ..) rfl, alu_frame (exec_mul ..) rfl,
      alu_frame (exec_mulh ..) rfl, alu_frame (exec_mulhn ..) rfl, alu_frame (exec_div ..) rfl,
      alu_frame (exec_divn ..) rfl, alu_frame (exec_rem ..) rfl, alu_frame (exec_remn ..) rfl,
      alu_frame (exec_min ..) rfl, alu_frame (exec_max ..) rfl, alu_frame (exec_minn ..) rfl,
      alu_frame (exec_maxn ..) rfl, alu_frame (exec_slt ..) rfl, alu_frame (exec_sltn ..) rfl,
      alu1_frame (exec_clz ..) rfl, alu1_frame (exec_ctz ..) rfl, alu1_frame (exec_popc ..) rfl,
      alu1_frame (exec_brev ..) rfl, produce_frame (exec_addi ..) rfl, produce_frame (exec_andi ..) rfl,
      produce_frame (exec_ori ..) rfl, produce_frame (exec_xori ..) rfl, produce_frame (exec_slti ..) rfl,
      produce_frame (exec_sltni ..) rfl, shiftConst_frame (exec_shli ..) rfl,
      shiftConst_frame (exec_shri ..) rfl, shiftConst_frame (exec_shai ..) rfl,
      shiftConst_frame (exec_rori ..) rfl, produce_frame (exec_liw ..) rfl, produce_frame (exec_lis ..) rfl,
      produce_frame (exec_addpc ..) rfl, produce_frame (exec_sel ..) rfl, produce_frame (exec_lea ..) rfl⟩
  · exact ⟨fop2_frame (exec_fadd ..) (fun dir => onlyFlags_fpAdd dir) rfl,
      fop2_frame (exec_fsub ..) (fun dir x y => onlyFlags_fpAdd dir x (fpNeg y)) rfl,
      fop2_frame (exec_fmul ..) (fun _ => onlyFlags_fpMul) rfl,
      fop2_frame (exec_fdiv ..) (fun _ => onlyFlags_fpDiv) rfl,
      fop1_frame (exec_fsqrt ..) (fun _ _ => onlyFlags_rounded _ _ (onlyFlags_fpSqrt _)) rfl,
      fopCmp_frame (exec_fmin ..) (fun _ _ => onlyFlags_rounded _ _ (onlyFlags_fpMinMax ..)) rfl,
      fopCmp_frame (exec_fmax ..) (fun _ _ => onlyFlags_rounded _ _ (onlyFlags_fpMinMax ..)) rfl,
      fopCmp_frame (exec_fcmpeq ..) (fun _ _ => (onlyFlags_snan _).or (onlyFlags_snan _)) rfl,
      fopCmp_frame (exec_fcmplt ..) (fun _ _ => .ite onlyFlags_nv onlyFlags_zero) rfl,
      fopCmp_frame (exec_fcmple ..) (fun _ _ => .ite onlyFlags_nv onlyFlags_zero) rfl,
      fopCmp_frame (exec_fcmpun ..) (fun _ _ => (onlyFlags_snan _).or (onlyFlags_snan _)) rfl,
      fop1_frame (exec_fclass ..) (fun _ _ => onlyFlags_zero) rfl,
      fop1_frame (exec_fcvti ..) (fun _ _ => onlyFlags_toWord (onlyFlags_fpToInt ..)) rfl,
      fop1_frame (exec_fcvtn ..) (fun _ _ => onlyFlags_toWord (onlyFlags_fpToInt ..)) rfl,
      fop1_frame (exec_fcvtfi ..) (fun _ _ => onlyFlags_rounded _ _ onlyFlags_zero) rfl,
      fop1_frame (exec_fcvtfn ..) (fun _ _ => onlyFlags_rounded _ _ onlyFlags_zero) rfl,
      fop1_frame (exec_fcvtf ..) (fun _ _ => onlyFlags_rounded _ _ (onlyFlags_snan _)) rfl,
      fmaOp_frame (exec_fma ..) rfl,
      fmaOp_frame (exec_fnma ..) rfl⟩

end Sys2Proof.Machine
end

section
/-!
PROOF. The prefix and debug instructions (O18), and the privilege traps (O15).
-/

namespace Sys2Proof.Machine

open Sys2Proof.Claims

variable {s : State}

/-- The counter that DSAMPLE reads, by its number. -/
theorem sampleOf_eq (s : State) (sel : Word) :
    sampleOf s sel = if s.cpu.priv = 0 && !s.cpu.dctl.getLsbD 4 then 0
      else if h : sel.toNat < 12 then s.cpu.counters[sel.toNat] else 0 := by
  unfold sampleOf
  split
  · rfl
  split
  case isTrue h => simp [Fin.ofNat, Nat.mod_eq_of_lt h, Vector.get_eq_getElem]
  case isFalse => rfl

/-- An instruction with one g result, of any attributes, leaves what `lands` says. -/
theorem issue_lands {a : Attr} {i : Instr} {d : Reg} {v : State → Word} (h : Runs a i s)
    (hp : (isPoint i && reclaimable s) = false) :
    issue a i s (fun s => retire (result s d (v s))) = .next (lands s d (v s)) := by
  rw [issue_runs h hp]
  cases hd : discarded s with
  | true => rw [if_pos rfl, lands, hd, if_pos rfl]
  | false => rw [if_neg Bool.false_ne_true, retire_result h.front hd]

/-- Settles O18: each runs as its `issue` says. -/
theorem prefixAndDebug : Obligations.PrefixAndDebug := by
  intro s pg pd d a ps pc pk
  refine ⟨fun h => ?_, fun h => ?_, fun h => ?_⟩
  · rw [exec_pfx, execPfx, issue_plain h rfl rfl, advance_eq h.front]
  · rw [exec_dmark, execDmark, issue_runs h rfl]
    rfl
  · rw [exec_dsample, execDsample, issue_lands h rfl, sampleOf_eq]
    rfl

/-! An instruction without a prefix, at the front. -/

/-- Below its level an instruction raises PRIV. -/
theorem issue_below {a : Attr} {i : Instr} {body : State → State} (hl : s.cpu.lane = none)
    (hp : s.cpu.live.pfx.v = false) (hf : a.feat = none) (h : s.cpu.priv.toNat < a.level) :
    issue a i s body = .next (takeTrap s 0x02 0) := by
  unfold issue front
  simp [atFront_of hl, masked, hf, prefixOf_front hl, hp, h, trap]

/-- At its level, with nothing queued, it runs. -/
theorem runs_of_level {a : Attr} {i : Instr} (hl : s.cpu.lane = none) (hp : s.cpu.live.pfx.v = false)
    (hf : a.feat = none) (hs : a.scalar = true) (hq : s.cpu.live.viq = []) (h : a.level ≤ s.cpu.priv.toNat) :
    Runs a i s where
  front := hl
  feature := by rw [masked, hf]
  pfx := by simp [hp]
  level := h
  context := by simp [hs]
  queue := .inl hq

/-- An instruction whose body raises PRIV does so, whatever its level. -/
theorem issue_priv {a : Attr} {i : Instr} {body : State → State} (hl : s.cpu.lane = none)
    (hp : s.cpu.live.pfx.v = false) (hf : a.feat = none) (hs : a.scalar = true) (hr : a.lend = .refuse)
    (hq : s.cpu.live.viq = []) (hi : (isPoint i && reclaimable s) = false) (hb : body s = takeTrap s 0x02 0) :
    issue a i s body = .next (takeTrap s 0x02 0) := by
  by_cases h : s.cpu.priv.toNat < a.level
  · exact issue_below hl hp hf h
  · rw [issue_plain (runs_of_level hl hp hf hs hq (by omega)) hr hi, hb]

/-- Settles O15: below its level an instruction traps (`issue_below`), and so does one whose body asks for a handler
context (`issue_priv`); the levels are the table's. -/
theorem privilegeTraps : Obligations.PrivilegeTraps := by
  refine ⟨fun s d a r hl hp => ⟨fun h => ?_, fun h => ?_, fun h => ?_, fun h => ?_, fun hh hq => ?_⟩, ?_, rfl, rfl, ?_, ?_⟩
  · exact (exec_halt s).trans (issue_below hl hp rfl h)
  · exact (exec_tlbinv s a).trans (issue_below hl hp rfl (by simp [h, sysAttr]))
  · exact (exec_mfs s d r).trans (issue_below hl hp rfl h)
  · exact (exec_mts s a r).trans (issue_below hl hp rfl h)
  · refine ⟨?_, ?_, fun hr => ⟨?_, ?_⟩⟩
    · exact (exec_eret s).trans (issue_priv hl hp rfl rfl rfl hq rfl (by simp [hh, trap]))
    · exact (exec_waiti s).trans (issue_priv hl hp rfl rfl rfl hq rfl (by simp [hh, trap]))
    · exact (exec_mfs s d r).trans (issue_priv hl hp rfl rfl rfl hq rfl (by simp [hh, hr, trap]))
    · exact (exec_mts s a r).trans (issue_priv hl hp rfl rfl rfl hq rfl (by simp [hh, hr, trap]))
  · intro i r hr
    fin_cases hr <;> exact ⟨rfl, rfl⟩
  · intro r hr
    fin_cases hr <;> exact ⟨rfl, rfl⟩
  · intro r hr
    fin_cases hr <;> exact ⟨rfl, rfl⟩

end Sys2Proof.Machine
end

section
/-!
PROOF. What a core does between instructions (O46): the two orders of records, the record that goes before all others, and
the events one by one.
-/

namespace Sys2Proof.Machine

open Sys2Proof.Claims

variable {s : State}

/-! The record that goes before all others. -/

/-- Two records are never each before the other, and what is not before a third one through a second one is not before
it. -/
structure Ranks (before : Rec → Rec → Bool) : Prop where
  asymm : ∀ a b, before a b = true → before b a = false
  negTrans : ∀ a b c, before a b = false → before b c = false → before a c = false

theorem firstOf_eq_none {before : Rec → Rec → Bool} {rs : List Rec} : firstOf before rs = none ↔ rs = [] := by
  cases rs with
  | nil => simp [firstOf]
  | cons r rs =>
    rw [firstOf]
    split
    · split <;> simp
    · simp

theorem firstOf_spec {before : Rec → Rec → Bool} (hb : Ranks before) {rs : List Rec} {r : Rec}
    (h : firstOf before rs = some r) : r ∈ rs ∧ ∀ q ∈ rs, before q r = false := by
  have hrefl (a : Rec) : before a a = false := by
    cases ha : before a a with
    | false => rfl
    | true => exact (hb.asymm a a ha).symm.trans ha |>.symm
  induction rs generalizing r with
  | nil => simp [firstOf] at h
  | cons x xs ih =>
    rw [firstOf] at h
    split at h
    case h_1 q hq =>
      obtain ⟨hmem, hbest⟩ := ih hq
      split at h
      case isTrue hqx =>
        obtain rfl := Option.some.inj h
        exact ⟨.tail _ hmem, List.forall_mem_cons.mpr ⟨hb.asymm _ _ hqx, hbest⟩⟩
      case isFalse hqx =>
        obtain rfl := Option.some.inj h
        refine ⟨.head _, List.forall_mem_cons.mpr ⟨hrefl _, fun y hy => ?_⟩⟩
        exact hb.negTrans _ _ _ (hbest y hy) (by simpa using hqx)
    case h_2 hq =>
      obtain rfl := Option.some.inj h
      simp [firstOf_eq_none.mp hq, hrefl]

theorem goesBefore_iff {a b : Rec} : goesBefore s a b = true ↔ Precedes s a b := by
  rw [goesBefore, Bool.or_eq_true, Bool.and_eq_true, Bool.or_eq_true, Bool.and_eq_true, decide_eq_true_iff,
    decide_eq_true_iff, decide_eq_true_iff, decide_eq_true_iff, decide_eq_true_iff]
  rfl

theorem ranks_goesBefore (s : State) : Ranks (goesBefore s) where
  asymm a b := by
    simp only [goesBefore, Bool.or_eq_true, Bool.and_eq_true, decide_eq_true_eq, Bool.or_eq_false_iff,
      Bool.and_eq_false_iff, decide_eq_false_iff_not]
    omega
  negTrans a b c := by
    simp only [goesBefore, Bool.or_eq_false_iff, Bool.and_eq_false_iff, decide_eq_false_iff_not]
    omega

/-- The order of R269: the earlier signal order, then the lower SLOT. -/
def earlier (a b : Rec) : Bool := a.order < b.order || (a.order = b.order && hSlot a.ctx.tself < hSlot b.ctx.tself)

theorem earlier_iff {a b : Rec} :
    earlier a b = true ↔ a.order < b.order ∨ (a.order = b.order ∧ hSlot a.ctx.tself < hSlot b.ctx.tself) := by
  simp [earlier]

theorem ranks_earlier : Ranks earlier where
  asymm a b := by
    simp only [earlier, Bool.or_eq_true, Bool.and_eq_true, decide_eq_true_eq, Bool.or_eq_false_iff,
      Bool.and_eq_false_iff, decide_eq_false_iff_not]
    omega
  negTrans a b c := by
    simp only [earlier, Bool.or_eq_false_iff, Bool.and_eq_false_iff, decide_eq_false_iff_not]
    omega

/-! Selection (R244, R265). -/

theorem mem_readyRecs {r : Rec} : r ∈ readyRecs s ↔ r ∈ s.cpu.recs ∧ r.st = .ready := by
  simp [readyRecs]

theorem pickRec_eq_none {rs : List Rec} : pickRec s rs = none ↔ rs = [] := by
  unfold pickRec
  split
  case h_1 r hr =>
    have hmem := (firstOf_spec (ranks_goesBefore s) hr).1
    simp only [reduceCtorEq, false_iff]
    rintro rfl
    simp at hmem
  case h_2 => exact firstOf_eq_none

/-- A record that its wait has passed over is picked only where no other is there; and none is before the picked one that
stands with it in that. -/
theorem pickRec_spec {rs : List Rec} {r : Rec} (h : pickRec s rs = some r) :
    r ∈ rs ∧ (∀ q ∈ rs, (s.cpu.passed = some q.ctx.tself ↔ s.cpu.passed = some r.ctx.tself) → goesBefore s q r = false) ∧
      (s.cpu.passed = some r.ctx.tself → ∀ q ∈ rs, s.cpu.passed = some q.ctx.tself) := by
  unfold pickRec at h
  split at h
  case h_1 q hq =>
    obtain rfl := Option.some.inj h
    obtain ⟨hmem, hbest⟩ := firstOf_spec (ranks_goesBefore s) hq
    obtain ⟨hmem, hlate⟩ := List.mem_filter.mp hmem
    have hlate : s.cpu.passed ≠ some q.ctx.tself := fun he => by simp [he] at hlate
    refine ⟨hmem, fun x hx hsame => hbest x (List.mem_filter.mpr ⟨hx, ?_⟩), fun he => absurd he hlate⟩
    exact bne_iff_ne.mpr fun he => hlate (hsame.mp he.symm)
  case h_2 hnone =>
    obtain ⟨hmem, hbest⟩ := firstOf_spec (ranks_goesBefore s) h
    refine ⟨hmem, fun x hx _ => hbest x hx, fun _ x hx => ?_⟩
    have hall := List.filter_eq_nil_iff.mp (firstOf_eq_none.mp hnone) x hx
    rw [bne_iff_ne, not_not] at hall
    exact hall.symm

theorem mem_ready_granted {r : Rec} :
    r ∈ (readyRecs s).filter (fun r => canGrant s s.cpu.id r.ctx.need) ↔
      r ∈ s.cpu.recs ∧ r.st = .ready ∧ canGrant s s.cpu.id r.ctx.need = true := by
  rw [List.mem_filter, mem_readyRecs, and_assoc]

theorem refetchDue_eq_none : refetchDue s = none ↔
    ∀ r ∈ s.cpu.recs, r.st = .ready → r.due = true → r.spill ≠ none → refetch s r = none := by
  simp only [refetchDue, firstOf_eq_none, List.filter_eq_nil_iff, mem_readyRecs, Bool.and_eq_true,
    Option.isSome_iff_ne_none, not_and, ne_eq, not_not, and_imp]

/-! Stealing (R268, R269, R387). -/

/-- What a search among candidates gives: none where there is none, else one that none is earlier than. -/
def Earliest (may : Nat → Rec → Prop) : Option (Nat × Rec) → Prop
  | none => ∀ n r, ¬may n r
  | some (n, r) => may n r ∧ ∀ m q, may m q → earlier q r = false

/-- One core more in the search of `bestSteal`. -/
def stealStep (s : State) (best : Option (Nat × Rec)) (n : Nat) : Option (Nat × Rec) :=
  match firstOf earlier (stealable s s.cpu.id n), best with
  | none, b => b
  | some r, none => some (n, r)
  | some r, some (m, q) => if earlier r q then some (n, r) else some (m, q)

theorem bestSteal_eq (s : State) (scope : Nat → Bool) :
    bestSteal s scope = ((coreList s).filter fun n => n != s.cpu.id && scope n).foldl (stealStep s) none := rfl

theorem earliest_step {may : Nat → Rec → Prop} {best : Option (Nat × Rec)} (h : Earliest may best) (n : Nat) :
    Earliest (fun m q => may m q ∨ m = n ∧ q ∈ stealable s s.cpu.id n) (stealStep s best n) := by
  unfold stealStep
  cases hf : firstOf earlier (stealable s s.cpu.id n) with
  | none =>
    have hnil := firstOf_eq_none.mp hf
    simpa [hnil] using h
  | some r =>
    obtain ⟨hmem, hfirst⟩ := firstOf_spec ranks_earlier hf
    cases best with
    | none =>
      refine ⟨.inr ⟨rfl, hmem⟩, ?_⟩
      rintro m q (hq | ⟨rfl, hq⟩)
      · exact absurd hq (h m q)
      · exact hfirst q hq
    | some x =>
      obtain ⟨m, q⟩ := x
      obtain ⟨hq, hbest⟩ := h
      dsimp only
      split
      case isTrue hrq =>
        refine ⟨.inr ⟨rfl, hmem⟩, ?_⟩
        rintro m' q' (hq' | ⟨rfl, hq'⟩)
        · exact ranks_earlier.negTrans _ _ _ (hbest m' q' hq') (ranks_earlier.asymm _ _ hrq)
        · exact hfirst q' hq'
      case isFalse hrq =>
        refine ⟨.inl hq, ?_⟩
        rintro m' q' (hq' | ⟨rfl, hq'⟩)
        · exact hbest m' q' hq'
        · exact ranks_earlier.negTrans _ _ _ (hfirst q' hq') (by simpa using hrq)

theorem earliest_foldl {may : Nat → Rec → Prop} {best : Option (Nat × Rec)} (h : Earliest may best) (ns : List Nat) :
    Earliest (fun m q => may m q ∨ m ∈ ns ∧ q ∈ stealable s s.cpu.id m) (ns.foldl (stealStep s) best) := by
  induction ns generalizing may best with
  | nil => simpa using h
  | cons n ns ih =>
    have hmay : (fun m q => may m q ∨ m ∈ n :: ns ∧ q ∈ stealable s s.cpu.id m) =
        fun m q => (may m q ∨ m = n ∧ q ∈ stealable s s.cpu.id n) ∨ m ∈ ns ∧ q ∈ stealable s s.cpu.id m := by
      funext m q
      simp only [List.mem_cons, eq_iff_iff]
      constructor
      · rintro (h | ⟨rfl | h, hq⟩)
        exacts [.inl (.inl h), .inl (.inr ⟨rfl, hq⟩), .inr ⟨h, hq⟩]
      · rintro ((h | ⟨rfl, hq⟩) | ⟨h, hq⟩)
        exacts [.inl h, .inr ⟨.inl rfl, hq⟩, .inr ⟨.inr h, hq⟩]
    rw [hmay, List.foldl_cons]
    exact ih (earliest_step h n)

theorem earliest_bestSteal (s : State) (scope : Nat → Bool) :
    Earliest (fun m q => MaySteal s m q ∧ scope m = true) (bestSteal s scope) := by
  have h := earliest_foldl (s := s) (may := fun _ _ => False) (best := none) (fun _ _ => id)
    ((coreList s).filter fun n => n != s.cpu.id && scope n)
  rw [bestSteal_eq]
  convert h using 3 with m q
  simp [MaySteal, stealable]
  tauto

theorem distance_eq_zero {n : Nat} : distance s n = 0 ↔ n / 8 = s.cpu.id / 8 := by
  unfold distance
  split_ifs with h <;> simp [h]

theorem distance_le_one {n : Nat} : distance s n ≤ 1 ↔ n / 96 = s.cpu.id / 96 := by
  unfold distance
  split_ifs <;> omega

theorem distance_le_two {n : Nat} : distance s n ≤ 2 := by
  unfold distance
  split_ifs <;> simp

/-- The search of one scope, where there is none to steal from nearer than it. -/
theorem nearest_of_bestSteal {k : Nat} {scope : Nat → Bool} (hs : ∀ n, scope n = true ↔ distance s n ≤ k)
    (hno : ∀ m q, MaySteal s m q → k ≤ distance s m) {n : Nat} {r : Rec} (h : bestSteal s scope = some (n, r)) :
    MaySteal s n r ∧ ∀ m q, MaySteal s m q → distance s n ≤ distance s m ∧
      (distance s m = distance s n → earlier q r = false) := by
  have hbest := earliest_bestSteal s scope
  rw [h] at hbest
  obtain ⟨⟨hmay, hn⟩, hfirst⟩ := hbest
  have hn := (hs n).mp hn
  refine ⟨hmay, fun m q hq => ⟨hn.trans (hno m q hq), fun hm => hfirst m q ⟨hq, (hs m).mpr (by omega)⟩⟩⟩

theorem beyond_of_bestSteal {k : Nat} {scope : Nat → Bool} (hs : ∀ n, scope n = true ↔ distance s n ≤ k)
    (h : bestSteal s scope = none) (m : Nat) (q : Rec) (hq : MaySteal s m q) : k + 1 ≤ distance s m := by
  have hbest := earliest_bestSteal s scope
  rw [h] at hbest
  by_contra hlt
  exact hbest m q ⟨hq, (hs m).mpr (by omega)⟩

theorem cluster_scope (n : Nat) : decide (n / 8 = s.cpu.id / 8) = true ↔ distance s n ≤ 0 := by
  rw [decide_eq_true_eq, Nat.le_zero, distance_eq_zero]

theorem die_scope (n : Nat) : decide (n / 96 = s.cpu.id / 96) = true ↔ distance s n ≤ 1 := by
  rw [decide_eq_true_eq, distance_le_one]

theorem package_scope (n : Nat) : true = true ↔ distance s n ≤ 2 := by simp [distance_le_two]

theorem stealTarget_some {n : Nat} {r : Rec} (h : stealTarget s = some (n, r)) : MaySteal s n r ∧
    ∀ m q, MaySteal s m q → distance s n ≤ distance s m ∧ (distance s m = distance s n → earlier q r = false) := by
  unfold stealTarget at h
  simp only at h
  split at h
  case h_1 x hx => exact nearest_of_bestSteal cluster_scope (fun _ _ _ => Nat.zero_le _) (hx.trans h)
  case h_2 hcluster =>
    have hbeyond := beyond_of_bestSteal cluster_scope hcluster
    split at h
    case h_1 x hx => exact nearest_of_bestSteal die_scope hbeyond (hx.trans h)
    case h_2 hdie => exact nearest_of_bestSteal package_scope (beyond_of_bestSteal die_scope hdie) h

theorem stealTarget_none (h : stealTarget s = none) (m : Nat) (q : Rec) : ¬MaySteal s m q := by
  unfold stealTarget at h
  simp only at h
  split at h
  case h_1 => exact absurd h (Option.some_ne_none _)
  case h_2 =>
    split at h
    case h_1 => exact absurd h (Option.some_ne_none _)
    case h_2 =>
      intro hq
      have hbest := earliest_bestSteal s fun _ => true
      rw [h] at hbest
      exact hbest m q ⟨hq, rfl⟩

/-! A record read back (R258, R263). -/

/-- Where the registers of a mask below one are, among those of the mask. -/
theorem takeWhile_span (p : Nat → Bool) {i : Nat} (h1 : 1 ≤ i) (h : i ≤ 32) :
    ((span 1 32).filter p).takeWhile (· < i) = (span 1 i).filter p := by
  have hsplit : span 1 32 = span 1 i ++ span i 32 := by
    interval_cases i <;> rfl
  have hlow : ∀ j ∈ (span 1 i).filter p, decide (j < i) = true := by
    intro j hj
    have := (List.mem_filter.mp hj).1
    simp only [span, List.mem_map, List.mem_range] at this
    simp only [decide_eq_true_eq]
    omega
  have hhigh : ((span i 32).filter p).takeWhile (· < i) = [] := by
    cases hl : (span i 32).filter p with
    | nil => rfl
    | cons j js =>
      have hj : j ∈ (span i 32).filter p := hl ▸ .head _
      have := (List.mem_filter.mp hj).1
      simp only [span, List.mem_map, List.mem_range] at this
      rw [List.takeWhile_cons_of_neg]
      simp only [decide_eq_true_eq]
      omega
  rw [hsplit, List.filter_append, List.takeWhile_append_of_pos hlow, hhigh, List.append_nil]

theorem fromShed_tself (n : Nat) (r : Rec) : (fromShed s n r).1.ctx.tself = r.ctx.tself := by
  unfold fromShed
  split
  case h_1 => rfl
  case h_2 =>
    simp only
    split
    · simp only
      split <;> rfl
    · rfl

theorem recOf_poison (r : Rec) (bs : List Byte) : (recOf r bs).poison = r.poison := rfl

theorem recOf_g (r : Rec) (bs : List Byte) {i : Fin 32} (hi : i.val ≠ 0)
    (hlive : (BitVec.ofNat 64 (at_ bs 8 8)).getLsbD i.val = true) : (recOf r bs).ctx.g.get i =
      BitVec.ofNat 64 (at_ bs (64 + 8 * ((span 1 i.val).filter fun j => (at_ bs 8 8).testBit j).length) 8) := by
  have hmem : ((span 1 32).filter fun j => (BitVec.ofNat 64 (at_ bs 8 8)).getLsbD j).contains i.val = true := by
    rw [List.contains_iff_mem, List.mem_filter]
    refine ⟨?_, hlive⟩
    simp only [span, List.mem_map, List.mem_range]
    exact ⟨i.val - 1, by omega, by omega⟩
  have hfilter : ((span 1 i.val).filter fun j => (BitVec.ofNat 64 (at_ bs 8 8)).getLsbD j) =
      (span 1 i.val).filter fun j => (at_ bs 8 8).testBit j := by
    refine List.filter_congr fun j hj => ?_
    simp only [span, List.mem_map, List.mem_range] at hj
    rw [BitVec.getLsbD_ofNat, decide_eq_true (by omega), Bool.true_and]
  calc (recOf r bs).ctx.g.get i
      = (if ((span 1 32).filter fun j => (BitVec.ofNat 64 (at_ bs 8 8)).getLsbD j).contains i.val then
          BitVec.ofNat 64 (at_ bs (64 + 8 * (((span 1 32).filter fun j =>
            (BitVec.ofNat 64 (at_ bs 8 8)).getLsbD j).takeWhile (· < i.val)).length) 8) else 0) :=
        Vector.getElem_ofFn ..
    _ = _ := by rw [if_pos hmem, takeWhile_span _ (by omega) (by omega), hfilter]

/-- A record comes back as its bytes in the Woodshed give it, with its own handle and wait. -/
theorem fromShed_of_read {n off : Nat} {r : Rec} {bs : List Byte} {v : State} (hr : r.spill = some off)
    (hread : shedRead n (slotLen (coreAt s n) off / 64 + 1) s ((coreAt s n).wsbase.toNat + off)
      (slotLen (coreAt s n) off) = (some bs, v)) :
    ∃ bad : Bool, let r' := { r with spill := none, due := false, poison := r.poison || bad }
      fromShed s n r = (if (bs.drop 16).take (recImage r).length = recImage r then r' else recOf r' (bs.drop 16), v) := by
  refine ⟨shedPoisoned s n (slotLen (coreAt s n) off / 64 + 1) ((coreAt s n).wsbase.toNat + off)
    (slotLen (coreAt s n) off), ?_⟩
  unfold fromShed
  rw [hr]
  simp only [hread]
  rfl

theorem writeDrsel_clear (s : State) : writeDrsel s (s.cpu.drsel.toNat + 16) =
    modCpu s fun c => { c with draughts := Vector.replicate 16 none, drlost := 0 } := by
  have hsel : BitVec.ofNat 4 (s.cpu.drsel.toNat + 16) = s.cpu.drsel := by
    apply BitVec.eq_of_toNat_eq
    rw [BitVec.toNat_ofNat]
    omega
  have hclr : (s.cpu.drsel.toNat + 16).testBit 4 = true := by
    rw [Nat.testBit, Nat.shiftRight_eq_div_pow]
    simp only [Nat.one_and_eq_mod_two, bne_iff_ne]
    omega
  rw [writeDrsel, hsel, hclr]
  rfl

/-- Settles O46: the selection is `pickRec_spec`, stealing `stealTarget_some`, a record read back `fromShed_of_read`; each
other event is its definition. -/
theorem schedulingEvents : Obligations.SchedulingEvents := by
  intro s word
  refine ⟨refetchDue_eq_none, ?refetch, ?select, ⟨?first, ?noFirst⟩, ?target, stealTarget_none, ?steal, ?back, ?holdEnd,
    ?holdReclaim, ?fill, ?illegal, ?step, ?clear⟩
  case refetch =>
    intro r u hr hu
    rw [exec_readySelection, execReadySelection, hr, Option.bind_some, hu]
  case select =>
    intro hdue hidle hrun r resident hr
    have hsel : exec .readySelection s = .next (selectReady s) := by
      rw [exec_readySelection, execReadySelection, hdue]
      simp only [between, hidle, hrun, decide_true, Bool.and_self, if_true]
    rw [hsel, selectReady, hr]
    refine ⟨fun h => ?_, fun u h hu q hq => ?_, fun q h hu hres => ?_, fun h hu hres => ?_⟩
    · simp [h]
    · simp [h, hu, resumeBack, hq]
    · simp [h, hu, hres, resident]
    · simp [h, hu, hres, resident]
  case first =>
    intro r hr
    obtain ⟨hmem, hbest, hlate⟩ := pickRec_spec hr
    exact ⟨mem_ready_granted.mp hmem, fun q hq hsame hprec =>
      absurd (goesBefore_iff.mpr hprec) (by simp [hbest q (mem_ready_granted.mpr hq) hsame]),
      fun hr q hq => hlate hr q (mem_ready_granted.mpr hq)⟩
  case noFirst =>
    intro hnone q hq
    have := mem_ready_granted.mpr hq
    rw [pickRec_eq_none.mp hnone] at this
    exact absurd this List.not_mem_nil
  case target =>
    intro n r h
    obtain ⟨hmay, hbest⟩ := stealTarget_some h
    refine ⟨hmay, fun m q hq => ⟨(hbest m q hq).1, fun hm he => ?_⟩⟩
    exact absurd (earlier_iff.mpr he) (by simp [(hbest m q hq).2 hm])
  case steal =>
    intro n r u hidle hrun hnone hr hroom
    rw [exec_steal, execSteal]
    simp only [between, hidle, hrun, hnone, hr, hroom, fromShed_tself, exemptBy, decide_true, Bool.and_self,
      Bool.not_true, Option.isSome_none, Bool.or_self, Bool.false_eq_true, if_false]
  case back =>
    intro n r off bs v hr hread
    obtain ⟨bad, hq⟩ := fromShed_of_read hr hread
    rw [hq]
    refine ⟨rfl, ?_, ?_, ?_, fun h => ?_, fun h => ?_⟩
    · dsimp only; split <;> rfl
    · dsimp only; split <;> rfl
    · intro hp
      dsimp only; split <;> simp [hp, recOf_poison]
    · simp only [if_pos h]
    · simp only [if_neg h]
      exact ⟨rfl, rfl, rfl, rfl, fun i hlive hi => recOf_g _ _ hi hlive⟩
  case holdEnd =>
    intro hhold htask hr
    rw [exec_spillHoldEnd, execSpillHoldEnd]
    simp [hhold, htask, hr]
  case holdReclaim =>
    intro hhold htask hr
    rw [exec_spillHoldEnd, execSpillHoldEnd]
    simp [hhold, htask, hr, reclaim]
  case fill =>
    intro hwho hrun hline ws t ht
    rw [exec_codeLineFill, execCodeLineFill]
    simp [hwho, hrun, hline, fetchLine, ht]
  case illegal =>
    intro hwho
    rw [exec_illegalWord, execIllegalWord, if_neg hwho]
    rfl
  case step =>
    intro h
    rw [exec_singleStep, execSingleStep, if_pos h]
  case clear => rw [exec_draughtClear, execDraughtClear, writeDrsel_clear]

end Sys2Proof.Machine
end

section
/-!
PROOF. A vector result, element by element (O32).
-/

namespace Sys2Proof.Machine

open Sys2Proof.Claims

variable {s : State}

/-! Completion, apart from the stores that were held back. -/

/-- The executing instruction holds no store back. -/
def HoldsNone (s : State) : Prop := ∀ e, s.cpu.lane = some e → e.stores = []

theorem holdsNone_noneHeld (s : State) : HoldsNone (noneHeld s) := by
  intro e he
  obtain ⟨x, -, rfl⟩ := Option.map_eq_some_iff.mp (he : s.cpu.lane.map _ = some e)
  rfl

theorem noneHeld_front (h : s.cpu.lane = none) : noneHeld s = s := by
  have hl : s.cpu.lane.map (fun e => { e with stores := [] }) = s.cpu.lane := by rw [h]; rfl
  rw [noneHeld, modCpu, hl]

@[simp] theorem prefixOf_noneHeld (s : State) : prefixOf (noneHeld s) = prefixOf s := by
  cases h : s.cpu.lane with
  | none => rw [noneHeld_front h]
  | some e => simp only [prefixOf, noneHeld, modCpu_cpu, h, Option.map_some]

/-- Completion performs the stores that were held back last (R275). -/
theorem retire_noneHeld (s : State) : retire s = performHeld (retire (noneHeld s)) (heldBack s) := by
  cases h : s.cpu.lane with
  | none =>
    rw [noneHeld_front h, heldBack, h]
    rfl
  | some e =>
    have hn : (noneHeld s).cpu.lane = some { e with stores := [] } := by simp only [noneHeld, modCpu_cpu, h, Option.map_some]
    rw [retire_lane _ h, retire_lane _ hn, heldBack, h]
    rfl

theorem retireV_noneHeld (s : State) : retireV s = performHeld (retireV (noneHeld s)) (heldBack s) :=
  retire_noneHeld (clearBeg s)

section
variable (h : HoldsNone s)
include h

theorem retireV_vec : (retireV s).cpu.live.vec = { s.cpu.live.vec with vbeg := 0 } := by
  rw [retireV, retire_plain (clearBeg s) h, modCpu_cpu]
  dsimp only
  split <;> rfl

theorem retireV_g : (retireV s).cpu.live.g = s.cpu.live.g := by
  rw [retireV, retire_plain (clearBeg s) h, modCpu_cpu]
  dsimp only
  split <;> rfl

theorem retireV_fst : (retireV s).cpu.live.fst = s.cpu.live.fst := by
  rw [retireV, retire_plain (clearBeg s) h, modCpu_cpu]
  dsimp only
  split <;> rfl

theorem retireV_mem : (retireV s).mem = s.mem := by
  rw [retireV, retire_plain (clearBeg s) h]
  rfl

theorem retireV_futs : (retireV s).futs = s.futs := by
  rw [retireV, retire_plain (clearBeg s) h]
  rfl

end

/-! A vector register written. -/

theorem putV_noneHeld (s : State) (d : Reg) (v : VReg) : putV (noneHeld s) d v = noneHeld (putV s d v) := by
  simp only [putV, prefixOf_noneHeld]
  rfl

theorem get_set_vreg (x : Vector VReg 32) (q r : Reg) (v : VReg) : (x.set q v).get r = if r = q then v else x.get r := by
  simp only [Vector.get_eq_getElem, Vector.getElem_set, Fin.val_inj, eq_comm (a := q)]

theorem vreg_putV (s : State) (d r : Reg) (v : VReg) : vreg (putV s d v) r =
    if r = d ∨ ((prefixOf s).v = true ∧ (prefixOf s).pc = true ∧ r = (prefixOf s).pd) then v else vreg s r := by
  have hput : vreg (putV s d v) r = (if (prefixOf s).v && (prefixOf s).pc then
      (s.cpu.live.vec.regs.set d v).set (prefixOf s).pd v else s.cpu.live.vec.regs.set d v).get r := rfl
  rw [hput]
  by_cases hp : (prefixOf s).v = true ∧ (prefixOf s).pc = true
  · rw [if_pos (by simp [hp]), get_set_vreg, get_set_vreg]
    by_cases hr : r = (prefixOf s).pd
    · rw [if_pos hr, if_pos (.inr ⟨hp.1, hp.2, hr⟩)]
    · simp only [hr, and_false, or_false, if_false]
      rfl
  · rw [if_neg (by simpa using hp), get_set_vreg]
    have hno : ¬((prefixOf s).v = true ∧ (prefixOf s).pc = true ∧ r = (prefixOf s).pd) := fun h => hp ⟨h.1, h.2.1⟩
    simp only [hno, or_false]
    rfl

/-- The register that `writeElems` writes, and the exceptions that it accrues. -/
def elemResults (s : State) (d : Reg) (t : Ty) (act : Nat → Bool) (f : Nat → Elt) : List Elt :=
  (List.range (vecOf s).vl).map fun i => if act i then f i else (slot (vreg s d).img i (tyBits t), 0)

/-- The state of a vector result before completion. -/
def elemsPut (s : State) (d : Reg) (t : Ty) (act : Nat → Bool) (f : Nat → Elt) : State :=
  let l := elemResults s d t act f
  putV (accrue s (allFlags l)) d { tag := some t, img := imgOf (tyBits t) (l.map (·.1)) }

variable {d : Reg} {t : Ty} {act : Nat → Bool} {f : Nat → Elt}

theorem writeElems_empty (h : s.cpu.live.vec.vl = 0) : writeElems s d t act f = retireV s := if_pos h

theorem writeElems_nonempty (h : s.cpu.live.vec.vl ≠ 0) : writeElems s d t act f = retireV (elemsPut s d t act f) :=
  if_neg h

theorem elemsPut_noneHeld : elemsPut (noneHeld s) d t act f = noneHeld (elemsPut s d t act f) :=
  putV_noneHeld (accrue s (allFlags (elemResults s d t act f))) d _

theorem writeElems_noneHeld (s : State) (d : Reg) (t : Ty) (act : Nat → Bool) (f : Nat → Elt) :
    writeElems s d t act f = performHeld (writeElems (noneHeld s) d t act f) (heldBack s) := by
  by_cases h : s.cpu.live.vec.vl = 0
  · rw [writeElems_empty h, writeElems_empty (s := noneHeld s) h, retireV_noneHeld]
  · rw [writeElems_nonempty h, writeElems_nonempty (s := noneHeld s) h, retireV_noneHeld, elemsPut_noneHeld]
    rfl

theorem getLsbD_foldl_or (l : List Elt) (a : Flags) (j : Nat) :
    (l.foldl (fun a x => a ||| x.2) a).getLsbD j = (a.getLsbD j || l.any fun x => x.2.getLsbD j) := by
  induction l generalizing a with
  | nil => simp
  | cons x l ih => rw [List.foldl_cons, ih, BitVec.getLsbD_or, List.any_cons, Bool.or_assoc]

theorem allFlags_getLsbD (l : List Elt) (j : Nat) : (allFlags l).getLsbD j = l.any fun x => x.2.getLsbD j := by
  rw [allFlags, getLsbD_foldl_or]
  simp

theorem elemResults_flags (j : Nat) : (allFlags (elemResults s d t act f)).getLsbD j =
    (List.range s.cpu.live.vec.vl).any fun i => act i && (f i).2.getLsbD j := by
  rw [allFlags_getLsbD, elemResults, List.any_map]
  congr 1
  funext i
  simp only [Function.comp_apply]
  cases act i <;> simp

theorem elemResults_slot {i : Nat} (hi : i < s.cpu.live.vec.vl) (hw : s.cpu.live.vec.vl * tyBits t ≤ 16384) :
    slot (imgOf (tyBits t) ((elemResults s d t act f).map (·.1))) i (tyBits t) =
      if act i then (f i).1 % 2 ^ tyBits t else slot (vreg s d).img i (tyBits t) := by
  have hfit : i * tyBits t + tyBits t ≤ 16384 := by
    rw [← Nat.succ_mul]
    exact (Nat.mul_le_mul_right _ hi).trans hw
  have hget : ((elemResults s d t act f).map (·.1)).getD i 0 =
      if act i then (f i).1 else slot (vreg s d).img i (tyBits t) := by
    simp only [elemResults, List.map_map, List.getD_eq_getElem?_getD, List.getElem?_map, vecOf,
      List.getElem?_range hi, Option.map_some, Option.getD_some, Function.comp_apply]
    split <;> rfl
  rw [slot_imgOf hfit, hget]
  split
  · rfl
  · exact Nat.mod_eq_of_lt (Nat.mod_lt _ (by positivity))

theorem imgOf_getLsbD {w i : Nat} {l : List Nat} (h : l.length * w ≤ i) : (imgOf w l).getLsbD i = false := by
  rw [imgOf, BitVec.getLsbD_ofNat, Nat.testBit_lt_two_pow, Bool.and_false]
  exact (packSlots_lt w l).trans_le (Nat.pow_le_pow_right (by decide) (by rwa [mul_comm]))

/-- Settles O32: `retire` performs what was held back last (`retire_noneHeld`); before that only the destination, its copy
and the flags have changed (`vreg_putV`, `elemResults_slot`, `elemResults_flags`). -/
theorem vectorDestination : Obligations.VectorDestination := by
  intro s d t act f
  refine ⟨writeElems_noneHeld s d t act f, ?_⟩
  intro u vl w copied
  by_cases hvl : s.cpu.live.vec.vl = 0
  · have hu : u = retireV (noneHeld s) := writeElems_empty (s := noneHeld s) hvl
    have hn := holdsNone_noneHeld s
    have hvec : u.cpu.live.vec = { s.cpu.live.vec with vbeg := 0 } := by rw [hu, retireV_vec hn]; rfl
    have hsame (r : Reg) : vreg u r = vreg s r := by rw [vreg, vecOf, hvec]; rfl
    have hfst : u.cpu.live.fst = s.cpu.live.fst := by rw [hu, retireV_fst hn]; rfl
    refine ⟨by rw [hvec], by rw [hvec], by rw [hvec], by rw [hvec], by rw [hu, retireV_g hn]; rfl,
      by rw [hu, retireV_mem hn]; rfl, by rw [hu, retireV_futs hn]; rfl, fun r _ _ => hsame r,
      fun _ => ⟨hsame, hfst⟩, fun h => absurd hvl h, fun h => absurd hvl h⟩
  · have hu : u = retireV (noneHeld (elemsPut s d t act f)) := by
      rw [← elemsPut_noneHeld]
      exact writeElems_nonempty (s := noneHeld s) hvl
    have hn := holdsNone_noneHeld (elemsPut s d t act f)
    have hvec : u.cpu.live.vec = { (elemsPut s d t act f).cpu.live.vec with vbeg := 0 } := by
      rw [hu, retireV_vec hn]; rfl
    have hreg (r : Reg) : vreg u r = if r = d ∨ copied r then
        { tag := some t, img := imgOf w ((elemResults s d t act f).map (·.1)) } else vreg s r := by
      rw [vreg, vecOf, hvec]
      exact vreg_putV (accrue s (allFlags (elemResults s d t act f))) d r _
    refine ⟨by rw [hvec], by rw [hvec]; rfl, by rw [hvec]; rfl, by rw [hvec]; rfl, by rw [hu, retireV_g hn]; rfl,
      by rw [hu, retireV_mem hn]; rfl, by rw [hu, retireV_futs hn]; rfl, fun r hd hc => ?_, fun h => absurd h hvl,
      fun _ r hc => ?_, fun _ hw => ?_⟩
    · rw [hreg, if_neg (not_or.mpr ⟨hd, hc⟩)]
    · rw [hreg, hreg, if_pos (.inr hc), if_pos (.inl rfl)]
    · rw [hreg, if_pos (.inl rfl)]
      refine ⟨rfl, fun i hi => elemResults_slot hi hw, fun i hi => imgOf_getLsbD ?_, fun j => ?_⟩
      · rw [List.length_map, elemResults, List.length_map, List.length_range]
        exact hi
      · rw [hu, retireV_fst hn, ← elemResults_flags (d := d) (t := t)]
        exact BitVec.getLsbD_or

end Sys2Proof.Machine
end

section
/-!
PROOF. The conversions, with error feedback, packing and unpacking (O37).
-/

namespace Sys2Proof.Machine

open Sys2Proof.Claims

variable {s : State}

/-! A vector instruction that begins, past its checks. -/

theorem begun_of_vector {a : Attr} {i : Instr} {caps : List Reg} {body : State → State} {t : State}
    (he : exec i s = vector a i caps s body) (hl : a.level = 0) (hb : body s = t) : Begun a true i s t :=
  fun h => he.trans ((issueV_begins h hl).trans (congrArg Host.Outcome.next hb))

theorem lanes_fits {ws : List Nat} {k : State → State} (h : Fits s ws) : lanes s true ws k = k s := by
  have hno : (ws.any fun w => decide (grantBits s < (vecOf s).vl * w)) = false := by
    simp only [List.any_eq_false, decide_eq_true_eq, not_lt]
    exact h
  rw [lanes, if_neg (by decide), if_neg (by rw [hno]; exact Bool.false_ne_true)]

/-- What a vector result depends on: the elements that are written. -/
theorem writeElems_congr {d : Reg} {t : Ty} {act act' : Nat → Bool} {f f' : Nat → Elt}
    (ha : ∀ j < s.cpu.live.vec.vl, act j = act' j) (hf : ∀ j < s.cpu.live.vec.vl, act j = true → f j = f' j) :
    writeElems s d t act f = writeElems s d t act' f' := by
  have hmap : ((List.range (vecOf s).vl).map fun i => if act i then f i else (slot (vreg s d).img i (tyBits t), 0)) =
      (List.range (vecOf s).vl).map fun i => if act' i then f' i else (slot (vreg s d).img i (tyBits t), 0) := by
    refine List.map_congr_left fun j hj => ?_
    have hj := List.mem_range.mp hj
    rw [← ha j hj]
    split
    case isTrue h => exact hf j hj h
    case isFalse => rfl
  simp only [writeElems, hmap]

/-! One value rounded to a floating-point target (R88, R149, R150). -/

theorem tyFloat_of {t : Ty} (hi : tyInt t = false) (he : t ≠ .e8m0) : tyFloat t = true := by
  revert hi he
  cases t <;> decide

theorem mem_of_tyFloat {t : Ty} (ht : tyFloat t = true) :
    t ∈ [Ty.fp64, .fp32, .fp16, .bf16, .e5m2, .e4m3, .e2m1] := by
  revert ht
  cases t <;> decide

theorem overflowBits_fmtOf {t : Ty} (ht : tyFloat t = true) (dir : Dir) (sat neg : Bool) :
    overflowBits (fmtOf t) dir sat neg = pastRange t dir sat neg := by
  have ht := mem_of_tyFloat ht
  fin_cases ht <;> cases dir <;> cases sat <;> cases neg <;> rfl

theorem ite_overflow {p : Prop} [Decidable p] {x y : Nat × Flags} (hy : y.2 &&& flagOF = 0)
    (h : (if p then x else y).2 &&& flagOF ≠ 0) : (if p then x else y) = x := by
  by_cases hp : p
  · rw [if_pos hp]
  · rw [if_neg hp] at h
    exact absurd hy h

theorem inexact_no_overflow (p q : Prop) [Decidable p] [Decidable q] :
    ((if p then flagNX else 0) ||| (if q then flagUF else 0)) &&& flagOF = 0 := by
  split <;> split <;> rfl

theorem roundFin_overflow {f : FloatFmt} {dir : Dir} {sat neg : Bool} {num den : Nat} :
    (roundFin f dir sat neg num den).2 &&& flagOF ≠ 0 →
      roundFin f dir sat neg num den = (overflowBits f dir sat neg, flagOF ||| flagNX) :=
  ite_overflow (inexact_no_overflow _ _)

theorem roundTo_overflow {f : FloatFmt} {dir : Dir} {sat neg : Bool} {num den : Nat}
    (h : (roundTo f dir sat (.fin neg num den)).2 &&& flagOF ≠ 0) :
    roundTo f dir sat (.fin neg num den) = (overflowBits f dir sat neg, flagOF ||| flagNX) := by
  rw [roundTo] at h ⊢
  by_cases hz : num = 0
  · rw [if_pos hz] at h
    exact absurd BitVec.zero_and h
  · rw [if_neg hz] at h ⊢
    exact roundFin_overflow h

theorem toFloat_fin {sat neg : Bool} {dir : Dir} {t : Ty} {num den : Nat} (ht : tyFloat t = true) :
    ToFloat sat dir t (.fin neg num den) (roundTo (fmtOf t) dir sat (.fin neg num den)) := by
  refine ⟨fun _ h => (nomatch h), fun _ h => (nomatch h), ?_⟩
  rintro _ _ _ ⟨⟩
  refine ⟨rfl, fun h => ?_⟩
  rw [roundTo_overflow h, overflowBits_fmtOf ht]

theorem cvtFp_nan (sat : Bool) (dir : Dir) (t : Ty) (sg : Bool) :
    cvtFp sat dir t (.nan sg) = (defaultNaN (fmtOf t), nonFiniteFlags (fmtOf t) (.nan sg)) :=
  Prod.ext rfl BitVec.zero_or

theorem cvtFp_inf (sat : Bool) (dir : Dir) (t : Ty) (neg : Bool) :
    cvtFp sat dir t (.inf neg) = (match (fmtOf t).inf with
      | some i => signed (fmtOf t) neg i
      | none => overflowBits (fmtOf t) .rne sat neg, nonFiniteFlags (fmtOf t) (.inf neg)) := by
  simp only [cvtFp, roundTo]
  cases (fmtOf t).inf <;> exact Prod.ext rfl BitVec.zero_or

theorem cvtFp_fin (sat : Bool) (dir : Dir) (t : Ty) (neg : Bool) (num den : Nat) :
    cvtFp sat dir t (.fin neg num den) = roundTo (fmtOf t) dir sat (.fin neg num den) :=
  Prod.ext rfl BitVec.or_zero

theorem toFloat_cvtFp {t : Ty} (ht : tyFloat t = true) (sat : Bool) (dir : Dir) (x : FpVal) :
    ToFloat sat dir t x (cvtFp sat dir t x) := by
  cases x with
  | nan sg =>
    refine ⟨?_, fun _ h => (nomatch h), fun _ _ _ h => (nomatch h)⟩
    rintro _ ⟨⟩
    rw [cvtFp_nan]
    have ht := mem_of_tyFloat ht
    fin_cases ht <;> cases sg <;> rfl
  | inf neg =>
    refine ⟨fun _ h => (nomatch h), ?_, fun _ _ _ h => (nomatch h)⟩
    rintro _ ⟨⟩
    rw [cvtFp_inf]
    have ht := mem_of_tyFloat ht
    fin_cases ht <;> cases neg <;> cases sat <;> rfl
  | fin neg num den =>
    rw [cvtFp_fin]
    exact toFloat_fin ht

/-! One value converted to an integer (R87, R149). -/

theorem roundAt_zero (dir : Dir) (neg : Bool) (num den : Nat) :
    roundAt dir neg num den 0 = (toInteger dir neg num den, num % den != 0) := by
  have hden : den * 2 ^ (0 : Int).toNat = den := Nat.mul_one den
  simp only [roundAt, toInteger, le_refl, if_true, hden]
  cases dir <;> simp [beq_eq_decide]

theorem toInteger_fpToInt (dir : Dir) (t : Ty) (x : FpVal) :
    ToInteger dir t x (trunc (tyBits t) (fpToInt dir (tyMin t) (tyMax t) x).1,
      (fpToInt dir (tyMin t) (tyMax t) x).2) := by
  cases x with
  | nan sg =>
    refine ⟨fun _ _ => Prod.ext ?_ rfl, fun _ h => (nomatch h), fun _ _ _ h => (nomatch h)⟩
    simp [fpToInt, trunc]
  | inf neg =>
    refine ⟨fun _ h => (nomatch h), ?_, fun _ _ _ h => (nomatch h)⟩
    rintro _ ⟨⟩
    rfl
  | fin neg num den =>
    refine ⟨fun _ h => (nomatch h), fun _ h => (nomatch h), ?_⟩
    rintro _ _ _ ⟨⟩
    simp only [fpToInt, roundAt_zero, signedInt]
    split_ifs <;> simp_all

theorem clamp_eq {lo hi : Int} (h : lo ≤ hi) (x : Int) : clamp lo hi x = max lo (min hi x) := by
  unfold clamp
  split_ifs <;> omega

theorem tyMin_le_tyMax (t : Ty) : tyMin t ≤ tyMax t := by cases t <;> decide

theorem converts_cvtElt {src t : Ty} (h : cvtOk src t = true) (sat : Bool) (dir : Dir) (x : Nat) :
    Converts sat dir src t x (cvtElt sat dir src t x) := by
  have hte : t ≠ .e8m0 := by
    rintro rfl
    simp [cvtOk] at h
  refine ⟨fun hs ht => ?_, fun hs ht => ?_, fun hs ht => ?_, fun hs ht => ?_⟩
  · simp only [cvtElt, hs, ht, if_true, clamp_eq (tyMin_le_tyMax t)]
  · have hx : cvtElt sat dir src t x = cvtFp sat dir t (intVal (tyIntVal src x)) := by simp [cvtElt, hs, ht]
    rw [hx]
    exact toFloat_cvtFp (tyFloat_of ht hte) sat dir _
  · have hx : cvtElt sat dir src t x = (trunc (tyBits t) (fpToInt dir (tyMin t) (tyMax t) (tyVal src x)).1,
        (fpToInt dir (tyMin t) (tyMax t) (tyVal src x)).2) := by simp [cvtElt, hs, ht]
    rw [hx]
    exact toInteger_fpToInt dir t _
  · have hx : cvtElt sat dir src t x = cvtFp sat dir t (tyVal src x) := by simp [cvtElt, hs, ht]
    rw [hx]
    exact toFloat_cvtFp (tyFloat_of ht hte) sat dir _

/-! Error feedback (R151, R152). -/

theorem span_succ {lo j : Nat} (h : lo ≤ j) : span lo (j + 1) = span lo j ++ [j] := by
  rw [span, Nat.succ_sub h, List.range_succ, List.map_append, List.map_singleton, Nat.add_sub_cancel' h]
  rfl

theorem span_nil {lo hi : Nat} (h : hi ≤ lo) : span lo hi = [] := by
  rw [span, Nat.sub_eq_zero_of_le h]
  rfl

theorem mem_span {lo hi j : Nat} : j ∈ span lo hi ↔ lo ≤ j ∧ j < hi := by
  simp only [span, List.mem_map, List.mem_range]
  constructor
  · rintro ⟨i, hi, rfl⟩
    omega
  · rintro ⟨h1, h2⟩
    exact ⟨j - lo, by omega, by omega⟩

theorem range_append_span {lo hi : Nat} (h : lo ≤ hi) : List.range hi = List.range lo ++ span lo hi := by
  induction hi, h using Nat.le_induction with
  | base => rw [span_nil le_rfl, List.append_nil]
  | succ hi h ih => rw [span_succ h, List.range_succ, ih, List.append_assoc]

/-- The elements of a range that a condition bounds to a part of it. -/
theorem filter_range_span {lo n len : Nat} (h : n ≤ len) (p : Nat → Bool) :
    (List.range len).filter (fun j => lo ≤ j && j < n && p j) = (span lo n).filter p := by
  by_cases hlo : lo ≤ n
  · have hbelow : (List.range lo).filter (fun j => lo ≤ j && j < n && p j) = [] := by
      simp only [List.filter_eq_nil_iff, List.mem_range, Bool.and_eq_true, decide_eq_true_eq]
      omega
    have habove : (span n len).filter (fun j => lo ≤ j && j < n && p j) = [] := by
      simp only [List.filter_eq_nil_iff, mem_span, Bool.and_eq_true, decide_eq_true_eq]
      omega
    rw [range_append_span h, range_append_span hlo, List.filter_append, List.filter_append, hbelow, habove,
      List.nil_append, List.append_nil]
    refine List.filter_congr fun j hj => ?_
    simp [mem_span.mp hj]
  · rw [span_nil (by omega), List.filter_nil, List.filter_eq_nil_iff]
    simp only [Bool.and_eq_true, decide_eq_true_eq]
    omega

theorem efRun_append (act : Nat → Bool) (f : Nat → Nat → Elt × Nat) (l : List Nat) (j efr : Nat) :
    efRun act f (l ++ [j]) efr =
      ((efRun act f l efr).1 ++ [(if act j then f j (efRun act f l efr).2 else ((0, 0), (efRun act f l efr).2)).1],
        (if act j then f j (efRun act f l efr).2 else ((0, 0), (efRun act f l efr).2)).2) := by
  induction l generalizing efr with
  | nil => rfl
  | cons i is ih => simp only [List.cons_append, efRun, ih]

theorem fin_of_not_notFinite {x : FpVal} (hx : notFinite x = false) : ∃ neg num den, x = .fin neg num den := by
  cases x with
  | fin neg num den => exact ⟨neg, num, den, rfl⟩
  | nan | inf => cases hx

theorem finite_fpAdd (dir : Dir) {x y : FpVal} (hx : notFinite x = false) (hy : notFinite y = false) :
    ∃ neg num den, (fpAdd dir x y).1 = .fin neg num den := by
  obtain ⟨n, a, b, rfl⟩ := fin_of_not_notFinite hx
  obtain ⟨m, c, d, rfl⟩ := fin_of_not_notFinite hy
  simp only [fpAdd, sumFin]
  split_ifs <;> exact ⟨_, _, _, rfl⟩

section
variable {sat : Bool} {a : Reg} {src t : Ty} {k : KReg}

/-- One element of the run, after the elements below it. -/
theorem efTo_succ {j : Nat} (h : s.cpu.live.vec.vbeg ≤ j) :
    efTo s sat a src t k (j + 1) =
      let efr := (efTo s sat a src t k j).2
      let r := if active s k j then efElt sat t (tyVal src (slot (vreg s a).img j (tyBits src))) efr else ((0, 0), efr)
      ((efTo s sat a src t k j).1 ++ [r.1], r.2) := by
  have h' : (vecOf s).vbeg ≤ j := h
  rw [efTo, span_succ h', efRun_append]
  rfl

theorem efTo_start {n : Nat} (h : n ≤ s.cpu.live.vec.vbeg) :
    efTo s sat a src t k n = ([], s.cpu.live.vec.efr.toNat) := by
  rw [efTo, span_nil (show n ≤ (vecOf s).vbeg from h)]
  rfl

theorem efTo_length (n : Nat) : (efTo s sat a src t k n).1.length = n - s.cpu.live.vec.vbeg := by
  induction n with
  | zero => rw [efTo_start (Nat.zero_le _), Nat.zero_sub]; rfl
  | succ n ih =>
    by_cases h : s.cpu.live.vec.vbeg ≤ n
    · rw [efTo_succ h, List.length_append, ih, List.length_singleton]
      omega
    · rw [efTo_start (by omega)]
      simp only [List.length_nil]
      omega

theorem efTo_getD {j n : Nat} (hj : s.cpu.live.vec.vbeg ≤ j) (hn : j < n) (hact : active s k j = true) :
    (efTo s sat a src t k n).1.getD (j - s.cpu.live.vec.vbeg) (0, 0) =
      (efElt sat t (tyVal src (slot (vreg s a).img j (tyBits src))) (efTo s sat a src t k j).2).1 := by
  induction n with
  | zero => omega
  | succ n ih =>
    rw [efTo_succ (by omega)]
    simp only
    by_cases hjn : j = n
    · subst hjn
      rw [if_pos hact, List.getD_append_right _ _ _ _ (efTo_length j).le, efTo_length, Nat.sub_self]
      rfl
    · rw [List.getD_append _ _ _ _ (by rw [efTo_length]; omega), ih (by omega)]

theorem feeds_efElt (ht : tyFloat t = true) (x : FpVal) (efr : Nat) :
    Feeds sat t x efr (efElt sat t x efr).1 (efElt sat t x efr).2 := by
  refine ⟨fun hx => ?_, fun hx he => ?_, fun hx he => ?_⟩
  · simp only [efElt, hx, if_true]
    exact ⟨toFloat_cvtFp ht .., trivial⟩
  · simp only [efElt, hx, he, if_true, Bool.false_eq_true, if_false]
    exact ⟨toFloat_cvtFp ht .., trivial⟩
  · obtain ⟨neg, num, den, hsum⟩ := finite_fpAdd .rne hx he
    simp only [efElt, hx, he, Bool.false_eq_true, if_false]
    rw [hsum]
    exact ⟨toFloat_fin ht, trivial⟩

/-- The residual before an element of a run, and the result of the element. -/
def residual (s : State) (sat : Bool) (a : Reg) (src t : Ty) (k : KReg) (j : Nat) : Nat := (efTo s sat a src t k j).2

def feedResult (s : State) (sat : Bool) (a : Reg) (src t : Ty) (k : KReg) (j : Nat) : Elt :=
  (efElt sat t (tyVal src (slot (vreg s a).img j (tyBits src))) (residual s sat a src t k j)).1

theorem feedsOn_run (ht : tyFloat t = true) (n : Nat) :
    FeedsOn s sat t k (fun j => tyVal src (slot (vreg s a).img j (tyBits src))) n (feedResult s sat a src t k)
      (residual s sat a src t k) where
  first := by rw [residual, efTo_start le_rfl]
  taken j hj _ hact := by
    have hnext : residual s sat a src t k (j + 1) =
        (efElt sat t (tyVal src (slot (vreg s a).img j (tyBits src))) (residual s sat a src t k j)).2 := by
      rw [residual, efTo_succ hj]
      simp only [hact, if_true]
      rfl
    rw [hnext]
    exact feeds_efElt ht _ _
  skipped j hj _ hact := by
    rw [residual, efTo_succ hj]
    simp only [hact, Bool.false_eq_true, if_false]
    rfl

theorem overwrites_iff {d r : Reg} : overwrites s d r = true ↔ Overwrites s d r := by
  simp [overwrites, Overwrites, and_assoc]

theorem efOk_float (h : efOk src t = true) : tyFloat t = true := by
  simp only [efOk, Bool.and_eq_true, Bool.or_eq_true, decide_eq_true_eq] at h
  obtain ⟨-, (((rfl | rfl) | rfl) | rfl) | rfl⟩ := h <;> rfl


variable {i : Instr} {d : Reg} {rm : RM}

/-- `efr` as a whole run leaves it. -/
def runResidual (s : State) (sat : Bool) (a : Reg) (src t : Ty) (k : KReg) : BitVec 32 :=
  if s.cpu.live.vec.vl = 0 then s.cpu.live.vec.efr else BitVec.ofNat 32 (efTo s sat a src t k s.cpu.live.vec.vl).2

theorem convert_begun (he : exec i s = convert i sat d a t k rm s) (ha : (vreg s a).tag = some src)
    (hfit : Fits s [tyBits t, tyBits src]) {u : State}
    (hok : (if rm = .ef then efOk src t else cvtOk src t) = true)
    (hu : (if rm = .ef then
        match if overwrites s d a then none else cutAt s 1 with
        | some n => efStop s d t k (efTo s sat a src t k n) n
        | none =>
          writeElems (modVec s fun v => { v with efr := runResidual s sat a src t k }) d t
            (fun j => s.cpu.live.vec.vbeg ≤ j && active s k j)
            fun j => (efTo s sat a src t k s.cpu.live.vec.vl).1.getD (j - s.cpu.live.vec.vbeg) (0, 0)
      else writeElems s d t (active s k) fun j =>
        cvtElt sat (dirOf rm s.cpu.live.fst) src t (slot (vreg s a).img j (tyBits src))) = u) :
    Begun (vecAttr .copyV) true i s u := by
  refine begun_of_vector he rfl ?_
  simp only [ha, hok, lanes_fits hfit]
  exact hu

theorem convert_plain (he : exec i s = convert i sat d a t k rm s) (ha : (vreg s a).tag = some src)
    (hfit : Fits s [tyBits t, tyBits src]) (hrm : rm ≠ .ef) (hok : cvtOk src t = true) :
    ∃ y : Nat → Elt, (∀ j < s.cpu.live.vec.vl, Converts sat (dirOf rm s.cpu.live.fst) src t
        (slot (vreg s a).img j (tyBits src)) (y j)) ∧
      Begun (vecAttr .copyV) true i s (writeElems s d t (active s k) y) :=
  ⟨_, fun _ _ => converts_cvtElt hok sat _ _,
    convert_begun he ha hfit (by rw [if_neg hrm]; exact hok) (if_neg hrm)⟩

/-- The residual after the whole run (R151, R152). -/
theorem runResidual_eq : runResidual s sat a src t k =
    BitVec.ofNat 32 (residual s sat a src t k (max s.cpu.live.vec.vbeg s.cpu.live.vec.vl)) := by
  unfold runResidual
  have hstart : BitVec.ofNat 32 s.cpu.live.vec.efr.toNat = s.cpu.live.vec.efr := BitVec.ofNat_toNat ..
  by_cases h : s.cpu.live.vec.vl ≤ s.cpu.live.vec.vbeg
  · rw [Nat.max_eq_left h, residual, efTo_start h, efTo_start le_rfl, hstart, ite_self]
  · rw [Nat.max_eq_right (by omega), if_neg (by omega)]
    rfl

theorem convert_feedback (he : exec i s = convert i sat d a t k .ef s) (ha : (vreg s a).tag = some src)
    (hfit : Fits s [tyBits t, tyBits src]) (h : Overwrites s d a ∨ cutAt s 1 = none) (hok : efOk src t = true) :
    Begun (vecAttr .copyV) true i s
      (writeElems (modVec s fun u =>
          { u with efr := BitVec.ofNat 32 (residual s sat a src t k (max s.cpu.live.vec.vbeg s.cpu.live.vec.vl)) }) d t
        (fun j => s.cpu.live.vec.vbeg ≤ j && active s k j) (feedResult s sat a src t k)) := by
  have hrun : (if overwrites s d a then none else cutAt s 1) = none := by
    split
    · rfl
    · exact h.resolve_left (mt overwrites_iff.mpr ‹_›)
  refine convert_begun he ha hfit (by rw [if_pos rfl]; exact hok) ?_
  rw [if_pos rfl, hrun, runResidual_eq]
  refine writeElems_congr (fun _ _ => rfl) fun j hj hact => ?_
  obtain ⟨hbeg, hact⟩ := Bool.and_eq_true_iff.mp hact
  exact efTo_getD (of_decide_eq_true hbeg) hj hact

theorem efStop_eq (s : State) (d : Reg) (t : Ty) (k : KReg) (run : List Elt × Nat) (n : Nat) :
    efStop s d t k run n =
      stayAt (putV (modVec (accrue s (allFlags (((span s.cpu.live.vec.vbeg n).filter (active s k)).map fun j =>
          run.1.getD (j - s.cpu.live.vec.vbeg) (0, 0)))) fun v => { v with efr := BitVec.ofNat 32 run.2 }) d
        { tag := some t, img := imgOf (tyBits t) ((List.range s.cpu.live.vec.vl).map fun j =>
            if s.cpu.live.vec.vbeg ≤ j && j < n && active s k j then (run.1.getD (j - s.cpu.live.vec.vbeg) (0, 0)).1
            else slot (vreg s d).img j (tyBits t)) }) n := rfl

theorem convert_stopped (he : exec i s = convert i sat d a t k .ef s) (ha : (vreg s a).tag = some src)
    (hfit : Fits s [tyBits t, tyBits src]) (h : ¬Overwrites s d a) (hok : efOk src t = true) {n : Nat}
    (hcut : cutAt s 1 = some n) :
    Begun (vecAttr .copyV) true i s (
      let done := fun j => s.cpu.live.vec.vbeg ≤ j && j < n && active s k j
      let y := feedResult s sat a src t k
      stayAt (putV (modVec (accrue s (allFlags (((List.range s.cpu.live.vec.vl).filter done).map y))) fun u =>
          { u with efr := BitVec.ofNat 32 (residual s sat a src t k n) }) d
        { tag := some t, img := imgOf (tyBits t) ((List.range s.cpu.live.vec.vl).map fun j =>
            if done j then (y j).1 else slot (vreg s d).img j (tyBits t)) }) n) := by
  have hn : n < s.cpu.live.vec.vl := by
    have := Option.mem_filter_iff.mp hcut
    simp only [Bool.and_eq_true, decide_eq_true_eq] at this
    exact this.2.2
  have hrun : (if overwrites s d a then none else cutAt s 1) = some n := by
    rw [if_neg (mt overwrites_iff.mp h), hcut]
  refine convert_begun he ha hfit (by rw [if_pos rfl]; exact hok) ?_
  rw [if_pos rfl, hrun]
  have hflags : ((span s.cpu.live.vec.vbeg n).filter (active s k)).map (fun j =>
      (efTo s sat a src t k n).1.getD (j - s.cpu.live.vec.vbeg) (0, 0)) =
      ((List.range s.cpu.live.vec.vl).filter fun j => s.cpu.live.vec.vbeg ≤ j && j < n && active s k j).map
        (feedResult s sat a src t k) := by
    rw [filter_range_span hn.le]
    refine List.map_congr_left fun j hj => ?_
    obtain ⟨hj, hact⟩ := List.mem_filter.mp hj
    obtain ⟨hbeg, hj⟩ := mem_span.mp hj
    exact efTo_getD hbeg hj hact
  have himg : ((List.range s.cpu.live.vec.vl).map fun j =>
      if s.cpu.live.vec.vbeg ≤ j && j < n && active s k j then
        ((efTo s sat a src t k n).1.getD (j - s.cpu.live.vec.vbeg) (0, 0)).1
      else slot (vreg s d).img j (tyBits t)) =
      (List.range s.cpu.live.vec.vl).map fun j =>
        if s.cpu.live.vec.vbeg ≤ j && j < n && active s k j then (feedResult s sat a src t k j).1
        else slot (vreg s d).img j (tyBits t) := by
    refine List.map_congr_left fun j _ => ?_
    split
    case isTrue h =>
      obtain ⟨⟨hbeg, hj⟩, hact⟩ := Bool.and_eq_true_iff.mp h |>.imp_left Bool.and_eq_true_iff.mp
      exact congrArg Prod.fst (efTo_getD (of_decide_eq_true hbeg) (of_decide_eq_true hj) hact)
    case isFalse => rfl
  exact (efStop_eq ..).trans (by rw [hflags, himg]; rfl)

end

/-! The exponent of a packed block (R153). -/

/-- A power of two with an integer exponent, as the quotient of two with natural ones. -/
theorem two_zpow_eq (n : Int) : (2 : ℚ) ^ n = 2 ^ n.toNat / 2 ^ (-n).toNat := by
  rcases le_total 0 n with h | h
  · obtain ⟨k, rfl⟩ := Int.eq_ofNat_of_zero_le h
    simp
  · obtain ⟨k, hk⟩ := Int.eq_ofNat_of_zero_le (Int.neg_nonneg_of_nonpos h)
    obtain rfl : n = -k := by omega
    simp

theorem le_shift_iff (a b : Nat) (n : Int) : a * 2 ^ (-n).toNat ≤ b * 2 ^ n.toNat ↔ (a : ℚ) ≤ b * 2 ^ n := by
  rw [two_zpow_eq, ← mul_div_assoc, le_div_iff₀ (by positivity)]
  exact_mod_cast Iff.rfl

theorem two_zpow_of_nonneg {l : Int} (h : 0 ≤ l) : (2 : ℚ) ^ l = 2 ^ l.toNat := by
  rw [two_zpow_eq, Int.toNat_of_nonpos (neg_nonpos.mpr h), pow_zero, div_one]

theorem two_zpow_of_neg {l : Int} (h : l < 0) : (2 : ℚ) ^ l = (2 ^ (-l).toNat)⁻¹ := by
  rw [two_zpow_eq, Int.toNat_of_nonpos h.le, pow_zero, one_div]

theorem shift_le_iff_of_nonneg {a b : Nat} {l : Int} (h : 0 ≤ l) : a * 2 ^ l.toNat ≤ b ↔ (a : ℚ) * 2 ^ l ≤ b := by
  rw [two_zpow_of_nonneg h]
  exact_mod_cast Iff.rfl

theorem shift_le_iff_of_neg {a b : Nat} {l : Int} (h : l < 0) : a ≤ b * 2 ^ (-l).toNat ↔ (a : ℚ) * 2 ^ l ≤ b := by
  rw [two_zpow_of_neg h, ← div_eq_mul_inv, div_le_iff₀ (by positivity)]
  exact_mod_cast Iff.rfl

theorem ilog2_spec {num den : Nat} (hn : 0 < num) (hd : 0 < den) :
    (den : ℚ) * 2 ^ ilog2 num den ≤ num ∧ (num : ℚ) < den * 2 ^ (ilog2 num den + 1) := by
  have hnl : (2 : ℚ) ^ (Nat.log2 num : Int) ≤ num := by
    rw [zpow_natCast]; exact_mod_cast Nat.log2_self_le hn.ne'
  have hnu : (num : ℚ) < 2 ^ (Nat.log2 num + 1 : Int) := by
    exact_mod_cast (Nat.lt_log2_self : num < 2 ^ (Nat.log2 num + 1))
  have hdl : (2 : ℚ) ^ (Nat.log2 den : Int) ≤ den := by
    rw [zpow_natCast]; exact_mod_cast Nat.log2_self_le hd.ne'
  have hdu : (den : ℚ) < 2 ^ (Nat.log2 den + 1 : Int) := by
    exact_mod_cast (Nat.lt_log2_self : den < 2 ^ (Nat.log2 den + 1))
  generalize hl : (Nat.log2 num : Int) - Nat.log2 den = l
  have hcond : ilog2 num den = if (den : ℚ) * 2 ^ l ≤ num then l else l - 1 := by
    unfold ilog2
    simp only [hl]
    split
    case isTrue h => exact if_congr (shift_le_iff_of_nonneg h) rfl rfl
    case isFalse h => exact if_congr (shift_le_iff_of_neg (not_le.mp h)) rfl rfl
  have hpos (n : Int) : (0 : ℚ) < 2 ^ n := by positivity
  rw [hcond]
  split
  case isTrue h =>
    refine ⟨h, hnu.trans_le ?_⟩
    calc (2 : ℚ) ^ (Nat.log2 num + 1 : Int) = 2 ^ (Nat.log2 den : Int) * 2 ^ (l + 1) := by
          rw [← zpow_add₀ two_ne_zero]; congr 1; omega
      _ ≤ den * 2 ^ (l + 1) := mul_le_mul_of_nonneg_right hdl (hpos _).le
  case isFalse h =>
    refine ⟨?_, by rw [sub_add_cancel]; exact lt_of_not_ge h⟩
    calc (den : ℚ) * 2 ^ (l - 1) ≤ 2 ^ (Nat.log2 den + 1 : Int) * 2 ^ (l - 1) :=
          mul_le_mul_of_nonneg_right hdu.le (hpos _).le
      _ = 2 ^ (Nat.log2 num : Int) := by rw [← zpow_add₀ two_ne_zero]; congr 1; omega
      _ ≤ num := hnl

/-- The exponents under which a value is within Q are those from `packExp` on (R153). -/
theorem packExp_le_iff {q : Nat × Nat} {num den : Nat} (hq : 0 < q.1 ∧ 0 < q.2) (hn : 0 < num) (hd : 0 < den)
    (n : Int) : packExp q num den ≤ n ↔ ((num * q.2 : Nat) : ℚ) ≤ (den * q.1 : Nat) * 2 ^ n := by
  obtain ⟨hlow, hhigh⟩ := ilog2_spec (Nat.mul_pos hn hq.2) (Nat.mul_pos hd hq.1)
  generalize hl : ilog2 (num * q.2) (den * q.1) = l at hlow hhigh
  generalize ha : num * q.2 = a at hlow hhigh hl
  generalize hb : den * q.1 = b at hlow hhigh hl
  have hbpos : (0 : ℚ) < b := by
    rw [← hb]
    exact_mod_cast Nat.mul_pos hd hq.1
  have hmono (k m : Int) : (b : ℚ) * 2 ^ k ≤ b * 2 ^ m ↔ k ≤ m := by
    rw [mul_le_mul_iff_right₀ hbpos, zpow_le_zpow_iff_right₀ one_lt_two]
  have hexact : packExp q num den = if (a : ℚ) = b * 2 ^ l then l else l + 1 := by
    unfold packExp
    simp only [ha, hb, hl]
    split
    case isTrue h =>
      refine if_congr ?_ rfl rfl
      rw [beq_iff_eq, ← Nat.cast_inj (R := ℚ), two_zpow_of_nonneg h]
      push_cast
      rfl
    case isFalse h =>
      refine if_congr ?_ rfl rfl
      rw [beq_iff_eq, ← Nat.cast_inj (R := ℚ), two_zpow_of_neg (not_le.mp h), ← div_eq_mul_inv,
        eq_div_iff (by positivity)]
      push_cast
      rfl
  rw [hexact]
  split
  case isTrue h => rw [h, hmono]
  case isFalse h =>
    constructor
    · intro hn
      exact hhigh.le.trans ((hmono _ _).mpr hn)
    · intro hle
      by_contra hlt
      have := (hmono n l).mpr (by omega)
      exact h (le_antisymm (hle.trans this) hlow)

/-! The greatest magnitude of a block (R153). -/

/-- One value more in the search of `blockMax`. -/
def maxStep (m : Nat × Nat) (x : FpVal) : Nat × Nat :=
  match x with
  | .fin _ num den => if m.1 * den < num * m.2 then (num, den) else m
  | _ => m

theorem blockMax_eq (xs : List FpVal) : blockMax xs = xs.foldl maxStep (0, 1) := rfl

/-- Every value is finite, with a positive denominator. -/
def Proper (xs : List FpVal) : Prop := ∀ x ∈ xs, ∃ neg num den, x = .fin neg num den ∧ 0 < den

/-- m, a fraction, is at least every magnitude of a list. -/
def Bounds (m : Nat × Nat) (xs : List FpVal) : Prop :=
  0 < m.2 ∧ ∀ neg num den, .fin neg num den ∈ xs → num * m.2 ≤ m.1 * den

theorem frac_trans {a b c d e f : Nat} (hd : 0 < d) (h1 : a * d ≤ c * b) (h2 : c * f ≤ e * d) : a * f ≤ e * b := by
  refine Nat.le_of_mul_le_mul_right ?_ hd
  calc a * f * d = a * d * f := by ring
    _ ≤ c * b * f := Nat.mul_le_mul_right _ h1
    _ = c * f * b := by ring
    _ ≤ e * d * b := Nat.mul_le_mul_right _ h2
    _ = e * b * d := by ring

theorem foldl_maxStep {xs : List FpVal} (hxs : Proper xs) {m : Nat × Nat} (hm : 0 < m.2) :
    let r := xs.foldl maxStep m
    Bounds r xs ∧ m.1 * r.2 ≤ r.1 * m.2 ∧ (r = m ∨ ∃ neg, FpVal.fin neg r.1 r.2 ∈ xs) := by
  induction xs generalizing m with
  | nil => exact ⟨⟨hm, fun _ _ _ h => (List.not_mem_nil h).elim⟩, le_rfl, .inl rfl⟩
  | cons x xs ih =>
    obtain ⟨neg, num, den, rfl, hden⟩ := hxs x (.head _)
    have htail : Proper xs := fun y hy => hxs y (.tail _ hy)
    rw [List.foldl_cons]
    by_cases h : m.1 * den < num * m.2
    · have hstep : maxStep m (.fin neg num den) = (num, den) := if_pos h
      rw [hstep]
      obtain ⟨⟨hpos, hall⟩, hle, hor⟩ := ih htail (m := (num, den)) hden
      refine ⟨⟨hpos, fun n a b hmem => ?_⟩, frac_trans hden h.le hle, .inr ?_⟩
      · rcases List.mem_cons.mp hmem with heq | hmem
        · cases heq
          exact hle
        · exact hall n a b hmem
      · rcases hor with heq | ⟨n, hn⟩
        · exact ⟨neg, by rw [heq]; exact .head _⟩
        · exact ⟨n, .tail _ hn⟩
    · have hstep : maxStep m (.fin neg num den) = m := if_neg h
      rw [hstep]
      obtain ⟨⟨hpos, hall⟩, hle, hor⟩ := ih htail hm
      refine ⟨⟨hpos, fun n a b hmem => ?_⟩, hle, hor.imp_right fun ⟨n, hn⟩ => ⟨n, .tail _ hn⟩⟩
      rcases List.mem_cons.mp hmem with heq | hmem
      · cases heq
        exact frac_trans hm (not_lt.mp h) hle
      · exact hall n a b hmem

theorem bounds_blockMax {xs : List FpVal} (hxs : Proper xs) : Bounds (blockMax xs) xs :=
  (foldl_maxStep hxs (m := (0, 1)) one_pos).1

theorem blockMax_mem {xs : List FpVal} (hxs : Proper xs) (h : (blockMax xs).1 ≠ 0) :
    ∃ neg, FpVal.fin neg (blockMax xs).1 (blockMax xs).2 ∈ xs := by
  refine (foldl_maxStep hxs (m := (0, 1)) one_pos).2.2.resolve_left fun heq => h ?_
  rw [blockMax_eq, heq]

theorem packMax_pos (t : Ty) : 0 < (packMax t).1 ∧ 0 < (packMax t).2 := by cases t <;> decide

theorem within_def {t : Ty} {xs : List FpVal} {n : Int} : Within t xs n ↔ ∀ neg num den, .fin neg num den ∈ xs →
    num * (packMax t).2 * 2 ^ (-n).toNat ≤ (packMax t).1 * 2 ^ n.toNat * den := by
  cases t <;> exact Iff.rfl

theorem within_value_iff {q : Nat × Nat} {num den : Nat} {n : Int} :
    num * q.2 * 2 ^ (-n).toNat ≤ q.1 * 2 ^ n.toNat * den ↔ ((num * q.2 : Nat) : ℚ) ≤ (den * q.1 : Nat) * 2 ^ n := by
  rw [← le_shift_iff, show q.1 * 2 ^ n.toNat * den = den * q.1 * 2 ^ n.toNat by ring]

/-- A block is within Q at every exponent from that of its greatest magnitude on. -/
theorem within_of_packExp_le {t : Ty} {xs : List FpVal} (hxs : Proper xs) {n : Int}
    (h : (blockMax xs).1 ≠ 0 → packExp (packMax t) (blockMax xs).1 (blockMax xs).2 ≤ n) : Within t xs n := by
  rw [within_def]
  intro neg num den hmem
  obtain ⟨hpos, hall⟩ := bounds_blockMax hxs
  have hle := hall neg num den hmem
  by_cases hz : (blockMax xs).1 = 0
  · rw [hz, Nat.zero_mul, Nat.le_zero, Nat.mul_eq_zero] at hle
    rw [hle.resolve_right hpos.ne']
    simp
  · have hmax := within_value_iff.mpr ((packExp_le_iff (packMax_pos t) (Nat.pos_of_ne_zero hz) hpos n).mp (h hz))
    have := frac_trans (a := num) (b := den) (c := (blockMax xs).1) (d := (blockMax xs).2)
      (e := (packMax t).1 * 2 ^ n.toNat) (f := (packMax t).2 * 2 ^ (-n).toNat) hpos hle (by rw [← mul_assoc]; exact hmax)
    rwa [← mul_assoc] at this

theorem packExp_le_of_within {t : Ty} {xs : List FpVal} (hxs : Proper xs) {n : Int} (hz : (blockMax xs).1 ≠ 0)
    (h : Within t xs n) : packExp (packMax t) (blockMax xs).1 (blockMax xs).2 ≤ n := by
  obtain ⟨neg, hmem⟩ := blockMax_mem hxs hz
  refine (packExp_le_iff (packMax_pos t) (Nat.pos_of_ne_zero hz) (bounds_blockMax hxs).1 n).mpr ?_
  exact within_value_iff.mp (within_def.mp h neg _ _ hmem)

theorem blockExp_ge (t : Ty) (xs : List FpVal) : -127 ≤ blockExp t xs := by
  simp only [blockExp]
  split_ifs <;> omega

theorem packExp_le_blockExp {t : Ty} {xs : List FpVal} (h : (blockMax xs).1 ≠ 0) :
    packExp (packMax t) (blockMax xs).1 (blockMax xs).2 ≤ blockExp t xs := by
  simp only [blockExp, if_neg h]
  exact le_max_right ..

theorem within_blockExp {t : Ty} {xs : List FpVal} (hxs : Proper xs) : Within t xs (blockExp t xs) :=
  within_of_packExp_le hxs packExp_le_blockExp

/-! One packed and one unpacked element (R153, R155). -/

theorem scale2_eq (k : Int) (x : FpVal) : scale2 k x = timesPow k x := by
  cases x with
  | nan sg => rfl
  | inf neg => rfl
  | fin neg num den =>
    simp only [scale2, timesPow]
    split
    case isTrue h => rw [Int.toNat_of_nonpos (neg_nonpos.mpr h), pow_zero, Nat.mul_one]
    case isFalse h => rw [Int.toNat_of_nonpos (not_le.mp h).le, pow_zero, Nat.mul_one]

/-- A value within an integer stays within it when it is rounded. -/
theorem toInteger_le {dir : Dir} {neg : Bool} {num den c : Nat} (hd : 0 < den) (h : num ≤ c * den) :
    toInteger dir neg num den ≤ c := by
  have hq : num / den ≤ c := Nat.div_le_of_le_mul (by rwa [mul_comm])
  have hexact : num % den = 0 ∨ num / den < c := by
    by_contra hno
    obtain ⟨hr, hc⟩ := not_or.mp hno
    have hdiv := Nat.div_add_mod num den
    rw [le_antisymm hq (not_lt.mp hc), mul_comm] at hdiv
    omega
  rcases hexact with hr | hlt
  · have hdown : toInteger dir neg num den = num / den := by
      cases dir <;> simp [toInteger, hr, hd.ne, hd.not_ge]
    rwa [hdown]
  · unfold toInteger
    simp only
    split_ifs <;> omega

/-- The value that packing gives of one element of a block. -/
def blockElt (t : Ty) (dir : Dir) (xs : List FpVal) (v : FpVal) : Elt :=
  if xs.any notFinite then (0, flagNV) else packElt t dir (blockExp t xs) v

theorem packElt_i8 {dir : Dir} {e : Int} {neg : Bool} {num den : Nat} (hd : 0 < den)
    (h : num * 64 * 2 ^ (-e).toNat ≤ 127 * 2 ^ e.toNat * den) :
    packElt .i8 dir e (.fin neg num den) =
      (trunc 8 (signedInt neg (toInteger dir neg (num * 2 ^ (6 - e).toNat) (den * 2 ^ (e - 6).toNat))),
        if num * 2 ^ (6 - e).toNat % (den * 2 ^ (e - 6).toNat) = 0 then 0 else flagNX) := by
  have hneg : -(6 - e) = e - 6 := by omega
  have hle : toInteger dir neg (num * 2 ^ (6 - e).toNat) (den * 2 ^ (e - 6).toNat) ≤ 127 := by
    refine toInteger_le (by positivity) ?_
    have h' := (within_value_iff (q := (127, 64))).mp h
    rw [← mul_assoc, ← hneg, show (6 - e).toNat = (-(-(6 - e))).toNat by rw [neg_neg]]
    refine (le_shift_iff num (127 * den) (-(6 - e))).mpr ?_
    rw [hneg, zpow_sub₀ two_ne_zero]
    push_cast at h' ⊢
    rw [mul_div_assoc', le_div_iff₀ (by norm_num)]
    linarith
  have hclamp : clamp (-127) 127 (signedInt neg (toInteger dir neg (num * 2 ^ (6 - e).toNat) (den * 2 ^ (e - 6).toNat))) =
      signedInt neg (toInteger dir neg (num * 2 ^ (6 - e).toNat) (den * 2 ^ (e - 6).toNat)) := by
    rw [clamp_eq (by decide)]
    unfold signedInt
    split <;> omega
  rw [packElt, if_pos rfl, scale2_eq]
  simp only [timesPow, roundAt_zero, hneg]
  rw [show (if neg = true then -((toInteger dir neg (num * 2 ^ (6 - e).toNat) (den * 2 ^ (e - 6).toNat) : Nat) : Int)
    else (toInteger dir neg (num * 2 ^ (6 - e).toNat) (den * 2 ^ (e - 6).toNat) : Nat)) =
      signedInt neg (toInteger dir neg (num * 2 ^ (6 - e).toNat) (den * 2 ^ (e - 6).toNat)) from rfl, hclamp]
  congr 1
  simp only [bne_iff_ne, ite_not, ne_eq]

/-- What `packBlock` gives is what R153 says of a block. -/
theorem packs_packBlock {t : Ty} {dir : Dir} {xs : List FpVal} (hxs : xs.any notFinite = false → Proper xs)
    {y : Nat → Elt} (hy : ∀ j v, xs[j]? = some v → y j = blockElt t dir xs v) :
    Packs t dir xs (packBlock t dir xs).1 y := by
  refine ⟨fun h => ⟨by rw [packBlock, if_pos h], fun j hj => ?_⟩, fun h => ?_⟩
  · rw [hy j _ (List.getElem?_eq_getElem hj), blockElt, if_pos h]
  · have hproper := hxs h
    have hge := blockExp_ge t xs
    have hscale : (packBlock t dir xs).1 = (blockExp t xs + 127).toNat := by rw [packBlock, if_neg (by simp [h])]
    refine ⟨blockExp t xs, by rw [hscale]; omega, fun hzero => ?_, fun hsome => ⟨hge, within_blockExp hproper, ?_⟩, ?_⟩
    · have hz : (blockMax xs).1 = 0 := by
        by_contra hz
        obtain ⟨neg, hmem⟩ := blockMax_mem hproper hz
        obtain ⟨n, den, heq⟩ := hzero _ hmem
        injection heq
        contradiction
      simp only [blockExp, hz, if_true]
    · intro hlt n hn
      have hz : (blockMax xs).1 ≠ 0 := by
        intro hz
        simp only [blockExp, hz, if_true] at hlt
        omega
      have := packExp_le_of_within hproper hz hn
      simp only [blockExp, if_neg hz] at hlt ⊢
      omega
    · intro j neg num den hj
      have hval : y j = packElt t dir (blockExp t xs) (.fin neg num den) := by
        rw [hy j _ hj, blockElt, if_neg (by simp [h])]
      have hmem := List.mem_of_getElem? hj
      rw [hval]
      refine ⟨fun ht => by rw [packElt, if_neg ht, scale2_eq], ?_⟩
      rintro rfl
      obtain ⟨n, a, b, heq, hden⟩ := hproper _ hmem
      cases heq
      exact packElt_i8 hden (within_def (t := .i8).mp (within_blockExp hproper) neg num den hmem)

theorem unpacks_unpackElt {src t : Ty} (ht : tyFloat t = true) (dir : Dir) (x scale : Nat) :
    Unpacks src t dir x scale (unpackElt src t dir x scale) := by
  refine ⟨fun h => by rw [unpackElt, if_pos h], fun h => ?_⟩
  rw [unpackElt, if_neg h, scale2_eq]
  exact toFloat_cvtFp ht ..

/-! The blocks of a packed register (R153). -/

theorem range_blocks (n c : Nat) :
    (List.range c).flatMap (fun b => span (32 * b) (min n (32 * b + 32))) = List.range (min n (32 * c)) := by
  induction c with
  | zero => simp
  | succ c ih =>
    rw [List.range_succ, List.flatMap_append, ih, List.flatMap_singleton]
    by_cases h : 32 * c ≤ n
    · rw [min_eq_right h, ← range_append_span (by omega), Nat.mul_succ]
    · rw [span_nil (by omega), List.append_nil, min_eq_left (by omega), min_eq_left (by omega)]

theorem range_cdiv (n : Nat) :
    (List.range (cdiv n 32)).flatMap (fun b => span (32 * b) (min n (32 * b + 32))) = List.range n := by
  rw [range_blocks, min_eq_left]
  unfold cdiv
  omega

theorem allFlags_append (l m : List Elt) : allFlags (l ++ m) = allFlags l ||| allFlags m := by
  refine BitVec.eq_of_getLsbD_eq fun j _ => ?_
  rw [BitVec.getLsbD_or, allFlags_getLsbD, allFlags_getLsbD, allFlags_getLsbD, List.any_append]

theorem allFlags_flatMap {l : List Nat} {f g : Nat → List Elt} (h : ∀ b ∈ l, allFlags (f b) = allFlags (g b)) :
    allFlags (l.flatMap f) = allFlags (l.flatMap g) := by
  induction l with
  | nil => rfl
  | cons b l ih =>
    rw [List.flatMap_cons, List.flatMap_cons, allFlags_append, allFlags_append, h b (.head _),
      ih fun c hc => h c (.tail _ hc)]

section
variable {a d : Reg} {src t : Ty} {rm : RM}

/-- The values of one block of a source register. -/
def blockOf (s : State) (a : Reg) (src : Ty) (b : Nat) : List FpVal :=
  (span (32 * b) (min s.cpu.live.vec.vl (32 * b + 32))).map fun j => tyVal src (slot (vreg s a).img j (tyBits src))

/-- The packed element j of a source register. -/
def packedElt (s : State) (a : Reg) (src t : Ty) (dir : Dir) (j : Nat) : Elt :=
  blockElt t dir (blockOf s a src (j / 32)) (tyVal src (slot (vreg s a).img j (tyBits src)))

theorem packedElt_block {dir : Dir} {b j : Nat} (h : j ∈ span (32 * b) (min s.cpu.live.vec.vl (32 * b + 32))) :
    packedElt s a src t dir j =
      blockElt t dir (blockOf s a src b) (tyVal src (slot (vreg s a).img j (tyBits src))) := by
  have := mem_span.mp h
  rw [packedElt, show j / 32 = b by omega]

theorem packBlock_elems (t : Ty) (dir : Dir) (xs : List FpVal) :
    ((packBlock t dir xs).2.take xs.length).map (·.1) = (xs.map (blockElt t dir xs)).map (·.1) := by
  unfold packBlock blockElt
  split
  · rw [List.take_left' (by simp), List.map_map, List.map_map]
    rfl
  · simp

theorem packBlock_flags (t : Ty) (dir : Dir) (xs : List FpVal) :
    allFlags (packBlock t dir xs).2 = allFlags (xs.map (blockElt t dir xs)) := by
  unfold packBlock
  split
  case isTrue h =>
    obtain ⟨x, hx, -⟩ := List.any_eq_true.mp h
    have helt : blockElt t dir xs = fun _ => (0, flagNV) := by
      funext v
      rw [blockElt, if_pos h]
    refine BitVec.eq_of_getLsbD_eq fun j _ => ?_
    have hzero : (0 : Flags).getLsbD j = false := by simp
    rw [helt, allFlags_getLsbD, allFlags_getLsbD, Bool.eq_iff_iff]
    simp only [List.any_append, List.any_map, List.any_cons, List.any_nil, List.any_eq_true, Bool.or_eq_true,
      Function.comp_apply, hzero, Bool.false_eq_true, and_false, exists_false, false_or, or_false]
    exact ⟨fun hb => ⟨x, hx, hb⟩, fun ⟨_, _, hb⟩ => hb⟩
  case isFalse h =>
    refine congrArg allFlags (List.map_congr_left fun v _ => ?_)
    rw [blockElt, if_neg h]

theorem map_packedElt (dir : Dir) : (List.range s.cpu.live.vec.vl).map (packedElt s a src t dir) =
    (List.range (cdiv s.cpu.live.vec.vl 32)).flatMap fun b =>
      (blockOf s a src b).map (blockElt t dir (blockOf s a src b)) := by
  rw [← range_cdiv, List.map_flatMap]
  refine List.flatMap_congr fun b _ => ?_
  rw [blockOf, List.map_map]
  exact List.map_congr_left fun j hj => packedElt_block hj

/-- The elements that VPACKMX writes (R153). -/
theorem pack_elems (dir : Dir) :
    (((List.range (cdiv s.cpu.live.vec.vl 32)).map fun b => ((blockOf s a src b).length,
      packBlock t dir (blockOf s a src b))).map fun q => q.2.2.take q.1).flatten.map (·.1) =
    ((List.range s.cpu.live.vec.vl).map (packedElt s a src t dir)).map (·.1) := by
  rw [map_packedElt, List.map_map, ← List.flatMap_def, List.map_flatMap, List.map_flatMap]
  exact List.flatMap_congr fun b _ => packBlock_elems t dir _

theorem pack_flags (dir : Dir) :
    allFlags (((List.range (cdiv s.cpu.live.vec.vl 32)).map fun b => ((blockOf s a src b).length,
      packBlock t dir (blockOf s a src b))).map fun q => q.2.2).flatten =
    allFlags ((List.range s.cpu.live.vec.vl).map (packedElt s a src t dir)) := by
  rw [map_packedElt, List.map_map, ← List.flatMap_def]
  exact allFlags_flatMap fun b _ => packBlock_flags t dir _

/-- A pattern that is a finite value has a positive denominator. -/
theorem fpVal_cases (f : FloatFmt) (v : Nat) :
    notFinite (fpVal f v) = true ∨ ∃ neg mag, fpVal f v = fpVal.finite f neg mag := by
  unfold fpVal
  simp only
  split
  · split
    · exact .inl rfl
    · split <;> [exact .inl rfl; exact .inr ⟨_, _, rfl⟩]
  · split <;> [exact .inl rfl; exact .inr ⟨_, _, rfl⟩]

theorem proper_fpVal {f : FloatFmt} {v : Nat} (h : notFinite (fpVal f v) = false) :
    ∃ neg num den, fpVal f v = .fin neg num den ∧ 0 < den := by
  obtain hno | ⟨neg, mag, hfin⟩ := fpVal_cases f v
  · exact absurd (h.symm.trans hno) Bool.false_ne_true
  · rw [hfin, fpVal.finite]
    split <;> exact ⟨_, _, _, rfl, by positivity⟩

theorem packSource_val (h : packSource src = true) (v : Nat) : ∃ f, tyVal src v = fpVal f v := by
  refine ⟨fmtOf src, ?_⟩
  simp only [packSource, Bool.or_eq_true, decide_eq_true_eq] at h
  obtain (rfl | rfl) | rfl := h <;> rfl

theorem proper_blockOf (h : packSource src = true) (b : Nat) (hb : (blockOf s a src b).any notFinite = false) :
    Proper (blockOf s a src b) := by
  intro x hx
  obtain ⟨j, -, rfl⟩ := List.mem_map.mp hx
  have hfin := List.any_eq_false.mp hb _ hx
  obtain ⟨f, hf⟩ := packSource_val h (slot (vreg s a).img j (tyBits src))
  rw [hf] at hfin ⊢
  exact proper_fpVal (by simpa using hfin)

theorem packs_blockOf (h : packSource src = true) (dir : Dir) (b : Nat) :
    Packs t dir (blockOf s a src b) (packBlock t dir (blockOf s a src b)).1
      fun j => packedElt s a src t dir (32 * b + j) := by
  refine packs_packBlock (proper_blockOf h b) fun j v hj => ?_
  rw [blockOf, List.getElem?_map] at hj
  obtain ⟨i, hi, rfl⟩ := Option.map_eq_some_iff.mp hj
  have hij : 32 * b + j = i := by
    simp only [span, List.getElem?_map, Option.map_eq_some_iff] at hi
    obtain ⟨m, hm, rfl⟩ := hi
    rw [(List.getElem?_eq_some_iff.mp hm).2.symm, List.getElem_range]
  rw [hij]
  exact packedElt_block (List.mem_of_getElem? hi)

theorem packSource_float (h : packSource t = true) : tyFloat t = true := by
  simp only [packSource, Bool.or_eq_true, decide_eq_true_eq] at h
  obtain (rfl | rfl) | rfl := h <;> rfl

theorem pack_begun (ha : (vreg s a).tag = some src) (hfit : Fits s [tyBits t, tyBits src])
    (hsrc : packSource src = true) (ht : packTarget t = true) :
    (s.cpu.live.vec.vl = 0 → Begun pairAttr true (.vpackmx d a t rm) s (retireV s)) ∧
    (s.cpu.live.vec.vl ≠ 0 → Begun pairAttr true (.vpackmx d a t rm) s
      (let ys := (List.range s.cpu.live.vec.vl).map (packedElt s a src t (dirOf rm s.cpu.live.fst))
       retireV (modVec (accrue s (allFlags ys)) fun u =>
         { u with regs := (u.regs.set d { tag := some t, img := imgOf (tyBits t) (ys.map (·.1)) }).set (nextReg d)
                   { tag := some .e8m0, img := imgOf 8 ((List.range (cdiv s.cpu.live.vec.vl 32)).map fun b =>
                       (packBlock t (dirOf rm s.cpu.live.fst) (blockOf s a src b)).1) } }))) := by
  constructor
  · intro hvl
    refine begun_of_vector (exec_vpackmx ..) rfl ?_
    simp only [ha, hsrc, ht, Bool.and_self, lanes_fits hfit]
    exact if_pos hvl
  · intro hvl
    refine begun_of_vector (exec_vpackmx ..) rfl ?_
    simp only [ha, hsrc, ht, Bool.and_self, lanes_fits hfit]
    refine (if_neg hvl).trans ?_
    have helems := pack_elems (s := s) (a := a) (src := src) (t := t) (dirOf rm s.cpu.live.fst)
    have hflags := pack_flags (s := s) (a := a) (src := src) (t := t) (dirOf rm s.cpu.live.fst)
    have hscales : ((List.range (cdiv s.cpu.live.vec.vl 32)).map fun b => ((blockOf s a src b).length,
        packBlock t (dirOf rm s.cpu.live.fst) (blockOf s a src b))).map (fun q => q.2.1) =
        (List.range (cdiv s.cpu.live.vec.vl 32)).map fun b =>
          (packBlock t (dirOf rm s.cpu.live.fst) (blockOf s a src b)).1 := List.map_map
    rw [← hflags, ← helems, ← hscales]
    rfl

/-- Settles O37: `convert_plain`, `convert_feedback` and `convert_stopped` for the conversions, `pack_begun` with
`packs_blockOf`, and `unpacks_unpackElt`. -/
theorem vectorConversions : Obligations.VectorConversions := by
  intro s d a t src k rm ha hfit
  refine ⟨convert_plain (exec_vcvt ..) ha hfit, convert_plain (exec_vcvts ..) ha hfit, ?_, ?_, fun hsrc ht => ?_,
    fun hsrc ht hscale => ?_⟩
  · rintro rfl hok
    exact ⟨feedResult s false a src t k, residual s false a src t k, feedsOn_run (efOk_float hok) _,
      fun h => convert_feedback (exec_vcvt ..) ha hfit h hok,
      fun h n hn => convert_stopped (exec_vcvt ..) ha hfit h hok hn⟩
  · rintro rfl hok
    exact ⟨feedResult s true a src t k, residual s true a src t k, feedsOn_run (efOk_float hok) _,
      fun h => convert_feedback (exec_vcvts ..) ha hfit h hok,
      fun h n hn => convert_stopped (exec_vcvts ..) ha hfit h hok hn⟩
  · obtain ⟨hempty, hsome⟩ := pack_begun (d := d) (rm := rm) ha hfit hsrc ht
    exact ⟨hempty, fun hvl => ⟨_, _, fun b _ => packs_blockOf hsrc _ b, hsome hvl⟩⟩
  · refine ⟨_, fun j _ => unpacks_unpackElt (packSource_float ht) _ _ _, begun_of_vector (exec_vunpkmx ..) rfl ?_⟩
    simp only [ha, hsrc, ht, hscale, decide_true, Bool.and_self, lanes_fits hfit]

end

end Sys2Proof.Machine
end

section
/-!
PROOF. Vector loads whose accesses all pass (O42).
-/

namespace Sys2Proof.Machine

open Sys2Proof.Claims

variable {s u v : State}

/-! The checks of accesses fill translation buffers; the running context and a forced save's choice stay. -/

/-- What the checks of accesses leave of the running core. -/
structure Undisturbed (s u : State) : Prop where
  id : u.cpu.id = s.cpu.id
  live : u.cpu.live = s.cpu.live
  cut : u.cpu.cut = s.cpu.cut

theorem Undisturbed.refl (s : State) : Undisturbed s s := ⟨rfl, rfl, rfl⟩

theorem Undisturbed.trans (h : Undisturbed s u) (h' : Undisturbed u v) : Undisturbed s v :=
  ⟨h'.id.trans h.id, h'.live.trans h.live, h'.cut.trans h.cut⟩

theorem Undisturbed.of_cpu (h : u.cpu = s.cpu) : Undisturbed s u := by constructor <;> rw [h]

theorem Undisturbed.cutAt_eq (h : Undisturbed s u) (grain : Nat) : cutAt u grain = cutAt s grain := by
  unfold cutAt vecOf
  rw [h.live, h.cut]

theorem touchLine_cpu (s : State) (k : Fin 64) (line : Nat) : (touchLine s k line).cpu = s.cpu := by
  unfold touchLine
  dsimp only
  split <;> rfl

theorem readPhys_cpu (s : State) (k : Fin 64) (pa n : Nat) : (readPhys s k pa n).2.cpu = s.cpu := by
  have hfold : ∀ (ls : List Nat) (s : State), (ls.foldl (fun t l => touchLine t k l) s).cpu = s.cpu := by
    intro ls
    induction ls with
    | nil => exact fun _ => rfl
    | cons l ls ih => exact fun s => (ih _).trans (touchLine_cpu s k l)
  exact hfold _ s

theorem walk_cpu (tenant : Fin 16) (va : Nat) (levels : List (Nat × Nat × Nat)) (s : State) (table : Nat) :
    (walk s tenant va levels table).2.cpu = s.cpu := by
  induction levels generalizing s table with
  | nil => rfl
  | cons level rest ih =>
    unfold walk
    have hr := readPhys_cpu s 0 (table + (va / 2 ^ level.1 % (level.2.1 / 8)) * 8) 8
    dsimp only
    split_ifs
    · exact hr
    · split
      · exact hr
      · split_ifs
        · exact hr
        · exact (ih _ _).trans hr
    all_goals exact hr

theorem undisturbed_bump (s : State) (n : Fin 12) : Undisturbed s (bump s n) := ⟨rfl, rfl, rfl⟩

theorem undisturbed_modCore {n : Nat} {f : Core → Core} (h : s.cpu.id = n) (hid : (f s.cpu).id = s.cpu.id)
    (hl : (f s.cpu).live = s.cpu.live) (hc : (f s.cpu).cut = s.cpu.cut) : Undisturbed s (modCore s n f) := by
  have hs : modCore s n f = { s with cpu := f s.cpu } := by simp only [modCore, setCore, coreAt, h, hid, if_true]
  rw [hs]
  exact ⟨hid, hl, hc⟩

theorem undisturbed_translate (s : State) (cl : Nat) (tenant : Fin 16) (va : Nat) :
    Undisturbed s (translate s (some s.cpu.id) cl tenant va).2 := by
  unfold translate
  simp only [Option.isSome_some, if_true]
  split
  · exact .refl s
  · split
    · dsimp only
      exact (undisturbed_bump s 9).trans (undisturbed_modCore rfl rfl rfl rfl)
    · have hw := walk_cpu tenant va walkLevels (bump s 9) ((bump s 9).tenants.get tenant).root.toNat
      split
      next e u hu =>
        rw [hu] at hw
        have hu : Undisturbed s u := (undisturbed_bump s 9).trans (.of_cpu hw)
        exact hu.trans ((undisturbed_modCore hu.id rfl rfl rfl).trans (.of_cpu rfl))
      next u hu =>
        rw [hu] at hw
        exact (undisturbed_bump s 9).trans (.of_cpu hw)

theorem undisturbed_resolve (s : State) (got : List TlbEntry) (k : Kind) (va : Nat) :
    Undisturbed s (resolveLiveWith s got k va).2.2 := by
  unfold resolveLiveWith resolveWith
  dsimp only
  split_ifs
  any_goals exact .refl s
  have ht := undisturbed_translate s (clusterOf s.cpu.id) s.cpu.live.tenant va
  cases tlbFind got s.cpu.live.tenant va with
  | some e => exact .refl s
  | none =>
    dsimp only
    split
    next hu => rw [hu] at ht; exact ht
    next hu => rw [hu] at ht; exact ht

theorem undisturbed_probePieces (k : Kind) (ps : List (Nat × Nat)) (s : State) (got : List TlbEntry) :
    Undisturbed s (probePieces s got k ps).2.2 := by
  induction ps generalizing s got with
  | nil => exact .refl s
  | cons p ps ih =>
    have hr := undisturbed_resolve s got k p.1
    unfold probePieces
    dsimp only
    split
    · exact hr
    · exact hr
    · have hi := hr.trans (ih _ (obtained (resolveLiveWith s got k p.1).2.2 got p.1 (resolveLiveWith s got k p.1).2.1))
      split
      next hu => rw [hu] at hi; exact hi
      next => exact hi

theorem undisturbed_probe (s : State) (got : List TlbEntry) (k : Kind) (x : Unit_) :
    Undisturbed s (probe s got k x).2.2 := by
  unfold probe
  split
  · exact .refl s
  · exact undisturbed_probePieces k x.pieces s got

theorem undisturbed_probeFrom (k : Kind) (us : List Unit_) (s : State) (got : List TlbEntry) :
    Undisturbed s (probeFrom s got k us).2.2 := by
  induction us generalizing s got with
  | nil => exact .refl s
  | cons x us ih => exact (undisturbed_probe s got k x).trans (ih _ _)

theorem undisturbed_probeAll {k : Kind} {us : List Unit_} {ps : List (Unit_ × Probe)} (h : probeAll s k us = (ps, u)) :
    Undisturbed s u := by
  have hp : (probeAll s k us).2 = u := by rw [h]
  exact hp ▸ undisturbed_probeFrom k us s []

/-! A load's accesses that pass: performed whole, or up to a forced save's element (R207, R220). -/

/-- The element at which a forced save stops a load, which may not stop where it writes its index (R215, R220, log 91). -/
def loadCut (s : State) (mode : OnFail) (grain : Nat) : Option Nat := if mode = .keep then none else cutAt s grain

theorem Undisturbed.loadCut_eq (h : Undisturbed s u) (mode : OnFail) (grain : Nat) :
    loadCut u mode grain = loadCut s mode grain := by
  unfold loadCut
  rw [h.cutAt_eq]

section

variable {us : List Unit_} {ps l : List (Unit_ × Probe)} {bs : List (Unit_ × List Byte)} {nt : Bool} {mode : OnFail}
  {grain : Nat} {put : State → List (Unit_ × List Byte) → State}

theorem withBytes_read {k : List (Unit_ × List Byte) → State → State} (h : loadUnits s nt l = (some bs, v)) :
    withBytes s nt l k = k bs v := by
  unfold withBytes
  rw [h]

theorem loadAll_whole (hc : loadCut s mode grain = none) (h : loadUnits s nt l = (some bs, v)) :
    loadAll s nt mode grain l put = retireV (put v bs) := by
  unfold loadCut at hc
  unfold loadAll
  rw [hc]
  exact withBytes_read h

theorem loadAll_stopped {n : Nat} (hc : loadCut s mode grain = some n)
    (h : loadUnits s nt (cutUnits s false n l) = (some bs, v)) :
    loadAll s nt mode grain l put = stayAt (put v bs) n := by
  unfold loadCut at hc
  unfold loadAll
  rw [hc]
  exact withBytes_read h

theorem loadVec_passes {i : Instr} {caps : List Word} (hp : probeAll s .read us = (ps, u)) (hf : firstFail ps = none) :
    loadVec s i caps nt mode grain us put = loadAll u nt mode grain ps put := by
  unfold loadVec
  rw [hp]
  dsimp only
  rw [hf]

end

/-! Vector loads as instructions. -/

theorem begun_congr {a : Attr} {i : Instr} {t u : State} (h : Begun a true i s t) (e : t = u) : Begun a true i s u := e ▸ h

theorem loadsAll_of_loadVec {a : Attr} {i : Instr} {cs : List Word} {nt : Bool} {mode : OnFail} {grain : Nat}
    {us : List Unit_} {put : State → List (Unit_ × List Byte) → State}
    (h : Begun a true i s (loadVec s i cs nt mode grain us put)) :
    LoadsAll a i s nt (loadCut s mode grain) us put := by
  intro ps u hp hf
  have hb := begun_congr h (loadVec_passes hp hf)
  have hu : loadCut u mode grain = loadCut s mode grain := (undisturbed_probeAll hp).loadCut_eq mode grain
  exact ⟨fun hn bs v hr => begun_congr hb (loadAll_whole (hu.trans hn) hr),
    fun n bs v hn hr => begun_congr hb (loadAll_stopped (hu.trans hn) hr)⟩

section

variable {i : Instr} {cs : List Word} {d a b : Reg} {t tb : Ty} {k : KReg} {nt : Bool} {mode : OnFail} {addr : Nat → Nat}

theorem loadElems_empty (h : s.cpu.live.vec.vl = 0) : loadElems s i cs d t k nt mode addr = retireV s := if_pos h

theorem loadElems_aligned (hv : s.cpu.live.vec.vl ≠ 0) (hm : misaligned (elemUnits t addr (memElems s k)) = none) :
    loadElems s i cs d t k nt mode addr =
      loadVec s i cs nt mode 1 (elemUnits t addr (memElems s k)) fun s l => putLoaded s d t l := by
  unfold loadElems
  rw [if_neg (show ¬(vecOf s).vl = 0 from hv)]
  dsimp only
  rw [hm]

theorem loadsElements_of_loadElems (h : Begun (vecAttr .copyV) true i s (loadElems s i cs d t k nt mode addr)) :
    LoadsElements i s d t k nt (loadCut s mode 1) addr :=
  ⟨fun hv => begun_congr h (loadElems_empty hv), fun hv hm => loadsAll_of_loadVec (begun_congr h (loadElems_aligned hv hm))⟩

theorem vld_begun {caps : List Reg} {body : State → List Word → State} (he : exec i s = vld i caps t s body)
    (hc : ((caps.zip [false, true]).map fun c => capture s c.2 c.1) = cs) :
    Begun (vecAttr .copyV) true i s (lanes s true [tyBits t] fun _ => body s cs) :=
  hc ▸ begun_of_vector he rfl rfl

theorem vldUnit_begun : Begun (vecAttr .copyV) true (.vldUnit d a k nt t) s
    (lanes s true [tyBits t] fun _ => loadElems s (.vldUnit d a k nt t) [capture s false a] d t k nt .stop
      (unitAddr t (capture s false a))) :=
  vld_begun (body := fun s c => loadElems s (.vldUnit d a k nt t) c d t k nt .stop (unitAddr t (c.getD 0 0)))
    (exec_vldUnit ..) rfl

theorem vldFirstFault_begun : Begun (vecAttr .copyV) true (.vldFirstFault d a k nt t) s
    (lanes s true [tyBits t] fun _ => loadElems s (.vldFirstFault d a k nt t) [capture s false a] d t k nt .shorten
      (unitAddr t (capture s false a))) :=
  vld_begun (body := fun s c => loadElems s (.vldFirstFault d a k nt t) c d t k nt .shorten (unitAddr t (c.getD 0 0)))
    (exec_vldFirstFault ..) rfl

theorem vldStrided_begun : Begun (vecAttr .copyV) true (.vldStrided d a b k nt t) s
    (lanes s true [tyBits t] fun _ =>
      loadElems s (.vldStrided d a b k nt t) [capture s false a, capture s true b] d t k nt .stop
        (stridedAddr (capture s false a) (capture s true b))) :=
  vld_begun (body := fun s c => loadElems s (.vldStrided d a b k nt t) c d t k nt .stop (stridedAddr (c.getD 0 0) (c.getD 1 0)))
    (exec_vldStrided ..) rfl

theorem indexTag_some (h : (vreg s b).tag = some tb) (hi : tyInt tb = true) : indexTag s b = some tb := by
  unfold indexTag
  rw [h]
  exact if_pos hi

theorem vldIndexed_begun (h : indexTag s b = some tb) : Begun (vecAttr .copyV) true (.vldIndexed d a b k nt t) s
    (lanes s true [tyBits t, tyBits tb] fun _ =>
      loadElems s (.vldIndexed d a b k nt t) [capture s false a] d t k nt (if overwrites s d b then .keep else .stop)
        (indexedAddr s b tb (capture s false a))) := by
  refine begun_of_vector (exec_vldIndexed ..) rfl ?_
  dsimp only
  rw [h]
  rfl

theorem vldSegmentMx_begun : Begun segAttr true (.vldSegmentMx d a t) s
    (segChecks s t (capture s false a) fun _ => loadVec s (.vldSegmentMx d a t) [capture s false a] false .stop 32
      (segUnits s t (capture s false a)) fun s l => putSegments s d t l) :=
  begun_of_vector (exec_vldSegmentMx ..) rfl rfl

/-- A segment transfer past its checks (R209, R217). -/
theorem segChecks_empty {base : Word} {f : State → State} (hf : Fits s [tyBits t]) (hv : s.cpu.live.vec.vl = 0) :
    segChecks s t base f = retireV s := by
  refine (lanes_fits hf).trans ?_
  rw [show (vecOf s).vl = 0 from hv]
  rfl

theorem segChecks_passes {base : Word} {f : State → State} (hf : Fits s [tyBits t])
    (hw : s.cpu.live.vec.vl % 32 = 0) (hv : s.cpu.live.vec.vl ≠ 0) (hb : base.toNat % 4 = 0) :
    segChecks s t base f = f s := by
  refine (lanes_fits hf).trans ?_
  rw [if_neg (by rw [show (vecOf s).vl % 32 = 0 from hw]; decide), if_neg (show ¬(vecOf s).vl = 0 from hv),
    if_neg (by rw [hb]; decide)]

end

theorem loadCut_indexed {d b : Reg} {cut : Option Nat} (hkeep : Overwrites s d b → cut = none)
    (hcut : ¬Overwrites s d b → cut = cutAt s 1) :
    cut = loadCut s (if overwrites s d b then .keep else .stop) 1 := by
  by_cases ho : Overwrites s d b
  · rw [hkeep ho, if_pos (overwrites_iff.mpr ho)]
    rfl
  · rw [hcut ho, if_neg (mt overwrites_iff.mp ho)]
    rfl

theorem mem_cutUnits_of_lt {ordered : Bool} {n : Nat} {ps : List (Unit_ × Probe)} {x : Unit_ × Probe} (hx : x ∈ ps)
    (hn : x.1.elem < n) : x ∈ cutUnits s ordered n ps :=
  List.mem_filter.mpr ⟨hx, by simp [hn]⟩

theorem fits_cons {w : Nat} {ws : List Nat} : Fits s (w :: ws) ↔ Fits s [w] ∧ Fits s ws := by
  simp [Fits]

/-- Settles O42: each form is a load of elements at its addresses, past its checks. -/
theorem vectorLoads : Obligations.VectorLoads := by
  intro s d a b k nt t hf
  refine ⟨?unit, ?firstFault, ?strided, ?indexed, ?segment, ?cut⟩
  case unit => exact loadsElements_of_loadElems (begun_congr vldUnit_begun (lanes_fits hf))
  case firstFault => exact loadsElements_of_loadElems (begun_congr vldFirstFault_begun (lanes_fits hf))
  case strided => exact loadsElements_of_loadElems (begun_congr vldStrided_begun (lanes_fits hf))
  case indexed =>
    intro tb hb hi hfb cut hkeep hcut
    rw [loadCut_indexed hkeep hcut]
    exact loadsElements_of_loadElems
      (begun_congr (vldIndexed_begun (indexTag_some hb hi)) (lanes_fits (fits_cons.mpr ⟨hf, hfb⟩)))
  case segment =>
    exact fun hw => ⟨fun hv => begun_congr vldSegmentMx_begun (segChecks_empty hf hv),
      fun hv hb => loadsAll_of_loadVec (begun_congr vldSegmentMx_begun (segChecks_passes hf hw hv hb))⟩
  case cut => exact fun n ps x hx hn => mem_cutUnits_of_lt hx hn

end Sys2Proof.Machine
end

section
/-!
PROOF. What turns a vector instruction away in the lanes, and the stop at a failing access (O44).
-/

namespace Sys2Proof.Machine

open Sys2Proof.Claims

variable {s : State}

/-! TAG and VLEN (R111, R162). -/

section

variable {ok : Bool} {ws : List Nat} {f : State → State}

theorem lanes_untagged (h : ok = false) : lanes s ok ws f = takeTrap s 0x07 0 := by
  subst h
  rfl

theorem lanes_unfit (h : ¬Fits s ws) : lanes s true ws f = takeTrap s 0x12 0 := by
  have hsome : (ws.any fun w => decide (grantBits s < (vecOf s).vl * w)) = true := by
    simp only [Fits, not_forall, not_le, exists_prop] at h
    simp only [List.any_eq_true, decide_eq_true_eq]
    exact h
  rw [lanes, if_neg (by decide), if_pos hsome]
  rfl

end

/-- The checks of a member with one tagged source, before what it does (R158, R162). -/
def taggedSource (s : State) (r : Reg) (ok : Ty → Bool) (widths : Ty → List Nat) (f : Ty → State → State) : State :=
  match (vreg s r).tag with
  | none => trap s 0x07 0
  | some x => lanes s (ok x) (widths x) (f x)

/-- TAG and VLEN of a member with one tagged source, VLEN under a condition of the member's own. -/
def SourceTraps (s : State) (m : OneSource) (also : Prop) : Prop :=
  ((vreg s m.src).tag = none → TagTraps m.attr m.instr s) ∧
  (∀ x, (vreg s m.src).tag = some x → m.ok x = false → TagTraps m.attr m.instr s) ∧
  (∀ x, (vreg s m.src).tag = some x → m.ok x = true → ¬Fits s (m.widths x) → also → LenTraps m.attr m.instr s)

section

variable {r : Reg} {ok : Ty → Bool} {widths : Ty → List Nat} {f : Ty → State → State} {x : Ty}

theorem taggedSource_none (h : (vreg s r).tag = none) : taggedSource s r ok widths f = takeTrap s 0x07 0 := by
  rw [taggedSource, h]
  rfl

theorem taggedSource_some (h : (vreg s r).tag = some x) :
    taggedSource s r ok widths f = lanes s (ok x) (widths x) (f x) := by
  rw [taggedSource, h]

theorem sourceTraps_of {m : OneSource} {also : Prop}
    (h : Begun m.attr true m.instr s (taggedSource s m.src m.ok m.widths f)) : SourceTraps s m also := by
  refine ⟨fun hn => begun_congr h (taggedSource_none hn), fun x hx hb => ?_, fun x hx hb hf _ => ?_⟩
  · exact begun_congr h ((taggedSource_some hx).trans (lanes_untagged hb))
  · rw [taggedSource_some hx, hb] at h
    exact begun_congr h (lanes_unfit hf)

end

section

variable {i : Instr} {d a b : Reg} {k : KReg} {q : Bool} {also : Prop}

theorem vun_sourceTraps {ok : Ty → Bool} {f : Ty → Nat → Elt} (he : exec i s = vun i d a k s ok f) :
    SourceTraps s ⟨vecAttr .copyV, i, a, ok, fun x => [tyBits x]⟩ also :=
  sourceTraps_of (begun_of_vector he rfl rfl)

theorem reduce_sourceTraps {ok : Ty → Bool} {res : Ty → Ty} {f : State → Ty → Elt}
    (he : exec i s = reduce i d a q s ok res f) :
    SourceTraps s ⟨vecAttr .copyV, i, a, ok, fun x => [tyBits (res x), tyBits x]⟩ also :=
  sourceTraps_of (begun_of_vector he rfl rfl)

theorem permute_sourceTraps {caps : List Reg} {f : State → Ty → Nat → (Nat → Nat) → Nat → Nat}
    (he : exec i s = permute i caps d a k s f) :
    SourceTraps s ⟨vecAttr .copyV, i, a, fun _ => true, fun x => [tyBits x]⟩ also :=
  sourceTraps_of (begun_of_vector he rfl rfl)

/-- A reduction whose result has the tag of its source. -/
theorem fold_sourceTraps {ok : Ty → Bool} {f : State → Ty → Elt} (he : exec i s = reduce i d a q s ok id f) :
    SourceTraps s ⟨vecAttr .copyV, i, a, ok, fun x => [tyBits x]⟩ also := by
  obtain ⟨hnone, hbad, hlen⟩ := reduce_sourceTraps (also := also) he
  exact ⟨hnone, hbad, fun x hx ho hf => hlen x hx ho fun hff => hf (fits_cons.mp hff).1⟩

theorem convert_sourceTraps {sat : Bool} {t : Ty} {rm : RM} (he : exec i s = convert i sat d a t k rm s) :
    SourceTraps s ⟨vecAttr .copyV, i, a, fun x => if rm = .ef then efOk x t else cvtOk x t,
      fun x => [tyBits t, tyBits x]⟩ also :=
  sourceTraps_of (begun_of_vector he rfl rfl)

end

/-- VUNPKMX has a second tagged source, the scales in the register after its own (R155). -/
theorem vunpkmx_begun {d a : Reg} {t : Ty} {rm : RM} : ∃ f : Ty → State → State,
    Begun pairAttr true (.vunpkmx d a t rm) s (taggedSource s a (fun x => packTarget x && packSource t &&
      decide ((vreg s (nextReg a)).tag = some .e8m0)) (fun x => [tyBits t, tyBits x]) f) :=
  ⟨_, begun_of_vector (exec_vunpkmx ..) rfl rfl⟩

theorem vunpkmx_scales {d a : Reg} {t : Ty} {rm : RM} (h : (vreg s (nextReg a)).tag ≠ some .e8m0) :
    TagTraps pairAttr (.vunpkmx d a t rm) s := by
  obtain ⟨f, hb⟩ := vunpkmx_begun (s := s) (d := d) (a := a) (t := t) (rm := rm)
  cases hx : (vreg s a).tag with
  | none => exact begun_congr hb (taggedSource_none hx)
  | some x => exact begun_congr hb ((taggedSource_some hx).trans (lanes_untagged (by simp [h])))

theorem vunpkmx_sourceTraps {d a : Reg} {t : Ty} {rm : RM} :
    SourceTraps s ⟨pairAttr, .vunpkmx d a t rm, a, fun x => packTarget x && packSource t, fun x => [tyBits t, tyBits x]⟩
      ((vreg s (nextReg a)).tag = some .e8m0) := by
  obtain ⟨f, hb⟩ := vunpkmx_begun (s := s) (d := d) (a := a) (t := t) (rm := rm)
  refine ⟨fun hn => begun_congr hb (taggedSource_none hn), fun x hx hbad => ?_, fun x hx hok hf hs => ?_⟩
  · exact begun_congr hb ((taggedSource_some hx).trans (lanes_untagged (congrArg (· && _) hbad)))
  · have hall : (packTarget x && packSource t && decide ((vreg s (nextReg a)).tag = some .e8m0)) = true :=
      Bool.and_eq_true_iff.mpr ⟨hok, decide_eq_true hs⟩
    rw [taggedSource_some hx, hall] at hb
    exact begun_congr hb (lanes_unfit hf)

theorem oneSource_traps (form : VForm) (d a b : Reg) (kd k : KReg) (t : Ty) (rm : RM) (q : Bool) :
    ∀ m ∈ oneSource form d a b kd k t rm q,
      SourceTraps s m (m.instr = .vunpkmx d a t rm → (vreg s (nextReg a)).tag = some .e8m0) := by
  simp only [oneSource, List.forall_mem_cons, List.not_mem_nil, false_implies, implies_true, and_true, true_implies]
  exact ⟨vun_sourceTraps (exec_vabs ..), vun_sourceTraps (exec_vneg ..), vun_sourceTraps (exec_vsqrt ..),
    vun_sourceTraps (exec_vexp2 ..), fold_sourceTraps (exec_vrsum ..),
    sourceTraps_of (begun_of_vector (exec_vrsumo ..) rfl rfl), fold_sourceTraps (exec_vrmax ..),
    fold_sourceTraps (exec_vrmin ..), fold_sourceTraps (exec_vrand ..), fold_sourceTraps (exec_vror ..),
    fold_sourceTraps (exec_vrxor ..), reduce_sourceTraps (exec_vrmaxi ..), permute_sourceTraps (exec_vslup ..),
    permute_sourceTraps (exec_vsldn ..), sourceTraps_of (begun_of_vector (exec_vcompr ..) rfl rfl),
    permute_sourceTraps (exec_vexpnd ..), permute_sourceTraps (exec_vbcast ..), permute_sourceTraps (exec_vrev ..),
    permute_sourceTraps (exec_vzip ..), permute_sourceTraps (exec_vunzip ..),
    sourceTraps_of (begun_of_vector (exec_vclass ..) rfl rfl), sourceTraps_of (begun_of_vector (exec_vmvxs ..) rfl rfl),
    sourceTraps_of (begun_of_vector (exec_vmvsx ..) rfl rfl), sourceTraps_of (begun_of_vector (exec_vmv ..) rfl rfl),
    convert_sourceTraps (exec_vcvt ..), convert_sourceTraps (exec_vcvts ..),
    sourceTraps_of (begun_of_vector (exec_vpackmx ..) rfl rfl), vunpkmx_sourceTraps⟩

/-- TAG and VLEN of a member with two operands whose tags combine. -/
def PairTraps (s : State) (at_ : Attr) (i : Instr) (form : VForm) (a b : Reg) (ok : Ty → Bool) (more : Ty → List Nat) :
    Prop :=
  (pairOf s form a b ok = none → TagTraps at_ i s) ∧
  (∀ p, pairOf s form a b ok = some p → ¬Fits s (more p.ty ++ readWidths form p.ta p.tb) → LenTraps at_ i s)

theorem pairTraps_of {at_ : Attr} {i : Instr} {form : VForm} {a b : Reg} {ok : Ty → Bool} {more : Ty → List Nat}
    {f : Pair → State → State} (h : Begun at_ true i s (withPair s form a b ok more f)) :
    PairTraps s at_ i form a b ok more := by
  refine ⟨fun hn => begun_congr h ?_, fun p hp hf => begun_congr h ?_⟩
  · rw [withPair, hn]
    rfl
  · rw [withPair, hp]
    exact lanes_unfit hf

theorem vbin_pairTraps {i : Instr} {form : VForm} {d a b : Reg} {k : KReg} {ok : Ty → Bool} {f : Pair → Nat → Nat → Elt}
    (he : exec i s = vbin i form d a b k s ok f) :
    PairTraps s (vecAttr .copyV) i form a b ok fun t => [tyBits t] :=
  pairTraps_of (begun_of_vector he rfl rfl)

theorem compare_pairTraps {i : Instr} {form : VForm} {d : KReg} {a b : Reg} {k : KReg} {ok : Ty → Bool}
    {fi : Int → Int → Bool} {ff : FpVal → FpVal → Bool} {anyInvalid : Bool}
    (he : exec i s = compare i form d a b k s ok fi ff anyInvalid) :
    PairTraps s (vecAttr .predicate) i form a b ok fun _ => [] :=
  pairTraps_of (begun_of_vector he rfl rfl)

theorem twoSource_traps (form : VForm) (d a b : Reg) (k : KReg) : ∀ m ∈ twoSource form d a b k,
    PairTraps s (vecAttr .copyV) m.1 form a b m.2 fun t => [tyBits t] := by
  simp only [twoSource, List.forall_mem_cons, List.not_mem_nil, false_implies, implies_true, and_true]
  exact ⟨vbin_pairTraps (exec_vadd ..), vbin_pairTraps (exec_vsub ..), vbin_pairTraps (exec_vrsub ..),
    vbin_pairTraps (exec_vmul ..), vbin_pairTraps (exec_vmulh ..), vbin_pairTraps (exec_vmin ..),
    vbin_pairTraps (exec_vmax ..), vbin_pairTraps (exec_vdiv ..), vbin_pairTraps (exec_vrem ..),
    vbin_pairTraps (exec_vand ..), vbin_pairTraps (exec_vor ..), vbin_pairTraps (exec_vxor ..),
    vbin_pairTraps (exec_vshl ..), vbin_pairTraps (exec_vshr ..), vbin_pairTraps (exec_vsha ..),
    vbin_pairTraps (exec_vsadd ..), vbin_pairTraps (exec_vssub ..), vbin_pairTraps (exec_vavg ..),
    pairTraps_of (begun_of_vector (exec_vmerge ..) rfl rfl)⟩

theorem compares_traps (form : VForm) (kd : KReg) (a b : Reg) (k : KReg) : ∀ m ∈ compares form kd a b k,
    PairTraps s (vecAttr .predicate) m.1 form a b m.2 fun _ => [] := by
  simp only [compares, List.forall_mem_cons, List.not_mem_nil, false_implies, implies_true, and_true]
  exact ⟨compare_pairTraps (exec_vceq ..), compare_pairTraps (exec_vcne ..), compare_pairTraps (exec_vclt ..),
    compare_pairTraps (exec_vcle ..), compare_pairTraps (exec_vcgt ..), compare_pairTraps (exec_vcge ..),
    compare_pairTraps (exec_vcun ..)⟩

/-! Which operands make no pair (R158, R162). -/

section

variable {form : VForm} {a b : Reg} {ok : Ty → Bool}

theorem pairOf_untagged (h : (vreg s a).tag = none) : pairOf s form a b ok = none := by rw [pairOf, h]

theorem pairOf_second_untagged (h : (vreg s b).tag = none) : pairOf s .vv a b ok = none := by
  cases ha : (vreg s a).tag with
  | none => exact pairOf_untagged ha
  | some x => rw [pairOf, ha]; dsimp only; rw [second, h]

theorem pairOf_refused {x : Ty} (ha : (vreg s a).tag = some x) (h : ok x = false) : pairOf s form a b ok = none := by
  rw [pairOf, ha]
  dsimp only
  split
  · rfl
  · split
    · rw [h, if_neg (by simp)]
    · rfl

theorem pairOf_uncombined {x y : Ty} (ha : (vreg s a).tag = some x) (hb : (vreg s b).tag = some y)
    (h : combine x y = none) : pairOf s .vv a b ok = none := by
  rw [pairOf, ha]
  dsimp only
  rw [second, hb]
  dsimp only
  rw [h]

end

/-! VFMA, VRGATH, VIOTA, VIDX and VFOLD (R126, R169, R174). -/

section

variable {i : Instr} {negP negZ : Bool} {form : VForm} {d a b : Reg} {k : KReg}

theorem vfma_untagged (he : exec i s = vfmaOp i negP negZ form d a b k s)
    (h : (vreg s d).tag = none ∨ pairOf s form a b tyArith = none) : TagTraps (vecAttr .copyV) i s := by
  refine begun_of_vector he rfl ?_
  split
  next td p hd hp => rcases h with h | h <;> simp_all
  next => rfl

theorem vfma_begun {td : Ty} {p : Pair} (he : exec i s = vfmaOp i negP negZ form d a b k s)
    (hd : (vreg s d).tag = some td) (hp : pairOf s form a b tyArith = some p) :
    ∃ f, Begun (vecAttr .copyV) true i s
      (lanes s (fmaTags p.ty td) (tyBits td :: readWidths form p.ta p.tb) f) := by
  have h := begun_of_vector he rfl rfl
  rw [hd, hp] at h
  exact ⟨_, h⟩

theorem vfma_traps (he : exec i s = vfmaOp i negP negZ form d a b k s) :
    ((vreg s d).tag = none ∨ pairOf s form a b tyArith = none → TagTraps (vecAttr .copyV) i s) ∧
    (∀ td p, (vreg s d).tag = some td → pairOf s form a b tyArith = some p →
      (fmaTags p.ty td = false → TagTraps (vecAttr .copyV) i s) ∧
      (fmaTags p.ty td = true → ¬Fits s (tyBits td :: readWidths form p.ta p.tb) → LenTraps (vecAttr .copyV) i s)) := by
  refine ⟨vfma_untagged he, fun td p hd hp => ?_⟩
  obtain ⟨f, h⟩ := vfma_begun he hd hp
  refine ⟨fun hbad => begun_congr h (lanes_untagged hbad), fun hok hf => ?_⟩
  rw [hok] at h
  exact begun_congr h (lanes_unfit hf)

theorem vrgath_untagged (h : (vreg s a).tag = none ∨ (vreg s b).tag = none) :
    TagTraps (vecAttr .copyV) (.vrgath d a b k) s := by
  refine begun_of_vector (exec_vrgath ..) rfl ?_
  dsimp only
  split
  next x y ha hb => rcases h with h | h <;> simp_all
  next => rfl

theorem vrgath_traps {x y : Ty} (ha : (vreg s a).tag = some x) (hb : (vreg s b).tag = some y) :
    (tyInt y = false → TagTraps (vecAttr .copyV) (.vrgath d a b k) s) ∧
    (tyInt y = true → ¬Fits s [tyBits x, tyBits y] → LenTraps (vecAttr .copyV) (.vrgath d a b k) s) := by
  refine ⟨fun hbad => begun_of_vector (exec_vrgath ..) rfl ?_, fun hok hf => begun_of_vector (exec_vrgath ..) rfl ?_⟩
  · dsimp only
    rw [ha, hb]
    exact lanes_untagged hbad
  · dsimp only
    rw [ha, hb]
    dsimp only
    rw [hok]
    exact lanes_unfit hf

theorem indexed_traps {t : Ty} {f : State → Nat → Nat} (he : exec i s = indexed i d t k s f) :
    (tyInt t = false → TagTraps (vecAttr .copyV) i s) ∧
    (tyInt t = true → ¬Fits s [tyBits t] → LenTraps (vecAttr .copyV) i s) := by
  have h := begun_of_vector he rfl rfl
  refine ⟨fun hbad => begun_congr h (lanes_untagged hbad), fun hok hf => ?_⟩
  rw [hok] at h
  exact begun_congr h (lanes_unfit hf)

theorem vfold_untagged (h : (vreg s d).tag = none) : TagTraps (vecAttr .predicate false) (.vfold d a) s := by
  refine begun_of_vector (exec_vfold ..) rfl ?_
  dsimp only
  rw [h]
  rfl

theorem vfold_traps {x : Ty} (hx : (vreg s d).tag = some x) :
    (tyArith x = false → TagTraps (vecAttr .predicate false) (.vfold d a) s) ∧
    (tyArith x = true → capture s false a = 0 ∨ ¬Fits s [tyBits x] →
      LenTraps (vecAttr .predicate false) (.vfold d a) s) := by
  refine ⟨fun hbad => begun_of_vector (exec_vfold ..) rfl ?_, fun hok h => begun_of_vector (exec_vfold ..) rfl ?_⟩
  · dsimp only
    rw [hx]
    dsimp only
    rw [hbad]
    rfl
  · dsimp only
    rw [hx]
    dsimp only
    rw [hok, if_neg (by decide)]
    by_cases hl : (capture s false a).toNat = 0
    · rw [if_pos hl]
      rfl
    · rw [if_neg hl]
      refine lanes_unfit (h.resolve_left fun h0 => hl ?_)
      rw [h0]
      rfl

end

/-! Misaligned elements, and VLEN of the transfers (R209). -/

/-- The accesses of a store (R206, R210). -/
def storedUnits (s : State) (t : Ty) (k : KReg) (base : Word) (addr : Nat → Nat) : List Unit_ :=
  if t = .e2m1 then nibbleUnits base (memElems s k) else elemUnits t addr (memElems s k)

section

variable {i : Instr} {cs : List Word} {d a b : Reg} {t tb : Ty} {k : KReg} {nt ordered : Bool} {mode : OnFail}
  {addr : Nat → Nat} {x : Unit_} {base : Word}

theorem loadElems_misaligned (hv : s.cpu.live.vec.vl ≠ 0)
    (hm : misaligned (elemUnits t addr (memElems s k)) = some x) :
    loadElems s i cs d t k nt mode addr = takeTrap s 0x03 (BitVec.ofNat 64 x.va) := by
  unfold loadElems
  rw [if_neg (show ¬(vecOf s).vl = 0 from hv)]
  dsimp only
  rw [hm]
  rfl

theorem storeElems_misaligned (hv : s.cpu.live.vec.vl ≠ 0) (hm : misaligned (storedUnits s t k (cs.getD 0 0) addr) = some x) :
    storeElems s i cs d t k nt ordered addr = takeTrap s 0x03 (BitVec.ofNat 64 x.va) := by
  unfold storedUnits at hm
  unfold storeElems
  rw [if_neg (show ¬(vecOf s).vl = 0 from hv)]
  dsimp only
  rw [hm]
  rfl

theorem storeElems_aligned (hv : s.cpu.live.vec.vl ≠ 0) (hm : misaligned (storedUnits s t k (cs.getD 0 0) addr) = none) :
    storeElems s i cs d t k nt ordered addr =
      storeVec s i cs nt ordered (if t = .e2m1 then 2 else 1) (storedUnits s t k (cs.getD 0 0) addr)
        (storedBytes (vreg s d).img t) := by
  unfold storedUnits at hm ⊢
  unfold storeElems
  rw [if_neg (show ¬(vecOf s).vl = 0 from hv)]
  dsimp only
  rw [hm]

theorem vst_begun {caps : List Reg} {body : State → List Word → State} (he : exec i s = vst i caps d t s body)
    (hc : ((caps.zip [false, true]).map fun c => capture s c.2 c.1) = cs) :
    Begun storeAttr true i s (lanes s ((vreg s d).tag = some t) [tyBits t] fun _ => body s cs) :=
  hc ▸ begun_of_vector he rfl rfl

theorem vstUnit_begun : Begun storeAttr true (.vstUnit d a k nt t) s
    (lanes s ((vreg s d).tag = some t) [tyBits t] fun _ =>
      storeElems s (.vstUnit d a k nt t) [capture s false a] d t k nt false (unitAddr t (capture s false a))) :=
  vst_begun (body := fun s c => storeElems s (.vstUnit d a k nt t) c d t k nt false (unitAddr t (c.getD 0 0)))
    (exec_vstUnit ..) rfl

theorem vstOrdered_begun : Begun storeAttr true (.vstOrdered d a k nt t) s
    (lanes s ((vreg s d).tag = some t) [tyBits t] fun _ =>
      storeElems s (.vstOrdered d a k nt t) [capture s false a] d t k nt true (unitAddr t (capture s false a))) :=
  vst_begun (body := fun s c => storeElems s (.vstOrdered d a k nt t) c d t k nt true (unitAddr t (c.getD 0 0)))
    (exec_vstOrdered ..) rfl

theorem vstStrided_begun : Begun storeAttr true (.vstStrided d a b k nt t) s
    (lanes s ((vreg s d).tag = some t) [tyBits t] fun _ =>
      storeElems s (.vstStrided d a b k nt t) [capture s false a, capture s true b] d t k nt false
        (stridedAddr (capture s false a) (capture s true b))) :=
  vst_begun (body := fun s c =>
      storeElems s (.vstStrided d a b k nt t) c d t k nt false (stridedAddr (c.getD 0 0) (c.getD 1 0)))
    (exec_vstStrided ..) rfl

theorem vstIndexed_begun (h : indexTag s b = some tb) : Begun storeAttr true (.vstIndexed d a b k nt t) s
    (lanes s ((vreg s d).tag = some t) [tyBits t, tyBits tb] fun _ =>
      storeElems s (.vstIndexed d a b k nt t) [capture s false a] d t k nt false
        (indexedAddr s b tb (capture s false a))) := by
  refine begun_of_vector (exec_vstIndexed ..) rfl ?_
  dsimp only
  rw [h]
  rfl

/-- What a unit or strided load does before it checks its accesses. -/
theorem load_traps (h : Begun (vecAttr .copyV) true i s
      (lanes s true [tyBits t] fun _ => loadElems s i cs d t k nt mode addr)) :
    (¬Fits s [tyBits t] → LenTraps (vecAttr .copyV) i s) ∧
    (Fits s [tyBits t] → s.cpu.live.vec.vl ≠ 0 → ∀ u, misaligned (elemUnits t addr (memElems s k)) = some u →
      AlignTraps (vecAttr .copyV) i s u.va) :=
  ⟨fun hf => begun_congr h (lanes_unfit hf),
   fun hf hv _ hm => begun_congr h ((lanes_fits hf).trans (loadElems_misaligned hv hm))⟩

/-- What a unit or strided store does before it checks its accesses. -/
theorem store_traps (h : Begun storeAttr true i s
      (lanes s ((vreg s d).tag = some t) [tyBits t] fun _ => storeElems s i cs d t k nt ordered addr))
    (hc : cs.getD 0 0 = base) :
    ((vreg s d).tag ≠ some t → TagTraps storeAttr i s) ∧
    ((vreg s d).tag = some t → ¬Fits s [tyBits t] → LenTraps storeAttr i s) ∧
    ((vreg s d).tag = some t → Fits s [tyBits t] → s.cpu.live.vec.vl ≠ 0 →
      ∀ u, misaligned (storedUnits s t k base addr) = some u → AlignTraps storeAttr i s u.va) := by
  subst hc
  refine ⟨fun hd => begun_congr h (lanes_untagged (decide_eq_false hd)), fun hd hf => ?_, fun hd hf hv u hm => ?_⟩
  · rw [decide_eq_true hd] at h
    exact begun_congr h (lanes_unfit hf)
  · rw [decide_eq_true hd] at h
    exact begun_congr h ((lanes_fits hf).trans (storeElems_misaligned hv hm))

end

/-! Where accesses fail (R202, R203, R212 to R215, R413). -/

/-- What follows a save that finds room, and what one that does not. -/
def afterSave (saved : Saved) (done : State → State) (otherwise : State) : State :=
  match saved with
  | .ok v => done v
  | _ => otherwise

theorem afterSave_ok {saved : Saved} {done : State → State} {otherwise v : State} (h : saved = .ok v) :
    afterSave saved done otherwise = done v := by
  rw [h]
  rfl

theorem afterSave_otherwise {saved : Saved} {done : State → State} {otherwise : State} (h : ∀ v, saved ≠ .ok v) :
    afterSave saved done otherwise = otherwise := by
  cases saved with
  | ok v => exact absurd rfl (h v)
  | full => rfl
  | fault va => rfl

theorem faultLeaves_memFault (i : Instr) (caps : List Word) (cause : Nat) (va : Word) (k : Kind) (elem : Nat) (t : State) :
    FaultLeaves i caps cause va k elem t (memFault t i caps cause va k elem) := by
  refine ⟨fun hw hp => ?_, fun hn => ?_⟩
  · have hlatch : memFault t i caps cause va k elem =
        latchTask t (some (entryOf t i caps)) (isPoint i) cause va k elem (wordOf i) := by
      simp only [memFault, hw, hp, decide_true, Bool.and_self, if_true]
    rw [hlatch]
    exact ⟨fun v hv => afterSave_ok (done := fun v => bump v 11) hv,
      fun hv => afterSave_otherwise (done := fun v => bump v 11) hv⟩
  · rw [memFault, if_neg (by simpa using hn)]

theorem stopsAt_of_stopAt {a : Attr} {i : Instr} {caps : List Word} {k : Kind} {x : Unit_} {p : Probe} {t : State}
    (h : Begun a true i s (stopAt t i caps k x p)) : StopsAt a i caps s k x p t := by
  refine ⟨fun w hw => begun_congr h (by rw [hw]; rfl), fun c hc hb => ⟨_, h hb, ?_⟩⟩
  rw [hc]
  exact faultLeaves_memFault ..

theorem firstFail_of_failsAt {l before : List (Unit_ × Probe)} {x : Unit_} {p : Probe} (h : FailsAt l before x p) :
    firstFail l = some (x, p) ∧ beforeFail l = before := by
  obtain ⟨after, rfl, hok, hp⟩ := h
  have hpass : ∀ y ∈ before, passed y.2 = true := by
    intro y hy
    obtain ⟨ps, hps⟩ := hok y hy
    rw [hps]
    rfl
  have hfail : passed p = false := by
    cases p with
    | ok ps => exact absurd rfl (hp ps)
    | watch w => rfl
    | bad c => rfl
  constructor
  · rw [firstFail, List.find?_append, List.find?_eq_none.mpr (by simpa using fun y p hy => hpass (y, p) hy)]
    simp [hfail]
  · rw [beforeFail, List.takeWhile_append_of_pos hpass]
    simp [hfail]

/-- A stop by a watchpoint, which a first-fault load takes at any element (R213). -/
def isWatch (p : Probe) : Bool :=
  match p with
  | .watch _ => true
  | _ => false

section

variable {a : Attr} {i : Instr} {cs : List Word} {nt ordered : Bool} {mode : OnFail} {grain : Nat} {us : List Unit_}
  {ps before : List (Unit_ × Probe)} {x : Unit_} {p : Probe} {t v : State} {bs : List (Unit_ × List Byte)}
  {put : State → List (Unit_ × List Byte) → State} {bytes : Unit_ → List Byte}

/-- A load at its first failing access, case by case of how it treats one (R212, R213, R215). -/
theorem loadVec_fails (hp : probeAll s .read us = (ps, t)) (hf : FailsAt ps before x p) :
    loadVec s i cs nt mode grain us put =
      if mode = .keep then stopAt t i cs .read x p
      else if mode = .shorten && x.elem != (us.head?.map (·.elem)).getD 0 && !isWatch p then
        withBytes t nt before fun bs s => retireV (put (modVec s fun v => { v with vl := x.elem }) bs)
      else withBytes t nt (before ++ afterFail t ps) fun bs s => stopAt (setBeg (put s bs) x.elem) i cs .read x p := by
  obtain ⟨hfirst, hbefore⟩ := firstFail_of_failsAt hf
  unfold loadVec
  rw [hp]
  dsimp only
  rw [hfirst, hbefore]
  rfl

theorem loadFaults_of_loadVec (h : Begun a true i s (loadVec s i cs nt .stop grain us put)) :
    LoadFaults a i cs s nt us put := by
  intro ps t before x p bs v hp hf hr
  refine stopsAt_of_stopAt (begun_congr h ((loadVec_fails hp hf).trans ?_))
  exact withBytes_read hr

theorem loadVec_keeps (hp : probeAll s .read us = (ps, t)) (hf : FailsAt ps before x p) :
    loadVec s i cs nt .keep grain us put = stopAt t i cs .read x p :=
  loadVec_fails hp hf

theorem loadVec_shortens (hp : probeAll s .read us = (ps, t)) (hf : FailsAt ps before x p)
    (hx : x.elem ≠ (us.head?.map (·.elem)).getD 0) {c : Nat} (hc : p = .bad c)
    (hr : loadUnits t nt before = (some bs, v)) :
    loadVec s i cs nt .shorten grain us put = retireV (put (modVec v fun y => { y with vl := x.elem }) bs) := by
  rw [loadVec_fails hp hf, hc, if_neg (by decide), if_pos (by simp [hx, isWatch])]
  exact withBytes_read hr

theorem loadVec_firstFault_stops (hp : probeAll s .read us = (ps, t)) (hf : FailsAt ps before x p)
    (hx : x.elem = (us.head?.map (·.elem)).getD 0 ∨ ∃ w, p = .watch w)
    (hr : loadUnits t nt (before ++ afterFail t ps) = (some bs, v)) :
    loadVec s i cs nt .shorten grain us put = stopAt (setBeg (put v bs) x.elem) i cs .read x p := by
  have hno : ¬(decide (OnFail.shorten = .shorten) && x.elem != (us.head?.map (·.elem)).getD 0 && !isWatch p) = true := by
    rcases hx with hx | ⟨w, rfl⟩
    · simp [hx]
    · simp [isWatch]
  rw [loadVec_fails hp hf, if_neg (by decide), if_neg hno]
  exact withBytes_read hr

/-- A store at its first failing access (R212, R214). -/
theorem storeVec_fails (hp : probeAll s .write us = (ps, t)) (hf : FailsAt ps before x p) :
    storeVec s i cs nt ordered grain us bytes =
      let u := storeUnits t nt bytes (before ++ if ordered then [] else afterFail t ps)
      stopAt (if grain = 0 then u else setBeg u x.elem) i cs .write x p := by
  obtain ⟨hfirst, hbefore⟩ := firstFail_of_failsAt hf
  unfold storeVec
  rw [hp]
  dsimp only
  rw [hfirst, hbefore]

theorem storeFaults_of_storeVec (hg : grain ≠ 0)
    (h : Begun storeAttr true i s (storeVec s i cs nt ordered grain us bytes)) :
    StoreFaults i cs s nt ordered us bytes := by
  intro ps t before x p hp hf
  refine stopsAt_of_stopAt (begun_congr h ((storeVec_fails hp hf).trans ?_))
  dsimp only
  rw [if_neg hg]

end

section

variable {i : Instr} {cs : List Word} {d a b : Reg} {t tb : Ty} {k : KReg} {nt ordered : Bool} {addr : Nat → Nat}
  {base : Word}

theorem loadElems_faults {ws : List Nat} (h : Begun (vecAttr .copyV) true i s
      (lanes s true ws fun _ => loadElems s i cs d t k nt .stop addr)) (hf : Fits s ws)
    (hv : s.cpu.live.vec.vl ≠ 0) (hm : misaligned (elemUnits t addr (memElems s k)) = none) :
    LoadFaults (vecAttr .copyV) i cs s nt (elemUnits t addr (memElems s k)) fun v bs => putLoaded v d t bs :=
  loadFaults_of_loadVec (begun_congr h ((lanes_fits hf).trans (loadElems_aligned hv hm)))

theorem storeElems_faults {ws : List Nat} (h : Begun storeAttr true i s
      (lanes s ((vreg s d).tag = some t) ws fun _ => storeElems s i cs d t k nt ordered addr))
    (hc : cs.getD 0 0 = base) (hd : (vreg s d).tag = some t) (hf : Fits s ws) (hv : s.cpu.live.vec.vl ≠ 0)
    (hm : misaligned (storedUnits s t k base addr) = none) :
    StoreFaults i cs s nt ordered (storedUnits s t k base addr) (storedBytes (vreg s d).img t) := by
  subst hc
  rw [decide_eq_true hd] at h
  refine storeFaults_of_storeVec ?_ (begun_congr h ((lanes_fits hf).trans (storeElems_aligned hv hm)))
  split_ifs <;> decide

/-- A first-fault load at its first failing access (R213). -/
theorem vldFirstFault_faults (hf : Fits s [tyBits t]) (hv : s.cpu.live.vec.vl ≠ 0) :
    let us := elemUnits t (unitAddr t (capture s false a)) (memElems s k)
    misaligned us = none → ∀ ps v before u p bs x, probeAll s .read us = (ps, v) → FailsAt ps before u p →
      (u.elem ≠ (us.head?.map (·.elem)).getD 0 → ∀ c, p = .bad c → loadUnits v nt before = (some bs, x) →
        Begun (vecAttr .copyV) true (.vldFirstFault d a k nt t) s
          (retireV (putLoaded (modVec x fun y => { y with vl := u.elem }) d t bs))) ∧
      (u.elem = (us.head?.map (·.elem)).getD 0 ∨ (∃ w, p = .watch w) →
        loadUnits v nt (before ++ afterFail v ps) = (some bs, x) →
        StopsAt (vecAttr .copyV) (.vldFirstFault d a k nt t) [capture s false a] s .read u p
          (setBeg (putLoaded x d t bs) u.elem)) := by
  intro us hm ps v before u p bs x hp hfail
  have h := begun_congr vldFirstFault_begun ((lanes_fits hf).trans (loadElems_aligned (d := d) (nt := nt) hv hm))
  exact ⟨fun hu c hc hr => begun_congr h (loadVec_shortens hp hfail hu hc hr),
    fun hu hr => stopsAt_of_stopAt (begun_congr h (loadVec_firstFault_stops hp hfail hu hr))⟩

end

/-! Indexed transfers (R206, R215). -/

section

variable {d a b : Reg} {t tb : Ty} {k : KReg} {nt : Bool}

theorem indexTag_eq_none (h : ∀ tb, (vreg s b).tag = some tb → tyInt tb = false) : indexTag s b = none := by
  unfold indexTag
  split
  next tb hb => rw [h tb hb, if_neg (by decide)]
  next => rfl

theorem indexed_untagged (h : indexTag s b = none) :
    TagTraps (vecAttr .copyV) (.vldIndexed d a b k nt t) s ∧ TagTraps storeAttr (.vstIndexed d a b k nt t) s := by
  refine ⟨begun_of_vector (exec_vldIndexed ..) rfl ?_, begun_of_vector (exec_vstIndexed ..) rfl ?_⟩
  · dsimp only
    rw [h]
    rfl
  · dsimp only
    rw [h]
    rfl

theorem vldIndexed_traps (h : indexTag s b = some tb) :
    (¬Fits s [tyBits t, tyBits tb] → LenTraps (vecAttr .copyV) (.vldIndexed d a b k nt t) s) ∧
    (Fits s [tyBits t, tyBits tb] → s.cpu.live.vec.vl ≠ 0 →
      ∀ u, misaligned (elemUnits t (indexedAddr s b tb (capture s false a)) (memElems s k)) = some u →
        AlignTraps (vecAttr .copyV) (.vldIndexed d a b k nt t) s u.va) :=
  ⟨fun hf => begun_congr (vldIndexed_begun h) (lanes_unfit hf),
   fun hf hv _ hm => begun_congr (vldIndexed_begun h) ((lanes_fits hf).trans (loadElems_misaligned hv hm))⟩

theorem vldIndexed_faults (h : indexTag s b = some tb) (hf : Fits s [tyBits t, tyBits tb])
    (hv : s.cpu.live.vec.vl ≠ 0) :
    let us := elemUnits t (indexedAddr s b tb (capture s false a)) (memElems s k)
    let i : Instr := .vldIndexed d a b k nt t
    misaligned us = none →
      (¬Overwrites s d b →
        LoadFaults (vecAttr .copyV) i [capture s false a] s nt us fun v bs => putLoaded v d t bs) ∧
      (Overwrites s d b → ∀ ps v before u p, probeAll s .read us = (ps, v) → FailsAt ps before u p →
        StopsAt (vecAttr .copyV) i [capture s false a] s .read u p v) := by
  intro us i hm
  have hb := vldIndexed_begun (d := d) (a := a) (k := k) (nt := nt) (t := t) h
  refine ⟨fun ho => ?_, fun ho ps v before u p hp hfail => ?_⟩
  · rw [if_neg (mt overwrites_iff.mp ho)] at hb
    exact loadElems_faults hb hf hv hm
  · rw [if_pos (overwrites_iff.mpr ho)] at hb
    exact stopsAt_of_stopAt
      (begun_congr hb (((lanes_fits hf).trans (loadElems_aligned hv hm)).trans (loadVec_keeps hp hfail)))

theorem vstIndexed_traps (h : indexTag s b = some tb) :
    ((vreg s d).tag ≠ some t → TagTraps storeAttr (.vstIndexed d a b k nt t) s) ∧
    ((vreg s d).tag = some t → ¬Fits s [tyBits t, tyBits tb] → LenTraps storeAttr (.vstIndexed d a b k nt t) s) ∧
    ((vreg s d).tag = some t → Fits s [tyBits t, tyBits tb] → s.cpu.live.vec.vl ≠ 0 →
      ∀ u, misaligned (storedUnits s t k (capture s false a) (indexedAddr s b tb (capture s false a))) = some u →
        AlignTraps storeAttr (.vstIndexed d a b k nt t) s u.va) := by
  have hb := vstIndexed_begun (d := d) (a := a) (k := k) (nt := nt) (t := t) h
  refine ⟨fun hd => begun_congr hb (lanes_untagged (decide_eq_false hd)), fun hd hf => ?_, fun hd hf hv u hm => ?_⟩
  · rw [decide_eq_true hd] at hb
    exact begun_congr hb (lanes_unfit hf)
  · rw [decide_eq_true hd] at hb
    exact begun_congr hb ((lanes_fits hf).trans (storeElems_misaligned hv hm))

end

/-! Segments (R209, R217). -/

section

variable {d a : Reg} {t : Ty} {base : Word} {f : State → State}

theorem segChecks_unfit (h : ¬Fits s [tyBits t] ∨ ¬s.cpu.live.vec.vl % 32 = 0) :
    segChecks s t base f = takeTrap s 0x12 0 := by
  by_cases hf : Fits s [tyBits t]
  · have hw : ((vecOf s).vl % 32 != 0) = true := bne_iff_ne.mpr (h.resolve_left (not_not_intro hf))
    refine (lanes_fits hf).trans ?_
    rw [if_pos hw]
    rfl
  · exact lanes_unfit hf

theorem segChecks_misaligned (hf : Fits s [tyBits t]) (hw : s.cpu.live.vec.vl % 32 = 0)
    (hv : s.cpu.live.vec.vl ≠ 0) (hb : base.toNat % 4 ≠ 0) :
    segChecks s t base f = takeTrap s 0x03 (BitVec.ofNat 64 base.toNat) := by
  refine (lanes_fits hf).trans ?_
  rw [if_neg (by rw [show (vecOf s).vl % 32 = 0 from hw]; decide), if_neg (show ¬(vecOf s).vl = 0 from hv),
    if_pos (bne_iff_ne.mpr hb), BitVec.ofNat_toNat, BitVec.setWidth_eq]
  rfl

/-- A segment store takes an element and a scale register of its tags (R217). -/
def SegmentTags (s : State) (d : Reg) (t : Ty) : Prop :=
  (vreg s d).tag = some t ∧ (vreg s (nextReg d)).tag = some .e8m0

theorem vstSegmentMx_untagged (h : ¬SegmentTags s d t) : TagTraps storeAttr (.vstSegmentMx d a t) s := by
  refine begun_of_vector (exec_vstSegmentMx ..) rfl ?_
  have hno : ((vreg s d).tag != some t || (vreg s (nextReg d)).tag != some .e8m0) = true := by
    rw [SegmentTags, not_and_or] at h
    simpa only [Bool.or_eq_true, bne_iff_ne] using h
  exact if_pos hno

theorem vstSegmentMx_begun (h : SegmentTags s d t) : Begun storeAttr true (.vstSegmentMx d a t) s
    (segChecks s t (capture s false a) fun u => storeVec u (.vstSegmentMx d a t) [capture s false a] false false 32
      (segUnits u t (capture s false a)) (segmentBytes (vreg s d).img (vreg s (nextReg d)).img t)) := by
  refine begun_of_vector (exec_vstSegmentMx ..) rfl ?_
  have hno : ¬((vreg s d).tag != some t || (vreg s (nextReg d)).tag != some .e8m0) = true := by
    rw [h.1, h.2, bne_self_eq_false, bne_self_eq_false]
    decide
  exact if_neg hno

theorem segment_lenTraps (h : ¬Fits s [tyBits t] ∨ ¬s.cpu.live.vec.vl % 32 = 0) :
    LenTraps segAttr (.vldSegmentMx d a t) s ∧ (SegmentTags s d t → LenTraps storeAttr (.vstSegmentMx d a t) s) :=
  ⟨begun_congr vldSegmentMx_begun (segChecks_unfit h), fun ht => begun_congr (vstSegmentMx_begun ht) (segChecks_unfit h)⟩

theorem segment_alignTraps (hf : Fits s [tyBits t]) (hw : s.cpu.live.vec.vl % 32 = 0) (hv : s.cpu.live.vec.vl ≠ 0)
    (hb : (capture s false a).toNat % 4 ≠ 0) :
    AlignTraps segAttr (.vldSegmentMx d a t) s (capture s false a).toNat ∧
      (SegmentTags s d t → AlignTraps storeAttr (.vstSegmentMx d a t) s (capture s false a).toNat) :=
  ⟨begun_congr vldSegmentMx_begun (segChecks_misaligned hf hw hv hb),
   fun ht => begun_congr (vstSegmentMx_begun ht) (segChecks_misaligned hf hw hv hb)⟩

theorem segment_faults (hf : Fits s [tyBits t]) (hw : s.cpu.live.vec.vl % 32 = 0) (hv : s.cpu.live.vec.vl ≠ 0)
    (hb : (capture s false a).toNat % 4 = 0) :
    LoadFaults segAttr (.vldSegmentMx d a t) [capture s false a] s false (segUnits s t (capture s false a))
        (fun v bs => putSegments v d t bs) ∧
      (SegmentTags s d t → StoreFaults (.vstSegmentMx d a t) [capture s false a] s false false
        (segUnits s t (capture s false a)) (segmentBytes (vreg s d).img (vreg s (nextReg d)).img t)) :=
  ⟨loadFaults_of_loadVec (begun_congr vldSegmentMx_begun (segChecks_passes hf hw hv hb)),
   fun ht => storeFaults_of_storeVec (by decide)
    (begun_congr (vstSegmentMx_begun ht) (segChecks_passes hf hw hv hb))⟩

end

/-! VSAVE and VRESTORE (R127, R128). -/

/-- What VSAVE asks at the front: it takes no mask and sees the queue drained (R127). -/
def saveAttr : Attr := { storeAttr with hasK := false, drain := true }

section

variable {a : Reg}

theorem vsave_alignTraps (h : (capture s false a).toNat % 64 ≠ 0) :
    AlignTraps saveAttr (.vsave a) s (capture s false a).toNat := by
  refine begun_of_vector (exec_vsave ..) rfl ?_
  dsimp only
  rw [if_pos (bne_iff_ne.mpr h), BitVec.ofNat_toNat, BitVec.setWidth_eq]
  rfl

theorem vrestore_alignTraps (h : (capture s false a).toNat % 64 ≠ 0) :
    AlignTraps (vecAttr .predicate false) (.vrestore a) s (capture s false a).toNat := by
  refine begun_of_vector (exec_vrestore ..) rfl ?_
  dsimp only
  rw [if_pos (bne_iff_ne.mpr h), BitVec.ofNat_toNat, BitVec.setWidth_eq]
  rfl

/-- The bytes that VSAVE stores at an access (R127). -/
def savedBytes (s : State) (base : Word) (x : Unit_) : List Byte :=
  ((vsaveImage s).drop ((BitVec.ofNat 64 x.va - base).toNat)).take 64

theorem vsave_faults (h : (capture s false a).toNat % 64 = 0) {ps before : List (Unit_ × Probe)} {v : State} {u : Unit_}
    {p : Probe} (hp : probeAll s .write (rangeUnits (capture s false a) 0 (vsaveImage s).length) = (ps, v))
    (hf : FailsAt ps before u p) :
    StopsAt saveAttr (.vsave a) [capture s false a] s .write u p
      (storeUnits v false (savedBytes s (capture s false a)) (before ++ afterFail v ps)) := by
  refine stopsAt_of_stopAt (begun_of_vector (exec_vsave ..) rfl ?_)
  dsimp only
  rw [if_neg (by rw [h]; decide)]
  exact storeVec_fails hp hf

section

variable {i : Instr} {base : Word} {got more : List TlbEntry} {us : List Unit_}
  {f : List Byte → List TlbEntry → State → State} {ps : List (Unit_ × Probe)} {v x : State}

theorem loadWhole_fails {before : List (Unit_ × Probe)} {u : Unit_} {p : Probe}
    (hp : probeFrom s got .read us = (ps, more, v)) (hf : FailsAt ps before u p) :
    loadWhole s i base got us f = stopAt v i [base] .read u p := by
  unfold loadWhole
  rw [hp]
  dsimp only
  rw [(firstFail_of_failsAt hf).1]

theorem loadWhole_reads {hs : List (Unit_ × List Byte)} (hp : probeFrom s got .read us = (ps, more, v))
    (hf : firstFail ps = none) (hr : loadUnits v false ps = (some hs, x)) :
    loadWhole s i base got us f = f (hs.map (·.2)).flatten more x := by
  unfold loadWhole
  rw [hp]
  dsimp only
  rw [hf]
  exact withBytes_read hr

end

theorem vrestore_faults (h : (capture s false a).toNat % 64 = 0) {ps before : List (Unit_ × Probe)}
    {got : List TlbEntry} {v : State} {u : Unit_} {p : Probe}
    (hp : probeFrom s [] .read (rangeUnits (capture s false a) 0 64) = (ps, got, v)) (hf : FailsAt ps before u p) :
    StopsAt (vecAttr .predicate false) (.vrestore a) [capture s false a] s .read u p v := by
  refine stopsAt_of_stopAt (begun_of_vector (exec_vrestore ..) rfl ?_)
  dsimp only
  rw [if_neg (by rw [h]; decide)]
  exact loadWhole_fails hp hf

theorem vrestore_lenTraps (h : (capture s false a).toNat % 64 = 0) {ps : List (Unit_ × Probe)} {got : List TlbEntry}
    {v x : State} {hs : List (Unit_ × List Byte)}
    (hp : probeFrom s [] .read (rangeUnits (capture s false a) 0 64) = (ps, got, v)) (hf : firstFail ps = none)
    (hr : loadUnits v false ps = (some hs, x)) (hbad : badImage x (hs.map (·.2)).flatten = true) :
    Begun (vecAttr .predicate false) true (.vrestore a) s (takeTrap x 0x12 0) := by
  refine begun_of_vector (exec_vrestore ..) rfl ?_
  dsimp only
  rw [if_neg (by rw [h]; decide), loadWhole_reads hp hf hr]
  exact if_pos hbad

end

/-- Settles O44: each clause is the first check of its member that fails, or the stop at its first failing access. -/
theorem vectorTraps : Obligations.VectorTraps := by
  intro s form d a b kd k nt q t rm
  refine ⟨oneSource_traps form d a b kd k t rm q, vunpkmx_scales, twoSource_traps form d a b k,
    compares_traps form kd a b k, ?pairs, ?fma, vrgath_untagged, fun x y => vrgath_traps, ?indices,
    ⟨vfold_untagged, fun x => vfold_traps⟩, ?loads, ?stores, ?indexed, ?segments, ?faults, ?images⟩
  case pairs =>
    refine fun ok => ⟨pairOf_untagged, fun hv hb => ?_, fun x => pairOf_refused, fun x y hv ha hb hc => ?_⟩
    · rw [hv]
      exact pairOf_second_untagged hb
    · rw [hv]
      exact pairOf_uncombined ha hb hc
  case fma =>
    simp only [List.forall_mem_cons, List.not_mem_nil, false_implies, implies_true, and_true]
    exact ⟨vfma_traps (exec_vfma ..), vfma_traps (exec_vfms ..), vfma_traps (exec_vfnma ..),
      vfma_traps (exec_vfnms ..)⟩
  case indices =>
    simp only [List.forall_mem_cons, List.not_mem_nil, false_implies, implies_true, and_true]
    exact ⟨indexed_traps (exec_viota ..), indexed_traps (exec_vidx ..)⟩
  case loads =>
    simp only [List.forall_mem_cons, List.not_mem_nil, false_implies, implies_true, and_true]
    exact ⟨load_traps vldUnit_begun, load_traps vldFirstFault_begun, load_traps vldStrided_begun⟩
  case stores =>
    simp only [List.forall_mem_cons, List.not_mem_nil, false_implies, implies_true, and_true]
    exact ⟨store_traps vstUnit_begun rfl, store_traps vstOrdered_begun rfl, store_traps vstStrided_begun rfl⟩
  case indexed =>
    refine ⟨fun hb => indexed_untagged (indexTag_eq_none (by simp [hb])), fun tb hb => ⟨fun hi => ?_, fun hi => ?_,
      fun hi => ?_, fun hi => ?_⟩⟩
    · exact indexed_untagged (indexTag_eq_none fun x hx => Option.some.inj (hb.symm.trans hx) ▸ hi)
    · exact (vstIndexed_traps (indexTag_some hb hi)).1
    · obtain ⟨hlen, -⟩ := vldIndexed_traps (d := d) (a := a) (k := k) (nt := nt) (t := t) (indexTag_some hb hi)
      obtain ⟨-, hstore, -⟩ := vstIndexed_traps (d := d) (a := a) (k := k) (nt := nt) (t := t) (indexTag_some hb hi)
      exact fun hf => ⟨hlen hf, fun hd => hstore hd hf⟩
    · obtain ⟨-, hload⟩ := vldIndexed_traps (d := d) (a := a) (k := k) (nt := nt) (t := t) (indexTag_some hb hi)
      obtain ⟨-, -, hstore⟩ := vstIndexed_traps (d := d) (a := a) (k := k) (nt := nt) (t := t) (indexTag_some hb hi)
      exact fun hf hv => ⟨hload hf hv, fun hd => hstore hd hf hv, vldIndexed_faults (indexTag_some hb hi) hf hv,
        fun hd hm => storeElems_faults (vstIndexed_begun (indexTag_some hb hi)) rfl hd hf hv hm⟩
  case segments =>
    exact ⟨vstSegmentMx_untagged, segment_lenTraps, segment_alignTraps, segment_faults⟩
  case faults =>
    intro hf hv
    refine ⟨fun hm => ⟨loadElems_faults vldUnit_begun hf hv hm, vldFirstFault_faults hf hv hm⟩,
      loadElems_faults vldStrided_begun hf hv, fun hd hm => ⟨?_, ?_⟩, fun hd hm => ?_⟩
    · exact storeElems_faults vstUnit_begun rfl hd hf hv hm
    · exact storeElems_faults vstOrdered_begun rfl hd hf hv hm
    · exact storeElems_faults vstStrided_begun rfl hd hf hv hm
  case images =>
    refine ⟨fun h => ⟨vsave_alignTraps h, vrestore_alignTraps h⟩, fun h => ⟨fun ps v before u p => vsave_faults h,
      fun ps got v hp => ⟨fun before u p => vrestore_faults h hp, fun hs x => vrestore_lenTraps h hp⟩⟩⟩

end Sys2Proof.Machine
end

section
/-!
PROOF. The results of the ALU members (O1), and of the immediates, constant shifts, constants, SEL and LEA (O2): each is a
`produce`, whose exact number agrees with the bit-vector operation modulo 2^n.
-/

namespace Sys2Proof.Machine

open Sys2Proof.Claims

/-! The numbers of the model beside bit-vector operations, where the model's own laws have none (R75). -/

section
variable {n : Nat}

/-- A number that is the operation's result agrees with it modulo 2^n. -/
theorem mod_of_toNat {k : Nat} {v : BitVec n} (h : k = v.toNat) : (k : Int) % (2 ^ n : Nat) = (v.toNat : Int) :=
  h ▸ nat_mod v

/-- The high half of a product, whatever numbers the factors stand for modulo 2^(2 n) (R75). -/
theorem highHalf_mod {p : Int} {v : BitVec (2 * n)} (h : p % (2 ^ (2 * n) : Nat) = (v.toNat : Int)) :
    p / (2 ^ n : Nat) % (2 ^ n : Nat) = (((v >>> n).setWidth n).toNat : Int) := by
  have hp : p = v.toNat + (2 ^ n : Nat) * ((2 ^ n : Nat) * (p / (2 ^ (2 * n) : Nat))) := by
    rw [← h, ← mul_assoc, ← Nat.cast_mul, ← Nat.pow_add, ← Nat.two_mul, Int.emod_add_mul_ediv]
  rw [hp, Int.add_mul_ediv_left _ _ (by positivity), Int.add_mul_emod_self_left, BitVec.toNat_setWidth,
    BitVec.toNat_ushiftRight, Nat.shiftRight_eq_div_pow]
  rfl

theorem mulh_mod (hn : n = 32 ∨ n = 64) (x y : BitVec n) :
    sgn n x.toNat * sgn n y.toNat / (2 ^ n : Nat) % (2 ^ n : Nat) =
      ((((x.signExtend (2 * n) * y.signExtend (2 * n)) >>> n).setWidth n).toNat : Int) := by
  apply highHalf_mod
  rw [sgn_toNat hn, sgn_toNat hn, ← toInt_mod, BitVec.toInt_mul, Int.bmod_emod,
    BitVec.toInt_signExtend_of_le (by omega), BitVec.toInt_signExtend_of_le (by omega)]

theorem mulhn_mod (x y : BitVec n) :
    ((x.toNat * y.toNat / 2 ^ n : Nat) : Int) % (2 ^ n : Nat) =
      ((((x.setWidth (2 * n) * y.setWidth (2 * n)) >>> n).setWidth n).toNat : Int) := by
  rw [Int.natCast_ediv]
  apply highHalf_mod
  rw [BitVec.toNat_mul, BitVec.toNat_setWidth_of_le (by omega), BitVec.toNat_setWidth_of_le (by omega)]
  rfl

theorem divn_mod (hn : n = 32 ∨ n = 64) (x y : BitVec n) :
    (if y.toNat = 0 then -1 else ((x.toNat / y.toNat : Nat) : Int)) % (2 ^ n : Nat) =
      ((if y = 0 then BitVec.allOnes n else x / y).toNat : Int) := by
  by_cases h : y = 0
  · subst h
    rw [if_pos rfl]
    rcases hn with rfl | rfl <;> rfl
  · rw [if_neg h, if_neg (by simpa [BitVec.toNat_eq] using h)]
    exact mod_of_toNat BitVec.toNat_udiv.symm

theorem remn_mod (x y : BitVec n) :
    ((x.toNat % y.toNat : Nat) : Int) % (2 ^ n : Nat) = ((if y = 0 then x else x % y).toNat : Int) := by
  apply mod_of_toNat
  split
  case isTrue h => simp [h]
  case isFalse => exact BitVec.toNat_umod.symm

theorem minn_mod (x y : BitVec n) :
    ((Nat.min x.toNat y.toNat : Nat) : Int) % (2 ^ n : Nat) = ((if x < y then x else y).toNat : Int) := by
  apply mod_of_toNat
  split
  case isTrue h => exact Nat.min_eq_left (BitVec.lt_def.mp h).le
  case isFalse h => exact Nat.min_eq_right (Nat.le_of_not_lt (mt BitVec.lt_def.mpr h))

theorem maxn_mod (x y : BitVec n) :
    ((Nat.max x.toNat y.toNat : Nat) : Int) % (2 ^ n : Nat) = ((if x < y then y else x).toNat : Int) := by
  apply mod_of_toNat
  split
  case isTrue h => exact Nat.max_eq_right (BitVec.lt_def.mp h).le
  case isFalse h => exact Nat.max_eq_left (Nat.le_of_not_lt (mt BitVec.lt_def.mpr h))

/-- A condition as a number is its flag. -/
theorem flag_mod (hn : n = 32 ∨ n = 64) {p : Prop} [Decidable p] {b : Bool} (h : p ↔ b = true) :
    (if p then 1 else 0 : Int) % (2 ^ n : Nat) = ((flag n b).toNat : Int) := by
  rw [if_congr h rfl rfl, flag]
  rcases hn with rfl | rfl <;> cases b <;> rfl

theorem rotr_eq (hn : 0 < n) (x : BitVec n) (k : Nat) : rotr n x.toNat (k % n) = (x.rotateRight (k % n)).toNat := by
  have hk : k % n < n := Nat.mod_lt _ hn
  obtain ⟨j, hj⟩ : ∃ j, n = k % n + j := ⟨n - k % n, by omega⟩
  have hx : x.toNat / 2 ^ (k % n) < 2 ^ (n - k % n) := by
    rw [Nat.div_lt_iff_lt_mul (by positivity), ← Nat.pow_add, Nat.sub_add_cancel hk.le]
    exact x.isLt
  have hlow : x.toNat * 2 ^ (n - k % n) % 2 ^ n = x.toNat % 2 ^ (k % n) * 2 ^ (n - k % n) := by
    rw [← Nat.mul_mod_mul_right, ← Nat.pow_add, Nat.add_sub_cancel' hk.le]
  rw [BitVec.toNat_rotateRight, Nat.mod_mod, Nat.shiftRight_eq_div_pow, Nat.shiftLeft_eq, hlow, rotr, Nat.or_comm,
    Nat.mul_comm _ (2 ^ (n - k % n)), Nat.add_comm]
  exact Nat.two_pow_add_eq_or_of_lt hx _

theorem clzN_eq (hn : n = 32 ∨ n = 64) (x : BitVec n) : clzN n x.toNat = x.clz.toNat := by
  unfold clzN
  split
  case isTrue h =>
    obtain rfl : x = 0 := BitVec.eq_of_toNat_eq h
    rcases hn with rfl | rfl <;> decide
  case isFalse h =>
    have hlt := BitVec.toNat_lt_two_pow_sub_clz (x := x)
    have hle := BitVec.two_pow_sub_clz_le_toNat_of_ne_zero (x := x) (by omega) (mt (congrArg BitVec.toNat) h)
    have hc : x.clz.toNat < n := by
      by_contra hge
      rw [Nat.sub_eq_zero_of_le (by omega)] at hlt
      omega
    rw [(Nat.log2_eq_iff h).mpr ⟨hle, by rwa [show n - 1 - x.clz.toNat + 1 = n - x.clz.toNat by omega]⟩]
    omega

/-- The lowest number below n that meets a condition. -/
theorem firstIn_zero {p : Nat → Bool} : firstIn 0 n p = (List.range n).find? p := by
  simp [firstIn, span]

theorem ctzN_eq (hn : n = 32 ∨ n = 64) (x : BitVec n) : ctzN n x.toNat = x.ctz.toNat := by
  unfold ctzN
  rw [firstIn_zero]
  by_cases h : x = 0
  · have hnone : (List.range n).find? (fun i => x.toNat.testBit i) = none := by simp [h]
    rw [hnone, BitVec.ctz_eq_reverse_clz, BitVec.reverse_eq_zero_iff.mpr h]
    rcases hn with rfl | rfl <;> decide
  · have hone := BitVec.getLsbD_true_ctz_of_ne_zero h
    have hfirst : (List.range n).find? (fun i => x.toNat.testBit i) = some x.ctz.toNat := by
      rw [List.find?_range_eq_some]
      exact ⟨hone, List.mem_range.mpr (BitVec.lt_of_getLsbD hone),
        fun j hj => by simpa [BitVec.testBit_toNat] using BitVec.getLsbD_false_of_lt_ctz hj⟩
    rw [hfirst]
    rfl

theorem popN_eq (x : BitVec n) : popN n x.toNat = x.cpop.toNat := by
  have h (k : Nat) : popN k x.toNat = x.cpopNatRec k 0 := by
    induction k with
    | zero => rfl
    | succ k ih =>
      rw [BitVec.cpopNatRec_succ, BitVec.cpopNatRec_eq, ← ih, popN, popN, List.range_succ, List.filter_append,
        List.length_append]
      congr 1
      cases hb : x.getLsbD k <;> simp [BitVec.testBit_toNat, hb]
  rw [h, BitVec.toNat_cpop]

/-- The bits of a number reversed, as the bit vector of its low bits reversed. -/
theorem revBits_eq (n v : Nat) : revBits n v = (BitVec.ofNat n v).reverse.toNat := by
  induction n with
  | zero => exact (BitVec.toNat_of_zero_length rfl _).symm
  | succ n ih =>
    have hmsb : (BitVec.ofNat (n + 1) v).msb.toNat = v / 2 ^ n % 2 := by
      rw [BitVec.msb_eq_getLsbD_last, BitVec.getLsbD_ofNat, Nat.add_sub_cancel, decide_eq_true n.lt_succ_self,
        Bool.true_and, Nat.toNat_testBit]
    rw [BitVec.reverse, BitVec.toNat_concat, BitVec.truncate_eq_setWidth, BitVec.setWidth_ofNat_of_le (by omega), ← ih,
      hmsb, revBits, List.range_succ, List.foldl_append, Nat.mul_comm]
    rfl

end

/-! The two shapes of the integer members. -/

variable {i : Instr} {s : State} {d a b : Reg} {w : Bool}

/-- A `produce` gives its value. -/
theorem produce_gives {v : State → Word} (he : exec i s = produce i d s v) (hp : (isPoint i && reclaimable s) = false) :
    Gives i s d (v s) :=
  fun h => he.trans (produce_runs h hp)

/-- An ALU member whose number agrees with f modulo 2^n gives f. -/
theorem alu_gives {r : Nat → Nat → Nat → Int} {f : (n : Nat) → BitVec n → BitVec n → BitVec n}
    (he : exec i s = alu i d a b w s r) (hp : (isPoint i && reclaimable s) = false)
    (hf : ∀ n, n = 32 ∨ n = 64 → ∀ x y : BitVec n, r n x.toNat y.toNat % (2 ^ n : Nat) = ((f n x y).toNat : Int)) :
    Alu i s d a b w f := by
  rw [Alu, ← aluWord_eq w f _ _ r hf]
  exact produce_gives he hp

/-- The same for one operand, alone or with a constant (R78). -/
theorem alu1_gives {r : Nat → Nat → Int} {f : (n : Nat) → BitVec n → BitVec n → BitVec n}
    (he : exec i s = alu1 i d a w s r) (hp : (isPoint i && reclaimable s) = false)
    (hf : ∀ n, n = 32 ∨ n = 64 → ∀ x y : BitVec n, r n x.toNat % (2 ^ n : Nat) = ((f n x y).toNat : Int)) :
    Alu i s d a a w f :=
  alu_gives (r := fun n x _ => r n x) he hp hf

theorem shiftConst_gives {r : Nat → Nat → Int} {f : (n : Nat) → BitVec n → BitVec n → BitVec n}
    (he : exec i s = shiftConst i d a w s r) (hp : (isPoint i && reclaimable s) = false)
    (hf : ∀ n, n = 32 ∨ n = 64 → ∀ x y : BitVec n, r n x.toNat % (2 ^ n : Nat) = ((f n x y).toNat : Int)) :
    Alu i s d a a w f :=
  alu1_gives he hp hf

/-- Settles O1: each member's number agrees with its operation modulo 2^n. -/
theorem aluResults : Obligations.AluResults := by
  intro s d a b w
  refine ⟨alu_gives (exec_add ..) rfl fun _ _ => add_mod, alu_gives (exec_sub ..) rfl fun _ _ => sub_mod,
    alu_gives (exec_and ..) rfl fun _ _ _ _ => mod_of_toNat (BitVec.toNat_and ..).symm,
    alu_gives (exec_or ..) rfl fun _ _ _ _ => mod_of_toNat (BitVec.toNat_or ..).symm,
    alu_gives (exec_xor ..) rfl fun _ _ _ _ => mod_of_toNat (BitVec.toNat_xor ..).symm,
    alu_gives (exec_andn ..) rfl fun _ _ _ _ => mod_of_toNat (by rw [not_sub, BitVec.toNat_and]),
    alu_gives (exec_orn ..) rfl fun _ _ _ _ => mod_of_toNat (by rw [not_sub, BitVec.toNat_or]),
    alu_gives (exec_shl ..) rfl fun _ _ x _ => shl_mod x _,
    alu_gives (exec_shr ..) rfl fun _ _ x _ => mod_of_toNat (shr_eq x _),
    alu_gives (exec_sha ..) rfl fun _ hn x _ => sha_mod hn x _, alu_gives (exec_mul ..) rfl fun _ _ => mul_mod,
    alu_gives (exec_mulh ..) rfl fun _ => mulh_mod, alu_gives (exec_mulhn ..) rfl fun _ _ => mulhn_mod,
    alu_gives (exec_div ..) rfl fun _ => div_mod, alu_gives (exec_divn ..) rfl fun _ => divn_mod,
    alu_gives (exec_rem ..) rfl fun _ => rem_mod, alu_gives (exec_remn ..) rfl fun _ _ => remn_mod,
    alu_gives (exec_min ..) rfl fun _ => min_mod, alu_gives (exec_max ..) rfl fun _ => max_mod,
    alu_gives (exec_minn ..) rfl fun _ _ => minn_mod, alu_gives (exec_maxn ..) rfl fun _ _ => maxn_mod,
    alu_gives (exec_slt ..) rfl fun _ hn x y => flag_mod hn (by simp [sgn_toNat hn, BitVec.slt]),
    alu_gives (exec_sltn ..) rfl fun _ hn x y => flag_mod hn (by simp [BitVec.ult]),
    alu_gives (exec_ror ..) rfl fun _ hn x y => mod_of_toNat (rotr_eq (by omega) x _),
    alu1_gives (exec_clz ..) rfl fun _ hn x _ => mod_of_toNat (clzN_eq hn x),
    alu1_gives (exec_ctz ..) rfl fun _ hn x _ => mod_of_toNat (ctzN_eq hn x),
    alu1_gives (exec_popc ..) rfl fun _ _ x _ => mod_of_toNat (popN_eq x),
    alu1_gives (exec_brev ..) rfl fun n _ x _ =>
      mod_of_toNat (by rw [revBits_eq, BitVec.ofNat_toNat, BitVec.setWidth_eq])⟩

/-- A condition as a word is its flag. -/
theorem ite_eq_flag {p : Prop} [Decidable p] {c : Bool} (h : p ↔ c = true) : (if p then 1 else 0 : Word) = flag 64 c :=
  if_congr h rfl rfl

/-- A displacement in words is four times it in bytes (R79, R90). -/
theorem shiftLeft_two (x : Word) : x <<< 2 = x * 4 := by
  bv_omega

/-- Settles O2: each is a `produce`; a shift by a constant is the ALU member's number. -/
theorem immediateResults : Obligations.ImmediateResults := by
  intro s d a b c w imm big k sh
  have hslti : (if (reg s a).toInt < imm.toInt then 1 else 0) = flag 64 ((reg s a).slt (imm.signExtend 64)) :=
    ite_eq_flag (by rw [BitVec.slt, BitVec.toInt_signExtend_of_le (by decide), decide_eq_true_iff])
  have hsltni : (if reg s a < imm.signExtend 64 then 1 else 0) = flag 64 ((reg s a).ult (imm.signExtend 64)) :=
    ite_eq_flag (by rw [BitVec.ult_iff_lt])
  have hsel : (if reg s c != 0 then reg s a else reg s b) = if reg s c ≠ 0 then reg s a else reg s b :=
    if_congr bne_iff_ne rfl rfl
  refine ⟨produce_gives (exec_addi ..) rfl, produce_gives (exec_andi ..) rfl, produce_gives (exec_ori ..) rfl,
    produce_gives (exec_xori ..) rfl, hslti ▸ produce_gives (exec_slti ..) rfl,
    hsltni ▸ produce_gives (exec_sltni ..) rfl,
    shiftConst_gives (exec_shli ..) rfl fun _ _ x _ => shl_mod x _,
    shiftConst_gives (exec_shri ..) rfl fun _ _ x _ => mod_of_toNat (shr_eq x _),
    shiftConst_gives (exec_shai ..) rfl fun _ hn x _ => sha_mod hn x _,
    shiftConst_gives (exec_rori ..) rfl fun _ hn x _ => mod_of_toNat (rotr_eq (by omega) x _),
    produce_gives (exec_liw ..) rfl, produce_gives (exec_lis ..) rfl, fun h => ?_,
    hsel ▸ produce_gives (exec_sel ..) rfl, produce_gives (exec_lea ..) rfl⟩
  rw [← pcOf_front h.front, ← shiftLeft_two]
  exact produce_gives (exec_addpc ..) rfl h

end Sys2Proof.Machine
end

section
/-!
PROOF. The results of the scalar floating-point members (O3, O4, O5): each is a `fop`.
-/

namespace Sys2Proof.Machine

open Sys2Proof.Claims

variable {i : Instr} {s : State} {d a b c : Reg} {fmt : Fmt} {rm : RM}

/-- A scalar floating-point instruction gives its value and its exceptions. -/
theorem fop_gives {f : State → Nat × Flags} {r : Nat × Flags} (he : exec i s = fop i d s f)
    (hp : (isPoint i && reclaimable s) = false) (hr : f s = r) : GivesFp i s d r :=
  fun h => he.trans (hr ▸ fop_runs h hp)

theorem onceRounded_eq (fmt : Fmt) (dir : Dir) (x : FpVal × Flags) : rounded fmt dir x = onceRounded fmt dir x := rfl

/-- A two-operand member that rounds does so once. -/
theorem fop2_gives {f : Dir → FpVal → FpVal → FpVal × Flags} {x : FpVal × Flags}
    (he : exec i s = fop2 i d a b fmt rm s f) (hp : (isPoint i && reclaimable s) = false)
    (hx : f (dirOf rm s.cpu.live.fst) (fArg fmt (reg s a)) (fArg fmt (reg s b)) = x) :
    GivesFp i s d (onceRounded fmt (dirOf rm s.cpu.live.fst) x) :=
  fop_gives he hp (hx ▸ onceRounded_eq ..)

theorem fop1_gives {f : Dir → Word → Nat × Flags} {r : Nat × Flags} (he : exec i s = fop1 i d a rm s f)
    (hp : (isPoint i && reclaimable s) = false) (hr : f (dirOf rm s.cpu.live.fst) (reg s a) = r) : GivesFp i s d r :=
  fop_gives he hp hr

theorem fopCmp_gives {f : FpVal → FpVal → Nat × Flags} {r : Nat × Flags} (he : exec i s = fopCmp i d a b fmt s f)
    (hp : (isPoint i && reclaimable s) = false) (hr : f (fArg fmt (reg s a)) (fArg fmt (reg s b)) = r) :
    GivesFp i s d r :=
  fop_gives he hp hr

theorem fmaOp_gives {neg : Bool} (he : exec i s = fmaOp i d a b c fmt rm neg s)
    (hp : (isPoint i && reclaimable s) = false) :
    GivesFp i s d (onceRounded fmt (dirOf rm s.cpu.live.fst)
      (fpFma (dirOf rm s.cpu.live.fst) neg false (fArg fmt (reg s a)) (fArg fmt (reg s b)) (fArg fmt (reg s c)))) :=
  fop_gives he hp (onceRounded_eq ..)

/-- Settles O3: a member of two operands rounds by `fop2`, FSQRT by `fop1`, a fused one by `fmaOp`. -/
theorem fpArithmeticResults : Obligations.FpArithmeticResults := by
  intro s d a b c fmt rm
  exact ⟨fop2_gives (exec_fadd ..) rfl rfl, fop2_gives (exec_fsub ..) rfl rfl, fop2_gives (exec_fmul ..) rfl rfl,
    fop2_gives (exec_fdiv ..) rfl rfl, fop1_gives (exec_fsqrt ..) rfl (onceRounded_eq ..), fmaOp_gives (exec_fma ..) rfl,
    fmaOp_gives (exec_fnma ..) rfl⟩

/-- Settles O4: a compare leaves its condition as a number. -/
theorem fpCompareResults : Obligations.FpCompareResults := by
  intro s d a b fmt
  exact ⟨fopCmp_gives (exec_fmin ..) rfl (onceRounded_eq ..), fopCmp_gives (exec_fmax ..) rfl (onceRounded_eq ..),
    fopCmp_gives (exec_fcmpeq ..) rfl (Prod.ext (Bool.cond_eq_ite ..) rfl),
    fopCmp_gives (exec_fcmplt ..) rfl (Prod.ext (Bool.cond_eq_ite ..) rfl),
    fopCmp_gives (exec_fcmple ..) rfl (Prod.ext (Bool.cond_eq_ite ..) rfl),
    fopCmp_gives (exec_fcmpun ..) rfl (Prod.ext (Bool.cond_eq_ite ..) rfl), fop1_gives (exec_fclass ..) rfl rfl⟩

/-- Settles O5: the conversions are `fop1`, with the range of their integer or one rounding. -/
theorem fpConversionResults : Obligations.FpConversionResults := by
  intro s d a src fmt rm
  exact ⟨fop1_gives (exec_fcvti ..) rfl rfl, fop1_gives (exec_fcvtn ..) rfl rfl,
    fop1_gives (exec_fcvtfi ..) rfl (onceRounded_eq ..), fop1_gives (exec_fcvtfn ..) rfl (onceRounded_eq ..),
    fop1_gives (exec_fcvtf ..) rfl (onceRounded_eq ..)⟩

end Sys2Proof.Machine
end

section
/-!
PROOF. Jumps, links and branches (O6).
-/

namespace Sys2Proof.Machine

open Sys2Proof.Claims

variable {i : Instr} {s : State} {a b : Reg}

theorem jump_eq (s : State) (t : Word) : jump s t = goTo s t := rfl

theorem target_front {n : Nat} (h : s.cpu.lane = none) (disp : BitVec n) : target s disp = away s disp := by
  rw [target, away, pcOf_front h, shiftLeft_two]

/-- A branch goes to its target when its condition on the two operands holds. -/
theorem branch_branches {off : BitVec 16} {c : Word → Word → Bool} {p : Bool} (he : exec i s = branch i a b off s c)
    (hp : (isPoint i && reclaimable s) = false) (hc : c (reg s a) (reg s b) = p) : Branches i s off p := by
  intro h
  rw [he, branch, issue_plain h rfl hp, target_front h.front, advance_eq h.front, ← hc]
  rfl

theorem decide_le_toInt (x y : Word) : decide (y.toInt ≤ x.toInt) = !x.slt y := by
  simp [BitVec.slt, ← decide_not]

theorem decide_le (x y : Word) : decide (y ≤ x) = !x.ult y := by
  simp [BitVec.ult, BitVec.le_def, ← decide_not]

/-- Settles O6: each is issued plain, and its body is the jump. -/
theorem controlTransfers : Obligations.ControlTransfers := by
  intro s d a b imm off
  refine ⟨fun h => ?_, fun h => ?_, fun h ht => ?_, fun h ht => ?_,
    branch_branches (exec_beq ..) rfl rfl, branch_branches (exec_bne ..) rfl rfl,
    branch_branches (exec_blt ..) rfl rfl, branch_branches (exec_bge ..) rfl (decide_le_toInt ..),
    branch_branches (exec_bltn ..) rfl rfl, branch_branches (exec_bgen ..) rfl (decide_le ..)⟩
  · rw [exec_j, execJ, issue_plain h rfl rfl, target_front h.front, jump_eq]
  · rw [exec_jl, execJl, issue_plain h rfl rfl, target_front h.front, pcOf_front h.front, jump_eq, writeReg_eq]
  · rw [exec_jrl, execJrl, issue_plain h rfl rfl, pcOf_front h.front]
    simp [reg_eq, ht, jump_eq, writeReg_eq]
  · rw [exec_jrl, execJrl, issue_plain h rfl rfl]
    simp [reg_eq, ht, trap]

end Sys2Proof.Machine
end

section
/-!
PROOF. Scalar loads and stores that pass their checks (O7), and the scalar and atomic accesses that are refused (O8).
-/

namespace Sys2Proof.Machine

open Sys2Proof.Claims

variable {i : Instr} {s t u : State} {k : Kind} {va n : Nat}

/-! An access that passes its checks, and what the checks leave of the core. -/

theorem checkAccess_reaches {p : Place} (h : Reaches s k va n p t) : checkAccess s i k va n = .ok p t := by
  obtain ⟨haligned, hunwatched, hresolved⟩ := h
  unfold checkAccess
  rw [if_neg (by simpa using haligned), hunwatched, hresolved]

theorem loadN_loads {v : Nat} (h : Loads s va n v t) : loadN s i va n = .ok v t := by
  obtain ⟨p, u, bs, hreach, hload, rfl⟩ := h
  unfold loadN
  rw [checkAccess_reaches hreach, Acc.bind, hload]

/-- A translation leaves the running core as it was, but for its micro-TLB and its counters (R199, R419). -/
def Translates (s u : State) : Prop :=
  ∃ tlb counters, u.cpu = { s.cpu with tlb := tlb, counters := counters }

theorem Translates.refl (s : State) : Translates s s := ⟨s.cpu.tlb, s.cpu.counters, rfl⟩

theorem Translates.of_cpu (h : Translates s t) (hu : u.cpu = t.cpu) : Translates s u := by
  obtain ⟨tlb, counters, ht⟩ := h
  exact ⟨tlb, counters, hu.trans ht⟩

theorem Translates.fill {f : Core → List TlbEntry} (h : Translates s t) :
    Translates s (modCore t s.cpu.id fun c => { c with tlb := f c }) := by
  obtain ⟨tlb, counters, ht⟩ := h
  have hid : t.cpu.id = s.cpu.id := by rw [ht]
  refine ⟨f t.cpu, counters, ?_⟩
  simp only [modCore, setCore, coreAt, hid, if_true]
  rw [ht]

theorem translate_translates (s : State) (cl : Nat) (tenant : Fin 16) (va : Nat) :
    Translates s (translate s (some s.cpu.id) cl tenant va).2 := by
  have hmiss : Translates s (bump s 9) := ⟨s.cpu.tlb, _, rfl⟩
  unfold translate
  simp only [Option.isSome_some, if_true]
  split
  · exact .refl s
  split
  · exact hmiss.fill
  · have hwalk := hmiss.of_cpu (walk_cpu tenant va walkLevels (bump s 9) ((bump s 9).tenants.get tenant).root.toNat)
    split
    next hu => rw [hu] at hwalk; exact hwalk.fill.of_cpu rfl
    next hu => rw [hu] at hwalk; exact hwalk

theorem resolveLive_translates (s : State) (k : Kind) (va : Nat) : Translates s (resolveLive s k va).2 := by
  have ht := translate_translates s (clusterOf s.cpu.id) s.cpu.live.tenant va
  unfold resolveLive resolve resolveWith
  dsimp only [tlbFind, List.find?_nil]
  split_ifs
  any_goals exact .refl s
  split
  next hu => exact hu ▸ ht
  next hu => exact hu ▸ ht

theorem lane_of_reaches {p : Place} (h : Reaches s k va n p t) : t.cpu.lane = s.cpu.lane := by
  obtain ⟨tlb, counters, ht⟩ := resolveLive_translates s k va
  rw [h.resolved] at ht
  rw [ht]

/-! Loads and stores (R93 to R97). -/

variable {d : Reg} {sz : Size}

theorem loadsTo_of_loadTo {ea : State → Nat} (he : exec i s = loadTo i d sz s ea)
    (hp : (isPoint i && reclaimable s) = false) : LoadsTo i s d sz (ea s) := by
  intro h
  rw [he, loadTo, issue_runs h hp]
  refine ⟨fun hd => by rw [if_pos hd], fun hd v t hload => ?_⟩
  rw [if_neg (by simp [hd]), loadN_loads hload, Acc.done]

theorem issueStore_held {p : Place} {bs : List Byte} (hl : t.cpu.lane = none) (hm : t.cpu.live.viq.any usesMemory = true) :
    issueStore t va p bs =
      modLive t fun c => { c with viq := holdStore ⟨p, bs, tlbFind t.cpu.tlb t.cpu.live.tenant va⟩ c.viq } := by
  unfold issueStore
  rw [if_pos (by simp [hl, hm])]
  rfl

theorem issueStore_at_once {p : Place} {bs : List Byte} (hm : t.cpu.live.viq.any usesMemory = false) :
    issueStore t va p bs = storeAt t false p bs := by
  unfold issueStore
  rw [if_neg (by simp [hm])]

theorem storesFrom_of_storeFrom {ea : State → Nat} (he : exec i s = storeFrom i d sz s ea)
    (hp : (isPoint i && reclaimable s) = false) : StoresFrom i s d sz (ea s) := by
  intro h p t hreach
  rw [he, storeFrom, issue_plain h rfl hp]
  dsimp only
  rw [checkAccess_reaches hreach, Acc.done]
  exact ⟨fun hm => by rw [issueStore_at_once hm, reg_eq],
    fun hm => by rw [issueStore_held ((lane_of_reaches hreach).trans h.front) hm, reg_eq]⟩

/-- Settles O7: each form is a `loadTo` or a `storeFrom` at its address. -/
theorem scalarAccess : Obligations.ScalarAccess := by
  intro s d a b sz imm sh
  exact ⟨loadsTo_of_loadTo (exec_ld ..) rfl, storesFrom_of_storeFrom (exec_st ..) rfl,
    loadsTo_of_loadTo (exec_xld ..) rfl, storesFrom_of_storeFrom (exec_xst ..) rfl⟩

/-! Accesses that are refused (R95, R198, R413). -/

theorem checkAccess_misaligned (h : va % n ≠ 0) :
    checkAccess s i k va n = .stop (takeTrap s 0x03 (BitVec.ofNat 64 va)) := by
  unfold checkAccess
  rw [if_pos (by simpa using h)]
  rfl

theorem checkAccess_watched (h : va % n = 0) {w : Fin 4} (hw : watchHit s va n (kindRd k) (kindWr k) = some w) :
    checkAccess s i k va n = .stop (debugStop s 0x0E (BitVec.ofNat 64 va) w.val false true) := by
  unfold checkAccess
  rw [if_neg (by simpa using h), hw]

theorem checkAccess_faults (h : va % n = 0) (hw : watchHit s va n (kindRd k) (kindWr k) = none) {cause : Nat}
    (hr : (resolveLive s k va = (.xlate, t) ∧ cause = 4) ∨ (resolveLive s k va = (.prot, t) ∧ cause = 5)) :
    checkAccess s i k va n = .stop (memFault t i [] cause (BitVec.ofNat 64 va) k 0) := by
  unfold checkAccess
  rw [if_neg (by simpa using h), hw]
  obtain ⟨hr, rfl⟩ | ⟨hr, rfl⟩ := hr <;> rw [hr]

/-- An instruction whose body ends where its one access is stopped. -/
theorem stops_of_check {a : Attr} {body : State → State} (he : exec i s = issue a i s body)
    (hp : (isPoint i && reclaimable s) = false) (hb : ∀ t, checkAccess s i k va n = .stop t → body s = t) :
    Stops a i s k va n := by
  intro h hd
  rw [he, issue_runs h hp, if_neg (by simp [hd])]
  exact ⟨fun ha => congrArg _ (hb _ (checkAccess_misaligned ha)),
    fun ha w hw => congrArg _ (hb _ (checkAccess_watched ha hw)),
    fun ha hw t cause hr => ⟨_, congrArg _ (hb _ (checkAccess_faults ha hw hr)), faultLeaves_memFault ..⟩⟩

theorem loadTo_stops {ea : State → Nat} (he : exec i s = loadTo i d sz s ea)
    (hp : (isPoint i && reclaimable s) = false) : Stops scalarAttr i s .read (ea s) (sizeBytes sz) :=
  stops_of_check he hp fun t ht => by rw [loadN, ht]; rfl

theorem storeFrom_stops {ea : State → Nat} (he : exec i s = storeFrom i d sz s ea)
    (hp : (isPoint i && reclaimable s) = false) : Stops plainAttr i s .write (ea s) (sizeBytes sz) :=
  stops_of_check he hp fun t ht => by dsimp only; rw [ht]; rfl

theorem atomicAccess_stopped {rel acq : Bool} {f : Nat → Option Nat} {fin : Nat → State → State}
    (h : checkAccess s i k va n = .stop t) : atomicAccess s i k va n rel acq f fin = t := by
  unfold atomicAccess
  rw [h]
  rfl

theorem amo_stops {a b : Reg} {rel acq x : Bool} {new : Nat → Nat → Nat → Option Nat}
    (he : exec i s = amo i d a b rel acq x s new) (hp : (isPoint i && reclaimable s) = false) :
    Stops (releaseAttr rel) i s .rmw (reg s a).toNat (amoBytes x) :=
  stops_of_check he hp fun _ => atomicAccess_stopped

theorem counterRead_stops {a : Reg} {v : Nat → State → Word} (he : exec i s = counterRead i d a s v)
    (hp : (isPoint i && reclaimable s) = false) : Stops scalarAttr i s .read (reg s a).toNat 8 :=
  stops_of_check he hp fun _ => atomicAccess_stopped

/-- A save that finds room leaves the core idle, with the record among its own (R259). -/
theorem saveRec_ok {r : Rec} {v : State} (h : saveRec s r = .ok v) : v.cpu.who = .idle ∧ r ∈ v.cpu.recs := by
  unfold saveRec at h
  split at h
  next =>
    obtain rfl := Saved.ok.inj h
    exact ⟨rfl, List.mem_append_right _ (List.mem_singleton_self r)⟩
  all_goals exact nomatch h

/-- Settles O8: each member's body ends where its access is stopped. -/
theorem scalarAndAtomicFaults : Obligations.ScalarAndAtomicFaults := by
  refine ⟨fun s d a b sz imm sh rel acq x => ?_, fun s v r => saveRec_ok⟩
  simp only [List.forall_mem_cons, List.not_mem_nil, false_implies, implies_true, and_true]
  exact ⟨loadTo_stops (exec_ld ..) rfl, storeFrom_stops (exec_st ..) rfl, loadTo_stops (exec_xld ..) rfl,
    storeFrom_stops (exec_xst ..) rfl,
    ⟨amo_stops (exec_amoSwap ..) rfl, amo_stops (exec_amoAdd ..) rfl, amo_stops (exec_amoAnd ..) rfl,
      amo_stops (exec_amoOr ..) rfl, amo_stops (exec_amoXor ..) rfl, amo_stops (exec_amoMin ..) rfl,
      amo_stops (exec_amoMax ..) rfl, amo_stops (exec_amoMinn ..) rfl, amo_stops (exec_amoMaxn ..) rfl,
      amo_stops (exec_amoCas ..) rfl⟩,
    stops_of_check (exec_cinit ..) rfl fun _ => atomicAccess_stopped,
    stops_of_check (exec_cadd ..) rfl fun _ => atomicAccess_stopped,
    counterRead_stops (exec_cread ..) rfl, counterRead_stops (exec_ctest ..) rfl⟩

end Sys2Proof.Machine
end

section
/-!
PROOF. The moves to and from special registers (O19).
-/

namespace Sys2Proof.Machine

open Sys2Proof.Claims

/-- Settles O19: at a handler's own register the context check passes, and the body is the read or the write. -/
theorem specialRegisterMoves : Obligations.SpecialRegisterMoves := by
  intro s d a r hr
  have hpass : (handlerOnly r && !inHandler s) = false := by
    cases hr with
    | inl h => rw [h, Bool.false_and]
    | inr h => rw [h, Bool.not_true, Bool.and_false]
  refine ⟨fun h => ?_, fun h => ?_⟩
  · rw [exec_mfs, execMfs, issue_plain h rfl rfl, hpass, if_neg Bool.false_ne_true, writeReg_eq]
  · rw [exec_mts, execMts, issue_plain h rfl rfl, hpass, if_neg Bool.false_ne_true, reg_eq]

end Sys2Proof.Machine
end

section
/-!
PROOF. The permutations (O40): each is a `permute` with its index function, or writes its elements past its checks.
-/

namespace Sys2Proof.Machine

open Sys2Proof.Claims

variable {i : Instr} {s : State} {form : VForm} {d a b : Reg} {k : KReg} {t tb : Ty}

/-- A member with one tagged source, past its checks. -/
theorem taggedSource_fits {ok : Ty → Bool} {widths : Ty → List Nat} {f : Ty → State → State}
    (ha : (vreg s a).tag = some t) (hok : ok t = true) (hf : Fits s (widths t)) :
    taggedSource s a ok widths f = f t s := by
  rw [taggedSource_some ha, hok, lanes_fits hf]

/-- A `permute` has the index function of its member. -/
theorem permutes_of_permute {caps : List Reg} {f : State → Ty → Nat → (Nat → Nat) → Nat → Nat}
    {g : Ty → (Nat → Nat) → Nat → Nat} (he : exec i s = permute i caps d a k s f)
    (hg : ∀ t x j, f s t s.cpu.live.vec.vl x j = g t x j) : Permutes i s d a k g := by
  intro t ha hf
  refine begun_of_vector he rfl ((taggedSource_fits (ok := fun _ => true) ha rfl hf).trans ?_)
  simp only [← hg]
  rfl

theorem vrgath_begun (ha : (vreg s a).tag = some t) (hb : (vreg s b).tag = some tb) (hi : tyInt tb = true)
    (hf : Fits s [tyBits t, tyBits tb]) :
    Begun (vecAttr .copyV) true (.vrgath d a b k) s (writeElems s d t (active s k) fun j =>
      (if slot (vreg s b).img j (tyBits tb) < s.cpu.live.vec.vl
        then slot (vreg s a).img (slot (vreg s b).img j (tyBits tb)) (tyBits t) else 0, 0)) := by
  refine begun_of_vector (exec_vrgath ..) rfl ?_
  dsimp only
  rw [ha, hb]
  dsimp only
  rw [hi, lanes_fits hf]
  rfl

theorem vcompr_begun (ha : (vreg s a).tag = some t) (hf : Fits s [tyBits t]) :
    Begun (vecAttr .copyV) true (.vcompr d a k) s (writeElems s d t (fun _ => true) fun j =>
      (((activeIdx s k).map fun n => slot (vreg s a).img n (tyBits t)).getD j 0, 0)) :=
  begun_of_vector (exec_vcompr ..) rfl (taggedSource_fits (ok := fun _ => true) ha rfl hf)

/-- A member of two operands, past its checks. -/
theorem withPair_fits {ok : Ty → Bool} {more : Ty → List Nat} {f : Pair → State → State} {p : Pair}
    (hp : pairOf s form a b ok = some p) (hf : Fits s (more p.ty ++ readWidths form p.ta p.tb)) :
    withPair s form a b ok more f = f p s := by
  rw [withPair, hp]
  exact lanes_fits hf

/-- An `indexed` member writes its number, truncated to the element. -/
theorem indexed_begun {f : State → Nat → Nat} {g : Nat → Nat} (he : exec i s = indexed i d t k s f)
    (hg : f s = g) (hi : tyInt t = true) (hf : Fits s [tyBits t]) :
    Begun (vecAttr .copyV) true i s (writeElems s d t (active s k) fun j => (g j % 2 ^ tyBits t, 0)) := by
  subst hg
  refine begun_of_vector he rfl ?_
  rw [hi]
  exact lanes_fits hf

/-- Settles O40: the index functions are the model's own, spelled out. -/
theorem vectorPermutations : Obligations.VectorPermutations := by
  intro s form d a b m k ti
  exact ⟨permutes_of_permute (exec_vslup ..) fun _ _ _ => rfl, permutes_of_permute (exec_vsldn ..) fun _ _ _ => rfl,
    permutes_of_permute (exec_vexpnd ..) fun _ _ _ => rfl, permutes_of_permute (exec_vbcast ..) fun _ _ _ => rfl,
    permutes_of_permute (exec_vrev ..) fun _ _ _ => rfl, permutes_of_permute (exec_vzip ..) fun _ _ _ => rfl,
    permutes_of_permute (exec_vunzip ..) fun _ _ _ => rfl, fun t tb => vrgath_begun, fun t => vcompr_begun,
    fun p hp hf => begun_of_vector (exec_vmerge ..) rfl (withPair_fits hp hf),
    fun hi hf => ⟨indexed_begun (exec_viota ..) rfl hi hf, indexed_begun (exec_vidx ..) rfl hi hf⟩⟩

end Sys2Proof.Machine
end

section
/-!
PROOF. The order of floating-point values with -0 below +0, and the extreme of a list of them (R85, R172).
-/

namespace Sys2Proof.Machine

open Sys2Proof.Claims

/-! A value that is no NaN stands at a place of one linear order (R172). -/

/-- A value that a format can hold: its fraction has a denominator. -/
def FpVal.proper : FpVal → Prop
  | .fin _ _ den => 0 < den
  | _ => True

theorem fpVal_proper (f : FloatFmt) (v : Nat) : (fpVal f v).proper := by
  have hfin (neg : Bool) (mag : Nat) : (fpVal.finite f neg mag).proper := by
    unfold fpVal.finite
    dsimp only
    split <;> exact Nat.two_pow_pos _
  unfold fpVal
  dsimp only
  split
  · split_ifs
    · trivial
    · trivial
    · exact hfin ..
  · split_ifs
    · trivial
    · exact hfin ..

theorem tyVal_proper (t : Ty) (v : Nat) : (tyVal t v).proper := by
  unfold tyVal
  split
  · exact fpVal_proper ..
  split_ifs
  · unfold e8m0Val
    split_ifs
    · trivial
    · exact Nat.two_pow_pos 127
  · trivial

/-- The number that a sign and a fraction stand for. -/
def signedRatio (neg : Bool) (num den : Nat) : ℚ := (if neg then -(num : ℚ) else num) / den

/-- Where a value stands: the infinities outside, then the number, then the sign. -/
def place : FpVal → ℤ ×ₗ ℚ ×ₗ Bool
  | .nan _ => toLex (0, toLex (0, false))
  | .inf neg => toLex (if neg then -1 else 1, toLex (0, false))
  | .fin neg num den => toLex (0, toLex (signedRatio neg num den, !neg))

variable {x y : FpVal}

theorem fpLt_fin {n₁ n₂ : Bool} {a₁ b₁ a₂ b₂ : Nat} (h₁ : 0 < b₁) (h₂ : 0 < b₂) :
    fpLt (.fin n₁ a₁ b₁) (.fin n₂ a₂ b₂) = true ↔ signedRatio n₁ a₁ b₁ < signedRatio n₂ a₂ b₂ := by
  have hb₁ : (0 : ℚ) < b₁ := by exact_mod_cast h₁
  have hb₂ : (0 : ℚ) < b₂ := by exact_mod_cast h₂
  have hcast (n : Bool) (a b : Nat) : (if n then -(a : ℚ) else a) * b =
      ((if n then -((a * b : Nat) : Int) else ((a * b : Nat) : Int) : Int) : ℚ) := by
    cases n <;> push_cast <;> simp
  rw [signedRatio, signedRatio, div_lt_div_iff₀ hb₁ hb₂, hcast, hcast, Int.cast_lt]
  exact decide_eq_true_iff

theorem fpEq_fin {n₁ n₂ : Bool} {a₁ b₁ a₂ b₂ : Nat} (h₁ : 0 < b₁) (h₂ : 0 < b₂) :
    fpEq (.fin n₁ a₁ b₁) (.fin n₂ a₂ b₂) = true ↔ signedRatio n₁ a₁ b₁ = signedRatio n₂ a₂ b₂ := by
  have hle {n m : Bool} {a b c d : Nat} (hb : 0 < b) (hd : 0 < d) :
      fpLt (.fin n a b) (.fin m c d) = false ↔ signedRatio m c d ≤ signedRatio n a b := by
    rw [← Bool.not_eq_true, fpLt_fin hb hd, not_lt]
  simp only [fpEq, FpVal.isNaN, Bool.not_false, Bool.true_and, Bool.and_eq_true, Bool.not_eq_true', hle h₁ h₂, hle h₂ h₁]
  exact ⟨fun h => le_antisymm h.2 h.1, fun h => ⟨h.ge, h.le⟩⟩

/-- The order of FMIN and FMAX is that of the places (R85). -/
theorem fpBelow_iff (hx : x.proper) (hy : y.proper) (nx : x.isNaN = false) (ny : y.isNaN = false) :
    fpBelow x y = true ↔ place x < place y := by
  match x, y, nx, ny with
  | .inf a, .inf b, _, _ => cases a <;> cases b <;> decide
  | .inf a, .fin _ _ _, _, _ => cases a <;> simp [fpBelow, fpEq, fpLt, fpNegative, place, Prod.Lex.toLex_lt_toLex]
  | .fin _ _ _, .inf b, _, _ => cases b <;> simp [fpBelow, fpEq, fpLt, fpNegative, place, Prod.Lex.toLex_lt_toLex]
  | .fin n₁ a₁ b₁, .fin n₂ a₂ b₂, _, _ =>
    simp only [fpBelow, Bool.or_eq_true, Bool.and_eq_true, fpLt_fin hx hy, fpEq_fin hx hy, fpNegative, place,
      Prod.Lex.toLex_lt_toLex]
    cases n₁ <;> cases n₂ <;> simp

/-- A number at or above zero is a zero where one at or below zero reaches it. -/
theorem signedRatio_le {a₁ b₁ a₂ b₂ : Nat} (h₁ : 0 < b₁) (h₂ : 0 < b₂) :
    signedRatio true a₂ b₂ < signedRatio false a₁ b₁ ∨ (a₁ = 0 ∧ a₂ = 0) := by
  have hlow : signedRatio true a₂ b₂ ≤ 0 := div_nonpos_of_nonpos_of_nonneg (by simp) b₂.cast_nonneg
  have hhigh : 0 ≤ signedRatio false a₁ b₁ := div_nonneg (by simp) b₁.cast_nonneg
  rcases hlow.lt_or_eq with h | h
  · exact .inl (h.trans_le hhigh)
  rcases hhigh.lt_or_eq with h' | h'
  · exact .inl (hlow.trans_lt h')
  · right
    simpa [signedRatio, h₁.ne', h₂.ne', eq_comm, and_comm] using And.intro h h'

/-- The order of the reductions is that of the places (R172). -/
theorem above_iff (hx : x.proper) (hy : y.proper) (nx : x.isNaN = false) (ny : y.isNaN = false) :
    above x y = true ↔ place y < place x := by
  rw [← fpBelow_iff hy hx ny nx]
  match x, y, nx, ny with
  | .inf a, .inf b, _, _ => cases a <;> cases b <;> decide
  | .inf a, .fin _ _ _, _, _ => simp [above, fpBelow, fpEq, fpLt, fpNegative]
  | .fin _ _ _, .inf b, _, _ => simp [above, fpBelow, fpEq, fpLt, fpNegative]
  | .fin true a₁ b₁, .fin n₂ a₂ b₂, _, _ => simp [above, fpBelow, fpNegative]
  | .fin false a₁ b₁, .fin false a₂ b₂, _, _ => simp [above, fpBelow, fpNegative]
  | .fin false a₁ b₁, .fin true a₂ b₂, _, _ =>
    rcases signedRatio_le (a₁ := a₁) (a₂ := a₂) hx hy with h | ⟨rfl, rfl⟩
    · simp [above, fpBelow, (fpLt_fin hy hx).mpr h]
    · simp [above, fpBelow, fpNegative, fpEq, fpLt, FpVal.isNaN]

/-! The extreme of a list of values (R172). -/

variable {greater : Bool} {xs : List FpVal}

/-- A value is not beyond another. -/
def Within (greater : Bool) (u v : FpVal) : Prop := if greater then place u ≤ place v else place v ≤ place u

theorem Within.refl (greater : Bool) (u : FpVal) : Within greater u u := by
  cases greater <;> exact le_refl (place u)

theorem Within.trans {u v w : FpVal} (h : Within greater u v) (h' : Within greater v w) : Within greater u w := by
  cases greater
  · exact le_trans (α := ℤ ×ₗ ℚ ×ₗ Bool) h' h
  · exact le_trans (α := ℤ ×ₗ ℚ ×ₗ Bool) h h'

/-- Neither of two values is beyond the one that FMIN or FMAX gives (R85). -/
theorem within_minMax (hx : x.proper) (hy : y.proper) (nx : x.isNaN = false) (ny : y.isNaN = false) :
    Within greater x (if fpBelow x y = greater then y else x) ∧
      Within greater y (if fpBelow x y = greater then y else x) := by
  have hlt := fpBelow_iff hx hy nx ny
  cases hb : fpBelow x y with
  | true =>
    have hle : place x ≤ place y := (hlt.mp hb).le
    cases greater
    · exact ⟨.refl .., hle⟩
    · exact ⟨hle, .refl ..⟩
  | false =>
    have hle : place y ≤ place x := not_lt.mp (mt hlt.mpr (by simp [hb]))
    cases greater
    · exact ⟨hle, .refl ..⟩
    · exact ⟨.refl .., hle⟩

/-- A value is the extreme one of a list: a NaN where the list has nothing else, and else the value of the list that no
other one is beyond. -/
def IsExtreme (greater : Bool) (xs : List FpVal) (v : FpVal) : Prop :=
  (v.isNaN = true ∧ ∀ u ∈ xs, u.isNaN = true) ∨
  (v ∈ xs ∧ v.isNaN = false ∧ ∀ u ∈ xs, u.isNaN = false → Within greater u v)

/-- FMIN and FMAX give the operand that is no NaN, and else the one that is not beyond the other (R85). -/
theorem fpMinMax_value (greater : Bool) (x y : FpVal) : (fpMinMax greater x y).1 =
    if x.isNaN then (if y.isNaN then .nan false else y)
    else if y.isNaN then x else if fpBelow x y = greater then y else x := by
  cases x <;> cases y <;> rfl

/-- The extreme of a list and one more value is that of the list's extreme and the value. -/
theorem IsExtreme.snoc (hx : x.proper) (hy : y.proper) (h : IsExtreme greater xs x) :
    IsExtreme greater (xs ++ [y]) (fpMinMax greater x y).1 := by
  have hsnoc {p : FpVal → Prop} (hxs : ∀ u ∈ xs, p u) (hy : p y) : ∀ u ∈ xs ++ [y], p u := by
    simpa [or_imp, forall_and] using ⟨hxs, hy⟩
  rw [fpMinMax_value]
  obtain ⟨nx, hnan⟩ | ⟨hmem, nx, hext⟩ := h <;> cases ny : y.isNaN
  · exact .inr ⟨by simp [nx], by simp [nx, ny], hsnoc (fun u hu hn => by simp [hnan u hu] at hn) fun _ => by
      simpa [nx] using .refl ..⟩
  · exact .inl ⟨by rw [if_pos nx, if_pos rfl]; rfl, hsnoc hnan ny⟩
  · obtain ⟨hwx, hwy⟩ := within_minMax (greater := greater) hx hy nx ny
    rw [if_neg (by simp [nx]), if_neg (by simp)]
    refine .inr ⟨?_, ?_, hsnoc (fun u hu hn => (hext u hu hn).trans hwx) fun _ => hwy⟩
    · split <;> simp [hmem]
    · split <;> assumption
  · rw [if_neg (by simp [nx]), if_pos rfl]
    exact .inr ⟨List.mem_append_left _ hmem, nx, hsnoc hext fun hn => by simp [ny] at hn⟩

theorem isExtreme_singleton (greater : Bool) (x : FpVal) : IsExtreme greater [x] x := by
  cases nx : x.isNaN
  · exact .inr ⟨List.mem_singleton_self x, nx, by simpa using fun _ => .refl ..⟩
  · exact .inl ⟨nx, by simpa using nx⟩

theorem proper_fpMinMax (hx : x.proper) (hy : y.proper) : (fpMinMax greater x y).1.proper := by
  rw [fpMinMax_value]
  split_ifs
  exacts [trivial, hy, hx, hy, hx]

/-- What holds of a list's value and is kept by one more element holds of every fold. -/
theorem foldl_snoc {α : Type} {ok : α → Prop} {holds : List α → α → Prop} {f : α → α → α}
    (hok : ∀ v y, ok v → ok y → ok (f v y)) (hsnoc : ∀ l v y, ok v → ok y → holds l v → holds (l ++ [y]) (f v y))
    {xs : List α} (hxs : ∀ u ∈ xs, ok u) {l : List α} {v : α} (hv : ok v) (h : holds l v) :
    holds (l ++ xs) (xs.foldl f v) := by
  induction xs generalizing l v with
  | nil => rwa [List.append_nil]
  | cons y ys ih =>
    obtain ⟨hy, hys⟩ := List.forall_mem_cons.mp hxs
    rw [List.append_cons]
    exact ih hys (hok v y hv hy) (hsnoc l v y hv hy h)

/-- The extreme that a reduction takes in element order is the extreme of the elements. -/
theorem fpExtreme_isExtreme (hx : x.proper) (hxs : ∀ u ∈ xs, u.proper) :
    ∃ v, fpExtreme greater (x :: xs) = some v ∧ IsExtreme greater (x :: xs) v :=
  ⟨_, rfl, foldl_snoc (f := fun a y => (fpMinMax greater a y).1) (ok := FpVal.proper) (holds := IsExtreme greater)
    (fun _ _ => proper_fpMinMax) (fun _ _ _ hv hy h => h.snoc hv hy) hxs hx (isExtreme_singleton greater x)⟩

/-- An integer is in a list, and none of the list is beyond it. -/
def IsIntExtreme (greater : Bool) (zs : List Int) (z : Int) : Prop :=
  z ∈ zs ∧ ∀ u ∈ zs, if greater then u ≤ z else z ≤ u

theorem IsIntExtreme.snoc {zs : List Int} {z y : Int} (h : IsIntExtreme greater zs z) :
    IsIntExtreme greater (zs ++ [y]) (if (z < y) = greater then y else z) := by
  obtain ⟨hmem, hext⟩ := h
  refine ⟨by split <;> simp [hmem], fun u hu => ?_⟩
  rcases List.mem_append.mp hu with hu | hu
  · have hle := hext u hu
    cases greater <;> grind
  · have hy := List.mem_singleton.mp hu
    cases greater <;> grind

theorem intExtreme_isIntExtreme (greater : Bool) (z : Int) (zs : List Int) :
    ∃ v, intExtreme greater (z :: zs) = some v ∧ IsIntExtreme greater (z :: zs) v :=
  ⟨_, rfl, foldl_snoc (f := fun a y => if (a < y) = greater then y else a) (ok := fun _ => True) (holds := IsIntExtreme greater) (fun _ _ _ _ => trivial)
    (fun _ _ _ _ _ h => h.snoc) (fun _ _ => trivial) trivial ⟨List.mem_singleton_self z, by simp⟩⟩

end Sys2Proof.Machine
end

section
/-!
PROOF. The reductions (O38): what each comes to, and what it leaves.
-/

namespace Sys2Proof.Machine

open Sys2Proof.Claims

variable {i : Instr} {s : State} {d a b : Reg} {k : KReg} {t : Ty}

/-! The elements that take part (R171). -/

theorem activeElems_eq (s : State) (a : Reg) (t : Ty) (k : KReg) :
    activeElems s a t k = (activeIdx s k).map fun j => (j, slot (vreg s a).img j (tyBits t)) := rfl

theorem activeElems_values (s : State) (a : Reg) (t : Ty) (k : KReg) :
    (activeElems s a t k).map (·.2) = (activeIdx s k).map fun j => slot (vreg s a).img j (tyBits t) := by
  rw [activeElems_eq, List.map_map]
  rfl

theorem bitReduce_eq (s : State) (a : Reg) (k : KReg) (t : Ty) (init : Nat) (f : Nat → Nat → Nat) :
    bitReduce s a k t init f = (((activeIdx s k).map fun j => slot (vreg s a).img j (tyBits t)).foldl f init, 0) := by
  rw [bitReduce, activeElems_eq, List.foldl_map, List.foldl_map]

/-! The extremes (R172). -/

theorem snanFlags_getLsbD (vs : List FpVal) (j : Nat) :
    (snanFlags vs).getLsbD j = vs.any fun v => (snan v).getLsbD j := by
  have h : snanFlags vs = allFlags (vs.map fun v => (0, snan v)) := by rw [snanFlags, allFlags, List.foldl_map]
  rw [h, allFlags_getLsbD, List.any_map]
  rfl

/-- A NaN rounds to the default one (R136). -/
theorem roundTo_isNaN {f : FloatFmt} {dir : Dir} {v : FpVal} (h : v.isNaN = true) :
    (roundTo f dir false v).1 = defaultNaN f := by
  cases v with
  | nan sig => rfl
  | inf neg => cases h
  | fin neg num den => cases h

/-- Nothing of a list lies beyond its extreme, as the reductions compare (R172). -/
theorem not_beyond {greater : Bool} {u v : FpVal} (hu : u.proper) (hv : v.proper) (nu : u.isNaN = false)
    (nv : v.isNaN = false) (h : Within greater u v) : (if greater then above u v else above v u) = false := by
  cases greater
  · exact Bool.eq_false_iff.mpr (mt (above_iff hv hu nv nu).mp (not_lt.mpr h))
  · exact Bool.eq_false_iff.mpr (mt (above_iff hu hv nu nv).mp (not_lt.mpr h))

theorem extreme_int {greater : Bool} (hi : tyInt t = true) (xs : List Nat) :
    Extreme greater t xs (trunc (tyBits t)
      ((intExtreme greater (xs.map (tyIntVal t))).getD (if greater then tyMin t else tyMax t)), 0) := by
  unfold Extreme
  rw [if_pos hi]
  refine ⟨rfl, by rintro rfl; rfl, fun hne => ?_⟩
  obtain ⟨x, xs, rfl⟩ := List.exists_cons_of_ne_nil hne
  obtain ⟨v, hv, hmem, hext⟩ := intExtreme_isIntExtreme greater (tyIntVal t x) (xs.map (tyIntVal t))
  rw [← List.map_cons] at hv hmem hext
  obtain ⟨y, hy, rfl⟩ := List.mem_map.mp hmem
  exact ⟨y, hy, by rw [hv, Option.getD_some], fun u hu => hext _ (List.mem_map_of_mem hu)⟩

theorem extreme_fp {greater : Bool} (hi : tyInt t = false) (xs : List Nat) :
    Extreme greater t xs ((roundTo (fmtOf t) .rne false
      ((fpExtreme greater (xs.map (tyVal t))).getD (.inf greater))).1, snanFlags (xs.map (tyVal t))) := by
  unfold Extreme
  rw [if_neg (by simp [hi])]
  have hproper : ∀ u ∈ xs.map (tyVal t), u.proper := by
    simpa using fun x _ => tyVal_proper t x
  refine ⟨snanFlags_getLsbD _, by rintro rfl; rfl, ?_⟩
  cases xs with
  | nil => exact ⟨fun h => absurd rfl h, fun h => by simp at h⟩
  | cons x xs =>
    rw [List.map_cons] at hproper ⊢
    obtain ⟨hx, hxs⟩ := List.forall_mem_cons.mp hproper
    obtain ⟨v, hv, hext⟩ := fpExtreme_isExtreme (greater := greater) hx hxs
    rw [hv, Option.getD_some]
    obtain ⟨nv, hnan⟩ | ⟨hmem, nv, hext⟩ := hext
    · exact ⟨fun _ _ => roundTo_isNaN nv, fun h => by simp [List.all_eq_true.mpr hnan] at h⟩
    · refine ⟨fun _ h => ?_, fun _ => ⟨v, hmem, nv, rfl, fun u hu nu => ?_⟩⟩
      · exact absurd (List.all_eq_true.mp h v hmem) (by simp [nv])
      · exact not_beyond (hproper u hu) (hproper v hmem) nu nv (hext u hu nu)

theorem extremeOf_extreme (greater : Bool) (s : State) (a : Reg) (k : KReg) (t : Ty) :
    Extreme greater t ((activeIdx s k).map fun j => slot (vreg s a).img j (tyBits t)) (extremeOf greater s a k t) := by
  rw [← activeElems_values]
  unfold extremeOf
  split
  case isTrue hi => exact extreme_int hi _
  case isFalse hi => exact extreme_fp (by simpa using hi) _

/-! VRMAXI: the lowest index of the greatest element (R172). -/

/-- An element that VRMAXI may name: equal to the greatest, and no NaN (R172). -/
def isGreatest (s : State) (a : Reg) (k : KReg) (t : Ty) (j : Nat) : Bool :=
  slot (vreg s a).img j (tyBits t) = (extremeOf true s a k t).1 &&
    !(tyFp t && (tyVal t (slot (vreg s a).img j (tyBits t))).isNaN)

theorem maxIndex_index (s : State) (a : Reg) (k : KReg) (t : Ty) :
    (maxIndex s a k t).1 = ((activeIdx s k).find? (isGreatest s a k t)).getD (2 ^ 32 - 1) := by
  unfold maxIndex
  dsimp only
  rw [activeElems_eq, List.find?_map, Option.map_map]
  change (Option.map id _).getD _ = _
  rw [Option.map_id, id]
  rfl

theorem find_least {p q : Nat → Bool} {n j : Nat} (hj : j ∈ (List.range n).filter p) (hq : q j = true)
    (hl : ∀ l ∈ (List.range n).filter p, l < j → q l = false) : ((List.range n).filter p).find? q = some j := by
  obtain ⟨hjn, hp⟩ := List.mem_filter.mp hj
  rw [List.find?_filter, List.find?_range_eq_some]
  refine ⟨by simp [hp, hq], hjn, fun l hlj => ?_⟩
  cases hpl : p l with
  | false => simp
  | true =>
    have hln := List.mem_range.mpr (hlj.trans (List.mem_range.mp hjn))
    simp [hl l (List.mem_filter.mpr ⟨hln, hpl⟩) hlj]

theorem maxIndex_none (h : ∀ j ∈ activeIdx s k, isGreatest s a k t j = false) : (maxIndex s a k t).1 = 2 ^ 32 - 1 := by
  rw [maxIndex_index, List.find?_eq_none.mpr fun j hj => Bool.eq_false_iff.mp (h j hj), Option.getD_none]

theorem maxIndex_least {j : Nat} (hj : j ∈ activeIdx s k) (hq : isGreatest s a k t j = true)
    (hl : ∀ l ∈ activeIdx s k, l < j → isGreatest s a k t l = false) : (maxIndex s a k t).1 = j := by
  rw [maxIndex_index, activeIdx, find_least hj hq hl, Option.getD_some]

/-! VRSUM: the tree (R172). -/

section

variable {α : Type} {f : α → α → α} {z : α}

theorem level_nil : level f z [] = [] := by simp [level]

theorem level_singleton (x : α) : level f z [x] = [x] := by simp [level]

theorem level_cons_cons (x y : α) (l : List α) : level f z (x :: y :: l) = f x y :: level f z l := by
  have hlen : ((x :: y :: l).length + 1) / 2 = (l.length + 1) / 2 + 1 := by
    simp only [List.length_cons]
    omega
  rw [level, hlen, List.range_succ_eq_map, List.map_cons, List.map_map]
  congr 1
  refine List.map_congr_left fun i _ => ?_
  have hi : 2 * (i + 1) = 2 * i + 1 + 1 := by omega
  simp [hi]

theorem level_length (l : List α) : (level f z l).length = (l.length + 1) / 2 := by
  rw [level, List.length_map, List.length_range]

end

/-- Two partial sums with their exceptions together. -/
def addElts (t : Ty) (x y : Elt) : Elt := ((addElem t x.1 y.1).1, x.2 ||| y.2 ||| (addElem t x.1 y.1).2)

theorem sumLevel_eq_level (t : Ty) : ∀ l, sumLevel t l = level (addElts t) (0, 0) l
  | [] => level_nil.symm
  | [x] => (level_singleton x).symm
  | x :: y :: l => by rw [level_cons_cons, sumLevel, sumLevel_eq_level t l]; rfl

theorem sumTree_isTree {tree : List Elt → Elt} (h : IsTree (addElts t) (0, 0) tree) {e : Nat} {l : List Elt}
    (hl : l.length = 2 ^ e) : sumTree t e l = tree l := by
  induction e generalizing l with
  | zero =>
    obtain ⟨x, rfl⟩ := List.length_eq_one_iff.mp hl
    exact (h.one x).symm
  | succ e ih =>
    rw [sumTree, sumLevel_eq_level, h.more l (by rw [hl, pow_succ]; have := Nat.two_pow_pos e; omega)]
    exact ih (by rw [level_length, hl, pow_succ]; omega)

theorem pow2Ceil_eq {fuel m e n : Nat} (hm : m ≤ e) (hf : e ≤ m + fuel) (hn : n ≤ 2 ^ e) (hl : e = m ∨ 2 ^ (e - 1) < n) :
    pow2Ceil fuel (2 ^ m) n = 2 ^ e := by
  induction fuel generalizing m with
  | zero => rw [pow2Ceil, Nat.le_antisymm hm hf]
  | succ fuel ih =>
    rw [pow2Ceil]
    split
    case isTrue hle =>
      rcases hl with rfl | hl
      · rfl
      · have := (Nat.pow_lt_pow_iff_right Nat.one_lt_two).mp (hl.trans_le hle)
        rw [show m = e by omega]
    case isFalse hlt =>
      have hne : m ≠ e := by rintro rfl; exact hlt hn
      rw [← pow_succ']
      exact ih (by omega) (by omega) (.inr (hl.resolve_left hne.symm))

theorem sumOf_eq {tree : List Elt → Elt} {e : Nat} (h : IsTree (addElts t) (0, 0) tree)
    (hv : s.cpu.live.vec.vl ≤ 2048) (he : s.cpu.live.vec.vl ≤ 2 ^ e) (hl : e = 0 ∨ 2 ^ (e - 1) < s.cpu.live.vec.vl) :
    sumOf s a k t = tree ((List.range (2 ^ e)).map fun j => sumLeaf t
      (if j < s.cpu.live.vec.vl && active s k j then slot (vreg s a).img j (tyBits t) else sumIdentity t)) := by
  have hfuel : e ≤ 0 + 11 := by
    rcases hl with rfl | hl
    · omega
    · have := (Nat.pow_lt_pow_iff_right Nat.one_lt_two).mp (hl.trans_le (show _ ≤ 2 ^ 11 from hv))
      omega
  have hceil : pow2Ceil 11 1 (max s.cpu.live.vec.vl 1) = 2 ^ e :=
    pow2Ceil_eq (Nat.zero_le e) hfuel (max_le he (Nat.one_le_two_pow)) (hl.imp_right fun h => h.trans_le (le_max_left ..))
  unfold sumOf vecOf
  dsimp only
  rw [hceil, Nat.log2_two_pow]
  exact sumTree_isTree h (by rw [List.length_map, List.length_range])

/-! VRSUMO: the sum in element order (R173). -/

/-- The sum of the active elements from `vbeg` up to an element, from a start value. -/
theorem orderedTo_eq (s : State) (a b : Reg) (k : KReg) (t : Ty) (n : Nat) :
    orderedTo s a b k t n =
      ((((activeIdx s k).filter fun j => s.cpu.live.vec.vbeg ≤ j && j < n).map
        fun j => slot (vreg s a).img j (tyBits t)).foldl
          (fun acc x => ((addElem t acc.1 x).1, acc.2 ||| (addElem t acc.1 x).2))
          (sumLeaf t (scOf t (if s.cpu.live.vec.vbeg = 0 then capture s false b else s.cpu.live.vec.vred)))) := by
  unfold orderedTo orderedSum
  dsimp only
  rw [activeElems_eq, List.filter_map, List.map_map, ← apply_ite (scOf t)]
  rfl

/-! What a reduction leaves (R129, R170, R171, R183). -/

section

variable {cs : List Word} {r : Elt} {more : State → State}

theorem reduceTo_alone : reduceTo s i cs d false t r more =
    retireV (more (putV (accrue s r.2) d { tag := some t, img := imgOf (tyBits t) [r.1] })) := rfl

theorem reduceTo_push (h : s.cpu.live.vec.vq.length < 8) : reduceTo s i cs d true t r more =
    retireV (more (putV (accrue (pushVq s (pushWord t r.1)) r.2) d { tag := some t, img := imgOf (tyBits t) [r.1] })) :=
  if_pos h

end

theorem reduces_of_reduce {i : Bool → Instr} {ok : Ty → Bool} {res : Ty → Ty} {f : State → Ty → Elt} {r : Ty → Elt}
    (he : ∀ q, exec (i q) s = reduce (i q) d a q s ok res f) (hr : f s = r) : Reduces i s d a ok res r := by
  subst hr
  intro t ha hok hf
  have hbegun (q : Bool) : Begun (vecAttr .copyV) true (i q) s (reduceTo s (i q) [] d q (res t) (f s t) id) :=
    begun_of_vector (he q) rfl (taggedSource_fits (widths := fun t => [tyBits (res t), tyBits t]) ha hok hf)
  exact ⟨hbegun false, fun hq => begun_congr (hbegun true) (reduceTo_push hq)⟩

/-- VRSUMO past its checks: the whole sum, or the sum up to a forced save's element. -/
theorem vrsumo_begun {q : Bool} (ha : (vreg s a).tag = some t) (hok : tyArith t = true) (hf : Fits s [tyBits t]) :
    (cutAt s 1 = none → Begun (vecAttr .copyV) true (.vrsumo d a b k q) s
      (reduceTo s (.vrsumo d a b k q) [capture s false b] d q t (orderedTo s a b k t s.cpu.live.vec.vl) fun u =>
        modVec u fun y => { y with vred := BitVec.ofNat 64 (orderedTo s a b k t s.cpu.live.vec.vl).1 })) ∧
    ∀ n, cutAt s 1 = some n → Begun (vecAttr .copyV) true (.vrsumo d a b k q) s (sumStop s (orderedTo s a b k t n) n) := by
  have hbegun := begun_of_vector (exec_vrsumo s d a b k q) rfl
    (taggedSource_fits (widths := fun t => [tyBits t]) ha hok hf)
  refine ⟨fun hc => begun_congr hbegun ?_, fun n hc => begun_congr hbegun ?_⟩
  · rw [hc]
    rfl
  · rw [hc]

/-- Settles O38: each reduction's value by its lemma (`sumOf_eq`, `extremeOf_extreme`, `maxIndex_least`, `bitReduce_eq`,
`orderedTo_eq`), and what it leaves by `reduceTo_alone` and `reduceTo_push`. -/
theorem vectorReductions : Obligations.VectorReductions := by
  intro s d a b k
  refine ⟨reduces_of_reduce (fun q => exec_vrsum s d a k q) rfl, reduces_of_reduce (fun q => exec_vrmax s d a k q) rfl,
    reduces_of_reduce (fun q => exec_vrmin s d a k q) rfl, reduces_of_reduce (fun q => exec_vrmaxi s d a k q) rfl,
    reduces_of_reduce (fun q => exec_vrand s d a k q) rfl, reduces_of_reduce (fun q => exec_vror s d a k q) rfl,
    reduces_of_reduce (fun q => exec_vrxor s d a k q) rfl, fun t e tree hv he hl h => sumOf_eq h hv he hl,
    fun t _ => ⟨extremeOf_extreme true s a k t, extremeOf_extreme false s a k t, rfl, maxIndex_none,
      fun j => maxIndex_least⟩,
    fun t init f => bitReduce_eq s a k t init f, fun t ha hok hf => ?_⟩
  have hsum := orderedTo_eq s a b k t
  obtain ⟨halone, -⟩ := vrsumo_begun (d := d) (b := b) (k := k) (q := false) ha hok hf
  obtain ⟨hpush, -⟩ := vrsumo_begun (d := d) (b := b) (k := k) (q := true) ha hok hf
  refine ⟨fun hc => ?_, fun hc hq => ?_, fun n q hc => ?_⟩
  · exact begun_congr (halone hc) (by rw [reduceTo_alone, hsum]; rfl)
  · exact begun_congr (hpush hc) (by rw [reduceTo_push hq, hsum]; rfl)
  · exact begun_congr ((vrsumo_begun ha hok hf).2 n hc) (by rw [sumStop, hsum]; rfl)

end Sys2Proof.Machine
end

section
/-!
PROOF. Vector stores whose accesses all pass (O43).
-/

namespace Sys2Proof.Machine

open Sys2Proof.Claims

variable {s : State}

/-! A store's accesses that pass: performed whole, or up to a forced save's element (R208, R214, R220). -/

section

variable {i : Instr} {cs : List Word} {nt ordered : Bool} {grain : Nat} {us : List Unit_} {ps : List (Unit_ × Probe)}
  {u : State} {bytes : Unit_ → List Byte}

theorem storeVec_whole (hp : probeAll s .write us = (ps, u)) (hf : firstFail ps = none)
    (hc : grain = 0 ∨ cutAt u grain = none) :
    storeVec s i cs nt ordered grain us bytes = retireV (storeUnits u nt bytes ps) := by
  have hcut : (if grain = 0 then none else cutAt u grain) = none := by
    split
    case isTrue => rfl
    case isFalse h => exact hc.resolve_left h
  unfold storeVec
  rw [hp]
  dsimp only
  rw [hf]
  dsimp only
  rw [hcut]

theorem storeVec_stopped {n : Nat} (hp : probeAll s .write us = (ps, u)) (hf : firstFail ps = none) (hg : grain ≠ 0)
    (hc : cutAt u grain = some n) :
    storeVec s i cs nt ordered grain us bytes = stayAt (storeUnits u nt bytes (cutUnits u ordered n ps)) n := by
  unfold storeVec
  rw [hp]
  dsimp only
  rw [hf]
  dsimp only
  rw [if_neg hg, hc]

theorem storesAll_of_storeVec (hg : grain ≠ 0)
    (h : Begun storeAttr true i s (storeVec s i cs nt ordered grain us bytes)) :
    StoresAll i s nt ordered grain us bytes := by
  intro ps u hp hf
  have hu : cutAt u grain = cutAt s grain := (undisturbed_probeAll hp).cutAt_eq grain
  exact ⟨fun hn => begun_congr h (storeVec_whole hp hf (.inr (hu.trans hn))),
    fun n hn => begun_congr h (storeVec_stopped hp hf hg (hu.trans hn))⟩

end

/-! Vector stores as instructions. -/

section

variable {i : Instr} {cs : List Word} {d a : Reg} {t : Ty} {k : KReg} {nt ordered : Bool} {base : Word}
  {addr : Nat → Nat}

theorem storeElems_empty (h : s.cpu.live.vec.vl = 0) : storeElems s i cs d t k nt ordered addr = retireV s := if_pos h

theorem storesElements_of_storeElems {ws : List Nat} (h : Begun storeAttr true i s
      (lanes s ((vreg s d).tag = some t) ws fun _ => storeElems s i cs d t k nt ordered addr))
    (hc : cs.getD 0 0 = base) (hd : (vreg s d).tag = some t) (hf : Fits s ws) :
    StoresElements i s d t k nt ordered base addr := by
  subst hc
  rw [decide_eq_true hd, lanes_fits hf] at h
  refine ⟨fun hv => begun_congr h (storeElems_empty hv), fun hv hm => ?_⟩
  refine storesAll_of_storeVec ?_ (begun_congr h (storeElems_aligned hv hm))
  split_ifs <;> decide

theorem vstSegmentMx_stores (ht : SegmentTags s d t) (hf : Fits s [tyBits t]) (hw : s.cpu.live.vec.vl % 32 = 0) :
    (s.cpu.live.vec.vl = 0 → Begun storeAttr true (.vstSegmentMx d a t) s (retireV s)) ∧
    (s.cpu.live.vec.vl ≠ 0 → (capture s false a).toNat % 4 = 0 →
      StoresAll (.vstSegmentMx d a t) s false false 32 (segUnits s t (capture s false a))
        (segmentBytes (vreg s d).img (vreg s (nextReg d)).img t)) :=
  ⟨fun hv => begun_congr (vstSegmentMx_begun ht) (segChecks_empty hf hv),
   fun hv hb => storesAll_of_storeVec (by decide) (begun_congr (vstSegmentMx_begun ht) (segChecks_passes hf hw hv hb))⟩

end

/-- An ordered store stops with exactly the elements below its stop stored (R214). -/
theorem mem_cutUnits_ordered {n : Nat} {ps : List (Unit_ × Probe)} {x : Unit_ × Probe} :
    x ∈ cutUnits s true n ps ↔ x ∈ ps ∧ x.1.elem < n := by
  simp [cutUnits]

/-- Settles O43: each form is a store of elements at its addresses, past its checks. -/
theorem vectorStores : Obligations.VectorStores := by
  intro s d a b k nt t hd hf
  refine ⟨?unit, ?ordered, ?strided, ?indexed, ?segment, ?cut⟩
  case unit => exact storesElements_of_storeElems vstUnit_begun rfl hd hf
  case ordered => exact storesElements_of_storeElems vstOrdered_begun rfl hd hf
  case strided => exact storesElements_of_storeElems vstStrided_begun rfl hd hf
  case indexed =>
    exact fun tb hb hi hfb => storesElements_of_storeElems (vstIndexed_begun (indexTag_some hb hi)) rfl hd
      (fits_cons.mpr ⟨hf, hfb⟩)
  case segment => exact fun hw hs => vstSegmentMx_stores ⟨hd, hs⟩ hf hw
  case cut => exact fun n ps x => mem_cutUnits_ordered

end Sys2Proof.Machine
end

section
/-!
PROOF. Interrupts, the quantum and the requests of a pre-emption (O45).
-/

namespace Sys2Proof.Machine

open Sys2Proof.Claims

variable {s : State}

/-! The pending interrupt of highest rank (R371, R377). -/

theorem interrupt_next {cause : Nat} (h : nextInterrupt s = some cause) : interrupt cause s = takeInterrupt s cause :=
  if_pos h

theorem interrupt_waits {cause : Nat} (h : nextInterrupt s ≠ some cause) : interrupt cause s = s := if_neg h

theorem takeInterrupt_error :
    takeInterrupt s 0x23 = takeTrap (modCpu s fun c => { c with pendError := false }) 0x23 0 := by
  simp [takeInterrupt]

theorem takeInterrupt_host :
    takeInterrupt s 0x22 = takeTrap (modCpu s fun c => { c with pendHost := false }) 0x22 0 := by
  simp [takeInterrupt]

/-- TIMER stays pending as long as its comparison holds. -/
theorem takeInterrupt_timer : takeInterrupt s 0x20 = takeTrap s 0x20 0 := by
  simp [takeInterrupt, modCpu]

section
variable (hr : s.cpu.halt = .running) (hh : inHandler s = false)
include hr hh

/-- The ranks of the causes, on a core that may take one. -/
theorem nextInterrupt_ranks : nextInterrupt s =
    if s.cpu.pendError then some 0x23 else if s.cpu.pendHost then some 0x22 else if s.cpu.pendPreempt then some 0x21
    else if timerPending s then some 0x20 else none := by
  rw [nextInterrupt, if_neg (by simp [hr, hh])]

theorem nextInterrupt_error (he : s.cpu.pendError = true) : nextInterrupt s = some 0x23 := by
  rw [nextInterrupt_ranks hr hh, if_pos he]

theorem nextInterrupt_host (he : s.cpu.pendError = false) (ho : s.cpu.pendHost = true) :
    nextInterrupt s = some 0x22 := by
  rw [nextInterrupt_ranks hr hh, if_neg (by simp [he]), if_pos ho]

theorem nextInterrupt_timer (he : s.cpu.pendError = false) (ho : s.cpu.pendHost = false)
    (hp : s.cpu.pendPreempt = false) (ht : timerPending s = true) : nextInterrupt s = some 0x20 := by
  rw [nextInterrupt_ranks hr hh, if_neg (by simp [he]), if_neg (by simp [ho]), if_neg (by simp [hp]), if_pos ht]

theorem nextInterrupt_ne_timer (h : s.cpu.pendHost = true ∨ timerPending s = false) : nextInterrupt s ≠ some 0x20 := by
  rw [nextInterrupt_ranks hr hh]
  rcases h with hhost | htimer
  · rw [if_pos hhost]
    split <;> decide
  · simp only [htimer, Bool.false_eq_true, if_false]
    split_ifs <;> decide

end

/-! The task switched out by force, and the modes of a request (R266, R386). -/

theorem forcedOut_of_forceOut {i : Instr} {k : State → State} (h : exec i s = .next (forceOut s k)) :
    ForcedOut i s k := by
  intro u hu
  rw [h, forceOut, hu]

section
variable {mode : Nat} {act : State → State} (hm : s.cpu.preMode = mode)
include hm

theorem preempt_stale (hs : preStale s = true) : preempt mode act s = requestDone s := by
  rw [preempt, if_neg (by simp [hm]), if_pos hs]
  rfl

theorem preempt_switchable (hs : preStale s = false) (hw : switchable s = true) : preempt mode act s = act s := by
  rw [preempt, if_neg (by simp [hm]), if_neg (by simp [hs]), if_pos hw]

theorem preempt_stands (hs : preStale s = false) : preempt mode id s = s := by
  rw [preempt, if_neg (by simp [hm]), if_neg (by simp [hs]), id, ite_self]

end

/-- Settles O45: the interrupt that each event takes is `nextInterrupt`, and the switches are `forceOut`s. -/
theorem interruptEvents : Obligations.InterruptEvents := by
  intro s
  refine ⟨fun hr hh => ⟨fun he => ?error, fun he ho => ?host, fun he ho hp hv ht => ?timer, fun he => ?waitError,
    fun ho => ?waitHost, fun hv => ?noTimer⟩, fun hq => ?quantum, fun hm hs => ?stands, fun hm hs => ?stale,
    fun hm hs hw => ?forced, fun hm hs hw => ?handler, fun hm ht hs hw => ?late⟩
  case error => rw [exec_error, execError, interrupt_next (nextInterrupt_error hr hh he), takeInterrupt_error]
  case host => rw [exec_host, execHost, interrupt_next (nextInterrupt_host hr hh he ho), takeInterrupt_host]
  case timer =>
    have hpending : timerPending s = true := by rw [timerPending, hv, Bool.true_and, decide_eq_true ht]
    rw [exec_timer, execTimer, interrupt_next (nextInterrupt_timer hr hh he ho hp hpending), takeInterrupt_timer]
  case waitError =>
    have hnext := nextInterrupt_error hr hh he
    exact ⟨by rw [exec_host, execHost, interrupt_waits (by simp [hnext])],
      by rw [exec_timer, execTimer, interrupt_waits (by simp [hnext])]⟩
  case waitHost => rw [exec_timer, execTimer, interrupt_waits (nextInterrupt_ne_timer hr hh (.inl ho))]
  case noTimer =>
    have hpending : timerPending s = false := by rw [timerPending, hv, Bool.false_and]
    rw [exec_timer, execTimer, interrupt_waits (nextInterrupt_ne_timer hr hh (.inr hpending))]
  case quantum => exact forcedOut_of_forceOut (by rw [exec_quantumExpiry, execQuantumExpiry, if_pos hq])
  case stands => rw [exec_preemptReqCooperative, execPreemptReqCooperative, preempt_stands hm hs]
  case stale => rw [exec_preemptReqCooperative, execPreemptReqCooperative, preempt_stale hm hs, requestDone]
  case forced =>
    exact forcedOut_of_forceOut (by rw [exec_preemptReqForced, execPreemptReqForced, preempt_switchable hm hs hw])
  case handler =>
    exact forcedOut_of_forceOut (by rw [exec_preemptReqToHandler, execPreemptReqToHandler, preempt_switchable hm hs hw])
  case late =>
    have hlate : coopLate s = true := by simp [coopLate, hm, ht]
    exact forcedOut_of_forceOut (by
      rw [exec_preemptCoopTimeout, execPreemptCoopTimeout, if_pos hlate, preempt_switchable hm hs hw])

end Sys2Proof.Machine
end

section
/-!
PROOF. The accumulator words that MXRD reads (O30).
-/

namespace Sys2Proof.Machine

open Sys2Proof.Claims

variable {s : State} {d a b : Reg}

theorem engineCheck_passes {cs : List (Bool × Nat)} {k : State → State} (h : firstCode cs = none) :
    engineCheck s cs k = k s := by
  rw [engineCheck, h]

/-- The bank that the operand of MXRD names, as the lanes find it. -/
def drainBank (s : State) (a : Reg) : Bank := bankAt s (clusterOf s.cpu.id) (bankOf (capture s false a))

/-- What MXRD leaves: with vl = 0 no register changes (R112, R114; log 97). -/
def drained (s : State) (d a b : Reg) : State :=
  let vb := capture s true b
  if s.cpu.live.vec.vl = 0 then retire (modLive s fun c => { c with vec := { c.vec with vbeg := 0 } })
  else retire (modLive s fun c => { c with vec := { c.vec with
    vbeg := 0, regs := c.vec.regs.set d (drainReg s (drainBank s a) (rowField vb) (colField vb)) } })

/-- MXRD past its checks: nothing before it writes the row, and no word that it reads is marked (R321, R322). -/
theorem mxrd_begun (hbank : badBank (capture s false a) = false) (hword : badRowWord (capture s true b) = false)
    (hbound : boundTo (drainBank s a) s.cpu.live.tenant = true)
    (hrow : (drainBank s a).rows.getLsbD (rowField (capture s true b)) = true)
    (hfit : s.cpu.live.vec.vl * 32 ≤ grantBits s)
    (hjobs : (drainBank s a).jobs.any (writesRow (rowField (capture s true b))) = false)
    (hsound : ∀ i, i < min s.cpu.live.vec.vl (256 - colField (capture s true b)) →
      (drainBank s a).poisonAcc.getLsbD (256 * rowField (capture s true b) + colField (capture s true b) + i) = false) :
    Begun mtxAttr true (.mxrd d a b) s (drained s d a b) := by
  have hcodes : firstCode [(badBank (capture s false a) || badRowWord (capture s true b), 1),
      (!boundTo (drainBank s a) s.cpu.live.tenant, 2),
      (!(drainBank s a).rows.getLsbD (rowField (capture s true b)), 3)] = none := by
    rw [hbank, hword, hbound, hrow]
    rfl
  have hmarked : ((List.range (min s.cpu.live.vec.vl (256 - colField (capture s true b)))).any fun i =>
      (drainBank s a).poisonAcc.getLsbD (256 * rowField (capture s true b) + colField (capture s true b) + i)) =
        false :=
    List.any_eq_false.mpr fun i hi => by simp [hsound i (List.mem_range.mp hi)]
  refine begun_of_vector (exec_mxrd ..) rfl ?_
  dsimp only
  rw [if_neg (Nat.not_lt.mpr hfit)]
  refine (engineCheck_passes hcodes).trans ?_
  refine (if_neg (Bool.eq_false_iff.mp hjobs)).trans ?_
  exact if_neg (Bool.eq_false_iff.mp hmarked)

theorem drained_empty (h : s.cpu.live.vec.vl = 0) :
    drained s d a b = retire (modLive s fun c => { c with vec := { c.vec with vbeg := 0 } }) := if_pos h

theorem drained_nonempty (h : s.cpu.live.vec.vl ≠ 0) :
    drained s d a b = retire (modLive s fun c => { c with vec := { c.vec with
      vbeg := 0
      regs := c.vec.regs.set d
        (drainReg s (drainBank s a) (rowField (capture s true b)) (colField (capture s true b))) } }) := if_neg h

theorem drainReg_tag {bk : Bank} {r col : Nat} : (drainReg s bk r col).tag = some (match bk.latest with
    | some f => if fmtClass f = .int then .i32 else .fp32
    | none => .fp32) := by
  unfold drainReg
  cases bk.latest <;> simp

theorem drainReg_slot {bk : Bank} {r col i : Nat} (hi : i < s.cpu.live.vec.vl) (hv : s.cpu.live.vec.vl ≤ 512) :
    slot (drainReg s bk r col).img i 32 = if col + i < 256 then slot bk.acc (256 * r + col + i) 32 else 0 := by
  have hget : ((List.range s.cpu.live.vec.vl).map fun i =>
      if col + i < 256 then slot bk.acc (256 * r + col + i) 32 else 0).getD i 0 =
        if col + i < 256 then slot bk.acc (256 * r + col + i) 32 else 0 := by
    simp [hi]
  rw [drainReg, slot_packSlots (by omega), hget]
  split
  · exact Nat.mod_mod ..
  · rfl

/-- Settles O30: MXRD past its checks, with the tag and the words of `drainReg`. -/
theorem accumulatorRead : Obligations.AccumulatorRead := by
  intro s d a b va vb bk v r n hbank hword hbound hrow hfit hjobs hsound
  have hbegun : Begun mtxAttr true (.mxrd d a b) s (drained s d a b) :=
    mxrd_begun hbank hword hbound hrow hfit hjobs hsound
  exact ⟨fun hv => begun_congr hbegun (drained_empty hv), fun hv => begun_congr hbegun (drained_nonempty hv),
    drainReg_tag, fun i hi hv => drainReg_slot hi hv⟩

end Sys2Proof.Machine
end

section
/-!
SUPPORT. Byte images (R3): the fields of bytes put one after another, and numbers read back from a field.
-/

namespace Sys2Proof.Machine

theorem length_toBytes (k v : Nat) : (toBytes k v).length = k := by
  induction k generalizing v with
  | zero => rfl
  | succ k ih => rw [toBytes, List.length_cons, ih]

theorem ofBytes_lt (bs : List Byte) : ofBytes bs < 256 ^ bs.length := by
  induction bs with
  | nil => exact Nat.one_pos
  | cons b bs ih =>
    have hb := b.isLt
    rw [ofBytes, List.length_cons, Nat.pow_succ]
    omega

theorem at_lt (bs : List Byte) (off len : Nat) : at_ bs off len < 2 ^ (8 * len) := by
  rw [Nat.pow_mul]
  refine (ofBytes_lt _).trans_le (Nat.pow_le_pow_right (by decide) ?_)
  rw [List.length_take]
  exact Nat.min_le_left ..

/-- A field that fits a bit string is read back from it. -/
theorem toNat_ofNat_at {len n : Nat} (bs : List Byte) (off : Nat) (h : 8 * len ≤ n) :
    (BitVec.ofNat n (at_ bs off len)).toNat = at_ bs off len := by
  rw [BitVec.toNat_ofNat, Nat.mod_eq_of_lt ((at_lt bs off len).trans_le (Nat.pow_le_pow_right (by decide) h))]

section

variable {p q : List Byte} {i k n : Nat}

theorem field_append_left (h : i + n ≤ p.length) : ((p ++ q).drop i).take n = (p.drop i).take n := by
  rw [List.drop_append_of_le_length (by omega), List.take_append_of_le_length (by rw [List.length_drop]; omega)]

theorem field_append_right (h : p.length = k) : ((p ++ q).drop (k + i)).take n = (q.drop i).take n := by
  rw [← h, List.drop_length_add_append]

end

/-- The blocks of one length that a function gives, one after another: block i stands i lengths in. -/
theorem field_blocks {α : Type} {len i n : Nat} (v : Vector α n) (f : α → List Byte) (hlen : ∀ x, (f x).length = len)
    (hi : i < n) : (((v.toList.map f).flatten).drop (len * i)).take len = f v[i] := by
  have hlist : ∀ (l : List α) (i : Nat) (h : i < l.length),
      (((l.map f).flatten).drop (len * i)).take len = f l[i] := by
    intro l
    induction l with
    | nil => exact fun i h => absurd h (Nat.not_lt_zero i)
    | cons x l ih =>
      intro i h
      rw [List.map_cons, List.flatten_cons]
      cases i with
      | zero => exact List.take_left' (hlen x)
      | succ i =>
        rw [Nat.mul_succ, Nat.add_comm, field_append_right (hlen x), ih i (Nat.lt_of_succ_lt_succ h)]
        rfl
  rw [hlist v.toList i (by simpa using hi), Vector.getElem_toList]

theorem length_blocks {α : Type} {len n : Nat} (v : Vector α n) (f : α → List Byte) (hlen : ∀ x, (f x).length = len) :
    ((v.toList.map f).flatten).length = n * len := by
  have hmap : (v.toList.map f).map List.length = List.replicate n len := by
    rw [List.map_map, List.eq_replicate_iff]
    exact ⟨by simp, by simpa using fun x _ => hlen x⟩
  rw [List.length_flatten, hmap, List.sum_replicate, smul_eq_mul]

end Sys2Proof.Machine
end

section
/-!
PROOF. Tags, clearing, folding, and the vector state saved and restored (O34).
-/

namespace Sys2Proof.Machine

open Sys2Proof.Claims

variable {s : State} {d a : Reg}

/-! VFOLD (R126). -/

theorem addElem_eq_plus {t : Ty} (h : tyArith t = true) (x y : Nat) : addElem t x y = plus t x y := by
  cases t
  case e8m0 => cases h
  case e2m1 => cases h
  case e4m3 => cases h
  case e5m2 => cases h
  all_goals rfl

/-- The elements that VFOLD adds to element i, each L above the one before. -/
theorem foldIndices_eq {i l : Nat} (vl : Nat) (hi : i < l) :
    (List.range vl).filter (fun j => i < j && (j - i) % l == 0) =
      (span 1 (cdiv (vl - i) l)).map fun m => i + m * l := by
  have hl : 0 < l := Nat.zero_lt_of_lt hi
  have hrange : ((List.range vl).filter fun j => i < j && (j - i) % l == 0).Pairwise (· < ·) :=
    List.pairwise_lt_range.sublist List.filter_sublist
  have hspan : ((span 1 (cdiv (vl - i) l)).map fun m => i + m * l).Pairwise (· < ·) := by
    rw [span, List.pairwise_map, List.pairwise_map]
    refine List.pairwise_lt_range.imp fun {m n} h => ?_
    have := Nat.mul_lt_mul_of_pos_right (Nat.add_lt_add_left h 1) hl
    omega
  refine hrange.eq_of_mem_iff hspan fun j => ?_
  simp only [List.mem_filter, List.mem_range, Bool.and_eq_true, decide_eq_true_eq, beq_iff_eq, List.mem_map, mem_span]
  have hlt (m : Nat) : m < cdiv (vl - i) l ↔ m * l < vl - i := by
    rw [cdiv, Nat.lt_div_iff_mul_lt hl]
    omega
  constructor
  · rintro ⟨hj, hij, hmod⟩
    obtain ⟨m, hm⟩ := Nat.dvd_of_mod_eq_zero hmod
    rw [Nat.mul_comm] at hm
    refine ⟨m, ⟨Nat.pos_of_ne_zero fun h => ?_, (hlt m).mpr (by omega)⟩, by omega⟩
    rw [h] at hm
    omega
  · rintro ⟨m, ⟨hm, hmlt⟩, rfl⟩
    have := (hlt m).mp hmlt
    have := Nat.mul_le_mul_right l hm
    exact ⟨by omega, by omega, by rw [Nat.add_sub_cancel_left, Nat.mul_mod_left]⟩

theorem foldElem_eq {t : Ty} (h : tyArith t = true) (img : BitVec 16384) (vl : Nat) {i l : Nat} (hi : i < l) :
    foldElem t img vl l i =
      ((List.range vl).filter fun j => i < j && (j - i) % l == 0).foldl
        (fun (sum : Elt) j => let r := plus t sum.1 (slot img j (tyBits t)); (r.1, sum.2 ||| r.2))
        (slot img i (tyBits t), 0) := by
  rw [foldIndices_eq vl hi, List.foldl_map]
  simp only [foldElem, List.foldl_map, addElem_eq_plus h]

/-- VFOLD past its checks. -/
theorem vfold_begun {t : Ty} (hd : (vreg s d).tag = some t) (ht : tyArith t = true)
    (hl : 1 ≤ (capture s false a).toNat) (hf : Fits s [tyBits t]) :
    Begun (vecAttr .predicate false) true (.vfold d a) s
      (let l := (capture s false a).toNat
       if s.cpu.live.vec.vl ≤ l then retireV s
       else
        let es := (List.range l).map (foldElem t (vreg s d).img s.cpu.live.vec.vl l)
        retireV (modVec (accrue s (allFlags es)) fun v =>
          { v with regs := v.regs.set d { tag := some t, img := imgOf (tyBits t) (es.map (·.1)) } })) := by
  refine begun_of_vector (exec_vfold ..) rfl ?_
  dsimp only
  rw [hd]
  dsimp only
  rw [ht, if_neg (by decide), if_neg (by omega)]
  exact lanes_fits hf

theorem vfold_folds {t : Ty} (hd : (vreg s d).tag = some t) (ht : tyArith t = true)
    (hf : Fits s [tyBits t]) (hl : 1 ≤ (capture s false a).toNat)
    (hvl : (capture s false a).toNat < s.cpu.live.vec.vl) :
    Begun (vecAttr .predicate false) true (.vfold d a) s
      (let l := (capture s false a).toNat
       let x (j : Nat) := slot (vreg s d).img j (tyBits t)
       let es := (List.range l).map fun i =>
         ((List.range s.cpu.live.vec.vl).filter fun j => i < j && (j - i) % l == 0).foldl
           (fun (sum : Elt) j => let r := plus t sum.1 (x j); (r.1, sum.2 ||| r.2)) (x i, 0)
       retireV (modVec (accrue s (allFlags es)) fun v =>
         { v with regs := v.regs.set d { tag := some t, img := imgOf (tyBits t) (es.map (·.1)) } })) := by
  refine begun_congr (vfold_begun hd ht hl hf) ?_
  dsimp only
  rw [if_neg (Nat.not_le.mpr hvl),
    List.map_congr_left fun i hi => foldElem_eq ht (vreg s d).img s.cpu.live.vec.vl (List.mem_range.mp hi)]

/-! The image that VSAVE stores (R127). -/

theorem imageBytes_eq (s : State) : imageBytes s = grantBits s / 8 := by
  unfold imageBytes grantBits
  omega

/-- The 32 bytes before the tags. -/
def imageHead (s : State) : List Byte :=
  toBytes 8 s.cpu.live.vec.vl ++ toBytes 8 s.cpu.live.vec.vbeg ++ toBytes 8 s.cpu.live.vec.vred.toNat ++
  toBytes 4 s.cpu.live.vec.efr.toNat ++ toBytes 1 s.cpu.live.vec.wc.val ++ toBytes 1 (groupCount s s.cpu.id) ++
  [0x01, 0x00]

/-- The tags, the masks, and the register images under the grant. -/
def imageTags (s : State) : List Byte :=
  (s.cpu.live.vec.regs.toList.map fun r => toBytes 1 (tagNum r.tag)).flatten
def imageMasks (s : State) : List Byte := (s.cpu.live.vec.masks.toList.map fun m => toBytes 256 m.toNat).flatten
def imageRegs (s : State) : List Byte :=
  (s.cpu.live.vec.regs.toList.map fun r => toBytes (imageBytes s) r.img.toNat).flatten

theorem length_imageHead : (imageHead s).length = 32 := by simp [imageHead, length_toBytes]

theorem length_imageTags : (imageTags s).length = 32 := length_blocks _ _ fun _ => length_toBytes ..

theorem length_imageMasks : (imageMasks s).length = 1792 := length_blocks _ _ fun _ => length_toBytes ..

theorem length_imageRegs : (imageRegs s).length = 32 * imageBytes s := length_blocks _ _ fun _ => length_toBytes ..

theorem vsaveImage_eq (s : State) :
    vsaveImage s = imageHead s ++ (imageTags s ++ (imageMasks s ++ imageRegs s)) := by
  have htags : s.cpu.live.vec.regs.toList.map (fun r => BitVec.ofNat 8 (tagNum r.tag)) = imageTags s :=
    List.map_eq_flatMap
  unfold vsaveImage
  dsimp only [vecOf]
  rw [htags]
  simp only [imageHead, imageMasks, imageRegs, imageBytes, List.append_assoc]
  rfl

theorem vsaveImage_saved (s : State) : SavedImage s (vsaveImage s) := by
  rw [vsaveImage_eq]
  constructor
  case size =>
    simp only [List.length_append, length_imageHead, length_imageTags, length_imageMasks, length_imageRegs,
      imageBytes_eq]
    omega
  case head => exact List.take_left' length_imageHead
  case tags =>
    intro n
    rw [field_append_right length_imageHead, field_append_left (by rw [length_imageTags]; omega)]
    have h := field_blocks s.cpu.live.vec.regs (fun r => toBytes 1 (tagNum r.tag)) (fun _ => length_toBytes ..) n.isLt
    rwa [Nat.one_mul] at h
  case masks =>
    intro m
    rw [show 64 + 256 * m.val = 32 + (32 + 256 * m.val) by omega, field_append_right length_imageHead,
      field_append_right length_imageTags, field_append_left (by rw [length_imageMasks]; omega)]
    exact field_blocks s.cpu.live.vec.masks (fun x => toBytes 256 x.toNat) (fun _ => length_toBytes ..) m.isLt
  case images =>
    intro n
    rw [← imageBytes_eq, show 1856 + imageBytes s * n.val = 32 + (32 + (1792 + imageBytes s * n.val)) by omega,
      field_append_right length_imageHead, field_append_right length_imageTags, field_append_right length_imageMasks]
    exact field_blocks s.cpu.live.vec.regs (fun r => toBytes (imageBytes s) r.img.toNat) (fun _ => length_toBytes ..)
      n.isLt

/-- VSAVE whose accesses all pass stores its image whole (R127, R129). -/
theorem vsave_begun (h : (capture s false a).toNat % 64 = 0) {ps : List (Unit_ × Probe)} {t : State}
    (hp : probeAll s .write (rangeUnits (capture s false a) 0 (vsaveImage s).length) = (ps, t))
    (hf : firstFail ps = none) :
    Begun saveAttr true (.vsave a) s (retireV (storeUnits t false (savedBytes s (capture s false a)) ps)) := by
  refine begun_of_vector (exec_vsave ..) rfl ?_
  dsimp only
  rw [if_neg (by rw [h]; decide)]
  exact storeVec_whole hp hf (.inl rfl)

/-! The image that VRESTORE accepts, and the state that it sets (R128). -/

theorem badImage_iff {b : List Byte} : badImage s b = true ↔
    at_ b 30 1 ≠ 1 ∨ at_ b 29 1 ≠ groupCount s s.cpu.id ∨ (∃ n < 32, 16 < at_ b (32 + n) 1) ∨
      grantBits s / (8 * 2 ^ (at_ b 28 1 % 4)) < at_ b 0 8 ∨ 2047 < at_ b 8 8 := by
  simp only [badImage, Bool.or_eq_true, bne_iff_ne, List.any_eq_true, List.mem_range, decide_eq_true_eq, or_assoc]

theorem tagNum_tagOf : ∀ n < 17, tagNum (tagOf n) = n := by decide

theorem imageBytes_le (s : State) : imageBytes s ≤ 2048 := by
  have hcount : groupCount s s.cpu.id ≤ 8 := (List.length_filter_le ..).trans_eq List.length_range
  unfold imageBytes
  omega

theorem restoreImage_reg (s : State) (b : List Byte) (n : Fin 32) :
    (restoreImage s b).cpu.live.vec.regs.get n =
      { tag := tagOf (at_ b (32 + n.val) 1)
        img := BitVec.ofNat 16384 (at_ b (1856 + imageBytes s * n.val) (imageBytes s)) } :=
  Vector.getElem_ofFn n.isLt

theorem restoreImage_mask (s : State) (b : List Byte) (m : Fin 7) :
    (restoreImage s b).cpu.live.vec.masks.get m = BitVec.ofNat 2048 (at_ b (64 + 256 * m.val) 256) :=
  Vector.getElem_ofFn m.isLt

theorem restoreImage_restored (s : State) (b : List Byte) : RestoredFrom s b (restoreImage s b).cpu.live.vec where
  numbers := ⟨rfl, rfl, toNat_ofNat_at b 16 (by decide), toNat_ofNat_at b 24 (by decide), rfl⟩
  tags n hn := by
    rw [restoreImage_reg]
    exact tagNum_tagOf _ (Nat.lt_succ_of_le hn)
  masks m := by rw [restoreImage_mask, toNat_ofNat_at b _ (by decide)]
  images n := by
    rw [restoreImage_reg, ← imageBytes_eq]
    exact toNat_ofNat_at b _ (Nat.mul_le_mul_left 8 (imageBytes_le s))
  queue := rfl

/-- VRESTORE whose accesses all pass, from an image that it accepts. -/
theorem vrestore_begun (h : (capture s false a).toNat % 64 = 0) {ps qs : List (Unit_ × Probe)}
    {got more : List TlbEntry} {t u v x : State} {hs bs : List (Unit_ × List Byte)}
    (hp : probeFrom s [] .read (rangeUnits (capture s false a) 0 64) = (ps, got, t)) (hf : firstFail ps = none)
    (hr : loadUnits t false ps = (some hs, u)) (hgood : badImage u (hs.map (·.2)).flatten = false)
    (hp' : probeFrom u got .read (rangeUnits (capture s false a) 64 (1792 + 32 * imageBytes u)) = (qs, more, v))
    (hf' : firstFail qs = none) (hr' : loadUnits v false qs = (some bs, x)) :
    Begun (vecAttr .predicate false) true (.vrestore a) s
      (retire (restoreImage x ((hs.map (·.2)).flatten ++ (bs.map (·.2)).flatten))) := by
  refine begun_of_vector (exec_vrestore ..) rfl ?_
  dsimp only
  rw [if_neg (by rw [h]; decide), loadWhole_reads hp hf hr, hgood, if_neg (by decide)]
  exact loadWhole_reads hp' hf' hr'

/-- Settles O34: VFOLD by `foldElem_eq`, and the image of VSAVE and VRESTORE field by field. -/
theorem vectorStateInstructions : Obligations.VectorStateInstructions := by
  intro s d a tag
  refine ⟨begun_of_vector (exec_vtag ..) rfl rfl, begun_of_vector (exec_vclr ..) rfl rfl,
    fun t hd ht hl hf => ⟨fun hvl => begun_congr (vfold_begun hd ht hl hf) (if_pos hvl),
      fun hvl => vfold_folds hd ht hf hl hvl⟩,
    vsaveImage_saved s, fun h ps t hp hf => vsave_begun h hp hf, fun h => badImage_iff,
    fun b => ⟨rfl, restoreImage_restored s b⟩, ?_⟩
  exact fun h ps got t hs u qs more v bs x hp hf hr hgood hp' hf' hr' => vrestore_begun h hp hf hr hgood hp' hf' hr'

end Sys2Proof.Machine
end

section
/-!
PROOF. The compares, the members on mask registers, and what a write of a mask leaves (O41).
-/

namespace Sys2Proof.Machine

open Sys2Proof.Claims

variable {s : State}

/-! A mask register written, bit by bit (R112, R114, R145, R176). -/

/-- The bit and the exceptions of each element below vl. -/
def maskResults (s : State) (d k : KReg) (f : Nat → Bool × Flags) : List (Bool × Flags) :=
  (List.range (vecOf s).vl).map fun i => if active s k i then f i else (maskBit s d i, 0)

/-- The value that `writeMask` gives the register. -/
def newMask (s : State) (d k : KReg) (f : Nat → Bool × Flags) : BitVec 2048 :=
  BitVec.ofNat 2048 (packSlots 1 ((maskResults s d k f).map fun x => x.1.toNat))

/-- The exceptions that `writeMask` accrues. -/
def maskFlags (s : State) (d k : KReg) (f : Nat → Bool × Flags) : Flags :=
  allFlags ((maskResults s d k f).map fun x => (x.1.toNat, x.2))

/-- The state of a mask result before completion. -/
def maskPut (s : State) (d k : KReg) (f : Nat → Bool × Flags) : State :=
  if (vecOf s).vl = 0 then s
  else modVec (accrue s (maskFlags s d k f)) fun x =>
    { x with masks := x.masks.set (Fin.ofNat 7 (d.val - 1)) (newMask s d k f) }

section

variable {d k : KReg} {f : Nat → Bool × Flags}

theorem maskPut_empty (h : s.cpu.live.vec.vl = 0) : maskPut s d k f = s := if_pos h

theorem maskPut_nonempty (h : s.cpu.live.vec.vl ≠ 0) : maskPut s d k f =
    modVec (accrue s (maskFlags s d k f)) fun x =>
      { x with masks := x.masks.set (Fin.ofNat 7 (d.val - 1)) (newMask s d k f) } := if_neg h

theorem writeMask_eq (s : State) (d k : KReg) (f : Nat → Bool × Flags) :
    writeMask s d k f = retireV (maskPut s d k f) := by
  by_cases h : s.cpu.live.vec.vl = 0
  · rw [maskPut_empty h]
    exact if_pos h
  · rw [maskPut_nonempty h, maskFlags, allFlags, List.foldl_map]
    exact if_neg h

theorem maskResults_noneHeld : maskResults (noneHeld s) d k f = maskResults s d k f := by
  simp only [maskResults, active, effK, prefixOf_noneHeld]
  rfl

theorem maskPut_noneHeld : maskPut (noneHeld s) d k f = noneHeld (maskPut s d k f) := by
  by_cases h : s.cpu.live.vec.vl = 0
  · rw [maskPut_empty h, maskPut_empty (s := noneHeld s) h]
  · rw [maskPut_nonempty h, maskPut_nonempty (s := noneHeld s) h, maskFlags, newMask, maskResults_noneHeld]
    rfl

theorem heldBack_maskPut : heldBack (maskPut s d k f) = heldBack s := by
  unfold maskPut
  split <;> rfl

theorem writeMask_noneHeld (s : State) (d k : KReg) (f : Nat → Bool × Flags) :
    writeMask s d k f = performHeld (writeMask (noneHeld s) d k f) (heldBack s) := by
  rw [writeMask_eq, writeMask_eq, retireV_noneHeld, maskPut_noneHeld, heldBack_maskPut]

/-- A mask result changes no other part of the vector state, and no g register, memory or future. -/
theorem maskPut_frame (s : State) (d k : KReg) (f : Nat → Bool × Flags) :
    let u := maskPut s d k f
    u.cpu.live.vec = { s.cpu.live.vec with masks := u.cpu.live.vec.masks } ∧ u.cpu.live.g = s.cpu.live.g ∧
      u.mem = s.mem ∧ u.futs = s.futs := by
  unfold maskPut
  split <;> exact ⟨rfl, rfl, rfl, rfl⟩

/-- Where the model keeps mask register k1 to k7. -/
theorem maskIndex_eq (hd : d ≠ 0) (n : Fin 7) : Fin.ofNat 7 (d.val - 1) = n ↔ n.val + 1 = d.val := by
  have hd : d.val ≠ 0 := Fin.val_ne_iff.mpr hd
  rw [Fin.ext_iff, Fin.val_ofNat]
  omega

theorem maskBit_eq {n : Fin 7} (hn : n.val + 1 = d.val) (i : Nat) :
    maskBit s d i = (s.cpu.live.vec.masks.get n).getLsbD i := by
  have hd : d ≠ 0 := Fin.val_ne_iff.mp (by rw [← hn]; exact Nat.succ_ne_zero _)
  rw [maskBit, if_neg hd, (maskIndex_eq hd n).mpr hn]
  rfl

theorem testBit_packSlots (vs : List Nat) (i : Nat) : (packSlots 1 vs).testBit i = decide (vs.getD i 0 % 2 = 1) := by
  have hslot := packSlots_slot 1 i vs
  rw [Nat.mul_one, Nat.pow_one] at hslot
  rw [Nat.testBit_eq_decide_div_mod_eq, hslot]

theorem newMask_bit {i : Nat} (hi : i < s.cpu.live.vec.vl) (hw : i < 2048) :
    (newMask s d k f).getLsbD i = if active s k i then (f i).1 else maskBit s d i := by
  have hget : ((maskResults s d k f).map fun x => x.1.toNat).getD i 0 =
      (if active s k i then (f i).1 else maskBit s d i).toNat := by
    simp only [maskResults, List.map_map, List.getD_eq_getElem?_getD, List.getElem?_map, vecOf,
      List.getElem?_range hi, Option.map_some, Option.getD_some, Function.comp_apply]
    split <;> rfl
  rw [newMask, BitVec.getLsbD_ofNat, testBit_packSlots, hget, decide_eq_true hw, Bool.true_and]
  cases (if active s k i then (f i).1 else maskBit s d i) <;> rfl

theorem newMask_tail {i : Nat} (hi : s.cpu.live.vec.vl ≤ i) : (newMask s d k f).getLsbD i = false := by
  have hnone : ((maskResults s d k f).map fun x => x.1.toNat).getD i 0 = 0 := by
    rw [List.getD_eq_default]
    simpa [maskResults, vecOf] using hi
  rw [newMask, BitVec.getLsbD_ofNat, testBit_packSlots, hnone]
  exact Bool.and_false _

theorem maskFlags_getLsbD (j : Nat) : (maskFlags s d k f).getLsbD j =
    (List.range s.cpu.live.vec.vl).any fun i => active s k i && (f i).2.getLsbD j := by
  rw [maskFlags, allFlags_getLsbD, maskResults, List.any_map, List.any_map]
  congr 1
  funext i
  simp only [Function.comp_apply]
  cases active s k i <;> simp

theorem maskDestination (hd : d ≠ 0) (f : Nat → Bool × Flags) : MaskDestination s d k f := by
  refine ⟨writeMask_noneHeld s d k f, ?_⟩
  intro u v mask
  obtain ⟨hvec, hg, hmem, hfuts⟩ := maskPut_frame s d k f
  have hnone := holdsNone_noneHeld (maskPut s d k f)
  have hu : u = retireV (noneHeld (maskPut s d k f)) := by rw [← maskPut_noneHeld]; exact writeMask_eq ..
  have huvec : u.cpu.live.vec = { (maskPut s d k f).cpu.live.vec with vbeg := 0 } := by
    rw [hu, retireV_vec hnone]; rfl
  have hufst : u.cpu.live.fst = (maskPut s d k f).cpu.live.fst := by rw [hu, retireV_fst hnone]; rfl
  have hmask (n : Fin 7) : mask u n = (maskPut s d k f).cpu.live.vec.masks.get n := by
    simp only [mask, huvec]
  have hnew (hvl : s.cpu.live.vec.vl ≠ 0) (n : Fin 7) (hn : n.val + 1 = d.val) : mask u n = newMask s d k f := by
    rw [hmask, maskPut_nonempty hvl, ← (maskIndex_eq hd n).mpr hn]
    exact Vector.getElem_set_self _
  refine ⟨?vec, ?g, ?mem, ?futs, fun n hn => ?others, fun hvl => ?empty, fun hvl n hn => ⟨fun i hi hw => ?bits,
    fun i hi => ?tail, fun j => ?flags⟩⟩
  case vec => rw [huvec, hvec]
  case g => rw [hu, retireV_g hnone]; exact hg
  case mem => rw [hu, retireV_mem hnone]; exact hmem
  case futs => rw [hu, retireV_futs hnone]; exact hfuts
  case others =>
    rw [hmask]
    by_cases hvl : s.cpu.live.vec.vl = 0
    · rw [maskPut_empty hvl]
    · rw [maskPut_nonempty hvl]
      exact Vector.getElem_set_ne (Fin.isLt _) n.isLt fun h => hn ((maskIndex_eq hd n).mp (Fin.ext h))
  case empty =>
    rw [huvec, hufst, maskPut_empty hvl]
    exact ⟨rfl, rfl⟩
  case bits => rw [hnew hvl n hn, newMask_bit hi hw, maskBit_eq hn]
  case tail => rw [hnew hvl n hn, newMask_tail hi]
  case flags =>
    rw [hufst, maskPut_nonempty hvl, ← maskFlags_getLsbD (d := d)]
    exact BitVec.getLsbD_or

end

/-! The members (R176, R177). -/

section

variable {i : Instr} {form : VForm} {d k : KReg} {a b : Reg}

theorem compares_of_compare {ok : Ty → Bool} {fi : Int → Int → Bool} {ff : FpVal → FpVal → Bool} {anyNaN : Bool}
    (he : exec i s = compare i form d a b k s ok fi ff anyNaN) : Compares i s form d a b k ok fi ff anyNaN :=
  fun _ hp hf => begun_of_vector he rfl (withPair_fits hp hf)

theorem vclass_begun {t : Ty} (ha : (vreg s a).tag = some t) (hok : tyFp t = true) (hf : Fits s [tyBits t]) :
    Begun (vecAttr .predicate) true (.vclass d a b k) s (writeMask s d k fun j =>
      ((capture s false b).getLsbD (fpClass (fmtOf t) (slot (vreg s a).img j (tyBits t))), 0)) :=
  begun_of_vector (exec_vclass ..) rfl (taggedSource_fits ha hok hf)

theorem masks_of_maskOp {f : State → Nat → Bool} {g : Nat → Bool} (he : exec i s = maskOp i d k s f) (hg : f s = g) :
    Masks i s d k g := by
  subst hg
  exact begun_of_vector he rfl rfl

theorem maskCount_begun {r : Reg} {m : KReg} {f : List Nat → Word} (he : exec i s = maskCount i r m k s f) :
    Begun (vecAttr .copyG) true i s (retireV (result s r
      (f ((List.range s.cpu.live.vec.vl).filter fun j => maskBit s m j && active s k j)))) :=
  begun_of_vector he rfl rfl

theorem firstSet_eq (m : KReg) :
    firstSet s m = ((List.range s.cpu.live.vec.vl).find? (maskBit s m)).getD s.cpu.live.vec.vl := by
  simp [firstSet, firstIn, span, vecOf]

theorem kfirst_begun {r : Reg} {m : KReg} : Begun (vecAttr .copyG) true (.kfirst r m k) s
    (retireV (result s r ((((List.range s.cpu.live.vec.vl).filter fun j => maskBit s m j && active s k j).head?.map
      fun j => BitVec.ofNat 64 j).getD (BitVec.allOnes 64)))) := by
  refine begun_congr (maskCount_begun (exec_kfirst ..)) ?_
  cases (List.range s.cpu.live.vec.vl).filter fun j => maskBit s m j && active s k j <;> rfl

end

/-- Settles O41: each compare is a `compare`, each member on masks a `maskOp` or a `maskCount`, and what a write of a mask
leaves is `maskDestination`. -/
theorem maskInstructions : Obligations.MaskInstructions := by
  intro s form d m n k a b r
  exact ⟨compares_of_compare (exec_vceq ..), compares_of_compare (exec_vcne ..), compares_of_compare (exec_vclt ..),
    compares_of_compare (exec_vcle ..), compares_of_compare (exec_vcgt ..), compares_of_compare (exec_vcge ..),
    compares_of_compare (exec_vcun ..), fun t => vclass_begun, masks_of_maskOp (exec_kand ..) rfl,
    masks_of_maskOp (exec_kor ..) rfl, masks_of_maskOp (exec_kxor ..) rfl, masks_of_maskOp (exec_knot ..) rfl,
    masks_of_maskOp (exec_kandn ..) rfl, masks_of_maskOp (exec_kmov ..) rfl,
    masks_of_maskOp (exec_ksbf ..) (by rw [firstSet_eq]), masks_of_maskOp (exec_ksif ..) (by rw [firstSet_eq]),
    begun_congr (maskCount_begun (exec_kpopc ..)) rfl, kfirst_begun, maskDestination⟩

end Sys2Proof.Machine
end

section
/-!
SUPPORT. The lane groups of a grant: sets of groups bit by bit, the groups that a new grant takes, and its size.
-/

namespace Sys2Proof.Machine

open Sys2Proof.Claims

/-! Sets of lane groups, bit by bit (R102 to R107). -/

theorem oneBit_getLsbD {i : Nat} (hi : i < 8) (j : Nat) : ((1 : BitVec 8) <<< i).getLsbD j = decide (j = i) := by
  rw [BitVec.getLsbD_shiftLeft]
  change (_ && _ && (1#8).getLsbD (j - i)) = _
  rw [BitVec.getLsbD_one, Bool.eq_iff_iff]
  simp only [Bool.and_eq_true, Bool.not_eq_true', decide_eq_true_eq, decide_eq_false_iff_not]
  omega

theorem homeSet_getLsbD (core j : Nat) : (homeSet core).getLsbD j = decide (j = core % 8) :=
  oneBit_getLsbD (Nat.mod_lt core (by decide)) j

theorem getLsbD_foldl_oneBits {l : List Nat} (hl : ∀ i ∈ l, i < 8) (x : BitVec 8) (j : Nat) :
    (l.foldl (fun a i => a ||| (1 : BitVec 8) <<< i) x).getLsbD j = (x.getLsbD j || decide (j ∈ l)) := by
  induction l generalizing x with
  | nil => simp
  | cons i l ih =>
    obtain ⟨hi, hl⟩ := List.forall_mem_cons.mp hl
    rw [List.foldl_cons, ih hl, BitVec.getLsbD_or, oneBit_getLsbD hi, Bool.or_assoc]
    simp

/-- A set that consists of the listed groups has as many. -/
theorem popN_of_bits {x : BitVec 8} {l : List Nat} (hn : l.Nodup)
    (h : ∀ j, j ∈ l ↔ j < 8 ∧ x.getLsbD j = true) : popN 8 x.toNat = l.length := by
  refine ((List.perm_ext_iff_of_nodup (List.nodup_range.filter _) hn).mpr fun j => ?_).length_eq
  rw [h, List.mem_filter, List.mem_range, BitVec.testBit_toNat]

/-- The groups of a cluster's core, by the core's number in it. -/
theorem gmap_ofCluster (s : State) (core : Nat) {i : Nat} (hi : i < 8) :
    gmap s (clusterOf core * 8 + i) = (clusterAt s (clusterOf core)).grants.get (Fin.ofNat 8 i) := by
  have hcluster : clusterOf (clusterOf core * 8 + i) = clusterOf core := by unfold clusterOf; omega
  have hcore : (clusterOf core * 8 + i) % 8 = i := by omega
  rw [gmap, hcluster, hcore]

theorem heldByOthers_getLsbD (s : State) (core j : Nat) : (heldByOthers s core).getLsbD j =
    (List.range 8).any fun i =>
      i != core % 8 && ((clusterAt s (clusterOf core)).grants.get (Fin.ofNat 8 i)).getLsbD j := by
  have hfold (l : List Nat) (hl : ∀ i ∈ l, i < 8) (x : BitVec 8) :
      (l.foldl (fun a i => if i = core % 8 then a else a ||| gmap s (clusterOf core * 8 + i)) x).getLsbD j =
        (x.getLsbD j || l.any fun i =>
          i != core % 8 && ((clusterAt s (clusterOf core)).grants.get (Fin.ofNat 8 i)).getLsbD j) := by
    induction l generalizing x with
    | nil => simp
    | cons i l ih =>
      obtain ⟨hi, hl⟩ := List.forall_mem_cons.mp hl
      rw [List.foldl_cons, ih hl, List.any_cons]
      by_cases hc : i = core % 8
      · simp [hc]
      · rw [if_neg hc, bne_iff_ne.mpr hc, BitVec.getLsbD_or, Bool.true_and, Bool.or_assoc, gmap_ofCluster s core hi]
  rw [heldByOthers, hfold _ fun i hi => List.mem_range.mp hi]
  simp

theorem freeShared_getLsbD (s : State) (core : Nat) {j : Nat} (hj : j < 8) : (freeShared s core).getLsbD j =
    (j != core % 8 && !(marked s core).getLsbD j &&
      ((gmap s core).getLsbD j || !(heldByOthers s core).getLsbD j)) := by
  have htable : ∀ home mark mine others : Bool, (!others && !home && !mine && !mark || mine && !home && !mark) =
      (!home && !mark && (mine || !others)) := by decide
  simp only [freeShared, BitVec.getLsbD_or, BitVec.getLsbD_and, BitVec.getLsbD_not, homeSet_getLsbD, hj, decide_true,
    Bool.true_and]
  exact htable (decide (j = core % 8)) _ _ _

/-! The groups of a new grant (R105). -/

/-- The groups that `takeGroups` takes, in its order. -/
def groupOrder (first set : BitVec 8) : List Nat :=
  ((List.range 8).filter fun i => first.getLsbD i) ++
    (List.range 8).filter fun i => set.getLsbD i && !first.getLsbD i

theorem mem_groupOrder {first set : BitVec 8} (hsub : ∀ j < 8, first.getLsbD j = true → set.getLsbD j = true)
    (j : Nat) : j ∈ groupOrder first set ↔ j < 8 ∧ set.getLsbD j = true := by
  simp only [groupOrder, List.mem_append, List.mem_filter, List.mem_range, Bool.and_eq_true, Bool.not_eq_true']
  cases hf : first.getLsbD j with
  | false => simp
  | true =>
    have hset : j < 8 → set.getLsbD j = true := fun hj => hsub j hj hf
    simpa using hset

theorem nodup_groupOrder (first set : BitVec 8) : (groupOrder first set).Nodup := by
  refine (List.nodup_range.filter _).append (List.nodup_range.filter _) fun j hj hj' => ?_
  have hfirst := (List.mem_filter.mp hj).2
  have hnot := (List.mem_filter.mp hj').2
  rw [hfirst] at hnot
  simp at hnot

theorem length_groupOrder {first set : BitVec 8} (hsub : ∀ j < 8, first.getLsbD j = true → set.getLsbD j = true) :
    (groupOrder first set).length = popN 8 set.toNat :=
  (popN_of_bits (nodup_groupOrder first set) (mem_groupOrder hsub)).symm

theorem getLsbD_takeGroups {first set : BitVec 8} (hsub : ∀ j < 8, first.getLsbD j = true → set.getLsbD j = true)
    (n j : Nat) : (takeGroups n first set).getLsbD j = decide (j ∈ (groupOrder first set).take n) := by
  refine (getLsbD_foldl_oneBits (l := (groupOrder first set).take n) (fun i hi => ?_) 0 j).trans (by simp)
  exact ((mem_groupOrder hsub i).mp (List.mem_of_mem_take hi)).1

/-- The unmarked shared groups that a core holds, which its new grant keeps first. -/
def keptGroups (s : State) (core : Nat) : BitVec 8 := gmap s core &&& ~~~(homeSet core) &&& ~~~(marked s core)

theorem keptGroups_free (s : State) (core : Nat) :
    ∀ j < 8, (keptGroups s core).getLsbD j = true → (freeShared s core).getLsbD j = true := by
  intro j hj h
  rw [freeShared_getLsbD s core hj]
  simp only [keptGroups, BitVec.getLsbD_and, BitVec.getLsbD_not, homeSet_getLsbD, hj, decide_true, Bool.true_and,
    Bool.and_eq_true, Bool.not_eq_true', decide_eq_false_iff_not] at h
  obtain ⟨⟨hmine, hhome⟩, hmark⟩ := h
  simp [hmine, hhome, hmark]

/-- The groups of a grant: the home group before the shared ones. -/
def grantList (s : State) (core n : Nat) : List Nat :=
  core % 8 :: (groupOrder (keptGroups s core) (freeShared s core)).take (n - 1)

theorem getLsbD_chooseGrant (s : State) (core n j : Nat) :
    (chooseGrant s core n).getLsbD j = decide (j ∈ grantList s core n) := by
  have hgrant : chooseGrant s core n =
      homeSet core ||| takeGroups (n - 1) (keptGroups s core) (freeShared s core) := rfl
  rw [hgrant, BitVec.getLsbD_or, homeSet_getLsbD, getLsbD_takeGroups (keptGroups_free s core), grantList]
  simp

theorem nodup_grantList (s : State) (core n : Nat) : (grantList s core n).Nodup := by
  refine List.nodup_cons.mpr ⟨fun hmem => ?_, (nodup_groupOrder _ _).sublist (List.take_sublist ..)⟩
  obtain ⟨hj, hfree⟩ := (mem_groupOrder (keptGroups_free s core) _).mp (List.mem_of_mem_take hmem)
  rw [freeShared_getLsbD s core hj] at hfree
  simp at hfree

theorem popN_chooseGrant {core n : Nat} (h1 : 1 ≤ n) (hn : n ≤ 1 + popN 8 (freeShared s core).toNat) :
    popN 8 (chooseGrant s core n).toNat = n := by
  rw [popN_of_bits (nodup_grantList s core n) fun j => ?_]
  · rw [grantList, List.length_cons, List.length_take, length_groupOrder (keptGroups_free s core)]
    omega
  · rw [getLsbD_chooseGrant, decide_eq_true_eq, iff_and_self, grantList, List.mem_cons]
    rintro (rfl | hmem)
    · exact Nat.mod_lt _ (by decide)
    · exact ((mem_groupOrder (keptGroups_free s core) j).mp (List.mem_of_mem_take hmem)).1

theorem gmap_modCluster {f : Cluster → Cluster} (hf : ∀ c, (f c).grants = c.grants) (s : State) (core : Nat) :
    gmap (modCluster s (clusterOf core) f) core = gmap s core := by
  rw [gmap, clusterAt_modCluster, hf]
  rfl

theorem gmap_grantTo (s : State) (n : Nat) : gmap (grantTo s n) s.cpu.id = chooseGrant s s.cpu.id n := by
  refine (gmap_modCluster (f := fun c => { c with marks := c.marks ||| (heldByOthers s s.cpu.id &&& homeSet s.cpu.id) })
    ?_ (setGrant s s.cpu.id (chooseGrant s s.cpu.id n)) s.cpu.id).trans (gmap_setGrant ..)
  exact fun _ => rfl

/-! The size of a grant (R104). -/

theorem le_pow2Floor {m n : Nat} (hm : m ∈ [1, 2, 4, 8]) : m ≤ pow2Floor n ↔ m = 1 ∨ m ≤ n := by
  simp only [List.mem_cons, List.not_mem_nil, or_false] at hm
  unfold pow2Floor
  split_ifs <;> omega

theorem pow2Floor_mem (n : Nat) : pow2Floor n ∈ [1, 2, 4, 8] := by
  unfold pow2Floor
  split_ifs <;> simp

/-- FreeShared, group by group. -/
theorem popN_freeShared (s : State) : popN 8 (freeShared s s.cpu.id).toNat =
    ((List.range 8).filter fun j =>
      let c := clusterAt s (clusterOf s.cpu.id)
      let holds (i : Nat) : Bool := (c.grants.get (Fin.ofNat 8 i)).getLsbD j
      j != s.cpu.id % 8 && !c.marks.getLsbD j &&
        (holds (s.cpu.id % 8) || (List.range 8).all fun i => i == s.cpu.id % 8 || !holds i)).length := by
  refine congrArg List.length (List.filter_congr fun j hj => ?_)
  rw [BitVec.testBit_toNat, freeShared_getLsbD s s.cpu.id (List.mem_range.mp hj), heldByOthers_getLsbD,
    List.not_any_eq_all_not]
  simp only [Bool.not_and, bne, Bool.not_not]
  rfl

theorem bridle_granted (s : State) (n w : Nat) : Granted s n w (bridle s n w) where
  power := pow2Floor_mem _
  largest m hm := by
    rw [bridle, le_pow2Floor hm, popN_freeShared, cdiv]
    simp only [List.mem_cons, List.not_mem_nil, or_false] at hm
    simp only [le_inf_iff, le_sup_iff]
    omega

theorem one_le_bridle (s : State) (n w : Nat) : 1 ≤ bridle s n w :=
  ((bridle_granted s n w).largest 1 (.head _)).mpr (.inl rfl)

theorem bridle_le_free (s : State) (n w : Nat) : bridle s n w ≤ 1 + popN 8 (freeShared s s.cpu.id).toNat := by
  rcases ((bridle_granted s n w).largest _ (bridle_granted s n w).power).mp le_rfl with h | ⟨-, -, -, -, h⟩
  · omega
  · rwa [popN_freeShared]

end Sys2Proof.Machine
end

section
/-!
PROOF. The state of a new length, and the wait of a VSETLW (O33).
-/

namespace Sys2Proof.Machine

open Sys2Proof.Claims

variable {s : State} {d a b : Reg} {wc : Fin 4}

/-! The state of a new length (R120, R121). -/

theorem gmap_setLength (s : State) (n : Nat) (wc : Fin 4) :
    gmap (setLength s n wc) s.cpu.id = chooseGrant s s.cpu.id (bridle s n (codeBits wc)) := gmap_grantTo s _

theorem groupCount_setLength (s : State) (n : Nat) (wc : Fin 4) :
    groupCount (setLength s n wc) s.cpu.id = bridle s n (codeBits wc) := by
  rw [groupCount, gmap_setLength, popN_chooseGrant (one_le_bridle ..) (bridle_le_free ..)]

theorem home_setLength (s : State) (n : Nat) (wc : Fin 4) :
    (gmap (setLength s n wc) s.cpu.id).getLsbD (s.cpu.id % 8) = true := by
  rw [gmap_setLength, getLsbD_chooseGrant, grantList]
  simp

theorem vreg_setLength (s : State) (n : Nat) (wc : Fin 4) (r : Reg) :
    (vreg (setLength s n wc) r).tag = (vreg s r).tag ∧ ∀ i, (vreg (setLength s n wc) r).img.getLsbD i =
      ((vreg s r).img.getLsbD i && decide (i < grantBits (setLength s n wc))) := by
  have hbits : grantBits (setLength s n wc) = 2048 * bridle s n (codeBits wc) :=
    congrArg (2048 * ·) (groupCount_setLength s n wc)
  have hreg : vreg (setLength s n wc) r = { vreg s r with
      img := BitVec.ofNat 16384 ((vreg s r).img.toNat % 2 ^ (2048 * bridle s n (codeBits wc))) } :=
    Vector.getElem_map ..
  rw [hreg, hbits]
  refine ⟨rfl, fun i => ?_⟩
  rw [BitVec.getLsbD_ofNat, Nat.testBit_mod_two_pow, BitVec.testBit_toNat]
  by_cases hi : i < 16384
  · simp [hi, Bool.and_comm]
  · simp [hi, BitVec.getLsbD_of_ge _ i (Nat.not_lt.mp hi)]

/-! The look of a VSETLW at its counter (R122, R261). -/

/-- The acquire of a VSETLW that returns keeps the vector state. -/
theorem vec_invalidate_endHold (t : State) : vecOf (invalidate (endHold t) t.cpu.id) = t.cpu.live.vec := by
  have h : Undisturbed (endHold t) (invalidate (endHold t) t.cpu.id) := undisturbed_modCore rfl rfl rfl rfl
  rw [vecOf, h.live]
  rfl

/-- The state after the read of a counter at its home, with the value read. -/
def stripRead (s : State) (p : Place) : Nat × State :=
  let r := homeRead (settleL1 s p 8) p 8
  (ofBytes r.1, atomicPoint r.2 p)

/-- The threshold of a VSETLW and the state of its length, from the state after its read. -/
def stripLength (q : State) (a : Reg) (wc : Fin 4) : State := setLength q (reg q a).toNat wc
def stripThr (q : State) (d a : Reg) (wc : Fin 4) : Nat :=
  (reg q d).toNat + (stripLength q a wc).cpu.live.vec.vl

/-- A VSETLW whose counter has reached its threshold returns the length. -/
def stripReturns (t : State) (d : Reg) : State :=
  retire (result (invalidate (endHold t) t.cpu.id) d (BitVec.ofNat 64 t.cpu.live.vec.vl))

section

variable {p : Place} {below : State → State → Nat → State}

theorem stripLook_sound (h : poisoned s (placePa p) 8 = false) : stripLook s p d a wc below =
    let q := (stripRead s p).2
    if stripThr q d a wc ≤ (stripRead s p).1 then stripReturns (stripLength q a wc) d
    else below q (stripLength q a wc) (stripThr q d a wc) := by
  have hreturns (t : State) : retire (result (invalidate (endHold t) t.cpu.id) d
      (BitVec.ofNat 64 (vecOf (invalidate (endHold t) t.cpu.id)).vl)) = stripReturns t d := by
    rw [vec_invalidate_endHold, stripReturns]
  unfold stripLook
  rw [if_neg (Bool.eq_false_iff.mp h)]
  exact ite_congr rfl (fun _ => hreturns _) fun _ => rfl

theorem stripLook_met (h : poisoned s (placePa p) 8 = false)
    (hthr : stripThr (stripRead s p).2 d a wc ≤ (stripRead s p).1) :
    stripLook s p d a wc below = stripReturns (stripLength (stripRead s p).2 a wc) d :=
  (stripLook_sound h).trans (if_pos hthr)

theorem stripLook_below (h : poisoned s (placePa p) 8 = false)
    (hthr : (stripRead s p).1 < stripThr (stripRead s p).2 d a wc) :
    stripLook s p d a wc below = below (stripRead s p).2 (stripLength (stripRead s p).2 a wc)
      (stripThr (stripRead s p).2 d a wc) :=
  (stripLook_sound h).trans (if_neg (Nat.not_le.mpr hthr))

end

/-- A VSETLW that nothing turns away. -/
theorem vsetlw_runs (h : Runs (lengthAttr true) (.vsetlw d a b wc) s) (hd : discarded s = false)
    (hr : reclaimable s = false) : exec (.vsetlw d a b wc) s = .next (heldStrip s d a wc fun s =>
      (checkAccess s (.vsetlw d a b wc) .read (getG s b).toNat 8).done fun p s =>
        stripLook s p d a wc fun s t thr => stripWait s t (.vsetlw d a b wc) p thr) := by
  rw [exec_vsetlw, execVsetlw, issue_runs h (by rw [hr, Bool.and_false]), if_neg (Bool.eq_false_iff.mp hd),
    if_neg (Bool.eq_false_iff.mp hr)]

theorem heldStrip_new {k : State → State} (h : heldHere s = false) : heldStrip s d a wc k = k s := by
  rw [heldStrip, h]

theorem heldStrip_held {k : State → State} {h : HoldAt} {p : Place} {n : Nat} (hh : heldHere s = true)
    (hat : s.cpu.live.holdAt = some h) (hw : h.wait = .strip p n) : heldStrip s d a wc k =
      stripLook s p d a wc fun s _ _ => if holdRoom s h then k (endHold s) else waitHere s := by
  rw [heldStrip, hh, hat]
  dsimp only
  rw [hw]

/-- The record of a VSETLW that suspends. -/
def stripRec (t : State) (p : Place) (thr : Nat) : Rec :=
  forcedRec t { t.cpu.live with stepDue := false } .suspended (.strip p thr) false true

section

variable {q t v : State} {i : Instr} {p : Place} {thr : Nat}

theorem cooperates_iff : (preApplies s && s.cpu.preMode = 1) = true ↔ Cooperates s := by
  simp only [preApplies, Cooperates, Bool.and_eq_true, decide_eq_true_eq, bne_iff_ne]
  exact ⟨fun ⟨⟨⟨hw, _⟩, hc⟩, hm⟩ => ⟨hw, hm, hc⟩, fun ⟨hw, hm, hc⟩ => ⟨⟨⟨hw, by rw [hm]; decide⟩, hc⟩, hm⟩⟩

theorem stripWait_eq (q t : State) (i : Instr) (p : Place) (thr : Nat) : stripWait q t i p thr =
    orHold q { word := wordOf i, wait := .strip p thr, size := recBytes (stripRec t p thr), switches := true }
      (saveRec t (stripRec t p thr)) fun u => if preApplies q && q.cpu.preMode = 1 then preDone u else u := rfl

theorem stripWait_saved (h : saveRec t (stripRec t p thr) = .ok v) :
    stripWait q t i p thr = if Cooperates q then requestDone v else v := by
  rw [stripWait_eq, h, orHold]
  simp only [cooperates_iff]
  rfl

theorem stripWait_full (h : saveRec t (stripRec t p thr) = .full) :
    stripWait q t i p thr = heldFor q
      { word := wordOf i, wait := .strip p thr, size := recBytes (stripRec t p thr), switches := true } := by
  rw [stripWait_eq, h]
  rfl

theorem stripWait_fault {va : Nat} (h : saveRec t (stripRec t p thr) = .fault va) :
    stripWait q t i p thr = takeTrap q 0x09 (BitVec.ofNat 64 va) := by
  rw [stripWait_eq, h]
  rfl

end

/-- A VSETLW held for want of ring space looks again (R261). -/
theorem vsetlw_held {h : HoldAt} {p : Place} {n : Nat} (hr : reclaimable s = false) (hh : heldHere s = true)
    (hruns : Runs (lengthAttr true) (.vsetlw d a b wc) s) (hd : discarded s = false)
    (hat : s.cpu.live.holdAt = some h) (hw : h.wait = .strip p n) (hp : poisoned s (placePa p) 8 = false) :
    let q := (stripRead s p).2
    (stripThr q d a wc ≤ (stripRead s p).1 →
      exec (.vsetlw d a b wc) s = .next (stripReturns (stripLength q a wc) d)) ∧
    ((stripRead s p).1 < stripThr q d a wc → holdRoom q h = false →
      exec (.vsetlw d a b wc) s = .next (waitHere q)) := by
  dsimp only
  rw [vsetlw_runs hruns hd hr, heldStrip_held hh hat hw]
  exact ⟨fun hthr => by rw [stripLook_met hp hthr],
    fun hthr hroom => by rw [stripLook_below hp hthr, hroom, if_neg (by decide)]⟩

/-- A VSETLW that is newly issued looks at its counter (R122). -/
theorem vsetlw_new {p : Place} {u : State} (hr : reclaimable s = false) (hh : heldHere s = false)
    (hruns : Runs (lengthAttr true) (.vsetlw d a b wc) s) (hd : discarded s = false)
    (hreach : Reaches s .read (reg s b).toNat 8 p u) (hp : poisoned u (placePa p) 8 = false) :
    let i := Instr.vsetlw d a b wc
    let q := (stripRead u p).2
    let t := stripLength q a wc
    let thr := stripThr q d a wc
    (thr ≤ (stripRead u p).1 → exec i s = .next (stripReturns t d)) ∧
    ((stripRead u p).1 < thr →
      (∀ v, saveRec t (stripRec t p thr) = .ok v → exec i s = .next (if Cooperates q then requestDone v else v)) ∧
      NoRoom i s q (saveRec t (stripRec t p thr))
        { word := wordOf i, wait := .strip p thr, size := recBytes (stripRec t p thr), switches := true }) := by
  have hexec : exec (.vsetlw d a b wc) s =
      .next (stripLook u p d a wc fun s t thr => stripWait s t (.vsetlw d a b wc) p thr) := by
    rw [vsetlw_runs hruns hd hr, heldStrip_new hh]
    dsimp only [reg_eq]
    rw [checkAccess_reaches hreach, Acc.done]
  dsimp only [NoRoom]
  rw [hexec]
  refine ⟨fun hthr => by rw [stripLook_met hp hthr], fun hthr => ?_⟩
  rw [stripLook_below hp hthr]
  exact ⟨fun v hv => by rw [stripWait_saved hv], fun hv => by rw [stripWait_full hv],
    fun va hv => by rw [stripWait_fault hv]⟩

theorem vsetl_runs (hr : reclaimable s = false) (hh : heldHere s = false)
    (h : Runs (lengthAttr true) (.vsetl d a wc) s) : exec (.vsetl d a wc) s = .next (does s
      (let t := setLength s (reg s a).toNat wc
       retire (result t d (BitVec.ofNat 64 t.cpu.live.vec.vl)))) := by
  rw [exec_vsetl, execVsetl, issue_runs h (by rw [hr, Bool.and_false]), atPoint_runs hr hh]
  rfl

theorem vmaxq_begun : Begun (lengthAttr false) false (.vmaxq d wc) s
    (retire (result s d (BitVec.ofNat 64 (2048 * bridle s 2048 (codeBits wc) / codeBits wc)))) :=
  fun h => (exec_vmaxq ..).trans (issueV_begins h rfl)

/-- Settles O33: the grant is `bridle`'s, and a VSETLW looks at its counter as `stripLook` says. -/
theorem vectorLength : Obligations.VectorLength := by
  intro s d a b wc hr
  refine ⟨fun hh hruns hd h p n hat hw hp => ?held, fun hh => ⟨vsetl_runs hr hh, fun hruns hd p u hreach hp => ?new⟩,
    vmaxq_begun, ?length⟩
  case held => exact vsetlw_held hr hh hruns hd hat hw hp
  case new => exact vsetlw_new hr hh hruns hd hreach hp
  case length =>
    exact ⟨bridle_granted .., groupCount_setLength .., home_setLength .., rfl, rfl, rfl, vreg_setLength s _ wc⟩

end Sys2Proof.Machine
end

section
/-!
PROOF. The element arithmetic of VARITH and VFMA (O35, O36): each binary member is a `vbin` and each unary one a `vun`
with its element function, which is compared pointwise with the manual's.
-/

namespace Sys2Proof.Machine

open Sys2Proof.Claims

variable {i : Instr} {s : State} {form : VForm} {d a b : Reg} {k : KReg}

/-! The binary members. -/

/-- A `vbin` writes its element function, or any other with the same values. -/
theorem binary_of_vbin {ok : Ty → Bool} {f g : Pair → Nat → Nat → Elt} (he : exec i s = vbin i form d a b k s ok f)
    (hg : ∀ p x y, f p x y = g p x y) : Binary i s form d a b k ok g := by
  intro p hp hf
  refine begun_of_vector he rfl ((withPair_fits hp hf).trans ?_)
  simp only [hg]

/-- A member on integers and floating-point values, its integer function spelled as the manual has it. -/
theorem arith_eq_ofEither {fi gi : Int → Int → Int} {ff : FpVal → FpVal → FpVal × Flags} (h : ∀ x y, fi x y = gi x y)
    (p : Pair) (x y : Nat) : arith fi ff p x y = ofEither gi ff p x y := by
  obtain rfl : fi = gi := funext₂ h
  rfl

/-- A member on the bits of elements, its function spelled as the manual has it. -/
theorem bitElt_eq_ofBits {f g : Nat → Nat → Nat → Nat} (h : ∀ n x y, f n x y = g n x y) (p : Pair) (x y : Nat) :
    bitElt f p x y = Claims.ofBits g p x y :=
  congrArg (fun v => (v % 2 ^ tyBits p.ty, 0)) (h ..)

theorem lesser_eq_min (x y : Int) : (if y < x then y else x) = min x y := by
  rw [min_comm, min_def_lt]

theorem greater_eq_max (x y : Int) : (if x < y then y else x) = max x y := (max_def_lt x y).symm

/-- Settles O35: each member is a `vbin`. The model's choice of the lesser and the greater integer is `min` and `max`, and
its shifts multiply and divide by a power of two. -/
theorem vectorArithmetic : Obligations.VectorArithmetic := by
  intro s form d a b k
  exact ⟨binary_of_vbin (exec_vadd ..) fun _ _ _ => rfl, binary_of_vbin (exec_vsub ..) fun _ _ _ => rfl,
    binary_of_vbin (exec_vrsub ..) fun _ _ _ => rfl, binary_of_vbin (exec_vmul ..) fun _ _ _ => rfl,
    binary_of_vbin (exec_vmulh ..) fun _ _ _ => rfl, binary_of_vbin (exec_vmin ..) (arith_eq_ofEither lesser_eq_min),
    binary_of_vbin (exec_vmax ..) (arith_eq_ofEither greater_eq_max), binary_of_vbin (exec_vdiv ..) fun _ _ _ => rfl,
    binary_of_vbin (exec_vrem ..) fun _ _ _ => rfl, binary_of_vbin (exec_vand ..) fun _ _ _ => rfl,
    binary_of_vbin (exec_vor ..) fun _ _ _ => rfl, binary_of_vbin (exec_vxor ..) fun _ _ _ => rfl,
    binary_of_vbin (exec_vshl ..) (bitElt_eq_ofBits fun n x y => (Nat.shiftLeft_eq x (y % n)).symm),
    binary_of_vbin (exec_vshr ..) (bitElt_eq_ofBits fun n x y => (Nat.shiftRight_eq_div_pow x (y % n)).symm),
    binary_of_vbin (exec_vsha ..) fun _ _ _ => rfl, binary_of_vbin (exec_vsadd ..) fun _ _ _ => rfl,
    binary_of_vbin (exec_vssub ..) fun _ _ _ => rfl, binary_of_vbin (exec_vavg ..) fun _ _ _ => rfl⟩

/-! The unary members, and the fused ones. -/

/-- A `vun` writes its element function, or any other with the same values on the tags that it accepts. -/
theorem unary_of_vun {ok : Ty → Bool} {f g : Ty → Nat → Elt} (he : exec i s = vun i d a k s ok f)
    (hg : ∀ t, ok t = true → ∀ x, f t x = g t x) : Unary i s d a k ok g := by
  intro t ha hok hf
  refine begun_of_vector he rfl ((taggedSource_fits ha hok hf).trans ?_)
  simp only [hg t hok]

theorem tyInt_of_tyFp {t : Ty} (h : tyFp t = true) : tyInt t = false := by
  revert h
  cases t <;> decide

/-- A unary member on a floating-point tag rounds its exact value once (R161, R167). -/
theorem arith1_of_tyFp {fi : Int → Int} {ff : FpVal → FpVal × Flags} {t : Ty} (h : tyFp t = true) (x : Nat) :
    arith1 fi ff t x = roundElt t (ff (tyVal t x)) := by
  rw [arith1, if_neg (by rw [tyInt_of_tyFp h]; exact Bool.false_ne_true)]

/-- A `vfmaOp` past its checks writes the fused element (R169). -/
theorem fused_of_vfmaOp {negP negZ : Bool} (he : exec i s = vfmaOp i negP negZ form d a b k s) :
    Fused i s form d a b k negP negZ := by
  intro p td hd hp hok hf
  refine begun_of_vector he rfl ?_
  rw [hd, hp]
  dsimp only
  rw [hok, lanes_fits hf]

/-- Settles O36: the unary members are `vun`s, VSQRT on floating-point tags alone, and the fused ones `vfmaOp`s. -/
theorem vectorUnaryAndFused : Obligations.VectorUnaryAndFused := by
  intro s form d a b k
  exact ⟨unary_of_vun (exec_vabs ..) fun _ _ _ => rfl, unary_of_vun (exec_vneg ..) fun _ _ _ => rfl,
    unary_of_vun (exec_vsqrt ..) fun _ => arith1_of_tyFp, unary_of_vun (exec_vexp2 ..) fun _ _ _ => rfl,
    fused_of_vfmaOp (exec_vfma ..), fused_of_vfmaOp (exec_vfms ..), fused_of_vfmaOp (exec_vfnma ..),
    fused_of_vfmaOp (exec_vfnms ..)⟩

end Sys2Proof.Machine
end

section
/-!
PROOF. The moves between g registers, `vq` and vector registers (O39).
-/

namespace Sys2Proof.Machine

open Sys2Proof.Claims

variable {i : Instr} {s : State} {form : VForm} {d a b : Reg} {k : KReg} {t : Ty}

/-- An instruction on `vq` that needs no grant and does not wait for the lanes. -/
theorem begun_of_issueV {at_ : Attr} {caps : List Reg} {body : State → State} {u : State}
    (he : exec i s = issueV at_ false false i caps s body) (hl : at_.level = 0) (hb : body s = u) :
    Begun at_ false i s u :=
  fun h => he.trans ((issueV_begins h hl).trans (congrArg Host.Outcome.next hb))

/-- A bit of the mask that an instruction without a k field is under: that of its prefix's pk, or a one (R54, R176). -/
theorem active_unmasked (s : State) (j : Nat) : active s 0 j =
    (!((prefixOf s).v && (prefixOf s).pk != 0) || maskBit s (prefixOf s).pk j) := by
  unfold active effK
  dsimp only
  cases (prefixOf s).v && (prefixOf s).pk != 0
  · exact if_pos rfl
  · rfl

theorem vmvsx_begun (hd : (vreg s d).tag = some t) (hf : Fits s [tyBits t]) :
    Begun (vecAttr .copyV) true (.vmvsx d b) s
      (writeElems s d t (fun j => j == 0 && (!((prefixOf s).v && (prefixOf s).pk != 0) || maskBit s (prefixOf s).pk 0))
        fun _ => (scOf t (capture s false b), 0)) := by
  refine begun_of_vector (exec_vmvsx ..) rfl ((taggedSource_fits (ok := fun _ => true) hd rfl hf).trans ?_)
  refine writeElems_congr (fun j _ => ?_) fun _ _ _ => rfl
  cases j with
  | zero => rw [active_unmasked]
  | succ j => rfl

theorem vmvxs_begun (ha : (vreg s a).tag = some t) (hf : Fits s [tyBits t]) :
    Begun (vecAttr .copyG) true (.vmvxs d a) s
      (retireV (result s d (moveWord t (slot (vreg s a).img 0 (tyBits t))))) :=
  begun_of_vector (exec_vmvxs ..) rfl (taggedSource_fits (ok := fun _ => true) ha rfl hf)

/-- An element that VMV moves, under its form (R157, R178). -/
def movedElem (s : State) (form : VForm) (a b : Reg) (t : Ty) (j : Nat) : Nat :=
  match form with
  | .vv => slot (vreg s a).img j (tyBits t)
  | .vs => scOf t (capture s false b)
  | .vi => immOf t b

theorem vmv_begun (ht : (vreg s (if form = .vv then a else d)).tag = some t) (hf : Fits s [tyBits t]) :
    Begun (vecAttr .copyV) true (.vmv form d a b k) s
      (writeElems s d t (active s k) fun j => (movedElem s form a b t j, 0)) :=
  begun_of_vector (exec_vmv ..) rfl (taggedSource_fits (ok := fun _ => true) ht rfl hf)

/-- Settles O39: VMVSX is under the mask of its prefix alone, and the queue's members see it as it stands. -/
theorem vectorMoves : Obligations.VectorMoves := by
  intro s form d a b k
  exact ⟨fun t => vmvsx_begun, fun t => vmvxs_begun, begun_of_issueV (exec_vqpop ..) rfl rfl,
    begun_of_issueV (exec_vqlen ..) rfl rfl, fun t => vmv_begun⟩

end Sys2Proof.Machine
end

section
/-!
PROOF. Stores to the TCM and the CSP (O9).
-/

namespace Sys2Proof.Machine

open Sys2Proof.Claims

/-- Settles O9: memory is put and taken in its form, and an SRAM store touches nothing but memory and its poison marks. -/
theorem sramStoreThenLoad : Obligations.SramStoreThenLoad := by
  intro s pa bs hs hp t
  refine ⟨memPut_wf pa bs hs, rfl, fun x hx => memGet_memPut_outside hs hx, fun hsound => ?_⟩
  have hload : loadAt t false (.sram pa) bs.length = (some (memTake t.mem pa bs.length), t) := if_neg (by simp [hsound])
  rw [hload]
  exact congrArg (fun l => (some l, t)) (memTake_memPut pa bs hs)

end Sys2Proof.Machine
end

section
/-!
PROOF. Spawning, with a gate and without, and the eviction of context records (O21).
-/

namespace Sys2Proof.Machine

open Sys2Proof.Claims

/-! A save that an instruction needs (R259, R261, R262). -/

section

variable {s : State} {h : HoldAt} {k : State → State}

theorem orHold_ok {u : State} : orHold s h (.ok u) k = k u := rfl

theorem orHold_full : orHold s h .full k = heldFor s h := rfl

theorem orHold_fault {va : Nat} : orHold s h (.fault va) k = takeTrap s 0x09 (BitVec.ofNat 64 va) := rfl

/-- An instruction whose effect is a save leaves what follows the save, or finds no room. -/
theorem saved_or_noRoom {i : Instr} {s0 : State} {room : Saved} (he : exec i s0 = .next (orHold s h room k)) :
    (∀ u, room = .ok u → exec i s0 = .next (k u)) ∧ NoRoom i s0 s room h :=
  ⟨fun _ hroom => by rw [he, hroom, orHold_ok], fun hroom => by rw [he, hroom, orHold_full],
    fun _ hroom => by rw [he, hroom, orHold_fault]⟩

end

section

variable {s : State} {a b c d : Reg} {i : Instr}

theorem checkHandles_held {hs : List Word} {k : State → State} (h : ∀ x ∈ hs, handleHeld s s.cpu.live x = true) :
    checkHandles s hs k = k s := by
  induction hs with
  | nil => rfl
  | cons x xs ih =>
    rw [checkHandles, if_pos (h x List.mem_cons_self), ih fun y hy => h y (List.mem_cons_of_mem x hy)]

theorem overMoved_none {hs : List Word} (h : ∀ x ∈ hs, hs.count x ≤ s.cpu.live.held.count x) : overMoved s hs = none := by
  rw [overMoved, List.find?_eq_none]
  intro x hx
  simpa using h x hx

/-- Good parameters pass the checks of R239. -/
theorem spawnChecks_good {k : State → State} (h : MaySpawn s a b) : spawnChecks s a b k = k s := by
  obtain ⟨haligned, hlevel, hargs, hhandles, hcounts, hheld, hslot⟩ := h
  simp only [← reg_eq] at haligned hlevel hargs hhandles hcounts hheld hslot
  unfold spawnChecks
  dsimp only
  rw [if_neg (by simp [haligned]), if_neg (by simp [hlevel, hargs]), checkHandles_held hhandles, overMoved_none hcounts]
  dsimp only
  rw [if_neg (by omega), if_neg (by simpa [Option.isNone_iff_eq_none] using hslot)]

/-- A spawn past its checks makes room for the spawner's record, and runs the child (R239, R240). -/
theorem spawns_of_spawnNow {s0 : State} {kind : Nat} (he : exec i s0 = .next (spawnNow s i kind d a b)) :
    Spawns i s0 s kind d a b := by
  obtain ⟨hok, hno⟩ := saved_or_noRoom he
  refine ⟨fun u h t hroom hf => ?_, hno⟩
  rw [hok u hroom]
  dsimp only
  rw [hf]
  rfl

/-- A gate that is not open: the child waits there, and the spawner goes on (R241). -/
theorem spawnGated_alloc {ps : List (Nat × Word × Bool)} {h : Word} {t : State} (hf : allocFut s 6 = some (h, t)) :
    spawnGated s d a b ps = retire { spawnerWith t d (reg s b) h with
      gates := t.gates ++ [{ token := h, core := s.cpu.id, pairs := ps, child := childCtx s (reg s a) (reg s b) h }] } := by
  rw [spawnGated, hf]
  rfl

theorem spawn_runs (hr : reclaimable s = false) (hh : heldHere s = false)
    (h : Runs (taskAttr true) (.spawn d a b) s) (hm : MaySpawn s a b) :
    exec (.spawn d a b) s = .next (spawnNow s (.spawn d a b) 0 d a b) := by
  rw [exec_spawn, execSpawn, issue_plain h rfl (by rw [hr, Bool.and_false]), atPoint_runs hr hh, spawnChecks_good hm]

/-- SPAWNG with a good descriptor and good parameters: it observes its pairs and invalidates, and its gate is open or not
(R241). -/
theorem spawng_runs (hr : reclaimable s = false) (hh : heldHere s = false)
    (h : Runs (taskAttr true) (.spawng d a b c) s) (ha : (reg s c).toNat % 8 = 0) {n : Nat} {s1 s2 s3 : State}
    {ws : List Word} {ps : List (Nat × Word × Bool)} (hcount : loadN s (.spawng d a b c) (reg s c).toNat 8 = .ok n s1)
    (h1 : 1 ≤ n) (h4 : n ≤ 4)
    (hwords : loadWords s1 (.spawng d a b c) (((reg s c).toNat + 8) % 2 ^ 64) (2 * n) = .ok ws s2)
    (hpairs : gatePairs s2 (.spawng d a b c) ws = .ok ps s3) (hm : MaySpawn (invalidate s3 s3.cpu.id) a b) :
    exec (.spawng d a b c) s = .next (if ps.all (·.2.2)
      then spawnNow (invalidate s3 s3.cpu.id) (.spawng d a b c) 6 d a b
      else spawnGated (invalidate s3 s3.cpu.id) d a b ps) := by
  rw [exec_spawng, execSpawng, issue_plain h rfl (by rw [hr, Bool.and_false]), atPoint_runs hr hh]
  dsimp only [reg_eq]
  rw [if_neg (by simpa using ha), hcount, Acc.done, if_neg (by simp; omega), hwords, Acc.done, hpairs, Acc.done,
    spawnChecks_good hm]

end

/-! Which record an eviction takes, and when the ring is full (R259, R260). -/

section

variable {s : State} {c : Core} {inc : Option Word} {r : Rec}

theorem minBy_eq_none {f : Rec → Nat} {rs : List Rec} : minBy f rs = none ↔ rs = [] := by
  cases rs with
  | nil => simp [minBy]
  | cons r rs =>
    rw [minBy]
    split
    · split <;> simp
    · simp

theorem minBy_least {f : Rec → Nat} {rs : List Rec} (h : minBy f rs = some r) : r ∈ rs ∧ ∀ q ∈ rs, f r ≤ f q := by
  induction rs generalizing r with
  | nil => exact nomatch h
  | cons x xs ih =>
    rw [minBy] at h
    split at h
    next q hq =>
      obtain ⟨hmem, hle⟩ := ih hq
      split_ifs at h with hlt
      all_goals
        obtain rfl := Option.some.inj h
        simp only [List.mem_cons, forall_eq_or_imp]
      · exact ⟨.inr hmem, by omega, hle⟩
      · exact ⟨by simp, le_refl _, fun y hy => by have := hle y hy; omega⟩
    next hq =>
      obtain rfl := minBy_eq_none.mp hq
      obtain rfl := Option.some.inj h
      simp

/-- The records that an eviction may take: resident ones, but for an incoming one. -/
def evictable (c : Core) (inc : Option Word) : List Rec := c.recs.filter fun r => r.spill.isNone && some r.ctx.tself != inc

theorem mem_evictable : r ∈ evictable c inc ↔ r ∈ c.recs ∧ r.spill = none ∧ some r.ctx.tself ≠ inc := by
  simp [evictable]

/-- The key by which an eviction takes ready records: the lowest effective class, then the latest to become ready. -/
def readyKey (s : State) (r : Rec) : Nat := effClass s r * 2 ^ 64 + (2 ^ 64 - 1 - r.order)

theorem victim_eq : victim s c inc = match minBy (fun r => r.since) ((evictable c inc).filter fun r => r.st != .ready) with
    | some r => some r
    | none => minBy (readyKey s) (evictable c inc) := rfl

theorem readyKey_le {q : Rec} (h : readyKey s r ≤ readyKey s q) : effClass s r ≤ effClass s q ∧
    (effClass s r = effClass s q → min (2 ^ 64 - 1) q.order ≤ min (2 ^ 64 - 1) r.order) := by
  unfold readyKey at h
  constructor
  · by_contra hlt
    omega
  · intro he
    omega

/-- The record that an eviction takes first is the victim of R259. -/
theorem victim_some (h : victim s c inc = some r) : Victim s c inc r := by
  rw [victim_eq] at h
  split at h
  next q hq =>
    obtain rfl := Option.some.inj h
    obtain ⟨hmem, hleast⟩ := minBy_least hq
    rw [List.mem_filter, mem_evictable, bne_iff_ne] at hmem
    exact {
      resident := hmem.1
      waiting := fun _ q hq hs hi hn => hleast q (by simp [mem_evictable, hq, hs, hi, hn])
      ready := fun hr => absurd hr hmem.2 }
  next hq =>
    obtain ⟨hmem, hleast⟩ := minBy_least h
    have hready : ∀ q ∈ evictable c inc, q.st = .ready := by
      simpa [List.filter_eq_nil_iff] using minBy_eq_none.mp hq
    exact {
      resident := mem_evictable.mp hmem
      waiting := fun hn => absurd (hready r hmem) hn
      ready := fun _ q hq hs hi =>
        have hmem' := mem_evictable.mpr ⟨hq, hs, hi⟩
        ⟨hready q hmem', readyKey_le (hleast q hmem')⟩ }

theorem victim_none (h : victim s c inc = none) (hr : r ∈ c.recs) (hs : r.spill = none) : some r.ctx.tself = inc := by
  rw [victim_eq] at h
  split at h
  · exact nomatch h
  · by_contra hi
    exact List.ne_nil_of_mem (mem_evictable.mpr ⟨hr, hs, hi⟩) (minBy_eq_none.mp h)

theorem ringPlace_eq_none {n : Nat} : ringPlace c n = none ↔ RingFull c n := by
  unfold ringPlace RingFull ringTail
  cases c.shed with
  | nil =>
    dsimp only [List.isEmpty_nil]
    rw [if_pos rfl]
    split_ifs <;> simp <;> omega
  | cons r rs =>
    dsimp only [List.isEmpty_cons]
    rw [if_neg (by decide)]
    split_ifs <;> simp <;> omega

theorem evict_eq_full {core : Nat} :
    evict s core r = .full ↔ RingFull (coreAt s core) (cdiv (16 + (recImage r).length) 64 * 64) := by
  rw [← ringPlace_eq_none]
  unfold evict
  dsimp only
  split
  next hp => simp [hp]
  next hp =>
    rw [hp]
    split
    · simp
    · split <;> simp

theorem makeRoomFor_fits {core n need : Nat} (h : FitsCache (coreAt s core) need) :
    makeRoomFor inc (n + 1) s core need = .ok s := by
  rw [makeRoomFor]
  exact if_pos (by simpa [FitsCache] using h)

theorem makeRoomFor_evicts {core n need : Nat} (h : ¬FitsCache (coreAt s core) need)
    (hv : victim s (coreAt s core) inc = some r) :
    let room := makeRoomFor inc (n + 1) s core need
    (evict s core r = .full → room = .full) ∧ (∀ va, evict s core r = .fault va → room = .fault va) ∧
    (∀ u, evict s core r = .ok u → room = makeRoomFor inc n u core need) := by
  rw [makeRoomFor, if_neg (by simpa [FitsCache] using h), hv]
  dsimp only
  exact ⟨fun he => by rw [he], fun va he => by rw [he], fun u he => by rw [he]⟩

end

/-- Settles O21: both spawns come to `spawnNow` or `spawnGated` past their checks, and an eviction takes `victim`. -/
theorem spawnEffects : Obligations.SpawnEffects := by
  intro s d a b c hr hh
  refine ⟨fun hruns hm => spawns_of_spawnNow (spawn_runs hr hh hruns hm), fun hruns ha n s1 ws s2 ps s3 => ?gated,
    fun core n need inc => ?room⟩
  case gated =>
    intro i u hcount h1 h4 hwords hpairs hm
    have hexec := spawng_runs hr hh hruns ha hcount h1 h4 hwords hpairs hm
    refine ⟨fun hopen => spawns_of_spawnNow ?_, fun hopen h t hf => ?_⟩
    · rw [hexec, if_pos hopen]
    · rw [hexec, if_neg (by simp [hopen]), spawnGated_alloc hf]
  case room =>
    refine ⟨makeRoomFor_fits, fun r => victim_some, fun hv r => victim_none hv, fun r => evict_eq_full,
      fun hfit r => makeRoomFor_evicts hfit⟩

end Sys2Proof.Machine
end

section
/-!
PROOF. The waits, YIELD, and the instructions that are held for want of Woodshed space (O25).
-/

namespace Sys2Proof.Machine

open Sys2Proof.Claims

variable {s t : State} {i : Instr} {a b d : Reg} {kl : BitVec 7} {vs : Bool}

/-! An instruction of a task that is held, and one whose hold is over (R261). -/

section

variable {met : Wait → State → State} {k : State → State} {h : HoldAt}

theorem atPoint_held (hr : reclaimable s = false) (hh : heldHere s = true) (hat : s.cpu.live.holdAt = some h) :
    atPoint s met k =
      if holdMet s h.wait then met h.wait s else if holdRoom s h then k (endHold s) else waitHere s := by
  rw [atPoint, if_neg (by simp [hr]), hh, hat]

theorem heldHere_endHold (s : State) : heldHere (endHold s) = false := by simp [heldHere, endHold]

/-- The end of a hold turns no instruction away that needs the VIQ drained. -/
theorem Runs.endHold (h : Runs (taskAttr true) i s) : Runs (taskAttr true) i (endHold s) where
  front := h.front
  feature := h.feature
  pfx := h.pfx
  level := h.level
  context := h.context
  queue := .inl (h.queue.resolve_right fun ⟨hdrain, _⟩ => nomatch hdrain)

/-- A reclamation point that a task is held at, where it returns by `met` or goes on as newly issued. -/
theorem heldAgain_of_atPoint {ret : Option (Wait → State)}
    (he : ∀ u, exec i u = issue (taskAttr true) i u fun v => atPoint v met k)
    (hmet : ∀ f, ret = some f → ∀ w, met w s = f w) : HeldAgain i s ret := by
  intro hruns hr hh h hat
  have hexec : exec i s = .next (atPoint s met k) := by rw [he, issue_plain hruns rfl (by rw [hr, Bool.and_false])]
  have hr' : reclaimable (endHold s) = false := hr
  have hagain : exec i (endHold s) = .next (k (endHold s)) := by
    rw [he, issue_plain hruns.endHold rfl (by rw [hr', Bool.and_false]), atPoint_runs hr' (heldHere_endHold s)]
  rw [hexec, hagain, atPoint_held hr hh hat]
  exact ⟨fun hm hroom => by rw [if_neg (by simp [hm]), if_neg (by simp [hroom])],
    fun hm hroom => by rw [if_neg (by simp [hm]), if_pos hroom],
    fun hm f hf => by rw [if_pos hm, hmet f hf]⟩

end

/-! A wait with its live set (R244, R386). -/

theorem switched_eq (s u : State) : switched s u = movesOn s u := by
  simp only [switched, movesOn, cooperates_iff]
  rfl

/-- A wait goes on at once, or its context is saved. -/
theorem waits_of_waitWith {s0 : State} {signalled steal : Bool} {wt : Wait}
    (he : exec i s0 = .next (waitWith s i b kl vs signalled wt steal)) : Waits i s0 s b kl vs signalled wt steal := by
  have hstays : (signalled && !(othersReady s || (preApplies s && s.cpu.preMode = 1))) = true ↔
      signalled = true ∧ othersReady s = false ∧ ¬Cooperates s := by
    rw [← cooperates_iff]
    cases preApplies s <;> simp
  rw [waitWith] at he
  dsimp only at he
  refine ⟨fun h => ?stays, fun h => ?leaves⟩
  case stays =>
    rw [he, if_pos (hstays.mpr h)]
    rfl
  case leaves =>
    rw [if_neg (mt hstays.mp h)] at he
    obtain ⟨hok, hno⟩ := saved_or_noRoom he
    exact ⟨fun u hu => by rw [hok u hu, switched_eq], hno⟩

/-- A point that is newly issued goes on past its hold. -/
theorem atPoint_issued {met : Wait → State → State} {k : State → State}
    (he : ∀ u, exec i u = issue (taskAttr true) i u fun v => atPoint v met k) (hr : reclaimable s = false)
    (hh : heldHere s = false) (hruns : Runs (taskAttr true) i s) : exec i s = .next (k s) := by
  rw [he, issue_plain hruns rfl (by rw [hr, Bool.and_false]), atPoint_runs hr hh]

theorem await_waits (hr : reclaimable s = false) (hh : heldHere s = false)
    (hruns : Runs (taskAttr true) (.await d a b kl vs) s) (hheld : handleHeld s s.cpu.live (reg s a) = true) :
    Waits (.await d a b kl vs) s s b kl vs (settled s (reg s a)) (.future (reg s a) d) false := by
  refine waits_of_waitWith ((atPoint_issued (exec_await · ..) hr hh hruns).trans ?_)
  dsimp only
  rw [checkHandles_held (by simpa [reg_eq] using hheld)]
  rfl

theorem awaitany_waits (hr : reclaimable s = false) (hh : heldHere s = false)
    (hruns : Runs (taskAttr true) (.awaitany d a b kl vs) s) (h1 : 1 ≤ (reg s d).toNat) (h16 : (reg s d).toNat ≤ 16)
    (ha : (reg s a).toNat % 8 = 0) {hs : List Word}
    (hwords : loadWords s (.awaitany d a b kl vs) (reg s a).toNat (reg s d).toNat = .ok hs t)
    (hheld : ∀ h ∈ hs, handleHeld t t.cpu.live h = true) :
    Waits (.awaitany d a b kl vs) s t b kl vs (firstSettled t hs).isSome (.any hs d) false := by
  refine waits_of_waitWith ((atPoint_issued (exec_awaitany · ..) hr hh hruns).trans ?_)
  simp only [← reg_eq] at h1 h16 ha hwords
  dsimp only
  rw [if_neg (by simp; omega), if_neg (by simp [ha]), hwords, Acc.done, checkHandles_held hheld]

theorem yield_waits (hr : reclaimable s = false) (hh : heldHere s = false)
    (hruns : Runs (taskAttr true) (.yield b kl vs) s) :
    let r := coopRec s (retire s).cpu.live (reg s b) kl (liveState (reg s b) kl vs) .ready .none (!s.cpu.live.pin)
    (∀ u, saveRec s r = .ok u → exec (.yield b kl vs) s = .next (movesOn s u)) ∧
    NoRoom (.yield b kl vs) s s (saveRec s r)
      { word := wordOf (.yield b kl vs), wait := .none, size := recBytes r, switches := true } := by
  obtain ⟨hok, hno⟩ := saved_or_noRoom (atPoint_issued (exec_yield · ..) hr hh hruns)
  exact ⟨fun u hu => by rw [hok u hu, switched_eq], hno⟩

/-- The value of a CWAIT: the one at which it has completed while it was held, else the one that its look finds. -/
theorem heldValue_getD (v : Word) : (heldValue s).getD v = match s.cpu.live.holdAt.map (·.wait) with
    | some (.counted _ x _) => x
    | _ => v := by
  unfold heldValue
  cases s.cpu.live.holdAt with
  | none => rfl
  | some h =>
    obtain ⟨word, wait, size, switches⟩ := h
    cases wait <;> rfl

/-- A CWAIT past its checks looks at its counter, and waits for the threshold or not (R247). -/
theorem cwait_looks (hr : reclaimable s = false) (hh : heldHere s = false)
    (hruns : Runs (taskAttr true) (.cwait d a b kl vs) s) {p : Place} (hreach : Reaches s .read (reg s a).toNat 8 p t)
    (hsound : poisoned t (placePa p) 8 = false) :
    let r := homeRead (settleL1 t p 8) p 8
    let u := atomicPoint r.2 p
    let v := (heldValue u).getD (BitVec.ofNat 64 (ofBytes r.1))
    exec (.cwait d a b kl vs) s = .next (if reg s d ≤ v
      then waitWith u (.cwait d a b kl vs) b kl vs true (.counted p v d) false
      else waitWith u (.cwait d a b kl vs) b kl vs false (.counter p (reg s d) d) false) := by
  refine (atPoint_issued (exec_cwait · ..) hr hh hruns).trans ?_
  simp only [← reg_eq] at hreach
  dsimp only
  rw [checkAccess_reaches hreach, Acc.done, if_neg (by simp [hsound])]
  rfl

/-- Settles O25: a held instruction by `heldAgain_of_atPoint`, each wait past its checks by `waits_of_waitWith`. -/
theorem waitInstructions : Obligations.WaitInstructions := by
  intro s d a b c kl vs hr
  refine ⟨?again, ?returns, fun p v t => rfl, fun hh => ⟨await_waits hr hh,
    fun hruns h1 h16 ha hs t => awaitany_waits hr hh hruns h1 h16 ha, yield_waits hr hh, ?cwait⟩⟩
  case again =>
    simp only [List.forall_mem_cons, List.not_mem_nil, false_implies, implies_true, and_true]
    exact ⟨heldAgain_of_atPoint (exec_spawn · ..) nofun, heldAgain_of_atPoint (exec_spawng · ..) nofun,
      heldAgain_of_atPoint (exec_yield · ..) nofun⟩
  case returns =>
    simp only [List.forall_mem_cons, List.not_mem_nil, false_implies, implies_true, and_true]
    have hret : ∀ f, (some fun w => finishWait (retire (applyLive (endHold s) (reg s b) kl vs)) w) = some f →
        ∀ w, returnHere b kl vs w s = f w := by
      rintro f ⟨⟩ w
      rfl
    exact ⟨heldAgain_of_atPoint (exec_await · ..) hret, heldAgain_of_atPoint (exec_awaitany · ..) hret,
      heldAgain_of_atPoint (exec_cwait · ..) hret⟩
  case cwait =>
    intro hruns p t hreach hsound
    have hlook := cwait_looks hr hh hruns hreach hsound
    simp only [heldValue_getD] at hlook
    exact ⟨fun hv => waits_of_waitWith (hlook.trans (congrArg _ (if_pos hv))),
      fun hv => waits_of_waitWith (hlook.trans (congrArg _ (if_neg hv)))⟩

end Sys2Proof.Machine
end

section
/-!
SUPPORT. A settled future through the drops of other references and what their ends drop in turn (R234, R255).
-/

namespace Sys2Proof.Machine

open Sys2Proof.Claims

variable {s t u : State} {n : Nat}

/-! What drops leave of the device, its gates and its records. -/

theorem coreAt_setCore (s : State) (c : Core) (m : Nat) : coreAt (setCore s c) m = if m = c.id then c else coreAt s m := by
  unfold setCore
  split_ifs with hid hm hm
  · simp [coreAt, hm]
  · simp only [coreAt, hid, if_neg (Ne.symm hm)]
    rfl
  · simp [coreAt, hm, hid, find_put]
  · unfold coreAt
    rw [find_put, if_neg hm]
    rfl

/-- A state whose device is the same, and whose gates and records are some of the former ones: a record may have changed,
but for its handle and what its task holds. -/
structure KeepsHeld (s t : State) : Prop where
  devid : t.devid = s.devid
  gates : ∀ g ∈ t.gates, g ∈ s.gates
  recs : ∀ m, ∀ r ∈ (coreAt t m).recs, ∃ k, ∃ q ∈ (coreAt s k).recs, q.ctx.tself = r.ctx.tself ∧ q.ctx.held = r.ctx.held

theorem KeepsHeld.trans (h : KeepsHeld s t) (h' : KeepsHeld t u) : KeepsHeld s u where
  devid := h'.devid.trans h.devid
  gates g hg := h.gates g (h'.gates g hg)
  recs m r hr := by
    obtain ⟨k, q, hq, hself, hheld⟩ := h'.recs m r hr
    obtain ⟨k', q', hq', hself', hheld'⟩ := h.recs k q hq
    exact ⟨k', q', hq', hself'.trans hself, hheld'.trans hheld⟩

theorem KeepsHeld.of_cores (hd : t.devid = s.devid) (hg : t.gates = s.gates) (hc : ∀ m, coreAt t m = coreAt s m) :
    KeepsHeld s t where
  devid := hd
  gates _ h := hg ▸ h
  recs m r hr := ⟨m, r, hc m ▸ hr, rfl, rfl⟩

/-- A core changed whose records afterwards are some of the former ones. -/
theorem KeepsHeld.modCore {f : Core → Core} {k : Nat} (hf : ∀ c, ∀ r ∈ (f c).recs, ∃ q ∈ c.recs,
    q.ctx.tself = r.ctx.tself ∧ q.ctx.held = r.ctx.held) : KeepsHeld s (modCore s k f) where
  devid := by unfold Machine.modCore setCore; split <;> rfl
  gates g h := by
    unfold Machine.modCore setCore at h
    split at h <;> exact h
  recs m r hr := by
    rw [Machine.modCore, coreAt_setCore] at hr
    split at hr
    · obtain ⟨q, hq, hsame⟩ := hf _ r hr
      exact ⟨k, q, hq, hsame⟩
    · exact ⟨m, r, hr, rfl, rfl⟩

/-- The handles of a set are closed under the drops that the end of a gated or recorded task brings (R255). -/
structure ClosedDrops (s : State) (dropped : Word → Prop) : Prop where
  records : ∀ m, ∀ r ∈ (coreAt s m).recs, dropped r.ctx.tself → ∀ x ∈ r.ctx.held, dropped x
  gates : ∀ g ∈ s.gates, dropped g.token → ∀ x ∈ g.child.held, dropped x

theorem ClosedDrops.keeps {dropped : Word → Prop} (h : ClosedDrops s dropped) (hk : KeepsHeld s t) :
    ClosedDrops t dropped where
  records m r hr hd := by
    obtain ⟨k, q, hq, hself, hheld⟩ := hk.recs m r hr
    rw [← hheld]
    exact h.records k q hq (hself ▸ hd)
  gates g hg := h.gates g (hk.gates g hg)

/-- A state that keeps what gates and records hold, and one future of this device as it is. -/
structure Spares (n : Nat) (s t : State) : Prop extends KeepsHeld s t where
  fut : futAt t n = futAt s n

theorem Spares.refl (n : Nat) (s : State) : Spares n s s where
  toKeepsHeld := .of_cores rfl rfl fun _ => rfl
  fut := rfl

theorem Spares.trans (h : Spares n s t) (h' : Spares n t u) : Spares n s u where
  toKeepsHeld := h.toKeepsHeld.trans h'.toKeepsHeld
  fut := h'.fut.trans h.fut

theorem Spares.of_cores (hd : t.devid = s.devid) (hg : t.gates = s.gates) (hc : ∀ m, coreAt t m = coreAt s m)
    (hf : t.futs = s.futs) : Spares n s t where
  toKeepsHeld := .of_cores hd hg hc
  fut := by rw [futAt, hf]; rfl

theorem SameButMemory.spares (h : SameButMemory s t) : Spares n s t := by
  rw [h]
  exact .of_cores rfl rfl (fun _ => rfl) rfl

theorem spares_modCluster (n k : Nat) (s : State) (f : Cluster → Cluster) : Spares n s (modCluster s k f) :=
  .of_cores rfl rfl (fun _ => rfl) rfl

theorem spares_modCore {f : Core → Core} {k : Nat} (hf : ∀ c, ∀ r ∈ (f c).recs, ∃ q ∈ c.recs,
    q.ctx.tself = r.ctx.tself ∧ q.ctx.held = r.ctx.held) : Spares n s (modCore s k f) where
  toKeepsHeld := .modCore hf
  fut := by unfold modCore setCore; split <;> rfl

theorem keepsHeld_setFut (s : State) (k : Nat) (f : Fut) : KeepsHeld s (setFut s k f) := .of_cores rfl rfl fun _ => rfl

theorem futAt_setFut (s : State) (k : Nat) (f : Fut) (m : Nat) : futAt (setFut s k f) m = if m = k then f else futAt s m := by
  simp only [futAt, setFut, find_put]
  split <;> rfl

theorem spares_setFut {k : Nat} (h : k ≠ n) (f : Fut) : Spares n s (setFut s k f) where
  toKeepsHeld := keepsHeld_setFut s k f
  fut := by rw [futAt_setFut, if_neg (Ne.symm h)]

/-- Steps that spare a settled future, one after another. -/
theorem Spares.foldl {α : Type} {f : State → α → State} {P : Fut → Prop}
    (hf : ∀ t a, P (futAt t n) → Spares n t (f t a)) (l : List α) (s : State) (hs : P (futAt s n)) :
    Spares n s (l.foldl f s) := by
  induction l generalizing s with
  | nil => exact .refl n s
  | cons a l ih =>
    have hstep := hf s a hs
    exact hstep.trans (ih _ (hstep.fut ▸ hs))

/-! Reads and writes at the home. -/

theorem readPhys_sameButMemory (s : State) (k : Fin 64) (pa n : Nat) : SameButMemory s (readPhys s k pa n).2 :=
  SameButMemory.foldl (fun s l => touchLine_sameButMemory s k l) _ s

theorem walk_sameButMemory (tenant : Fin 16) (va : Nat) (levels : List (Nat × Nat × Nat)) (s : State) (table : Nat) :
    SameButMemory s (walk s tenant va levels table).2 := by
  induction levels generalizing s table with
  | nil => rfl
  | cons level rest ih =>
    obtain ⟨lo, tbl, page⟩ := level
    have hread := readPhys_sameButMemory s 0 (table + (va / 2 ^ lo % (tbl / 8)) * 8) 8
    rw [walk]
    dsimp only
    split_ifs
    · exact hread
    · split
      · exact hread
      · split_ifs
        · exact hread
        · exact hread.trans (ih _ _)
    all_goals exact hread

theorem shedWrite_sameButMemory {core fuel va : Nat} {bs : List Byte} (h : shedWrite core fuel s va bs = .inr t) :
    SameButMemory s t := by
  induction fuel generalizing s va bs with
  | zero =>
    obtain rfl := Sum.inr.inj h
    rfl
  | succ fuel ih =>
    rw [shedWrite] at h
    split at h
    · obtain rfl := Sum.inr.inj h
      rfl
    · split at h
      next e v hwalk =>
        have hv := walk_sameButMemory 0 va walkLevels s (coreAt s core).wsroot
        rw [hwalk] at hv
        split at h
        · exact (hv.trans (writePhys_sameButMemory ..)).trans (ih h)
        · exact nomatch h
      · exact nomatch h

/-! A future settled or failed, through the operations of a drop. -/

/-- A future that is resolved or failed. -/
def Fut.isSettled (f : Fut) : Prop := f.st = .resolved ∨ f.st = .failed

theorem removeRec_recs (c : Core) (x : Word) : ∀ r ∈ (removeRec c x).recs, r ∈ c.recs := by
  intro r hr
  unfold removeRec at hr
  split at hr
  · dsimp only at hr
    split at hr <;> exact (List.mem_filter.mp hr).1
  · exact hr

theorem spares_takeRec (n : Nat) (s : State) (core : Nat) (x : Word) : Spares n s (takeRec s core x) := by
  have hremove : ∀ v, Spares n v (modCore v core fun c => removeRec c x) := fun v =>
    spares_modCore fun c r hr => ⟨r, removeRec_recs c x r hr, rfl, rfl⟩
  unfold takeRec
  dsimp only
  split
  · split
    · split
      next hw => exact (shedWrite_sameButMemory hw).spares.trans (hremove _)
      · exact hremove s
    · exact hremove s
  · exact hremove s

theorem spares_signal (n : Nat) (s : State) (x : Word) : Spares n s (signal s x) := by
  refine Spares.foldl (P := fun _ => True) (fun t k _ => spares_modCore fun c r hr => ?_) _ s trivial
  obtain ⟨q, hq, rfl⟩ := List.mem_map.mp hr
  refine ⟨q, hq, ?_⟩
  split <;> exact ⟨rfl, rfl⟩

section

variable {x : Word}

theorem spares_setEntry (h : ¬(hDev x = s.devid ∧ hSlot x = n)) (f : Fut) : Spares n s (setEntry s x f) := by
  unfold setEntry
  split_ifs with hdev
  · exact spares_setFut (fun hslot => h ⟨hdev, hslot⟩) f
  · exact .of_cores rfl rfl (fun _ => rfl) rfl

theorem spares_noteEnd (n : Nat) (s : State) (slot gen : Nat) : Spares n s (noteEnd s slot gen) :=
  .of_cores rfl rfl (fun _ => rfl) rfl

theorem spares_freeFut {k : Nat} (h : k ≠ n) : Spares n s (freeFut s k) := (spares_noteEnd n s k _).trans (spares_setFut h _)

theorem spares_freeEntry (h : ¬(hDev x = s.devid ∧ hSlot x = n)) : Spares n s (freeEntry s x) := by
  unfold freeEntry
  split_ifs with hdev
  · exact spares_freeFut fun hslot => h ⟨hdev, hslot⟩
  · exact spares_setEntry h _

theorem spares_post (n : Nat) (s : State) (cl : Nat) (r : FaultRec) : Spares n s (post s cl r) := spares_modCluster ..

theorem entryAt_own (h : hDev x = s.devid) : entryAt s x = futAt s (hSlot x) := if_pos h

/-- The end of a future's task noted with its launch, if it is a future of this device. -/
def endNoted (s : State) (x : Word) : State := if hDev x = s.devid then noteEnd s (hSlot x) (hGen x) else s

theorem spares_endNoted (n : Nat) (s : State) (x : Word) : Spares n s (endNoted s x) := by
  unfold endNoted
  split
  · exact spares_noteEnd ..
  · exact .refl n s

theorem settle_pending (hgen : hGen x = (entryAt s x).gen) (hst : (entryAt s x).st = .pending) (failed : Bool) (v : Word) :
    settle s x failed v = signal (setEntry (endNoted s x) x
      { entryAt s x with st := if failed then .failed else .resolved, result := v }) x := by
  unfold settle
  dsimp only
  rw [if_neg (by simp [hgen]), hst]
  rfl

theorem settle_doomed (hgen : hGen x = (entryAt s x).gen) (hst : (entryAt s x).st = .doomed) (failed : Bool) (v : Word) :
    settle s x failed v = freeEntry s x := by
  unfold settle
  dsimp only
  rw [if_neg (by simp [hgen]), hst]

theorem settle_other (h : hGen x ≠ (entryAt s x).gen ∨ ((entryAt s x).st ≠ .pending ∧ (entryAt s x).st ≠ .doomed))
    (failed : Bool) (v : Word) : settle s x failed v = s := by
  unfold settle
  dsimp only
  by_cases hgen : hGen x = (entryAt s x).gen
  · rw [if_neg (by simp [hgen])]
    obtain ⟨hpending, hdoomed⟩ := h.resolve_left (not_not.mpr hgen)
    split
    next hst => exact absurd hst hpending
    next hst => exact absurd hst hdoomed
    · rfl
  · exact if_pos (by simpa using hgen)

theorem entryAt_setEntry (s : State) (x : Word) (f : Fut) : entryAt (setEntry s x f) x = f := by
  unfold setEntry
  split_ifs with hdev
  · rw [entryAt_own (s := setFut s (hSlot x) f) hdev, futAt_setFut, if_pos rfl]
  · simp [entryAt, hdev, find_put]

theorem keepsHeld_setEntry (s : State) (x : Word) (f : Fut) : KeepsHeld s (setEntry s x f) := by
  unfold setEntry
  split_ifs
  · exact keepsHeld_setFut ..
  · exact .of_cores rfl rfl fun _ => rfl

theorem Spares.entryAt (h : Spares (hSlot x) s t) (hdev : hDev x = s.devid) : entryAt t x = entryAt s x := by
  rw [entryAt_own hdev, entryAt_own (hdev.trans h.devid.symm), h.fut]

/-- Settling leaves a future that is settled already. -/
theorem spares_settle (hs : (futAt s n).isSettled) (x : Word) (failed : Bool) (v : Word) :
    Spares n s (settle s x failed v) := by
  have hother : (entryAt s x).st = .pending ∨ (entryAt s x).st = .doomed → ¬(hDev x = s.devid ∧ hSlot x = n) := by
    rintro hst ⟨hdev, rfl⟩
    rw [entryAt_own hdev] at hst
    obtain hst | hst := hst <;> obtain hs | hs := hs <;> exact nomatch hst.symm.trans hs
  by_cases hgen : hGen x = (entryAt s x).gen
  · by_cases hpending : (entryAt s x).st = .pending
    · have hnote := spares_endNoted n s x
      rw [settle_pending hgen hpending]
      exact (hnote.trans (spares_setEntry (hnote.devid ▸ hother (.inl hpending)) _)).trans (spares_signal ..)
    · by_cases hdoomed : (entryAt s x).st = .doomed
      · rw [settle_doomed hgen hdoomed]
        exact spares_freeEntry (hother (.inr hdoomed))
      · rw [settle_other (.inr ⟨hpending, hdoomed⟩)]
        exact .refl n s
  · rw [settle_other (.inl hgen)]
    exact .refl n s

theorem spares_failGroup (hs : (futAt s n).isSettled) (g : Nat) : Spares n s (failGroup s g) := by
  have hgroups : ∀ gs, Spares n s { s with groups := gs } := fun gs => .of_cores rfl rfl (fun _ => rfl) rfl
  unfold failGroup
  split
  · exact .refl n s
  · dsimp only
    split_ifs
    · exact .refl n s
    · exact (hgroups _).trans (spares_post ..)
    · exact (hgroups _).trans (Spares.foldl
        (fun t o ht => (spares_settle ht o.token true _).trans (spares_post ..)) _ _ hs)

/-! A reference dropped, and everything that its end drops in turn (R234, R255). -/

/-- What a drop hands on is held by a gated or a recorded task of the handle that is dropped. -/
def HandsOn (s : State) (x : Word) (more : List Word) : Prop :=
  ∀ y ∈ more, (∃ g ∈ s.gates, g.token = x ∧ y ∈ g.child.held) ∨
    ∃ m, ∃ r ∈ (coreAt s m).recs, r.ctx.tself = x ∧ y ∈ r.ctx.held

theorem handsOn_nil (s : State) (x : Word) : HandsOn s x [] := fun _ hy => nomatch hy

theorem ClosedDrops.handsOn {dropped : Word → Prop} (h : ClosedDrops s dropped) (hx : dropped x) {more : List Word}
    (hm : HandsOn s x more) : ∀ y ∈ more, dropped y := by
  intro y hy
  obtain ⟨g, hg, rfl, hheld⟩ | ⟨m, r, hr, rfl, hheld⟩ := hm y hy
  · exact h.gates g hg hx y hheld
  · exact h.records m r hr hx y hheld

theorem spares_gates (n : Nat) (s : State) (p : Gate → Bool) : Spares n s { s with gates := s.gates.filter p } where
  devid := rfl
  gates _ hg := (List.mem_filter.mp hg).1
  recs m r hr := ⟨m, r, hr, rfl, rfl⟩
  fut := rfl

/-- A job that leaves its cluster's Flue queue with its token. -/
theorem spares_stopJob (n : Nat) (s : State) (x : Word) : Spares n s ((List.range 96).foldl (fun t c =>
    if (clusterAt t c).flue.any (fun j => j.token = x) then
      modCluster t c fun k => { k with flue := k.flue.filter fun j => j.token != x }
    else t) s) := by
  refine Spares.foldl (P := fun _ => True) (fun t k _ => ?_) _ s trivial
  split
  · exact spares_modCluster ..
  · exact .refl n t

theorem mem_recs_of_find {k : Nat} {r : Rec}
    (h : (coreAt s k).recs.find? (fun r => r.ctx.tself = x) = some r) : r ∈ (coreAt s k).recs ∧ r.ctx.tself = x :=
  ⟨List.mem_of_find?_eq_some h, by simpa using List.find?_some h⟩

/-- A drop of another future's reference spares a settled future. -/
theorem dropOnce_spares (hs : (futAt s n).isSettled)
    (hx : ¬(hDev x = s.devid ∧ hSlot x = n ∧ hGen x = (futAt s n).gen)) :
    Spares n s (dropOnce s x).2 ∧ HandsOn s x (dropOnce s x).1 := by
  unfold dropOnce
  dsimp only
  split
  · exact ⟨.refl n s, handsOn_nil s x⟩
  next hf =>
  have hother : ¬(hDev x = s.devid ∧ hSlot x = n) := by
    rintro ⟨hdev, rfl⟩
    rw [entryAt_own hdev] at hf
    simp only [Bool.or_eq_true, bne_iff_ne, not_or, not_not] at hf
    exact hx ⟨hdev, rfl, hf.1⟩
  split
  · exact ⟨spares_setEntry hother _, handsOn_nil s x⟩
  split
  · refine ⟨?_, handsOn_nil s x⟩
    dsimp only
    split
    · exact spares_setEntry hother _
    · exact spares_freeEntry hother
  next hdev =>
  have hslot : hSlot x ≠ n := fun h => hother ⟨by simpa using hdev, h⟩
  -- a pending future is doomed first
  have hdoom := spares_setFut (s := s) hslot { entryAt s x with st := .doomed, count := 0 }
  have hfree : ∀ {v}, Spares n s v → Spares n s (freeFut v (hSlot x)) := fun h => h.trans (spares_freeFut hslot)
  have hgroup : ∀ g, let d := setFut s (hSlot x) { entryAt s x with st := .doomed, count := 0 }
      Spares n s (if leavesLate d g then d else failGroup d g) := by
    intro g d
    split
    · exact hdoom
    · exact hdoom.trans (spares_failGroup (hdoom.fut ▸ hs) g)
  split
  · exact ⟨hfree (.refl n s), handsOn_nil s x⟩
  · exact ⟨hfree (.refl n s), handsOn_nil s x⟩
  · split
    · exact ⟨hfree (hdoom.trans (spares_stopJob ..)), handsOn_nil s x⟩
    · exact ⟨hdoom, handsOn_nil s x⟩
    · exact ⟨hdoom, handsOn_nil s x⟩
    · split
      · exact ⟨hgroup _, handsOn_nil s x⟩
      · exact ⟨hdoom, handsOn_nil s x⟩
    · split
      · exact ⟨hgroup _, handsOn_nil s x⟩
      · exact ⟨hdoom, handsOn_nil s x⟩
    · split
      next g hg =>
        have htoken : g.token = x := by simpa using List.find?_some hg
        exact ⟨hfree (hdoom.trans (spares_gates n _ _)),
          fun y hy => .inl ⟨g, List.mem_of_find?_eq_some hg, htoken, hy⟩⟩
      · split
        next c hc =>
          split
          next r hr =>
            obtain ⟨hmem, hself⟩ := mem_recs_of_find hr
            split
            · exact ⟨hfree (hdoom.trans (spares_takeRec ..)), fun y hy => .inr ⟨c, r, hmem, hself, hy⟩⟩
            · exact ⟨hdoom, handsOn_nil s x⟩
          · exact ⟨hdoom, handsOn_nil s x⟩
        · exact ⟨hdoom, handsOn_nil s x⟩
  · exact ⟨.refl n s, handsOn_nil s x⟩

/-- The drops of a closed set of handles spare a settled future that no handle of it names (R255). -/
theorem dropAll_spares {dropped : Word → Prop} (fuel : Nat) (hs : List Word) (s : State) (hset : (futAt s n).isSettled)
    (hfresh : ∀ x, dropped x → ¬(hDev x = s.devid ∧ hSlot x = n ∧ hGen x = (futAt s n).gen))
    (hclosed : ClosedDrops s dropped) (hd : ∀ x ∈ hs, dropped x) : Spares n s (dropAll fuel hs s) := by
  induction fuel generalizing hs s with
  | zero => exact .refl n s
  | succ fuel ih =>
    cases hs with
    | nil => exact .refl n s
    | cons x hs =>
      have hx := hd x List.mem_cons_self
      obtain ⟨hspares, hmore⟩ := dropOnce_spares hset (hfresh x hx)
      refine hspares.trans (ih _ _ (hspares.fut ▸ hset) (hspares.fut ▸ hspares.devid ▸ hfresh)
        (hclosed.keeps hspares.toKeepsHeld) fun y hy => ?_)
      obtain hy | hy := List.mem_append.mp hy
      · exact hd y (List.mem_cons_of_mem x hy)
      · exact hclosed.handsOn hx hmore y hy

theorem dropRefs_spares {dropped : Word → Prop} {hs : List Word} (hset : (futAt s n).isSettled)
    (hfresh : ∀ x, dropped x → ¬(hDev x = s.devid ∧ hSlot x = n ∧ hGen x = (futAt s n).gen))
    (hclosed : ClosedDrops s dropped) (hd : ∀ x ∈ hs, dropped x) : Spares n s (dropRefs s hs) :=
  (dropAll_spares _ hs s hset hfresh hclosed hd).trans (.of_cores rfl rfl (fun _ => rfl) rfl)

/-! The end of a task (R249). -/

theorem ClosedDrops.of_endDrops {dropped : Word → Prop} {held : List Word} (h : EndDrops s held dropped) :
    ClosedDrops s dropped where
  records := h.records
  gates := h.gates

/-- A pending future of this device settles. -/
theorem entryAt_settle (hdev : hDev x = s.devid) (hgen : hGen x = (entryAt s x).gen) (hst : (entryAt s x).st = .pending)
    (failed : Bool) (v : Word) :
    entryAt (settle s x failed v) x = { entryAt s x with st := if failed then .failed else .resolved, result := v } := by
  rw [settle_pending hgen hst, (spares_signal ..).entryAt, entryAt_setEntry]
  rw [(keepsHeld_setEntry ..).devid, (spares_endNoted 0 s x).devid, hdev]

theorem keepsHeld_settle (hgen : hGen x = (entryAt s x).gen) (hst : (entryAt s x).st = .pending) (failed : Bool) (v : Word) :
    KeepsHeld s (settle s x failed v) := by
  rw [settle_pending hgen hst]
  exact ((spares_endNoted 0 s x).toKeepsHeld.trans (keepsHeld_setEntry ..)).trans (spares_signal 0 _ x).toKeepsHeld

theorem endedOn_eq {core : Nat} (hgen : hGen x = (entryAt s x).gen) :
    endedOn s core x = setEntry s x { entryAt s x with loc := some core } := if_pos hgen

/-- A task of this device ends on a core, and its references drop: its future is settled with the value and notes the
core, when no handle that the end drops names that future (R234, R249, R255). -/
theorem entryAt_ended {core : Nat} {v : Word} {failed : Bool} {held : List Word} {dropped : Word → Prop}
    (hdev : hDev x = s.devid) (hgen : hGen x = (entryAt s x).gen) (hst : (entryAt s x).st = .pending)
    (hclosed : ClosedDrops s dropped) (hheld : ∀ y ∈ held, dropped y) (hfresh : ∀ y, dropped y → ¬SameFuture y x) :
    entryAt (dropRefs (settle (endedOn s core x) x failed v) held) x = { entryAt s x with
      loc := some core, st := if failed then .failed else .resolved, result := v } := by
  have hended : entryAt (endedOn s core x) x = { entryAt s x with loc := some core } := by
    rw [endedOn_eq hgen, entryAt_setEntry]
  have hkeeps : KeepsHeld s (endedOn s core x) := by
    rw [endedOn_eq hgen]
    exact keepsHeld_setEntry ..
  have hgen' : hGen x = (entryAt (endedOn s core x) x).gen := by rw [hended]; exact hgen
  have hst' : (entryAt (endedOn s core x) x).st = .pending := by rw [hended]; exact hst
  have hentry := entryAt_settle (hdev.trans hkeeps.devid.symm) hgen' hst' failed v
  have hkept := hkeeps.trans (keepsHeld_settle hgen' hst' failed v)
  generalize settle (endedOn s core x) x failed v = w at hentry hkept
  rw [hended] at hentry
  have hdev' : hDev x = w.devid := hdev.trans hkept.devid.symm
  have hfut : futAt w (hSlot x) = entryAt w x := (entryAt_own hdev').symm
  have hspares : Spares (hSlot x) w (dropRefs w held) := by
    refine dropRefs_spares ?settled (fun y hy hsame => ?fresh) (hclosed.keeps hkept) hheld
    case settled =>
      rw [hfut, hentry, Fut.isSettled]
      cases failed <;> simp
    case fresh =>
      obtain ⟨hydev, hyslot, hygen⟩ := hsame
      rw [hfut, hentry] at hygen
      exact hfresh y hy ⟨hydev.trans hdev'.symm, hyslot, hygen.trans hgen.symm⟩
  rw [hspares.entryAt hdev', hentry]

end

end Sys2Proof.Machine
end

section
/-!
PROOF. Fault records: their delivery, their acknowledgement, and the end of a latched task that is failed (O47).
-/

namespace Sys2Proof.Machine

open Sys2Proof.Claims

variable {s : State}

/-! Delivery (R384). -/

theorem deliver_record {cl : Nat} {r : FaultRec} {rest : List FaultRec} (hd : (clusterAt s cl).deliveries = r :: rest)
    (hroom : (clusterAt s cl).outstanding.length < 2 ^ (clusterAt s cl).fsLog)
    (hturn : replayOk s (clusterAt s cl).fsBase 2048 = true) :
    let c := clusterAt s cl
    let prod := ofBytes (readPhys s 0 c.fsBase 8).1
    let t := writePhys s 0 (c.fsBase + 64 + 32 * (prod % 2 ^ c.fsLog)) (faultBytes r)
    let t := atomicWrite t (.hbm c.fsBase 0) (toBytes 8 (min (prod + 1) (2 ^ 64 - 1)))
    deliver s cl = modCluster (replayed (sootLog t c.fsBase 2048) c.fsBase) cl fun k =>
      { k with deliveries := rest, outstanding := k.outstanding ++ [(prod % 2 ^ 32, r)] } := by
  unfold deliver
  dsimp only
  rw [hd]
  dsimp only
  rw [if_neg (by simp [hturn]; omega)]

theorem deliver_waits {cl : Nat} (hfull : 2 ^ (clusterAt s cl).fsLog ≤ (clusterAt s cl).outstanding.length) :
    deliver s cl = s := by
  unfold deliver
  dsimp only
  split
  · rfl
  · rw [if_pos (by simp [hfull])]

/-! Acknowledgement (R371, R385). -/

/-- A cluster notes an acknowledgement that is not refused. -/
def ackNoted (s : State) (cl seq action : Nat) : State :=
  modCluster s cl fun k =>
    { k with ackSeq := BitVec.ofNat 32 seq, ackAction := BitVec.ofNat 2 action, ackErr := false }

/-- What an acknowledgement does with a stuck task: RETRY and FAIL free the record's slot, and NOTE leaves it outstanding. -/
def ackActs (t : State) (cl seq core : Nat) (h : Word) (r : FaultRec) : Nat → State
  | 0 => freeSlotSeq (retryStuck t core h) cl seq
  | 1 => freeSlotSeq (failStuck t core h r.word (failCode r.cause)) cl seq
  | _ => t

section

variable {cl seq action core : Nat} {r : FaultRec} {h : Word}

theorem acknowledge_stuck (hf : (clusterAt s cl).outstanding.find? (fun p => p.1 = seq) = some (seq, r))
    (ho : r.owner = .task core h) (ha : action ≠ 3) (hs : stuckAt (ackNoted s cl seq action) core h ≠ .gone) :
    acknowledge s cl seq action = ackActs (ackNoted s cl seq action) cl seq core h r action := by
  unfold acknowledge
  rw [hf]
  dsimp only
  rw [if_neg ha, ho]
  refine (if_neg hs).trans ?_
  match action with
  | 0 => rfl
  | 1 => rfl
  | _ + 2 => rfl

/-- An acknowledgement of a record of no task, or of a task that is gone, frees the record's slot. -/
theorem acknowledge_free (hf : (clusterAt s cl).outstanding.find? (fun p => p.1 = seq) = some (seq, r))
    (ho : r.owner = .other ∨ ∃ core h, r.owner = .task core h ∧ stuckAt (ackNoted s cl seq action) core h = .gone)
    (ha : action ≠ 3) : acknowledge s cl seq action = freeSlotSeq (ackNoted s cl seq action) cl seq := by
  obtain ho | ⟨core, h, ho, hgone⟩ := ho
  · exact acknowledge_other s hf ho ha
  · unfold acknowledge
    rw [hf]
    dsimp only
    rw [if_neg ha, ho]
    exact if_pos hgone

end

/-! A latched task that is failed (R249, R385). -/

section

variable {core : Nat} {h code : Word} {word : BitVec 32} {x : Rec}

theorem olderQueued_iff {c : Ctx} : olderQueued c word = true ↔
    c.viq ≠ [] ∧ (if c.latch.isSome then c.latchQ = false else queuedWord word = false) := by
  unfold olderQueued
  split <;> simp_all

theorem failStuck_latched (hs : stuckAt s core h = .latched)
    (hx : (coreAt s core).recs.find? (fun r => r.ctx.tself = h) = some x) :
    failStuck s core h word code = if olderQueued x.ctx word
      then unlatch s core h fun c => { c with failWith := some code }
      else dropRefs (settle (endedOn (takeRec s core h) core h) h true code) x.ctx.held := by
  unfold failStuck
  rw [hs]
  dsimp only
  rw [hx]

/-- A latched task with no older instruction queued ends there, as if by FFAIL. -/
theorem failStuck_ends (hs : stuckAt s core h = .latched)
    (hx : (coreAt s core).recs.find? (fun r => r.ctx.tself = h) = some x) (hold : ¬olderQueued x.ctx word = true)
    (hdev : hDev h = s.devid) (hgen : hGen h = (entryAt s h).gen) (hst : (entryAt s h).st = .pending)
    {dropped : Word → Prop} (hdrops : EndDrops s x.ctx.held dropped) (hfresh : ∀ y, dropped y → ¬SameFuture y h) :
    entryAt (failStuck s core h word code) h =
      { entryAt s h with loc := some core, st := .failed, result := code } := by
  have htake := spares_takeRec (hSlot h) s core h
  have hentry := htake.entryAt hdev
  rw [failStuck_latched hs hx, if_neg hold,
    entryAt_ended (hdev.trans htake.devid.symm) (by rw [hentry]; exact hgen) (by rw [hentry]; exact hst)
      ((ClosedDrops.of_endDrops hdrops).keeps htake.toKeepsHeld) hdrops.held hfresh, hentry]
  rfl

end

/-- Settles O47: an acknowledgement acts on its task by `acknowledge_stuck` or frees its slot, and a task that is failed
ends by `failStuck_ends`. -/
theorem faultServiceEvents : Obligations.FaultServiceEvents := by
  intro s cl seq c from_ ok bad names
  have hack : ∀ action, ackFrom s cl seq action = acknowledge from_ cl.val seq.toNat action := fun _ => rfl
  have hok : ∀ action, ackNoted from_ cl.val seq.toNat action = ok action := fun _ => rfl
  have hretry : exec (.fsackRetry cl seq) s = .next (ackFrom s cl seq 0) := rfl
  have hfail : exec (.fsackFail cl seq) s = .next (ackFrom s cl seq 1) := rfl
  have hnote : exec (.fsackNote cl seq) s = .next (ackFrom s cl seq 2) := rfl
  have hinvalid : exec (.fsackInvalid cl seq) s = .next (ackFrom s cl seq 3) := rfl
  have hdeliver : exec (.faultRecordDelivery cl) s = .next (deliver s cl.val) := rfl
  rw [hretry, hfail, hnote, hinvalid, hdeliver]
  simp only [hack, ← hok]
  refine ⟨fun r rest hd hroom hturn => congrArg _ (deliver_record hd hroom hturn),
    fun hfull => congrArg _ (deliver_waits hfull), fun r core h hr ho => ?stuck, fun core h code word x hs hx => ?fails,
    fun r hr ho => ?free, fun hnone => ?unknown, congrArg _ (acknowledge_refused _ _ _ _ (.inr rfl))⟩
  case stuck =>
    exact ⟨fun hs => congrArg _ (acknowledge_stuck hr ho (by decide) hs),
      fun hs => congrArg _ (acknowledge_stuck hr ho (by decide) hs),
      fun hs => congrArg _ (acknowledge_stuck hr ho (by decide) hs)⟩
  case fails =>
    refine ⟨fun hold => ?older, fun hold hdev hgen hst dropped hdrops hfresh => ?ends⟩
    case older =>
      rw [failStuck_latched hs hx, if_pos (olderQueued_iff.mpr hold)]
      rfl
    case ends =>
      rw [failStuck_ends hs hx (mt olderQueued_iff.mp hold) hdev hgen hst hdrops hfresh]
      exact ⟨rfl, rfl, rfl⟩
  case free =>
    have hfree : ∀ action, action ≠ 3 → acknowledge from_ cl.val seq.toNat action =
        freeSlotSeq (ackNoted from_ cl.val seq.toNat action) cl.val seq.toNat := fun action =>
      acknowledge_free hr (ho.imp_right fun ⟨core, h, howner, hgone⟩ => ⟨core, h, howner, hgone action⟩)
    exact ⟨congrArg _ (hfree 0 (by decide)), congrArg _ (hfree 1 (by decide)), congrArg _ (hfree 2 (by decide))⟩
  case unknown =>
    have hbad : ∀ action, acknowledge from_ cl.val seq.toNat action = bad := fun action =>
      acknowledge_refused _ _ _ _ (.inl hnone)
    exact ⟨congrArg _ (hbad 0), congrArg _ (hbad 1), congrArg _ (hbad 2)⟩

end Sys2Proof.Machine
end

section
/-!
SUPPORT. Slots replaced in a bit string, and dirty L1 lines written to their home (R187, R191).
-/

namespace Sys2Proof.Machine

/-! Slots replaced (R109). -/

theorem slot_putSlot {n i j w v : Nat} (d : BitVec n) (hi : i * w + w ≤ n) (hj : j * w + w ≤ n) :
    slot (putSlot d i w v) j w = if j = i then v % 2 ^ w else slot d j w := by
  obtain ⟨hbelow, hthere, habove⟩ := splice_parts d.toNat (v % 2 ^ w) (i * w) w (Nat.mod_lt _ (Nat.two_pow_pos w))
  have hput : slot (putSlot d i w v) j w =
      (d.toNat - d.toNat / 2 ^ (i * w) % 2 ^ w * 2 ^ (i * w) + v % 2 ^ w * 2 ^ (i * w)) / 2 ^ (j * w) % 2 ^ w := by
    rw [putSlot, slot, slot, BitVec.toNat_ofNat, mod_slot hj]
  rw [hput]
  generalize d.toNat - d.toNat / 2 ^ (i * w) % 2 ^ w * 2 ^ (i * w) + v % 2 ^ w * 2 ^ (i * w) = z at *
  unfold slot
  rcases Nat.lt_trichotomy j i with h | rfl | h
  · have hle : j * w + w ≤ i * w := by rw [← Nat.succ_mul]; exact Nat.mul_le_mul_right w h
    rw [if_neg (by omega), ← mod_slot hle, hbelow, mod_slot hle]
  · rw [if_pos rfl, hthere]
  · have hle : i * w + w ≤ j * w := by rw [← Nat.succ_mul]; exact Nat.mul_le_mul_right w h
    obtain ⟨c, hc⟩ := Nat.exists_eq_add_of_le hle
    rw [if_neg (by omega), hc, Nat.pow_add _ _ c, ← Nat.div_div_eq_div_mul, ← Nat.div_div_eq_div_mul, habove]

theorem patch_nil (d : BitVec 1024) (off : Nat) : patch d off [] = d := rfl

theorem patch_snoc (d : BitVec 1024) (off : Nat) (bs : List Byte) (b : Byte) :
    patch d off (bs ++ [b]) = putSlot (patch d off bs) (off + bs.length) 8 b.toNat := by
  unfold patch
  rw [List.length_append, List.length_singleton, List.range_succ,
    List.zip_append (by rw [List.length_range]), List.foldl_append]
  rfl

/-- A line's bytes after some were replaced. -/
theorem slot_patch (d : BitVec 1024) {off : Nat} {bs : List Byte} (h : off + bs.length ≤ 128) {j : Nat} (hj : j < 128) :
    slot (patch d off bs) j 8 = if off ≤ j ∧ j < off + bs.length then (bs.getD (j - off) 0).toNat else slot d j 8 := by
  induction bs using List.reverseRecOn with
  | nil => rw [patch_nil, if_neg (by simp)]
  | append_singleton bs b ih =>
    rw [List.length_append, List.length_singleton] at h ⊢
    rw [patch_snoc, slot_putSlot _ (by omega) (by omega), ih (by omega)]
    by_cases hlast : j = off + bs.length
    · subst hlast
      rw [if_pos rfl, if_pos (by omega), Nat.add_sub_cancel_left, Nat.mod_eq_of_lt b.isLt]
      simp
    · rw [if_neg hlast]
      by_cases hin : off ≤ j ∧ j < off + bs.length
      · rw [if_pos hin, if_pos (by omega), List.getD_append _ _ _ _ (by omega)]
      · rw [if_neg hin, if_neg (by omega)]

/-! Bytes of a line at its home, under the key that the line was last written under (R191). -/

section

variable {s t u : State} {k : Fin 64} {l : L1Line} {pa n line : Nat}

/-- A line stands at home under the key of a slot. -/
def UnderKey (s : State) (k : Fin 64) (line : Nat) : Prop := keyOf s line = s.keys.get k

theorem touchLine_underKey (h : UnderKey s k line) : touchLine s k line = s := by
  unfold touchLine
  dsimp only
  rw [h]
  exact if_neg (by simp)

/-- Bytes of one line that stands under the key. -/
theorem touch_underKey (h : UnderKey s k (pa / 128)) (hfit : pa % 128 + n ≤ 128) : touch s k pa n = s := by
  have hline : ∀ l ∈ span (pa / 128) (if n = 0 then 0 else (pa + n + 127) / 128), l = pa / 128 := by
    intro l hl
    obtain ⟨hlo, hhi⟩ := mem_span.mp hl
    split at hhi <;> omega
  have hfold : ∀ ls : List Nat, (∀ l ∈ ls, l = pa / 128) → ls.foldl (fun t l => touchLine t k l) s = s := by
    intro ls
    induction ls with
    | nil => exact fun _ => rfl
    | cons l ls ih =>
      intro hls
      rw [List.foldl_cons, hls l List.mem_cons_self, touchLine_underKey h]
      exact ih fun x hx => hls x (List.mem_cons_of_mem l hx)
  exact hfold _ hline

/-- A state that differs in the bytes of memory and the poison marks at most. -/
def SameButBytes (s t : State) : Prop := t = { s with mem := t.mem, poison := t.poison }

theorem SameButBytes.refl (s : State) : SameButBytes s s := rfl

theorem SameButBytes.trans (h : SameButBytes s t) (h' : SameButBytes t u) : SameButBytes s u := by
  unfold SameButBytes at *; rw [h', h]

theorem SameButBytes.underKey (h : SameButBytes s t) : UnderKey t k line ↔ UnderKey s k line := by
  rw [h]; rfl

theorem SameButBytes.cpu_eq (h : SameButBytes s t) : t.cpu = s.cpu := by rw [h]
theorem SameButBytes.parked_eq (h : SameButBytes s t) : t.parked = s.parked := by rw [h]

theorem writePhys_underKey {bs : List Byte} (h : UnderKey s k (pa / 128)) (hfit : pa % 128 + bs.length ≤ 128) :
    writePhys s k pa bs = { s with mem := memPut s.mem pa bs, poison := unpoison s.poison pa bs.length } := by
  unfold writePhys
  dsimp only
  rw [touch_underKey h hfit]

/-! Dirty lines go home (R187). -/

/-- A byte at home once the first n bytes of a line have gone there: the line's, where it is dirty. -/
def flushedBelow (n : Nat) (l : L1Line) (x : Nat) (b : Byte) : Byte :=
  if l.line = x / 128 ∧ x % 128 < n ∧ l.dirty.getLsbD (x % 128) = true then BitVec.ofNat 8 (slot l.data (x % 128) 8) else b

/-- A state in which some writes home have changed the bytes of memory as a function says, and nothing else. -/
structure BytesGoHome (s t : State) (f : Nat → Byte → Byte) : Prop where
  same : SameButBytes s t
  wf : Memory.wf t.mem = true
  get : ∀ x, memGet t.mem x = f x (memGet s.mem x)

/-- One byte of a line, if it is dirty. -/
def flushByte (l : L1Line) (t : State) (i : Nat) : State :=
  if l.dirty.getLsbD i then writePhys t l.key (l.line * 128 + i) [BitVec.ofNat 8 (slot l.data i 8)] else t

theorem flushLine_eq (s : State) (l : L1Line) : flushLine s l = (List.range 128).foldl (flushByte l) s := rfl

theorem flushedBelow_succ_clean {x : Nat} {b : Byte} (h : ¬(l.line = x / 128 ∧ x % 128 = n ∧ l.dirty.getLsbD n = true)) :
    flushedBelow (n + 1) l x b = flushedBelow n l x b := by
  refine if_congr ⟨fun ⟨hline, hlt, hd⟩ => ⟨hline, ?_, hd⟩, fun ⟨hline, hlt, hd⟩ => ⟨hline, by omega, hd⟩⟩ rfl rfl
  by_contra hge
  obtain rfl : x % 128 = n := by omega
  exact h ⟨hline, rfl, hd⟩

/-- The first bytes of a line go home. -/
theorem flushBytes_home (hs : Memory.wf s.mem = true) (hk : l.dirty ≠ 0 → UnderKey s l.key l.line) {n : Nat} (hn : n ≤ 128) :
    BytesGoHome s ((List.range n).foldl (flushByte l) s) (flushedBelow n l) := by
  induction n with
  | zero => exact ⟨.refl s, hs, fun x => (if_neg (by omega)).symm⟩
  | succ n ih =>
    obtain ⟨hsame, hwf, hget⟩ := ih (by omega)
    rw [List.range_succ, List.foldl_append, List.foldl_cons, List.foldl_nil]
    generalize (List.range n).foldl (flushByte l) s = t at hsame hwf hget
    unfold flushByte
    split
    next hd =>
      have hkey : UnderKey t l.key ((l.line * 128 + n) / 128) := by
        rw [show (l.line * 128 + n) / 128 = l.line by omega, hsame.underKey]
        exact hk fun h0 => by simp [h0] at hd
      rw [writePhys_underKey hkey (by rw [List.length_singleton]; omega)]
      refine ⟨hsame.trans rfl, memPut_wf _ _ hwf, fun x => ?_⟩
      dsimp only
      rw [memGet_memPut _ _ _ hwf, hget x, List.length_singleton]
      by_cases hx : x = l.line * 128 + n
      · have hline : x / 128 = l.line := by omega
        have hbyte : x % 128 = n := by omega
        rw [if_pos (by omega), flushedBelow, hline, hbyte, if_pos ⟨rfl, by omega, hd⟩, hx, Nat.sub_self]
        rfl
      · rw [if_neg (by omega), flushedBelow_succ_clean (by omega)]
    next hd =>
      exact ⟨hsame, hwf, fun x => (hget x).trans (flushedBelow_succ_clean fun h => hd h.2.2).symm⟩

/-- A line goes home whose dirty bytes are under its key there. -/
theorem flushLine_home (hs : Memory.wf s.mem = true) (hk : l.dirty ≠ 0 → UnderKey s l.key l.line) :
    BytesGoHome s (flushLine s l) (flushedBelow 128 l) := by
  rw [flushLine_eq]
  exact flushBytes_home hs hk (le_refl 128)

/-- A byte at home once lines have gone there, one after another. -/
def flushedAll (ls : List L1Line) (x : Nat) (b : Byte) : Byte := ls.foldl (fun b l => flushedBelow 128 l x b) b

theorem flushLines_home {ls : List L1Line} (hs : Memory.wf s.mem = true)
    (hk : ∀ l ∈ ls, l.dirty ≠ 0 → UnderKey s l.key l.line) : BytesGoHome s (ls.foldl flushLine s) (flushedAll ls) := by
  induction ls generalizing s with
  | nil => exact ⟨.refl s, hs, fun _ => rfl⟩
  | cons l ls ih =>
    obtain ⟨hsame, hwf, hget⟩ := flushLine_home hs (hk l List.mem_cons_self)
    obtain ⟨hsame', hwf', hget'⟩ := ih hwf fun m hm hd => hsame.underKey.mpr (hk m (List.mem_cons_of_mem l hm) hd)
    exact ⟨hsame.trans hsame', hwf', fun x => by rw [List.foldl_cons, hget' x, hget x]; rfl⟩

/-- A line that is not dirty at a byte. -/
def CleanAt (l : L1Line) (x : Nat) : Prop := l.line = x / 128 → l.dirty.getLsbD (x % 128) = false

theorem flushedAll_clean {ls : List L1Line} {x : Nat} (h : ∀ l ∈ ls, CleanAt l x) (b : Byte) : flushedAll ls x b = b := by
  induction ls generalizing b with
  | nil => rfl
  | cons l ls ih =>
    have hl : flushedBelow 128 l x b = b :=
      if_neg fun ⟨hline, _, hd⟩ => by rw [h l List.mem_cons_self hline] at hd; exact nomatch hd
    rw [flushedAll, List.foldl_cons, hl]
    exact ih (fun m hm => h m (List.mem_cons_of_mem l hm)) b

/-- Of several lines that are dirty at a byte the last one goes home last. -/
theorem flushedAll_last {before after : List L1Line} {i : Nat} (hi : i < 128) (hd : l.dirty.getLsbD i = true)
    (hafter : ∀ m ∈ after, m.line = l.line → m.dirty.getLsbD i = false) (b : Byte) :
    flushedAll (before ++ l :: after) (l.line * 128 + i) b = BitVec.ofNat 8 (slot l.data i 8) := by
  have hline : (l.line * 128 + i) / 128 = l.line := by omega
  have hbyte : (l.line * 128 + i) % 128 = i := by omega
  have hl : ∀ b, flushedBelow 128 l (l.line * 128 + i) b = BitVec.ofNat 8 (slot l.data i 8) := fun b => by
    rw [flushedBelow, hline, hbyte, if_pos ⟨rfl, hi, hd⟩]
  rw [flushedAll, List.foldl_append, List.foldl_cons, hl]
  exact flushedAll_clean (fun m hm hm' => by rw [hbyte]; exact hafter m hm (hm'.trans hline)) _

theorem modCore_own {f : Core → Core} {n : Nat} (hn : s.cpu.id = n) (hf : (f s.cpu).id = n) : modCore s n f = modCpu s f := by
  simp only [modCore, setCore, coreAt, hn, hf, if_true]
  rfl

/-- The running core's dirty lines go home and stay, clean. -/
theorem writeBack_own : writeBack s s.cpu.id = modCpu (s.cpu.l1.foldl flushLine s) fun c =>
    { c with l1 := s.cpu.l1.map fun l => { l with dirty := 0 } } := by
  have hid : (s.cpu.l1.foldl flushLine s).cpu.id = s.cpu.id :=
    congrArg Core.id (SameButMemory.foldl flushLine_sameButMemory _ s).cpu_eq
  have hl1 : (coreAt s s.cpu.id).l1 = s.cpu.l1 := by rw [coreAt, if_pos rfl]
  unfold writeBack
  dsimp only
  rw [hl1]
  exact modCore_own hid hid

end

end Sys2Proof.Machine
end

section
/-!
PROOF. A store to HBM through the L1 of its core, and a load that reads it back (O10).
-/

namespace Sys2Proof.Machine

open Sys2Proof.Claims

variable {s t : State} {k : Fin 64} {l : L1Line} {pa n line : Nat} {bs : List Byte}

/-! The lines that L1 holds (R187). -/

/-- L1 holds a line under one key index at most. -/
def HoldsUnder (s : State) (k : Fin 64) (line : Nat) : Prop := ∀ l ∈ s.cpu.l1, l.line = line → l.key = k

theorem l1Rekey_holdsUnder (h : HoldsUnder s k line) : l1Rekey s k line = s := by
  have hnone : s.cpu.l1.find? (fun l => l.line = line && l.key != k) = none := by
    rw [List.find?_eq_none]
    intro l hl
    simpa using h l hl
  rw [l1Rekey, hnone]

theorem l1Find_some (h : l1Find s k line = some l) : l ∈ s.cpu.l1 ∧ l.line = line ∧ l.key = k :=
  ⟨List.mem_of_find?_eq_some h, by simpa using List.find?_some h⟩

theorem l1Find_eq_none (h : ∀ l ∈ s.cpu.l1, l.line ≠ line) : l1Find s k line = none := by
  rw [l1Find, List.find?_eq_none]
  intro l hl
  simp [h l hl]

/-- A line with bytes stored from an address: it holds them valid and dirty. -/
structure HoldsStored (l : L1Line) (pa : Nat) (k : Fin 64) (bs : List Byte) : Prop where
  line : l.line = pa / 128
  key : l.key = k
  valid : l.valid &&& byteMask (pa % 128) bs.length = byteMask (pa % 128) bs.length
  dirty : l.dirty &&& byteMask (pa % 128) bs.length = byteMask (pa % 128) bs.length
  data : ∀ i, i < bs.length → slot l.data (pa % 128 + i) 8 = (bs.getD i 0).toNat

theorem or_and_absorbs (x m : BitVec 128) : (x ||| m) &&& m = m := by
  ext i
  simp +contextual

theorem storeLine_holds (hfit : pa % 128 + bs.length ≤ 128) (hline : l.line = pa / 128) (hkey : l.key = k) :
    HoldsStored (storeLine l pa bs) pa k bs where
  line := hline
  key := hkey
  valid := or_and_absorbs ..
  dirty := or_and_absorbs ..
  data i hi := by
    rw [storeLine, slot_patch _ hfit (by omega), if_pos (by omega), Nat.add_sub_cancel_left]

/-- The other bytes of the line are as they were. -/
theorem storeLine_others (hfit : pa % 128 + bs.length ≤ 128) {i : Nat} (hi : i < 128)
    (hout : i < pa % 128 ∨ pa % 128 + bs.length ≤ i) : slot (storeLine l pa bs).data i 8 = slot l.data i 8 := by
  rw [storeLine, slot_patch _ hfit hi, if_neg (by omega)]

/-- A load of the stored bytes gives them, and changes nothing. -/
theorem loadAt_holdsStored (hunder : HoldsUnder t k (pa / 128)) (hfind : l1Find t k (pa / 128) = some l)
    (h : HoldsStored l pa k bs) : loadAt t false (.hbm pa k) bs.length = (some bs, t) := by
  have hbytes : ((List.range bs.length).map fun i => BitVec.ofNat 8 (slot l.data (pa % 128 + i) 8)) = bs := by
    refine List.ext_getElem (by simp) fun i hi hi' => ?_
    rw [List.getElem_map, List.getElem_range, h.data i hi', List.getD_eq_getElem _ _ hi']
    simp
  unfold loadAt l1Load
  dsimp only
  rw [l1Rekey_holdsUnder hunder, hfind]
  dsimp only
  rw [h.valid, beq_self_eq_true]
  exact congrArg (fun x => (some x, t)) hbytes

/-! A store to a line that L1 holds. -/

/-- The L1 line of a store with its bytes, and any other line as it was. -/
def storedInto (pa : Nat) (bs : List Byte) (l : L1Line) : L1Line := if l.line = pa / 128 then storeLine l pa bs else l

theorem storedInto_line (l : L1Line) : (storedInto pa bs l).line = l.line := by unfold storedInto; split <;> rfl
theorem storedInto_key (l : L1Line) : (storedInto pa bs l).key = l.key := by unfold storedInto; split <;> rfl
theorem storedInto_same (h : l.line = pa / 128) : storedInto pa bs l = storeLine l pa bs := if_pos h
theorem storedInto_other (h : l.line ≠ pa / 128) : storedInto pa bs l = l := if_neg h

theorem l1Store_hit (hunder : HoldsUnder s k (pa / 128)) (hfind : l1Find s k (pa / 128) = some l) :
    l1Store s k pa bs = modCpu s fun c => { c with l1 := c.l1.map (storedInto pa bs) } := by
  unfold l1Store
  dsimp only
  rw [l1Rekey_holdsUnder hunder, hfind]
  rfl

/-- After a store to a line that L1 holds, the line is still there under its key, and it is the one that a load finds. -/
theorem l1Store_hit_holds (hfit : pa % 128 + bs.length ≤ 128) (hunder : HoldsUnder s k (pa / 128))
    (hfind : l1Find s k (pa / 128) = some l) :
    HoldsUnder (l1Store s k pa bs) k (pa / 128) ∧ l1Find (l1Store s k pa bs) k (pa / 128) = some (storeLine l pa bs) ∧
    HoldsStored (storeLine l pa bs) pa k bs := by
  obtain ⟨-, hline, hkey⟩ := l1Find_some hfind
  rw [l1Store_hit hunder hfind]
  refine ⟨fun m hm hmline => ?_, ?_, storeLine_holds hfit hline hkey⟩
  · obtain ⟨o, ho, rfl⟩ := List.mem_map.mp hm
    rw [storedInto_line] at hmline
    rw [storedInto_key]
    exact hunder o ho hmline
  · unfold l1Find at hfind ⊢
    rw [modCpu_cpu, List.find?_map]
    have hsame : ((fun l : L1Line => decide (l.line = pa / 128) && decide (l.key = k)) ∘ storedInto pa bs) =
        fun l => decide (l.line = pa / 128) && decide (l.key = k) := by
      funext l
      simp only [Function.comp, storedInto_line, storedInto_key]
    rw [hsame, hfind, Option.map_some, storedInto_same hline]

/-! A store that makes room for its line (R187). -/

theorem storeFill_line (k : Fin 64) (line : Nat) (h : UnderKey (l1Room s line) k line) :
    ∃ l, storeFill s k line = (l, bump (l1Room s line) 8) ∧ l.line = line ∧ l.key = k := by
  unfold storeFill
  dsimp only
  split
  · exact ⟨_, rfl, rfl, rfl⟩
  · have hkey : UnderKey (bump (l1Room s line) 8) k (line * 128 / 128) := by
      rw [Nat.mul_div_cancel _ (by decide)]
      exact h
    rw [readPhys]
    dsimp only
    rw [touch_underKey hkey (by omega)]
    exact ⟨_, rfl, rfl, rfl⟩

theorem l1Store_miss (hnone : ∀ l ∈ s.cpu.l1, l.line ≠ pa / 128) (h : UnderKey (l1Room s (pa / 128)) k (pa / 128)) :
    ∃ l, l1Store s k pa bs = modCpu (bump (l1Room s (pa / 128)) 8) (fun c => { c with l1 := storeLine l pa bs :: c.l1 }) ∧
      l.line = pa / 128 ∧ l.key = k := by
  obtain ⟨l, hfill, hline, hkey⟩ := storeFill_line k (pa / 128) h
  refine ⟨l, ?_, hline, hkey⟩
  unfold l1Store
  dsimp only
  rw [l1Rekey_holdsUnder fun l hl hline => absurd hline (hnone l hl), l1Find_eq_none hnone]
  dsimp only
  rw [hfill]

/-- After a store that made room, the new line is the one that a load finds. -/
theorem l1Store_miss_holds (hfit : pa % 128 + bs.length ≤ 128) {u : State} (hnone : ∀ l ∈ u.cpu.l1, l.line ≠ pa / 128)
    (hline : l.line = pa / 128) (hkey : l.key = k)
    (ht : t = modCpu u fun c => { c with l1 := storeLine l pa bs :: c.l1 }) :
    HoldsUnder t k (pa / 128) ∧ l1Find t k (pa / 128) = some (storeLine l pa bs) ∧ HoldsStored (storeLine l pa bs) pa k bs := by
  have hstored : HoldsStored (storeLine l pa bs) pa k bs := storeLine_holds hfit hline hkey
  subst ht
  refine ⟨fun m hm hmline => ?_, ?_, hstored⟩
  · obtain rfl | hm := List.mem_cons.mp hm
    · exact hstored.key
    · exact absurd hmline (hnone m hm)
  · rw [l1Find, modCpu_cpu, List.find?_cons_of_pos]
    simp [hstored.line, hstored.key]

/-- The lines of a line's set in L1 (log 8). -/
def l1Set (s : State) (line : Nat) : List L1Line := s.cpu.l1.filter fun l => l.line % 128 = line % 128

theorem l1Room_free (h : (l1Set s line).length < 4) : l1Room s line = s := if_pos h

/-- The state in which a line leaves L1: as it was, or with the dirty lines of the core written back. -/
def vacated (s : State) (v : L1Line) : State := if v.dirty = 0 then s else writeBack s s.cpu.id

/-- A full set gives up one of its lines. -/
theorem l1Room_full (h : 4 ≤ (l1Set s line).length) : ∃ v ∈ s.cpu.l1, v.line % 128 = line % 128 ∧
    l1Room s line = modCpu (vacated s v) fun c => { c with l1 := c.l1.filter fun l => l.line != v.line } := by
  have hpick : Config.pick s.tick 1 % (l1Set s line).length < (l1Set s line).length := Nat.mod_lt _ (by omega)
  have hmem := List.mem_filter.mp (List.getElem_mem hpick)
  refine ⟨(l1Set s line)[Config.pick s.tick 1 % (l1Set s line).length], hmem.1, by simpa using hmem.2, ?_⟩
  have hsome := List.getElem?_eq_getElem hpick
  unfold l1Room
  dsimp only
  unfold l1Set at h hsome ⊢
  rw [if_neg (Nat.not_lt.mpr h), hsome]
  rfl

/-- A state whose core holds lines of the same numbers, with every line at home under the same key. -/
structure MakesWay (s u : State) : Prop where
  parked : u.parked = s.parked
  cpu : ∃ ls, u.cpu = { s.cpu with l1 := ls }
  lines : ∀ m ∈ u.cpu.l1, ∃ o ∈ s.cpu.l1, o.line = m.line
  underKey : ∀ k line, UnderKey u k line ↔ UnderKey s k line

/-- The dirty lines of the running core stand at home under their keys. -/
def DirtyUnderKey (s : State) : Prop := ∀ l ∈ s.cpu.l1, l.dirty ≠ 0 → UnderKey s l.key l.line

theorem writeBack_home (hs : s.memOk) (hk : DirtyUnderKey s) : ∃ u, BytesGoHome s u (flushedAll s.cpu.l1) ∧
    writeBack s s.cpu.id = modCpu u fun c => { c with l1 := s.cpu.l1.map fun l => { l with dirty := 0 } } :=
  ⟨_, flushLines_home hs hk, writeBack_own⟩

theorem vacated_makesWay (hs : s.memOk) (hk : DirtyUnderKey s) (v : L1Line) : MakesWay s (vacated s v) := by
  unfold vacated
  split
  · exact ⟨rfl, ⟨s.cpu.l1, rfl⟩, fun m hm => ⟨m, hm, rfl⟩, fun _ _ => Iff.rfl⟩
  · obtain ⟨u, hhome, hu⟩ := writeBack_home hs hk
    rw [hu]
    refine ⟨hhome.same.parked_eq, ⟨_, by rw [modCpu_cpu, hhome.same.cpu_eq]⟩, fun m hm => ?_, fun _ _ => hhome.same.underKey⟩
    obtain ⟨o, ho, rfl⟩ := List.mem_map.mp hm
    exact ⟨o, ho, rfl⟩

/-! What a store leaves as it was (R187, R191). -/

/-- A store that changes the lines of L1 at most, and of them no other than the line stored to. -/
structure StaysInL1 (s t : State) (line : Nat) : Prop where
  mem : t.mem = s.mem
  parked : t.parked = s.parked
  cpu : t.cpu = { s.cpu with l1 := t.cpu.l1, counters := t.cpu.counters }
  lines : ∀ l ∈ s.cpu.l1, l.line ≠ line → l ∈ t.cpu.l1

/-- What is left of a line that L1 held before the store: its bytes outside those stored. -/
def KeepsOthers (s t : State) (pa : Nat) (bs : List Byte) : Prop := ∀ o ∈ s.cpu.l1, o.line = pa / 128 →
  ∃ l ∈ t.cpu.l1, l.line = pa / 128 ∧
    ∀ i, i < 128 → (i < pa % 128 ∨ pa % 128 + bs.length ≤ i) → slot l.data i 8 = slot o.data i 8

theorem l1Store_hit_frame (hfit : pa % 128 + bs.length ≤ 128) (hunder : HoldsUnder s k (pa / 128))
    (hfind : l1Find s k (pa / 128) = some l) :
    StaysInL1 s (l1Store s k pa bs) (pa / 128) ∧ KeepsOthers s (l1Store s k pa bs) pa bs := by
  rw [l1Store_hit hunder hfind]
  refine ⟨⟨rfl, rfl, rfl, fun m hm hline => ?_⟩, fun o ho hline => ?_⟩
  · exact List.mem_map.mpr ⟨m, hm, storedInto_other hline⟩
  · exact ⟨storeLine o pa bs, List.mem_map.mpr ⟨o, ho, storedInto_same hline⟩, hline, fun _ hi => storeLine_others hfit hi⟩

/-- A store to a line that L1 holds, or has room for. -/
theorem l1Store_stays (hfit : pa % 128 + bs.length ≤ 128) (hunder : HoldsUnder s k (pa / 128))
    (h : (∃ l ∈ s.cpu.l1, l.line = pa / 128) ∨ ((l1Set s (pa / 128)).length < 4 ∧ UnderKey s k (pa / 128))) :
    ∃ l, HoldsUnder (l1Store s k pa bs) k (pa / 128) ∧ l1Find (l1Store s k pa bs) k (pa / 128) = some l ∧
      HoldsStored l pa k bs ∧ StaysInL1 s (l1Store s k pa bs) (pa / 128) ∧ KeepsOthers s (l1Store s k pa bs) pa bs := by
  by_cases hheld : ∃ l ∈ s.cpu.l1, l.line = pa / 128
  · obtain ⟨l, hfind⟩ : ∃ l, l1Find s k (pa / 128) = some l := by
      obtain ⟨l, hl, hline⟩ := hheld
      exact Option.isSome_iff_exists.mp (List.find?_isSome.mpr ⟨l, hl, by simp [hline, hunder l hl hline]⟩)
    obtain ⟨hunder', hfind', hstored⟩ := l1Store_hit_holds hfit hunder hfind
    exact ⟨_, hunder', hfind', hstored, l1Store_hit_frame hfit hunder hfind⟩
  · obtain ⟨hfree, hkey⟩ := h.resolve_left hheld
    have hnone : ∀ l ∈ s.cpu.l1, l.line ≠ pa / 128 := fun l hl hline => hheld ⟨l, hl, hline⟩
    have hroom := l1Room_free hfree
    obtain ⟨l, hstore, hline, hlkey⟩ := l1Store_miss (bs := bs) hnone (hroom.symm ▸ hkey)
    rw [hroom] at hstore
    obtain ⟨hunder', hfind', hstored⟩ := l1Store_miss_holds (u := bump s 8) hfit hnone hline hlkey hstore
    refine ⟨_, hunder', hfind', hstored, ?_, fun o ho hline => absurd hline (hnone o ho)⟩
    rw [hstore]
    exact ⟨rfl, rfl, rfl, fun m hm _ => List.mem_cons_of_mem _ hm⟩

/-- A store for which another line leaves L1. -/
structure Evicts (s t : State) (v : L1Line) : Prop where
  held : v ∈ s.cpu.l1
  gone : ∀ l ∈ t.cpu.l1, l.line ≠ v.line
  mem : t.mem = (vacated s v).mem
  parked : t.parked = s.parked
  cpu : t.cpu = { s.cpu with l1 := t.cpu.l1, counters := t.cpu.counters }
  lines : ∀ l ∈ (vacated s v).cpu.l1, l.line ≠ v.line → l ∈ t.cpu.l1

/-- A store to a line that L1 neither holds nor has room for. -/
theorem l1Store_evicts (hfit : pa % 128 + bs.length ≤ 128) (hnone : ∀ l ∈ s.cpu.l1, l.line ≠ pa / 128)
    (hfull : 4 ≤ (l1Set s (pa / 128)).length) (hkey : UnderKey s k (pa / 128)) (hdirty : DirtyUnderKey s) (hs : s.memOk) :
    ∃ v l, v.line % 128 = pa / 128 % 128 ∧ Evicts s (l1Store s k pa bs) v ∧
      HoldsUnder (l1Store s k pa bs) k (pa / 128) ∧ l1Find (l1Store s k pa bs) k (pa / 128) = some l ∧
      HoldsStored l pa k bs := by
  obtain ⟨v, hv, hset, hroom⟩ := l1Room_full hfull
  obtain ⟨hparked, ⟨ls, hcpu⟩, hlines, hunder⟩ := vacated_makesWay hs hdirty v
  have hkey' : UnderKey (l1Room s (pa / 128)) k (pa / 128) := by
    rw [hroom]
    exact (hunder k (pa / 128)).mpr hkey
  obtain ⟨l, hstore, hline, hlkey⟩ := l1Store_miss (bs := bs) hnone hkey'
  rw [hroom] at hstore
  generalize hu : vacated s v = u at hstore hparked hcpu hlines
  have hnone' : ∀ m ∈ u.cpu.l1.filter fun l => l.line != v.line, m.line ≠ pa / 128 := by
    intro m hm
    obtain ⟨o, ho, hom⟩ := hlines m (List.mem_filter.mp hm).1
    exact hom ▸ hnone o ho
  obtain ⟨hunder', hfind', hstored⟩ := l1Store_miss_holds hfit hnone' hline hlkey hstore
  refine ⟨v, _, hset, ?_, hunder', hfind', hstored⟩
  rw [hstore]
  refine ⟨hv, fun m hm => ?_, by rw [hu]; rfl, hparked, ?_, fun m hm hmline => ?_⟩
  · obtain rfl | hm := List.mem_cons.mp hm
    · exact fun heq => hnone v hv (heq.symm.trans hline)
    · simpa using (List.mem_filter.mp hm).2
  · simp only [modCpu_cpu, bump, hcpu]
  · rw [hu] at hm
    exact List.mem_cons_of_mem _ (List.mem_filter.mpr ⟨hm, by simpa using hmline⟩)

/-- Settles O10: the store is one to a line that L1 holds, or has room for, or for which another line makes room, when a
dirty one sends the core's dirty lines home. -/
theorem cachedStoreFrame : Obligations.CachedStoreFrame := by
  unfold Obligations.CachedStoreFrame
  intro s pa k bs hfit
  refine ⟨fun hunder hroom => ?_, fun hnone hfull hkey hdirty hs => ?_⟩
  · obtain ⟨l, hunder', hfind, hstored, hstays, hothers⟩ := l1Store_stays (bs := bs) hfit hunder hroom
    exact ⟨hstays.mem, hstays.parked, hstays.cpu, hstays.lines,
      ⟨l, (l1Find_some hfind).1, hstored.line, hstored.key, hstored.valid, hstored.dirty, hstored.data, hothers⟩,
      loadAt_holdsStored hunder' hfind hstored⟩
  · obtain ⟨v, l, hset, hevicts, hunder', hfind, hstored⟩ := l1Store_evicts (bs := bs) hfit hnone hfull hkey hdirty hs
    refine ⟨v, hevicts.held, hset, hevicts.gone, hevicts.parked, hevicts.cpu, fun hclean => ?_, fun hd => ?_,
      ⟨l, (l1Find_some hfind).1, hstored.line, hstored.key, hstored.valid, hstored.dirty, hstored.data⟩,
      loadAt_holdsStored hunder' hfind hstored⟩
    · have hsame : vacated s v = s := if_pos hclean
      exact ⟨hevicts.mem.trans (congrArg _ hsame), fun m hm => hevicts.lines m (hsame.symm ▸ hm)⟩
    · obtain ⟨u, hhome, hback⟩ := writeBack_home hs hdirty
      have hvac : vacated s v = modCpu u fun c => { c with l1 := s.cpu.l1.map fun l => { l with dirty := 0 } } :=
        (if_neg hd).trans hback
      have hmem : ∀ x, memGet (storeAt s false (.hbm pa k) bs).mem x = flushedAll s.cpu.l1 x (memGet s.mem x) := fun x => by
        rw [← hhome.get, ← modCpu_mem (s := u), ← hvac]
        exact congrArg (memGet · x) hevicts.mem
      refine ⟨fun before m after i hl1 hi hdm hafter => ?_, fun x hx => ?_, fun m hm hmline => ?_⟩
      · rw [hmem, hl1, flushedAll_last hi hdm hafter]
      · rw [hmem, flushedAll_clean hx]
      · refine hevicts.lines _ ?_ hmline
        rw [hvac]
        exact List.mem_map.mpr ⟨m, hm, rfl⟩

end Sys2Proof.Machine
end

section
/-!
PROOF. The instructions on held handles (O23), the reclamation points and holds, and TSELF (O24).
-/

namespace Sys2Proof.Machine

open Sys2Proof.Claims

variable {a : Attr} {i : Instr} {s : State} {body : State → State}

/-- With nothing before it that turns it away, an instruction that takes no prefix runs, at a reclamation point too: only a
false predicate would have the front look whether the task is doomed. -/
theorem issue_noPrefix (h : Runs a i s) (hl : a.lend = .refuse) : issue a i s body = .next (body s) := by
  obtain ⟨hprefix, hlevel, hpending, hqueue⟩ := h.checks
  have hpred : predFalse s = false := (predFalse_front h.front).trans (discarded_noPrefix (h.noPrefix hl))
  unfold issue front
  simp only [prefixOf_front h.front, hpred, atFront_of h.front, h.feature, hprefix, hlevel, hpending, hqueue, Bool.not_true,
    Bool.and_false, Bool.false_eq_true, if_false]

theorem queued_front (h : s.cpu.lane = none) : queued s = !s.cpu.live.viq.isEmpty := by
  rw [queued, atFront_of h, Bool.true_and]

/-- Settles O24: at a point `reclaimable` and the queue decide, and each other member checks the depth, if anything. -/
theorem reclamationInstructions : Obligations.ReclamationInstructions := by
  intro s d
  refine ⟨fun hr h => ?_, fun hr hq h => ?_, fun hr hq h => ?_, fun hd h => ?_, fun hd h => ?_, fun hd h => ?_, fun hd h => ?_,
    fun h => ?_⟩
  · rw [exec_rpoint, execRpoint, issue_noPrefix h rfl, if_neg (by simp [hr]), advance_eq h.front]
  · rw [exec_rpoint, execRpoint, issue_noPrefix h rfl, if_pos hr, queued_front h.front, if_neg (by simp [hq])]
    rfl
  · rw [exec_rpoint, execRpoint, issue_noPrefix h rfl, if_pos hr, queued_front h.front, if_pos (by simp [hq])]
  · rw [exec_rhold, execRhold, issue_noPrefix h rfl, if_neg (by omega), advance_eq (by exact h.front)]
  · rw [exec_rhold, execRhold, issue_noPrefix h rfl, if_pos hd]
    rfl
  · rw [exec_rrel, execRrel, issue_noPrefix h rfl, if_neg hd, advance_eq (by exact h.front)]
  · rw [exec_rrel, execRrel, issue_noPrefix h rfl, if_pos hd]
    rfl
  · rw [exec_tself, execTself, issue_noPrefix h rfl, writeReg_eq, advance_eq (by simp [h.front])]

/-! The instructions on a held handle (R228, R251). -/

theorem handleHeld_iff {c : Ctx} {h : Word} : handleHeld s c h = true ↔ h ∈ c.held ∧ hDev h < s.ndev ∧ hKind h ≤ 6 ∧
    hSlot h < tableCount s (hDev h) ∧ hGen h = (entryAt s h).gen ∧ (entryAt s h).st ≠ .free ∧ (entryAt s h).st ≠ .block ∧
    hKind h = (entryAt s h).kind := by
  simp only [handleHeld, handleNames, Bool.and_eq_true, decide_eq_true_eq, bne_iff_ne, List.contains_iff_mem]
  tauto

section

variable {r : Reg} {k : Word → State → State}

/-- An instruction on a handle that the task holds. -/
theorem withHandle_held (h : Runs (taskAttr false) i s) (hh : handleHeld s s.cpu.live (reg s r) = true) :
    withHandle i r s k = .next (k (reg s r) s) := by
  rw [withHandle, issue_noPrefix h rfl, checkHandles, reg_eq, if_pos hh]
  rfl

/-- An instruction on a handle that the task does not hold raises FUTURE with it. -/
theorem withHandle_notHeld (h : Runs (taskAttr false) i s) (hh : handleHeld s s.cpu.live (reg s r) = false) :
    withHandle i r s k = .next (takeTrap s 0x08 (reg s r)) := by
  rw [withHandle, issue_noPrefix h rfl, checkHandles, reg_eq, if_neg (by simp [hh])]
  rfl

end

theorem settled_iff {h : Word} : settled s h = true ↔ (entryAt s h).st = .resolved ∨ (entryAt s h).st = .failed := by
  simp [settled]

/-! An edge changes no future (R271). -/

theorem entryAt_modCore (s : State) (n : Nat) (f : Core → Core) (x : Word) : entryAt (modCore s n f) x = entryAt s x := by
  unfold modCore setCore
  split <;> rfl

theorem entryAt_writeBack (s : State) (n : Nat) (x : Word) : entryAt (writeBack s n) x = entryAt s x := by
  have hflush := SameButMemory.foldl flushLine_sameButMemory (coreAt s n).l1 s
  unfold writeBack
  rw [entryAt_modCore, hflush]
  rfl

theorem entryAt_completionEdge (s : State) (h x : Word) : entryAt (completionEdge s h) x = entryAt s x := by
  unfold completionEdge invalidate
  dsimp only
  split
  · rfl
  · split
    · split
      · rfl
      · rw [entryAt_modCore, entryAt_writeBack]
    · exact entryAt_modCore ..

/-- What FPOLL answers for the state of a future (R251). -/
def pollCode : FutState → Word
  | .resolved => 1
  | .failed => 2
  | _ => 0

/-- FPOLL on a held handle: the edge of a settled future, and the code of its state (R251, R271). -/
theorem fpoll_held {d : Reg} {r : Reg} (h : Runs (taskAttr false) (.fpoll d r) s)
    (hh : handleHeld s s.cpu.live (reg s r) = true) : exec (.fpoll d r) s =
      .next (retire (setG (if settled s (reg s r) then completionEdge s (reg s r) else s) d
        (pollCode (entryAt s (reg s r)).st))) := by
  have hentry : entryAt (if settled s (reg s r) then completionEdge s (reg s r) else s) (reg s r) = entryAt s (reg s r) := by
    split
    · exact entryAt_completionEdge ..
    · rfl
  rw [exec_fpoll, execFpoll, withHandle_held h hh]
  dsimp only
  rw [hentry]
  rfl

/-- Settles O23: past `withHandle_held` each member is its own checks and effect. -/
theorem handleInstructions : Obligations.HandleInstructions := by
  intro s d a b h f n fits counts blocks
  refine ⟨handleHeld_iff, fun hh i hi => ?_, fun hh => ⟨?_, ?_, ?_, ?_, ?_, ?_, ?_, ?_, ?_⟩⟩
  · have hnot {i : Instr} {k : Word → State → State} (he : exec i s = withHandle i a s k) :
        Leaves (taskAttr false) i s (takeTrap s 0x08 h) := fun hr => he.trans (withHandle_notHeld hr hh)
    rw [List.mem_cons, List.mem_cons, List.mem_cons, List.mem_singleton] at hi
    obtain rfl | rfl | rfl | rfl := hi
    · exact hnot (exec_fref s a b)
    · exact hnot (exec_fdrop s a)
    · exact hnot (exec_fpoll s d a)
    · exact hnot (exec_ftake s d a)
  · intro hfits hcounts hblocks hr
    have hroom : (decide (0 < moreBlocks s n) && !slotsLeft s (moreBlocks s n - 1)) = false := by
      obtain hb | hb := hblocks <;> simp [hb]
    rw [exec_fref, execFref, withHandle_held hr hh]
    refine congrArg _ ((if_neg (Nat.not_lt.mpr hfits)).trans ((if_neg ?_).trans (if_neg (Bool.eq_false_iff.mp hroom))))
    exact Nat.not_lt.mpr (Nat.le_sub_one_of_lt hcounts)
  · intro hfits hr
    rw [exec_fref, execFref, withHandle_held hr hh]
    exact congrArg _ (if_pos (Nat.not_le.mp hfits))
  · intro hfits hover hr
    rw [exec_fref, execFref, withHandle_held hr hh]
    refine congrArg _ ((if_neg (Nat.not_lt.mpr hfits)).trans ?_)
    split
    · rfl
    next hcount =>
      have hle : f.count + n ≤ 2 ^ 32 - 1 := Nat.not_lt.mp hcount
      obtain ⟨hmore, hslots⟩ := not_or.mp (hover.resolve_left (not_not.mpr (Nat.lt_of_le_sub_one (by decide) hle)))
      have hnone : (decide (0 < moreBlocks s n) && !slotsLeft s (moreBlocks s n - 1)) = true := by
        simpa using And.intro (Nat.pos_of_ne_zero hmore) (Bool.eq_false_iff.mpr hslots)
      exact if_pos hnone
  · intro hr
    rw [exec_fdrop, execFdrop, withHandle_held hr hh]
  · intro hs hr
    have hcode : pollCode f.st = 0 := by
      unfold pollCode
      split
      next hst => exact absurd (settled_iff.mpr (.inl hst)) (by simp [hs])
      next hst => exact absurd (settled_iff.mpr (.inr hst)) (by simp [hs])
      · rfl
    rw [fpoll_held hr hh, if_neg (Bool.eq_false_iff.mp hs), hcode]
  · intro hst hr
    rw [fpoll_held hr hh, if_pos (settled_iff.mpr (.inl hst)), hst]
    rfl
  · intro hst hr
    rw [fpoll_held hr hh, if_pos (settled_iff.mpr (.inr hst)), hst]
    rfl
  · intro hs hr
    rw [exec_ftake, execFtake, withHandle_held hr hh, if_pos hs]
  · intro hs hr
    rw [exec_ftake, execFtake, withHandle_held hr hh, if_neg (Bool.eq_false_iff.mp hs)]

end Sys2Proof.Machine
end

section
/-!
PROOF. What no handler context may execute (O16): each such instruction comes to a `front` whose attributes are no scalar's,
through the operation that its members share.
-/

namespace Sys2Proof.Machine

open Sys2Proof.Claims

/-- A handler context at an instruction without a prefix, for a tenant with every feature (R370, R433). -/
structure HandlerFront (s : State) : Prop where
  front : s.cpu.lane = none
  noPrefix : s.cpu.live.pfx.v = false
  handler : inHandler s = true
  features : (s.tenants.get s.cpu.live.tenant).featmask = 0

variable {s : State}

theorem HandlerFront.unmasked (h : HandlerFront s) (a : Attr) : masked s a = false := by
  unfold masked
  rw [h.features]
  split <;> simp

/-- There an instruction that is not legal raises PRIV (R50, R370). -/
theorem front_barred {a : Attr} {i : Instr} {k : State → State} (h : HandlerFront s) (ha : a.scalar = false) :
    front a i s k = .next (takeTrap s 0x02 0) := by
  have hwho : (decide (s.cpu.who = .sys) || decide (s.cpu.who = .fw)) = true := h.handler
  unfold front
  simp only [atFront_of h.front, h.unmasked, prefixOf_front h.front, h.noPrefix, hwho, ha, Bool.not_true, Bool.not_false,
    Bool.and_false, Bool.false_and, Bool.and_true, Bool.true_or, Bool.false_eq_true, if_false, if_true]
  rfl

section

variable {m i : Instr} {form : VForm} {a b c d : Reg} {kd k : KReg} {t : Ty} {rm : RM} {sz : Size} {n : Nat} {q : Bool}
  {cs : List Reg} {body : State → State} {load store : State → List Word → State} {ok : Ty → Bool}

/-! Each shared operation (R131, R165, R170, R174, R176, R206, R251, R300, R328, R346). -/

theorem issue_barred {x : Attr} (h : HandlerFront s) (he : exec m s = issue x i s body) (hx : x.scalar = false) :
    exec m s = .next (takeTrap s 0x02 0) := he.trans (front_barred h hx)

theorem issueV_barred {x : Attr} {grant home : Bool} (h : HandlerFront s) (he : exec m s = issueV x grant home i cs s body)
    (hx : x.scalar = false) : exec m s = .next (takeTrap s 0x02 0) := he.trans (front_barred h hx)

theorem vector_barred {x : Attr} (h : HandlerFront s) (he : exec m s = vector x i cs s body) (hx : x.scalar = false) :
    exec m s = .next (takeTrap s 0x02 0) := issueV_barred h he hx

theorem vbin_barred {f : Pair → Nat → Nat → Elt} (h : HandlerFront s) (he : exec m s = vbin i form d a b k s ok f) :
    exec m s = .next (takeTrap s 0x02 0) := vector_barred h he rfl

theorem vun_barred {f : Ty → Nat → Elt} (h : HandlerFront s) (he : exec m s = vun i d a k s ok f) :
    exec m s = .next (takeTrap s 0x02 0) := vector_barred h he rfl

theorem vfmaOp_barred {negP negZ : Bool} (h : HandlerFront s) (he : exec m s = vfmaOp i negP negZ form d a b k s) :
    exec m s = .next (takeTrap s 0x02 0) := vector_barred h he rfl

theorem convert_barred (h : HandlerFront s) (he : exec m s = convert i q d a t k rm s) :
    exec m s = .next (takeTrap s 0x02 0) := vector_barred h he rfl

theorem reduce_barred {res : Ty → Ty} {f : State → Ty → Elt} (h : HandlerFront s)
    (he : exec m s = reduce i d a q s ok res f) : exec m s = .next (takeTrap s 0x02 0) := vector_barred h he rfl

theorem permute_barred {f : State → Ty → Nat → (Nat → Nat) → Nat → Nat} (h : HandlerFront s)
    (he : exec m s = permute i cs d a k s f) : exec m s = .next (takeTrap s 0x02 0) := vector_barred h he rfl

theorem indexed_barred {f : State → Nat → Nat} (h : HandlerFront s) (he : exec m s = indexed i d t k s f) :
    exec m s = .next (takeTrap s 0x02 0) := vector_barred h he rfl

theorem compare_barred {fi : Int → Int → Bool} {ff : FpVal → FpVal → Bool} (h : HandlerFront s)
    (he : exec m s = compare i form kd a b k s ok fi ff q) : exec m s = .next (takeTrap s 0x02 0) := vector_barred h he rfl

theorem maskOp_barred {f : State → Nat → Bool} (h : HandlerFront s) (he : exec m s = maskOp i kd k s f) :
    exec m s = .next (takeTrap s 0x02 0) := vector_barred h he rfl

theorem maskCount_barred {ka : KReg} {f : List Nat → Word} (h : HandlerFront s) (he : exec m s = maskCount i d ka k s f) :
    exec m s = .next (takeTrap s 0x02 0) := vector_barred h he rfl

theorem vld_barred (h : HandlerFront s) (he : exec m s = vld i cs t s load) : exec m s = .next (takeTrap s 0x02 0) :=
  vector_barred h he rfl

theorem vst_barred (h : HandlerFront s) (he : exec m s = vst i cs d t s store) : exec m s = .next (takeTrap s 0x02 0) :=
  vector_barred h he rfl

theorem withHandle_barred {f : Word → State → State} (h : HandlerFront s) (he : exec m s = withHandle i a s f) :
    exec m s = .next (takeTrap s 0x02 0) := issue_barred h he rfl

theorem describedJob_barred {job : List Word → Copy} {reserved : List Word → Bool} (h : HandlerFront s)
    (he : exec m s = describedJob i d a n s job reserved) : exec m s = .next (takeTrap s 0x02 0) := issue_barred h he rfl

theorem remote_barred {f : Fin 4} (h : HandlerFront s) (he : exec m s = remote i f d a b sz s) :
    exec m s = .next (takeTrap s 0x02 0) := issue_barred h he rfl

theorem mtx_barred (h : HandlerFront s) (he : exec m s = mtx i q a b s body) : exec m s = .next (takeTrap s 0x02 0) :=
  issueV_barred h he rfl

theorem rowInstr_barred (h : HandlerFront s) (he : exec m s = rowInstr i q a b c s) :
    exec m s = .next (takeTrap s 0x02 0) := mtx_barred h he

end

/-- CPQRY is legal in every context (R336). -/
theorem cpqry_inHandler (h : HandlerFront s) (hq : s.cpu.live.viq = []) (d : Reg) : exec (.cpqry d) s =
    .next (retire (setG s d (BitVec.ofNat 64 (64 - (clusterAt s (clusterOf s.cpu.id)).flue.length)))) := by
  have hruns : Runs { lend := .refuse, feat := some 3, drain := true } (.cpqry d) s := {
    front := h.front
    feature := h.unmasked _
    pfx := by simp [h.noPrefix]
    level := Nat.zero_le _
    context := nofun
    queue := .inl hq }
  rw [exec_cpqry, execCpqry, issue_plain hruns rfl rfl]
  rfl

/-- Settles O16: each member by its shared operation. -/
theorem handlerRestrictions : Obligations.HandlerRestrictions := by
  intro s hfront hpfx hhandler hfeat
  have h : HandlerFront s := ⟨hfront, hpfx, hhandler, hfeat⟩
  refine ⟨fun form d a b c kd ka kb k kl vs q nt t tag rm sz w => ?_, fun d hq => cpqry_inHandler h hq d⟩
  simp only [List.forall_mem_append]
  refine ⟨⟨⟨?vectors, ?lengths⟩, ?tasks⟩, ?engines⟩
  case vectors =>
    simp only [vectorMembers, List.forall_mem_cons, List.not_mem_nil, false_implies, implies_true, and_true]
    exact ⟨vbin_barred h (exec_vadd ..), vbin_barred h (exec_vsub ..), vbin_barred h (exec_vrsub ..),
      vbin_barred h (exec_vmul ..), vbin_barred h (exec_vmulh ..), vbin_barred h (exec_vmin ..),
      vbin_barred h (exec_vmax ..), vun_barred h (exec_vabs ..), vun_barred h (exec_vneg ..),
      vbin_barred h (exec_vdiv ..), vbin_barred h (exec_vrem ..), vun_barred h (exec_vsqrt ..),
      vun_barred h (exec_vexp2 ..), vbin_barred h (exec_vand ..), vbin_barred h (exec_vor ..),
      vbin_barred h (exec_vxor ..), vbin_barred h (exec_vshl ..), vbin_barred h (exec_vshr ..),
      vbin_barred h (exec_vsha ..), vbin_barred h (exec_vsadd ..), vbin_barred h (exec_vssub ..),
      vbin_barred h (exec_vavg ..), vfmaOp_barred h (exec_vfma ..), vfmaOp_barred h (exec_vfms ..),
      vfmaOp_barred h (exec_vfnma ..), vfmaOp_barred h (exec_vfnms ..), convert_barred h (exec_vcvt ..),
      convert_barred h (exec_vcvts ..), vector_barred h (exec_vpackmx ..) rfl, vector_barred h (exec_vunpkmx ..) rfl,
      reduce_barred h (exec_vrsum ..), vector_barred h (exec_vrsumo ..) rfl, reduce_barred h (exec_vrmax ..),
      reduce_barred h (exec_vrmin ..), reduce_barred h (exec_vrand ..), reduce_barred h (exec_vror ..),
      reduce_barred h (exec_vrxor ..), reduce_barred h (exec_vrmaxi ..), permute_barred h (exec_vslup ..),
      permute_barred h (exec_vsldn ..), vector_barred h (exec_vrgath ..) rfl, vector_barred h (exec_vcompr ..) rfl,
      permute_barred h (exec_vexpnd ..), indexed_barred h (exec_viota ..), indexed_barred h (exec_vidx ..),
      permute_barred h (exec_vbcast ..), vector_barred h (exec_vmerge ..) rfl, permute_barred h (exec_vrev ..),
      permute_barred h (exec_vzip ..), permute_barred h (exec_vunzip ..), compare_barred h (exec_vceq ..),
      compare_barred h (exec_vcne ..), compare_barred h (exec_vclt ..), compare_barred h (exec_vcle ..),
      compare_barred h (exec_vcgt ..), compare_barred h (exec_vcge ..), compare_barred h (exec_vcun ..),
      vector_barred h (exec_vclass ..) rfl, maskOp_barred h (exec_kand ..), maskOp_barred h (exec_kor ..),
      maskOp_barred h (exec_kxor ..), maskOp_barred h (exec_knot ..), maskOp_barred h (exec_kandn ..),
      maskOp_barred h (exec_ksbf ..), maskOp_barred h (exec_ksif ..), maskCount_barred h (exec_kpopc ..),
      maskCount_barred h (exec_kfirst ..), maskOp_barred h (exec_kmov ..),
      vld_barred h (by rw [exec_vldUnit, execVldUnit]), vld_barred h (by rw [exec_vldStrided, execVldStrided]),
      vector_barred h (exec_vldIndexed ..) rfl, vld_barred h (by rw [exec_vldFirstFault, execVldFirstFault]),
      vector_barred h (exec_vldSegmentMx ..) rfl, vst_barred h (by rw [exec_vstUnit, execVstUnit]),
      vst_barred h (by rw [exec_vstStrided, execVstStrided]), vector_barred h (exec_vstIndexed ..) rfl,
      vst_barred h (by rw [exec_vstOrdered, execVstOrdered]), vector_barred h (exec_vstSegmentMx ..) rfl,
      vector_barred h (exec_vmvsx ..) rfl, vector_barred h (exec_vmvxs ..) rfl, issueV_barred h (exec_vqpop ..) rfl,
      issueV_barred h (exec_vqlen ..) rfl, vector_barred h (exec_vmv ..) rfl⟩
  case lengths =>
    simp only [lengthMembers, List.forall_mem_cons, List.not_mem_nil, false_implies, implies_true, and_true]
    exact ⟨issue_barred h (exec_vsetl ..) rfl, issue_barred h (exec_vsetlw ..) rfl, vector_barred h (exec_vtag ..) rfl,
      vector_barred h (exec_vclr ..) rfl, vector_barred h (exec_vfold ..) rfl, issueV_barred h (exec_vsave ..) rfl,
      vector_barred h (exec_vrestore ..) rfl, issueV_barred h (exec_vmaxq ..) rfl⟩
  case tasks =>
    simp only [taskMembers, List.forall_mem_cons, List.not_mem_nil, false_implies, implies_true, and_true]
    exact ⟨issue_barred h (exec_spawn ..) rfl, issue_barred h (exec_spawng ..) rfl, issue_barred h (exec_finish ..) rfl,
      issue_barred h (exec_ffail ..) rfl, withHandle_barred h (exec_fref ..), withHandle_barred h (exec_fdrop ..),
      withHandle_barred h (exec_fpoll ..), withHandle_barred h (exec_ftake ..), issue_barred h (exec_rpoint ..) rfl,
      issue_barred h (exec_rhold ..) rfl, issue_barred h (exec_rrel ..) rfl, issue_barred h (exec_tself ..) rfl,
      issue_barred h (exec_await ..) rfl, issue_barred h (exec_awaitany ..) rfl, issue_barred h (exec_yield ..) rfl,
      issue_barred h (exec_cwait ..) rfl⟩
  case engines =>
    simp only [engineMembers, List.forall_mem_cons, List.not_mem_nil, false_implies, implies_true, and_true]
    exact ⟨issue_barred h (exec_cpy1d ..) rfl, describedJob_barred h (exec_cpy2d ..),
      describedJob_barred h (exec_cpgath ..), issue_barred h (exec_cpfill ..) rfl, mtx_barred h (exec_mxload ..),
      rowInstr_barred h (exec_mxrow ..), rowInstr_barred h (exec_mxrowz ..), mtx_barred h (exec_mxrd ..),
      mtx_barred h (exec_mxsync ..), mtx_barred h (exec_mxbind ..), mtx_barred h (exec_mxzero ..),
      mtx_barred h (exec_mxrel ..), mtx_barred h (exec_mxqry ..), remote_barred h (exec_rld ..),
      remote_barred h (exec_rst ..), remote_barred h (exec_radd ..), remote_barred h (exec_rswp ..),
      issue_barred h (exec_fgrp ..) rfl, issue_barred h (exec_fcoll ..) rfl, issue_barred h (exec_fbar ..) rfl,
      issue_barred h (exec_fgqry ..) rfl, issue_barred h (exec_fgfree ..) rfl⟩

end Sys2Proof.Machine
end

section
/-!
PROOF. The end of a task (O22) and the return from a trap (O14), where a parked core carries the running core's number.
-/

namespace Sys2Proof.Machine

open Sys2Proof.Claims

/-- The running core 0, and in the place of core 1 one that carries the number 0 too and runs a task. The future of slot 0
is pending, so that its settlement signals the waiters on every core. -/
def misnumbered : State :=
  { State.reset with
    devid := 0
    parked := [(1, { Core.reset 0 with who := .task })]
    futs := [(0, { Fut.reset with st := .pending })] }

/-- As FINISH would leave a core, its task has ended; but the signal has put the parked core in its place. -/
theorem endTask_misnumbered_who : (endTask misnumbered false 0).cpu.who = .task := by decide +kernel

/-- Refutes O22: the obligation's states are not held to number their parked cores as they stand in the table, and the
signal of the settled future brings the parked core that carries the running core's number to its place, with its task. -/
theorem not_taskEnd : ¬ Obligations.TaskEnd := by
  intro h
  obtain ⟨-, -, hidle, -⟩ := h misnumbered 0 false 0
  exact nomatch endTask_misnumbered_who.symm.trans hidle

/-- The same device, whose running core is in the system handler of a trapped task that is to be failed. -/
def misnumberedTrap : State :=
  modCpu misnumbered fun c => { c with
    who := .sys
    trapped := some Ctx.reset
    sys := { c.sys with tact := 1, nest := false, idle := false, tepc := 0 } }

/-- Refutes O14: the obligation's states are not held to number their parked cores as they stand in the table, and the
signal of the future that FAIL settles brings the parked core that carries the running core's number to its place. -/
theorem not_trapReturn : ¬ Obligations.TrapReturn := by
  intro h
  have hruns : Runs (sysAttr 0) .eret misnumberedTrap := {
    front := rfl
    feature := by decide +kernel
    pfx := nofun
    level := Nat.zero_le _
    context := nofun
    queue := .inl rfl }
  obtain ⟨-, -, hret⟩ := h misnumberedTrap hruns
  obtain ⟨-, -, -, hfail, -⟩ := hret (by decide +kernel) (by decide +kernel)
  obtain ⟨t, ht, hidle, -⟩ := hfail (by decide +kernel) (by decide +kernel) Ctx.reset (by decide +kernel)
    (by decide +kernel)
  have hends : endsIdle (exec .eret misnumberedTrap) = true := by
    rw [ht]
    simpa [endsIdle] using hidle
  exact absurd hends (by decide +kernel)

end Sys2Proof.Machine
end

section
/-!
SUPPORT. The tree of R363 over a list: what it comes to under any tree of its levels, and the extreme value that it finds.
-/

namespace Sys2Proof.Machine

open Sys2Proof.Claims

/-! The tree, level by level. -/

section

variable {α β : Type} {f : α → α → α} {z : α}

theorem pairUp_eq_level : ∀ l, pairUp f l = level f z l
  | [] => level_nil.symm
  | [x] => (level_singleton x).symm
  | x :: y :: l => by rw [level_cons_cons, pairUp, pairUp_eq_level l]

/-- The tree of a list that is not empty is every tree with its levels. -/
theorem treeReduce_isTree {tree : List α → α} (h : IsTree f z tree) {fuel : Nat} {l : List α} (hne : l ≠ [])
    (hl : l.length ≤ fuel + 1) : treeReduce f fuel l = some (tree l) := by
  have hone {x : α} : [x].head? = some (tree [x]) := by rw [h.one x]; rfl
  induction fuel generalizing l with
  | zero =>
    obtain ⟨x, rfl⟩ := List.length_eq_one_iff.mp (Nat.le_antisymm hl (List.length_pos_iff.mpr hne))
    exact hone
  | succ fuel ih =>
    rw [treeReduce]
    split
    case isTrue hle =>
      obtain ⟨x, rfl⟩ := List.length_eq_one_iff.mp (Nat.le_antisymm hle (List.length_pos_iff.mpr hne))
      exact hone
    case isFalse hlt =>
      have hlen := level_length (f := f) (z := z) l
      rw [pairUp_eq_level (z := z), h.more l (by omega)]
      exact ih (List.length_pos_iff.mp (by omega)) (by omega)

/-- Pairs of neighbours, each with the list that its value stands for. -/
theorem pairUp_forall₂ {holds : List β → α → Prop} (happend : ∀ l m v w, holds l v → holds m w → holds (l ++ m) (f v w)) :
    ∀ {ls : List (List β)} {vs : List α}, List.Forall₂ holds ls vs →
      List.Forall₂ holds (pairUp (· ++ ·) ls) (pairUp f vs)
  | _, _, .nil => .nil
  | _, _, .cons h .nil => .cons h .nil
  | _, _, .cons h (.cons h' t) => .cons (happend _ _ _ _ h h') (pairUp_forall₂ happend t)

theorem flatten_pairUp : ∀ ls : List (List β), (pairUp (· ++ ·) ls).flatten = ls.flatten
  | [] => rfl
  | [_] => rfl
  | l :: m :: ls => by simp [pairUp, flatten_pairUp ls]

theorem length_pairUp (l : List α) : (pairUp f l).length = (l.length + 1) / 2 := by
  cases l with
  | nil => simp [pairUp]
  | cons x l => rw [pairUp_eq_level (z := x), level_length]

/-- What holds of each value and the list that it stands for, and of two lists together, holds of the tree. -/
theorem treeReduce_forall₂ {holds : List β → α → Prop}
    (happend : ∀ l m v w, holds l v → holds m w → holds (l ++ m) (f v w)) {fuel : Nat} {ls : List (List β)} {vs : List α}
    (h : List.Forall₂ holds ls vs) (hne : vs ≠ []) (hl : vs.length ≤ fuel + 1) :
    ∃ v, treeReduce f fuel vs = some v ∧ holds ls.flatten v := by
  have hone {ls : List (List β)} {vs : List α} (h : List.Forall₂ holds ls vs) (hvs : vs.length = 1) :
      ∃ v, vs.head? = some v ∧ holds ls.flatten v := by
    obtain ⟨x, rfl⟩ := List.length_eq_one_iff.mp hvs
    obtain ⟨l, _, hx, hnil, rfl⟩ := List.forall₂_cons_right_iff.mp h
    obtain rfl := List.forall₂_nil_right_iff.mp hnil
    exact ⟨x, rfl, by simpa using hx⟩
  have hpos := List.length_pos_iff.mpr hne
  induction fuel generalizing ls vs with
  | zero => exact hone h (by omega)
  | succ fuel ih =>
    rw [treeReduce]
    split
    case isTrue hle => exact hone h (by omega)
    case isFalse hlt =>
      have hlen := length_pairUp (f := f) vs
      rw [← flatten_pairUp]
      exact ih (pairUp_forall₂ happend h) (List.length_pos_iff.mp (by omega)) (by omega) (by omega)

end

/-! The extreme value of a tree (R172, R364). -/

variable {greater : Bool}

/-- The extreme of two lists together is that of their extremes. -/
theorem IsExtreme.append {xs ys : List FpVal} {x y : FpVal} (hx : x.proper) (hy : y.proper) (h : IsExtreme greater xs x)
    (h' : IsExtreme greater ys y) : IsExtreme greater (xs ++ ys) (fpMinMax greater x y).1 := by
  have hboth {p : FpVal → Prop} (hxs : ∀ u ∈ xs, p u) (hys : ∀ u ∈ ys, p u) : ∀ u ∈ xs ++ ys, p u := by
    simpa [or_imp, forall_and] using ⟨hxs, hys⟩
  have hskip {zs : List FpVal} (v : FpVal) (hzs : ∀ u ∈ zs, u.isNaN = true) :
      ∀ u ∈ zs, u.isNaN = false → Within greater u v := fun u hu hn => by simp [hzs u hu] at hn
  rw [fpMinMax_value]
  obtain ⟨nx, hxs⟩ | ⟨hmx, nx, hxs⟩ := h <;> obtain ⟨ny, hys⟩ | ⟨hmy, ny, hys⟩ := h'
  · rw [if_pos nx, if_pos ny]
    exact .inl ⟨rfl, hboth hxs hys⟩
  · rw [if_pos nx, if_neg (by simp [ny])]
    exact .inr ⟨List.mem_append_right _ hmy, ny, hboth (hskip y hxs) hys⟩
  · rw [if_neg (by simp [nx]), if_pos ny]
    exact .inr ⟨List.mem_append_left _ hmx, nx, hboth hxs (hskip x hys)⟩
  · obtain ⟨hwx, hwy⟩ := within_minMax (greater := greater) hx hy nx ny
    rw [if_neg (by simp [nx]), if_neg (by simp [ny])]
    refine .inr ⟨?_, ?_, hboth (fun u hu hn => (hxs u hu hn).trans hwx) fun u hu hn => (hys u hu hn).trans hwy⟩
    · split <;> simp [hmx, hmy]
    · split <;> assumption

/-- The extreme that a tree takes is the extreme of the list. -/
theorem treeReduce_isExtreme {xs : List FpVal} (hne : xs ≠ []) (hxs : ∀ u ∈ xs, u.proper) :
    ∃ v, treeReduce (fun a b => (fpMinMax greater a b).1) xs.length xs = some v ∧ IsExtreme greater xs v := by
  have hleaves : List.Forall₂ (fun l v => v.proper ∧ IsExtreme greater l v) (xs.map ([·])) xs :=
    List.forall₂_map_left_iff.mpr (List.forall₂_same.mpr fun x hx => ⟨hxs x hx, isExtreme_singleton greater x⟩)
  obtain ⟨v, hv, -, hext⟩ := treeReduce_forall₂ (f := fun a b => (fpMinMax greater a b).1)
    (fun l m v w h h' => ⟨proper_fpMinMax h.1 h'.1, h.2.append h.1 h'.1 h'.2⟩) hleaves hne (Nat.le_succ _)
  refine ⟨v, hv, ?_⟩
  rwa [← List.flatMap_def, List.flatMap_singleton'] at hext

/-- The extreme of floating-point elements, rounded to their format, is what VRMAX and VRMIN would give (R172, R364). -/
theorem extreme_of_isExtreme {t : Ty} (hi : tyInt t = false) {xs : List Nat} (hne : xs ≠ []) {v : FpVal}
    (h : IsExtreme greater (xs.map (tyVal t)) v) :
    Extreme greater t xs ((roundTo (fmtOf t) .rne false v).1, snanFlags (xs.map (tyVal t))) := by
  have hproper : ∀ u ∈ xs.map (tyVal t), u.proper := by
    simpa using fun x _ => tyVal_proper t x
  unfold Extreme
  rw [if_neg (by simp [hi])]
  refine ⟨snanFlags_getLsbD _, fun hnil => absurd hnil hne, ?_⟩
  obtain ⟨nv, hnan⟩ | ⟨hmem, nv, hext⟩ := h
  · exact ⟨fun _ _ => roundTo_isNaN nv, fun h => by simp [List.all_eq_true.mpr hnan] at h⟩
  · refine ⟨fun _ h => ?_, fun _ => ⟨v, hmem, nv, rfl, fun u hu nu => ?_⟩⟩
    · exact absurd (List.all_eq_true.mp h v hmem) (by simp [nv])
    · exact not_beyond (hproper u hu) (hproper v hmem) nu nv (hext u hu nu)

/-- The extreme of integers. -/
theorem extreme_of_isIntExtreme {t : Ty} (hi : tyInt t = true) {xs : List Nat} (hne : xs ≠ []) {z : Int}
    (h : IsIntExtreme greater (xs.map (tyIntVal t)) z) : Extreme greater t xs (trunc (tyBits t) z, 0) := by
  obtain ⟨hmem, hext⟩ := h
  obtain ⟨x, hx, rfl⟩ := List.mem_map.mp hmem
  unfold Extreme
  rw [if_pos hi]
  exact ⟨rfl, fun hnil => absurd hnil hne, fun _ => ⟨x, hx, rfl, fun y hy => hext _ (List.mem_map_of_mem hy)⟩⟩

end Sys2Proof.Machine
end

section
/-!
SUPPORT. What a chunk of a collective gives (R358, R363 to R365): the reduction of one element over all ranks, and the
results of each kind.
-/

namespace Sys2Proof.Machine

open Sys2Proof.Claims

/-! The sums (R364, R365). -/

theorem combineSum_eq_addPairs : combineSum = addPairs := by
  funext x y
  have hpairs : addPairs x y = if notFinite (round32 (fpAdd .rne x.1 y.1).1) then (round32 (fpAdd .rne x.1 y.1).1, posZero)
      else (round32 (fpAdd .rne x.1 y.1).1, round32 (fpAdd .rne (round32 (fpAdd .rne x.2 y.2).1)
        (fpAdd .rne (fpAdd .rne x.1 y.1).1 (fpNeg (round32 (fpAdd .rne x.1 y.1).1))).1).1) := rfl
  rw [hpairs, combineSum]
  dsimp only
  generalize round32 (fpAdd .rne x.1 y.1).1 = s
  cases s <;> rfl

theorem finalSum_eq_finalPair (f : FloatFmt) (x : FpVal × FpVal) : finalSum f x = finalPair f x := by
  obtain ⟨s, e⟩ := x
  cases s <;> rfl

theorem podSum_eq {f : FloatFmt} {xs : List Nat} {sums : List (FpVal × FpVal) → FpVal × FpVal}
    (h : IsTree addPairs (.fin false 0 1, .fin false 0 1) sums) (hne : xs ≠ []) :
    podSum f xs = finalPair f (sums (xs.map fun x => (fpVal f x, .fin false 0 1))) := by
  have htree := treeReduce_isTree (fuel := xs.length) (l := xs.map fun x => (fpVal f x, posZero)) h (by simpa using hne)
    (by simp)
  rw [podSum, combineSum_eq_addPairs, htree, Option.map_some, Option.getD_some, finalSum_eq_finalPair]
  rfl

/-- The values by pod, in the order in which the pods come first. -/
theorem byPod_eq {fuel : Nat} {xs : List (Nat × Nat)} (h : xs.length ≤ fuel) :
    byPod fuel xs = (xs.map (·.1)).eraseDups.map fun p => (xs.filter (·.1 = p)).map (·.2) := by
  induction fuel generalizing xs with
  | zero =>
    obtain rfl := List.length_eq_zero_iff.mp (Nat.le_zero.mp h)
    rfl
  | succ fuel ih =>
    match xs, h with
    | [], _ => rfl
    | (p, v) :: rest, h =>
      have hrest : (rest.filter fun q => q.1 != p).length ≤ fuel :=
        (List.length_filter_le ..).trans (Nat.le_of_succ_le_succ h)
      have hpods : (rest.map (·.1)).filter (fun b => !b == p) = (rest.filter fun q => q.1 != p).map (·.1) := by
        rw [List.filter_map]
        rfl
      rw [byPod, ih hrest, List.map_cons, List.eraseDups_cons, List.map_cons, hpods]
      congr 1
      · simp
      · refine List.map_congr_left fun q hq => ?_
        have hne : q ≠ p := by
          obtain ⟨x, hx, rfl⟩ := List.mem_map.mp (List.mem_eraseDups.mp hq)
          simpa using (List.mem_filter.mp hx).2
        rw [List.filter_cons_of_neg (by simpa using Ne.symm hne), List.filter_filter]
        congr 1
        refine List.filter_congr fun x _ => ?_
        by_cases hx : x.1 = q <;> simp [hx, hne]

theorem sum_reduced {f : FloatFmt} {xs : List (Nat × Nat)} (hne : xs ≠ [])
    {sums : List (FpVal × FpVal) → FpVal × FpVal} {hops : List Nat → Nat}
    (hsums : IsTree addPairs (.fin false 0 1, .fin false 0 1) sums) (hhops : IsTree (hopSum f) 0 hops) :
    (treeReduce (hopSum f) (byPod xs.length xs).length ((byPod xs.length xs).map (podSum f))).getD 0 =
      hops ((xs.map (·.1)).eraseDups.map fun p =>
        finalPair f (sums ((xs.filter (·.1 = p)).map fun x => (fpVal f x.2, .fin false 0 1)))) := by
  have hpods : (xs.map (·.1)).eraseDups ≠ [] := by
    obtain ⟨x, xs, rfl⟩ := List.exists_cons_of_ne_nil hne
    simp [List.eraseDups_cons]
  rw [byPod_eq le_rfl, treeReduce_isTree hhops (by simpa using hpods) (by simp), Option.getD_some, List.map_map]
  congr 1
  refine List.map_congr_left fun p hp => ?_
  obtain ⟨x, hx, rfl⟩ := List.mem_map.mp (List.mem_eraseDups.mp hp)
  have hmem : (xs.filter (·.1 = x.1)).map (·.2) ≠ [] :=
    List.ne_nil_of_mem (List.mem_map_of_mem (List.mem_filter.mpr ⟨hx, by simp⟩))
  rw [Function.comp_apply, podSum_eq hsums hmem, List.map_map]
  rfl

/-! The extremes (R364). -/

theorem foldl_max_isIntExtreme {zs : List Int} (hne : zs ≠ []) :
    IsIntExtreme true zs (zs.tail.foldl max (zs.headD 0)) ∧ IsIntExtreme false zs (zs.tail.foldl min (zs.headD 0)) := by
  obtain ⟨z, zs, rfl⟩ := List.exists_cons_of_ne_nil hne
  have hmax : (max : Int → Int → Int) = fun a y => if (a < y) = (true : Bool) then y else a := by
    funext a y
    simp only [eq_iff_iff, iff_true]
    split <;> omega
  have hmin : (min : Int → Int → Int) = fun a y => if (a < y) = (false : Bool) then y else a := by
    funext a y
    simp only [eq_iff_iff, Bool.false_eq_true, iff_false]
    split <;> omega
  obtain ⟨v, hv, hext⟩ := intExtreme_isIntExtreme true z zs
  obtain ⟨w, hw, hext'⟩ := intExtreme_isIntExtreme false z zs
  rw [intExtreme, Option.some.injEq] at hv hw
  rw [List.tail_cons, List.headD_cons, hmax, hmin, hv, hw]
  exact ⟨hext, hext'⟩

/-- The type of the elements of a collective (R357). -/
def collTy (fmt : Nat) : Ty := if fmt = 2 then .i32 else if fmt = 1 then .bf16 else .fp32

section

variable {fmt : Nat} (h : fmt ≠ 2)

include h

theorem collTy_float : collTy fmt = if fmt = 1 then .bf16 else .fp32 := if_neg h

theorem tyInt_collTy : tyInt (collTy fmt) = false := by
  rw [collTy_float h]
  split <;> rfl

theorem fmtOf_collTy : fmtOf (collTy fmt) = payload fmt := by
  rw [collTy_float h, payload]
  split <;> rfl

theorem tyVal_collTy : tyVal (collTy fmt) = fpVal (payload fmt) := by
  rw [collTy_float h, payload]
  split <;> rfl

end

/-- The owner's reduction of one element is the one of R363 to R365. -/
theorem reduceElem_reduced (op fmt : Nat) {xs : List (Nat × Nat)} (hne : xs ≠ []) :
    Reduced op fmt xs (reduceElem op fmt xs) := by
  have hvs : xs.map (·.2) ≠ [] := by simpa using hne
  refine ⟨?intSum, ?floatSum, ?extreme⟩
  case intSum =>
    rintro rfl rfl
    rw [reduceElem, if_pos rfl]
    exact congrArg (trunc 32) (clamp_eq (by decide) _)
  case floatSum =>
    rintro rfl hfmt sums hops hsums hhops
    rw [reduceElem, if_neg hfmt]
    dsimp only
    rw [if_pos rfl]
    refine Eq.trans ?_ (sum_reduced (f := payload fmt) hne hsums hhops)
    split
    next one hone => simp [hone, treeReduce]
    · rfl
  case extreme =>
    intro hop
    by_cases hfmt : fmt = 2
    · subst hfmt
      have hints : (xs.map (·.2)).map (tyIntVal .i32) = xs.map fun x => sgn 32 x.2 := List.map_map
      obtain ⟨hmax, hmin⟩ := foldl_max_isIntExtreme (zs := xs.map fun x => sgn 32 x.2) (by simpa using hne)
      match op, hop with
      | 1, _ => exact ⟨0, extreme_of_isIntExtreme (t := .i32) rfl hvs (by rw [hints]; exact hmax)⟩
      | _ + 2, _ => exact ⟨0, extreme_of_isIntExtreme (t := .i32) rfl hvs (by rw [hints]; exact hmin)⟩
    · have hvals : (xs.map (·.2)).map (tyVal (collTy fmt)) = xs.map fun x => fpVal (payload fmt) x.2 := by
        rw [tyVal_collTy hfmt, List.map_map]
        rfl
      have hproper : ∀ u ∈ (xs.map (·.2)).map (tyVal (collTy fmt)), u.proper :=
        List.forall_mem_map.mpr fun x _ => tyVal_proper (collTy fmt) x
      obtain ⟨v, hv, hext⟩ := treeReduce_isExtreme (greater := op == 1) (by simpa using hne) hproper
      have helem : reduceElem op fmt xs = (roundTo (fmtOf (collTy fmt)) .rne false v).1 := by
        rw [hvals] at hv
        rw [reduceElem, if_neg hfmt, fmtOf_collTy hfmt]
        dsimp only
        rw [if_neg hop, hv, Option.getD_some]
      rw [helem]
      exact ⟨_, extreme_of_isExtreme (tyInt_collTy hfmt) hvs hext⟩

end Sys2Proof.Machine
end

section
/-!
PROOF. A group's operations: matched, performed chunk by chunk, and failed (O50).
-/

namespace Sys2Proof.Machine

open Sys2Proof.Claims

variable {s : State} {n : Fin 256} {urgent : Bool} {g : Machine.Group}

/-! Matching (R361). -/

theorem agrees_iff {o : GroupOp} {p : PeerOp} : agrees g urgent o p = true ↔ SameOp g urgent o p := by
  unfold agrees SameOp
  obtain ⟨tag, members, coll⟩ := p
  cases o.coll with
  | none => cases coll <;> simp
  | some c =>
    cases coll with
    | none => simp
    | some q =>
      obtain ⟨kind, op, fmt, count, chunk, root, urg⟩ := q
      simp [and_assoc]

theorem all_agrees_iff {o : GroupOp} {peers : List PeerOp} :
    (!peers.all (agrees g urgent o)) = true ↔ ∃ p ∈ peers, ¬SameOp g urgent o p := by
  simp [← agrees_iff]

section

variable {o : GroupOp} {ops : List GroupOp} {peers : List PeerOp}

/-- A match is looked for in the first operation that has none. -/
theorem exec_groupMatch_first (hg : s.groups.find n.val = some g)
    (hm : matchFirst (groupOps g urgent) = some (o, ops)) : exec (.groupMatch n urgent peers) s =
      if peers.length + 1 != g.members.length then .next s
      else if !peers.all (agrees g urgent o) then .next (failGroup s n.val)
      else
        let t := { s with groups := Tab.put s.groups n.val { withOps g urgent ops with joined := true } }
        .next (if o.coll.isNone then settle t o.token false 0 else t) := by
  change execGroupMatch n urgent peers s = _
  unfold execGroupMatch
  rw [hg]
  dsimp only
  rw [hm]

end

/-! The units of the buffers (R274). -/

theorem elemBytes_cases (c : Coll) : elemBytes c = 2 ∨ elemBytes c = 4 := by
  unfold elemBytes
  split <;> simp

theorem mem_inputUnits {c : Coll} {need : List Nat} {a : Nat} : a ∈ inputUnits c need ↔
    (∃ b ∈ need, b / 8 = a / 8) ∧ c.inp ≤ a ∧ a < c.inp + c.count * elemBytes c := by
  have hunit (u : Nat) : a ∈ (List.range 8).map (8 * u + ·) ↔ u = a / 8 := by
    simp only [List.mem_map, List.mem_range]
    exact ⟨fun ⟨k, hk, ha⟩ => by omega, fun hu => ⟨a % 8, by omega, by omega⟩⟩
  have hunits : a ∈ ((need.map (· / 8)).eraseDups.map fun u => (List.range 8).map (8 * u + ·)).flatten ↔
      ∃ b ∈ need, b / 8 = a / 8 := by
    simp [List.mem_flatten, hunit]
  rw [inputUnits, List.mem_filter, hunits]
  simp

/-- The elements whose first bytes lie in a unit, counted through the unit. -/
theorem unit_elements {m out outs i : Nat} {p : Nat → Prop} (hm : m = 2 ∨ m = 4) (hd : m ∣ out) :
    (∀ k < 8 / m, (out + i * m) / 8 * 8 + k * m < out ∨ out + outs * m ≤ (out + i * m) / 8 * 8 + k * m ∨
      p (((out + i * m) / 8 * 8 + k * m - out) / m)) ↔
    ∀ e < outs, (out + e * m) / 8 = (out + i * m) / 8 → p e := by
  have haddr (k : Nat) (hk : k < 8 / m) (hlow : out ≤ (out + i * m) / 8 * 8 + k * m) :
      let e := ((out + i * m) / 8 * 8 + k * m - out) / m
      out + e * m = (out + i * m) / 8 * 8 + k * m ∧ (out + e * m) / 8 = (out + i * m) / 8 := by
    obtain rfl | rfl := hm <;> omega
  have hplace (e : Nat) (hunit : (out + e * m) / 8 = (out + i * m) / 8) :
      (out + e * m) % 8 / m < 8 / m ∧ (out + i * m) / 8 * 8 + (out + e * m) % 8 / m * m = out + e * m := by
    obtain rfl | rfl := hm <;> omega
  have hpos : 0 < m := by omega
  constructor
  · intro h e he hunit
    obtain ⟨hk, ha⟩ := hplace e hunit
    have hlt : e * m < outs * m := Nat.mul_lt_mul_of_pos_right he hpos
    have hp := h _ hk
    rw [ha, Nat.add_sub_cancel_left, Nat.mul_div_cancel _ hpos] at hp
    exact (hp.resolve_left (by omega)).resolve_left (by omega)
  · intro h k hk
    by_cases hlow : out ≤ (out + i * m) / 8 * 8 + k * m
    · obtain ⟨ha, hunit⟩ := haddr k hk hlow
      by_cases hhigh : out + outs * m ≤ (out + i * m) / 8 * 8 + k * m
      · exact .inr (.inl hhigh)
      · exact .inr (.inr (h _ (Nat.lt_of_mul_lt_mul_right (a := m) (by omega)) hunit))
    · exact .inl (by omega)

theorem unitWhole_iff {c : Coll} {p i : Nat} {is : List Nat} : unitWhole c p is i = true ↔
    elemBytes c ∣ c.out ∧ ∀ e < outCount c p, (c.out + e * elemBytes c) / 8 = (c.out + i * elemBytes c) / 8 → e ∈ is := by
  unfold unitWhole outUnit
  dsimp only
  by_cases hd : elemBytes c ∣ c.out
  · have hmod := Nat.mod_eq_zero_of_dvd hd
    rw [← unit_elements (elemBytes_cases c) hd]
    simp [hmod, hd, or_assoc]
  · have hmod : ¬c.out % elemBytes c = 0 := mt Nat.dvd_of_mod_eq_zero hd
    simp [hmod, hd]

/-! A chunk (R363, R367, R368). -/

section

variable {op : GroupOp} {rest : List GroupOp} {c : Coll} {inputs : List (List (BitVec 32))}

/-- The oldest operation of a sequence has the turn. -/
theorem exec_collChunk_first (hg : s.groups.find n.val = some g) (hops : groupOps g urgent = op :: rest)
    (hc : op.coll = some c) : exec (.collChunk n urgent inputs) s =
      .next (if leavesLate s n.val then failGroup (writeLate s g) n.val
        else if op.matched && !urgentFirst s urgent then doCollChunk s n.val g urgent op c inputs else s) := by
  change execCollChunk n urgent inputs s = _
  unfold execCollChunk leaveGroup
  rw [hg]
  dsimp only
  rw [hops]
  dsimp only
  rw [hc]

/-- A chunk goes ahead, unless an urgent operation has the turn. -/
theorem exec_collChunk_goes (hg : s.groups.find n.val = some g) (hops : groupOps g urgent = op :: rest)
    (hc : op.coll = some c) (hlate : leavesLate s n.val = false) (hm : op.matched = true)
    (hu : urgent = true ∨ s.groups.any (fun p => p.2.urgent.any (·.matched)) = false) :
    exec (.collChunk n urgent inputs) s = .next (doCollChunk s n.val g urgent op c inputs) := by
  have hturn : urgentFirst s urgent = false := by
    unfold urgentFirst
    obtain rfl | hu := hu
    · rfl
    · rw [hu, Bool.and_false]
  rw [exec_collChunk_first hg hops hc, if_neg (by simp [hlate]), if_pos (by simp [hm, hturn])]

end

/-! The parts of a chunk (R363, R367). -/

section

variable (g : Machine.Group) (op : GroupOp) (c : Coll) (inputs : List (List (BitVec 32)))

/-- The addresses of the elements that a chunk contributes. -/
def chunkNeed : List Nat := ((inputElems c g.members.length g.rank op.done).map (elemAddrs c.inp (elemBytes c))).flatten

/-- Those of their units that no earlier chunk has read. -/
def chunkFresh : List Nat := inputUnits c ((chunkNeed g op c).filter fun a => !(op.got.map (·.1)).contains a)

/-- The bytes of the buffer that have been read, with their marks. -/
def chunkRead (bs marks : List Byte) : List (Nat × Byte × Byte) := op.got ++ (chunkFresh g op c).zip (bs.zip marks)

/-- The bytes of the elements, with their marks. -/
def chunkMine (bs marks : List Byte) : List (Byte × Byte) :=
  (chunkNeed g op c).map fun a => (((chunkRead g op c bs marks).find? fun x => x.1 = a).map (·.2)).getD (0, 0)

/-- The results that have not been written: those that earlier chunks have kept, and the chunk's own. -/
def chunkAll (bs marks : List Byte) : List (Nat × Nat) :=
  op.late ++ chunkResult g c op.done (elemsOf (elemBytes c) (inputElems c g.members.length g.rank op.done).length
    ((chunkMine g op c bs marks).map (·.1))) inputs

/-- The chunk is the last of its collective. -/
def chunkLast : Bool := chunkCount c g.members.length ≤ op.done + 1

/-- A result can be written: its unit is whole, or the chunk is the last. -/
def chunkReady (bs marks : List Byte) (r : Nat × Nat) : Bool :=
  chunkLast g op c || unitWhole c g.members.length ((chunkAll g op c inputs bs marks).map (·.1)) r.1

/-- The end of a chunk whose results have their places, in a state. -/
def chunkEnds (n : Fin 256) (urgent : Bool) (bs marks : List Byte)
    (placed : List (Nat × List (Nat × Byte × Option Place)) × State) : State :=
  let w := writeResults placed.2 true c placed.1
  let rest := (groupOps g urgent).tail
  if marksAny ((chunkMine g op c bs marks).map (·.2)) then failGroup placed.2 n.val
  else if placed.1.any fun x => !resultFits placed.2 x.2 then failGroup (writeResults placed.2 false c placed.1) n.val
  else if chunkLast g op c then
    settle { w with groups := Tab.put w.groups n.val (withOps g urgent rest) } op.token false
      (BitVec.ofNat 64 (outCount c g.members.length))
  else { w with groups := Tab.put w.groups n.val (withOps g urgent
    ({ op with done := op.done + 1, got := (chunkRead g op c bs marks).filter fun x => !(chunkNeed g op c).contains x.1,
               late := (chunkAll g op c inputs bs marks).filter fun r => !chunkReady g op c inputs bs marks r } :: rest)) }

end

section

variable {op : GroupOp} {c : Coll} {inputs : List (List (BitVec 32))} {t u : State} {code : Nat} {bs marks : List Byte}
  {l : List (Nat × List (Nat × Byte × Option Place))}

theorem doCollChunk_fails (h : engineBytes s op.env (chunkFresh g op c) = (.inl code, t)) :
    doCollChunk s n.val g urgent op c inputs = failGroup t n.val := by
  rw [chunkFresh, chunkNeed] at h
  unfold doCollChunk
  dsimp only
  rw [h]

/-- Once its inputs are read and its results have places, a chunk fails its group, or writes them. -/
theorem doCollChunk_places (h : engineBytes s op.env (chunkFresh g op c) = (.inr (bs, marks), t))
    (hplace : placeResults t op.env c ((chunkAll g op c inputs bs marks).filter (chunkReady g op c inputs bs marks)) =
      (l, u)) : doCollChunk s n.val g urgent op c inputs = chunkEnds g op c inputs n urgent bs marks (l, u) := by
  have hplaced : doCollChunk s n.val g urgent op c inputs = chunkEnds g op c inputs n urgent bs marks
      (placeResults t op.env c ((chunkAll g op c inputs bs marks).filter (chunkReady g op c inputs bs marks))) := by
    rw [chunkFresh, chunkNeed] at h
    unfold doCollChunk
    dsimp only
    rw [h]
    rfl
  rw [hplaced, hplace]

end

/-! What a chunk gives (R358, R363). -/

/-- A list walked with its indexes. -/
theorem map_zip_range {α β : Type} (l : List α) (z : α) (f : α × Nat → β) :
    (l.zip (List.range l.length)).map f = (List.range l.length).map fun k => f (l.getD k z, k) := by
  refine List.ext_getElem (by simp) fun k h _ => ?_
  have hk : k < l.length := by simpa using h
  simp [hk]

/-- The element of a rank in a chunk: this device's own from its buffer, and another's as it arrives. -/
def contribution (g : Machine.Group) (c : Coll) (len : Nat) (mine : List Nat) (inputs : List (List (BitVec 32)))
    (q k : Nat) : Nat :=
  if q = g.rank then mine.getD (if c.kind = 1 then g.rank * len + k else k) 0
  else ((inputs.getD q []).getD k 0).toNat % 2 ^ (if c.fmt = 1 then 16 else 32)

section

variable {c : Coll} {j : Nat} {mine : List Nat} {inputs : List (List (BitVec 32))}

theorem own_getD {len k : Nat} (hk : k < len) :
    (if c.kind = 1 then (mine.drop (g.rank * len)).take len else mine).getD k 0 =
      mine.getD (if c.kind = 1 then g.rank * len + k else k) 0 := by
  split <;> simp [List.getD_eq_getElem?_getD, hk]

theorem width_eq (c : Coll) : 8 * elemBytes c = if c.fmt = 1 then 16 else 32 := by
  unfold elemBytes
  split <;> rfl

theorem given_eq {q k len : Nat} (hk : k < len) :
    (if q = g.rank then (if c.kind = 1 then (mine.drop (g.rank * len)).take len else mine).getD k 0
      else ((inputs.getD q []).getD k 0).toNat % 2 ^ (8 * elemBytes c)) = contribution g c len mine inputs q k := by
  rw [own_getD hk, width_eq, contribution]

/-- An all-reduce and a reduce-scatter reduce each element over the ranks. -/
theorem chunkResult_reduce (hk : c.kind < 2) : chunkResult g c j mine inputs =
    (List.range (chunkElems c g.members.length j).length).map fun k => ((chunkElems c g.members.length j).getD k 0,
      reduceElem c.op c.fmt ((List.range g.members.length).map fun q => ((g.members.getD q (0, 0)).1,
        contribution g c (chunkElems c g.members.length j).length mine inputs q k))) := by
  unfold chunkResult
  dsimp only
  split
  next h => omega
  next h => omega
  next =>
    rw [map_zip_range _ 0]
    refine List.map_congr_left fun k hlt => ?_
    simp only [given_eq (List.mem_range.mp hlt)]

/-- An all-gather gives the elements of every rank. -/
theorem chunkResult_gather (hk : c.kind = 2) : chunkResult g c j mine inputs =
    ((List.range g.members.length).map fun q =>
      (List.range (chunkElems c g.members.length j).length).map fun k =>
        (q * c.count + (chunkElems c g.members.length j).getD k 0,
          contribution g c (chunkElems c g.members.length j).length mine inputs q k)).flatten := by
  unfold chunkResult
  dsimp only
  split
  · congr 1
    refine List.map_congr_left fun q _ => ?_
    rw [map_zip_range _ 0]
    refine List.map_congr_left fun k hlt => ?_
    rw [given_eq (List.mem_range.mp hlt)]
  next h => omega
  next h _ => exact absurd hk h

/-- A broadcast gives the elements of its root. -/
theorem chunkResult_broadcast (hk : c.kind = 3) : chunkResult g c j mine inputs =
    (List.range (chunkElems c g.members.length j).length).map fun k => ((chunkElems c g.members.length j).getD k 0,
      contribution g c (chunkElems c g.members.length j).length mine inputs c.root k) := by
  unfold chunkResult
  dsimp only
  split
  next h => omega
  · rw [map_zip_range _ 0]
    refine List.map_congr_left fun k hlt => ?_
    rw [given_eq (List.mem_range.mp hlt)]
  next _ h => exact absurd hk h

end

/-- Settles O50: a match by `exec_groupMatch_first`, a chunk by `doCollChunk_places`, and its results, for each kind of
collective, by `reduceElem_reduced` over the ranks' contributions. -/
theorem groupEvents : Obligations.GroupEvents := by
  intro s n urgent g hg
  refine ⟨fun o ops peers hm => ⟨fun hlen => ?_, fun hlen hsame => ?_, fun hlen hdiff => ?_⟩,
    fun op rest c inputs hops hc hlate => ?_, fun op rest c inputs hops hc hlate hm hu => ?_,
    fun c j mine inputs hne => ?_, ?_⟩
  · rw [exec_groupMatch_first hg hm, if_pos (by simpa using hlen)]
  · rw [exec_groupMatch_first hg hm, if_neg (by simpa using hlen),
      if_neg (mt all_agrees_iff.mp (by simpa using hsame))]
    cases o.coll <;> rfl
  · rw [exec_groupMatch_first hg hm, if_neg (by simpa using hlen), if_pos (all_agrees_iff.mpr hdiff)]
  · rw [exec_collChunk_first hg hops hc, if_pos hlate]
  · rw [exec_collChunk_goes hg hops hc hlate hm hu]
    intro p m ins need fresh reads
    refine ⟨fun a => ?_, fun code t hreads => ?_, fun bs marks t l u hreads => ?_⟩
    · refine mem_inputUnits.trans (and_congr_left fun _ => ?_)
      simp [and_assoc]
    · exact congrArg Host.Outcome.next (doCollChunk_fails hreads)
    · intro read mine bad all outs last ready
      refine ⟨fun r => ?_, fun hplace => ?_⟩
      · have hmem (e : Nat) : e ∈ all.map (·.1) ↔ ∃ x ∈ all, x.1 = e := List.mem_map
        simp only [← hmem]
        exact Bool.or_eq_true_iff.trans (or_congr_right unitWhole_iff)
      · have hends := doCollChunk_places (n := n) (urgent := urgent) hreads hplace
        rw [hends]
        refine ⟨fun hbad => ?_, fun hbad hfit => ?_, fun hbad hfit => ?_⟩
        · exact congrArg Host.Outcome.next (if_pos hbad)
        · have hany : (l.any fun x => !resultFits u x.2) = true := by simpa using hfit
          exact congrArg Host.Outcome.next ((if_neg (Bool.eq_false_iff.mp hbad)).trans (if_pos hany))
        · have hany : ¬(l.any fun x => !resultFits u x.2) = true := by simpa using hfit
          refine congrArg Host.Outcome.next (((if_neg (Bool.eq_false_iff.mp hbad)).trans (if_neg hany)).trans ?_)
          rw [hops]
          rfl
  · intro p count es w given all
    have hall (k : Nat) : all k ≠ [] := by simpa [all, p] using hne
    exact ⟨fun hk => ⟨fun k => reduceElem c.op c.fmt (all k), fun k _ => reduceElem_reduced _ _ (hall k),
      chunkResult_reduce hk⟩, chunkResult_gather, chunkResult_broadcast⟩
  · change Host.Outcome.next (leaveGroup s n.val) = _
    rw [leaveGroup, hg]

end Sys2Proof.Machine
end

section
/-!
PROOF. The atomic accesses that go ahead: the AMO members (O11) and the counter instructions (O12).
-/

namespace Sys2Proof.Machine

open Sys2Proof.Claims

variable {i : Instr} {s t : State} {k : Kind} {va n : Nat} {p : Place} {d a b : Reg} {rel acq x : Bool}

/-- An atomic access that goes ahead is one atomic access at its place, and ends with the old value and the state that it
leaves (R276, R283). -/
theorem atomicAccess_acts {f : Nat → Option Nat} {fin : Nat → State → State} (h : Acts s k va n p t) :
    atomicAccess s i k va n rel acq f fin =
      fin (atomically t p n (rel || k != .read) acq f).1 (atomically t p n (rel || k != .read) acq f).2 := by
  obtain ⟨hreach, hturn, hsound⟩ := h
  have hpoison : (k != .write && poisoned t (placePa p) n) = false := by
    rcases hsound with rfl | hclean
    · rfl
    · rw [hclean, Bool.and_false]
  unfold atomicAccess
  rw [checkAccess_reaches hreach, Acc.done]
  simp only [hturn, hpoison, Bool.not_true, Bool.false_eq_true, if_false]
  rfl

/-- A member of the AMO group does what its new value says (R288). -/
theorem amo_acts {new : Nat → Nat → Nat → Option Nat} (he : exec i s = amo i d a b rel acq x s new)
    (hp : (isPoint i && reclaimable s) = false) : Amo i s d a b rel acq x new := by
  intro hruns p t hacts
  have hmay : (rel || Kind.rmw != .read) = true := Bool.or_true rel
  rw [he, amo, issue_plain hruns rfl hp]
  refine congrArg _ ((atomicAccess_acts hacts).trans ?_)
  rw [hmay]
  rfl

/-- Settles O11: each member is an `amo` with its new value. -/
theorem amoResults : Obligations.AmoResults := by
  intro s d a b rel acq x
  exact ⟨amo_acts (exec_amoSwap ..) rfl, amo_acts (exec_amoAdd ..) rfl, amo_acts (exec_amoAnd ..) rfl,
    amo_acts (exec_amoOr ..) rfl, amo_acts (exec_amoXor ..) rfl, amo_acts (exec_amoMin ..) rfl,
    amo_acts (exec_amoMax ..) rfl, amo_acts (exec_amoMinn ..) rfl, amo_acts (exec_amoMaxn ..) rfl,
    amo_acts (exec_amoCas ..) rfl⟩

/-- A counter read is an acquiring atomic read, whose value a prefix may copy, or a false predicate discard
(R54, R282, R283). -/
theorem counterRead_acts {v : Nat → State → Word} (he : exec i s = counterRead i d a s v)
    (hp : (isPoint i && reclaimable s) = false) (hruns : Runs scalarAttr i s) :
    (discarded s = true → exec i s = .next (advance s)) ∧
    (discarded s = false → ∀ p t, Acts s .read (reg s a).toNat 8 p t →
      exec i s = .next (retire (result (atomically t p 8 false true fun _ => none).2 d
        (v (atomically t p 8 false true fun _ => none).1 s)))) := by
  rw [he, counterRead, issue_runs hruns hp]
  refine ⟨fun hd => by rw [if_pos hd], fun hd p t hacts => ?_⟩
  rw [if_neg (by simp [hd])]
  exact congrArg _ (atomicAccess_acts hacts)

/-- Settles O12: CINIT and CADD are releasing atomic writes, CREAD and CTEST counter reads. -/
theorem counterResults : Obligations.CounterResults := by
  intro s d a b va read
  refine ⟨fun hruns p t hacts => ?_, fun hruns p t hacts => ?_,
    counterRead_acts (v := fun old _ => BitVec.ofNat 64 old) (exec_cread ..) rfl,
    counterRead_acts (v := fun old s => if (reg s b).toNat ≤ old then 1 else 0) (exec_ctest ..) rfl⟩
  · rw [exec_cinit, execCinit, issue_plain hruns rfl rfl]
    exact congrArg Host.Outcome.next (atomicAccess_acts hacts)
  · rw [exec_cadd, execCadd, issue_plain hruns rfl rfl]
    exact congrArg Host.Outcome.next (atomicAccess_acts hacts)

end Sys2Proof.Machine
end

section
/-!
PROOF. The events of the Flue and of remote requests (O48).
-/

namespace Sys2Proof.Machine

open Sys2Proof.Claims

variable {s t : State} {cl : Fin 96} {n : Fin 64} {token value : Word} {failed : Bool}

/-! Accepts and chunks (R325, R329, R338). -/

/-- The core that a freed entry goes to runs a task whose instruction waits for it, and has its place (R329). -/
theorem entryFreed_waits {k : Nat} (h : entryFreed s = some k) :
    (turnTo s k).cpu.who = .task ∧ (offered (turnTo s k)).isSome = true ∧ flueFull (turnTo s k) = false := by
  have hgoes := List.find?_some h
  simp only [Bool.and_eq_true, decide_eq_true_eq, Bool.not_eq_true'] at hgoes
  obtain ⟨⟨⟨⟨hwho, -⟩, hoffered⟩, hplace⟩, -⟩ := hgoes
  exact ⟨hwho, hoffered, hplace⟩

theorem exec_flueAccept_freed {k : Nat} (h : entryFreed s = some k) : exec .flueAccept s = .next (turnTo s k) := by
  rw [exec_flueAccept, execFlueAccept, h]

theorem exec_flueAccept_none (h : entryFreed s = none) : exec .flueAccept s = .next s := by
  rw [exec_flueAccept, execFlueAccept, h]

theorem exec_rmtAccept_room (h : remoteOut s s.cpu.id < 64) : exec .rmtAccept s = .next (offeredAgain s) := by
  rw [exec_rmtAccept, execRmtAccept, if_pos h]

/-- A queued job that is under way, or for which a place is free, does its next chunk (R325). -/
theorem exec_flueChunk_goes {j : FlueJob} (hj : (clusterAt s cl.val).flue[n.val]? = some j)
    (hgo : j.active = true ∨ ((clusterAt s cl.val).flue.filter (·.active)).length < 4) :
    exec (.flueChunk cl n) s = .next (doChunk s cl.val j) := by
  rw [exec_flueChunk, execFlueChunk, hj]
  exact congrArg _ (if_pos (by simpa using hgo))

section

variable {j : FlueJob} {c : Chunk}
  (hread : readChunk s j (span (4096 * j.chunk) (min (4096 * (j.chunk + 1)) j.len)) = (c, t))

include hread

theorem doChunk_whole {m : Nat} (hstop : c.stop = none) : doChunk s m j = finishChunk t m j c := by
  rw [doChunk, hread]
  dsimp only
  rw [hstop]

theorem doChunk_stopped {m : Nat} {e : Stop} (hstop : c.stop = some e) : doChunk s m j = stopChunk t m j c e := by
  rw [doChunk, hread]
  dsimp only
  rw [hstop]

end

/-! Requests performed at this device, and their answers (R346, R349 to R352). -/

/-- One of this device's own requests performed at its home (R349, R350). -/
def performOwn (s : State) (r : Remote) : RemoteEnd × State :=
  performRemote s (1024 + s.devid) r.env.tenant r.env.priv r.member r.sz (podLocal r.addr) r.data

theorem exec_remoteAccess_own {r : Remote} {e : RemoteEnd}
    (hr : s.remotes.find? (fun r => r.token = token && podDev r.addr = s.devid) = some r)
    (hown : performOwn s r = (e, t)) : exec (.remoteAccess (.own token)) s = .next (answerRemote t r e) := by
  rw [exec_remoteAccess, execRemoteAccess]
  dsimp only
  rw [hr]
  dsimp only
  rw [← performOwn, hown]

section

variable {dev : Fin 1024} {ten : Fin 16} {sys : Bool} {member : Fin 4} {sz : Size} {loc : BitVec 40} {data : Word}

theorem exec_remoteAccess_peer_done {v : Word}
    (h : performRemote s (1024 + dev.val) ten sys.toNat member sz loc.toNat data = (.done v, t)) :
    exec (.remoteAccess (.peer dev ten sys member sz loc data)) s = .next { t with answer := toBytes 8 v.toNat ++ [0] } := by
  rw [exec_remoteAccess, execRemoteAccess, h]

theorem exec_remoteAccess_peer_failed {x : Nat}
    (h : performRemote s (1024 + dev.val) ten sys.toNat member sz loc.toNat data = (.failed x, t)) :
    exec (.remoteAccess (.peer dev ten sys member sz loc data)) s =
      .next { t with answer := toBytes 8 0 ++ [BitVec.ofNat 8 x] } := by
  rw [exec_remoteAccess, execRemoteAccess, h]

end

theorem exec_remoteAccess_observe (dev : Fin 1024) (take : Bool) :
    exec (.remoteAccess (.observe dev token take)) s = .next (peerObserves s token take) := rfl

/-- A peer is told nothing of a handle that names no settled future of this device (R228, R346). -/
theorem peerObserves_zeros (take : Bool) (h : hDev token ≠ s.devid ∨ handleNames s token = false ∨ settled s token = false) :
    peerObserves s token take = { s with answer := toBytes 8 0 ++ [0] } :=
  if_pos (by simpa [or_assoc] using h)

/-- A peer that observes a settled future is told its result, after the core on which the future's task ended has written
back; a take drops the reference (R230, R271, R346). -/
theorem peerObserves_settled (take : Bool) (hdev : hDev token = s.devid) (hnames : handleNames s token = true)
    (hsettled : settled s token = true) :
    let f := entryAt s token
    let home := match f.loc with
      | some n => if f.edge then writeBack s n else s
      | none => s
    let told := { home with answer := toBytes 8 f.result.toNat ++ [if f.st = .failed then 2 else 1] }
    peerObserves s token take = if take then dropRefs told [token] else told := by
  unfold peerObserves
  rw [if_neg (by simp [hdev, hnames, hsettled])]
  cases hloc : (entryAt s token).loc with
  | none => simp only [hloc, ite_self]
  | some n => simp only [hloc]

/-! Replies and news of another device (R346, R349, R352). -/

theorem exec_remoteReply_answers {r : Remote}
    (hr : s.remotes.find? (fun r => r.token = token && podDev r.addr != s.devid) = some r) :
    exec (.remoteReply token failed value) s =
      .next (answerRemote s r (if failed then .failed (value.toNat % 256) else .done value)) := by
  rw [exec_remoteReply, execRemoteReply, hr]

theorem exec_remoteReply_news
    (hr : s.remotes.find? (fun r => r.token = token && podDev r.addr != s.devid) = none) :
    exec (.remoteReply token failed value) s = .next (peerSettled s token failed value) := by
  rw [exec_remoteReply, execRemoteReply, hr]

theorem peerSettled_nowhere (h : hDev token = s.devid ∨ s.ndev ≤ hDev token) : peerSettled s token failed value = s :=
  if_pos (by simpa using h)

/-- A future of another device that this one did not know of, as its news makes it known (R346, log 20). -/
def newsFut (h : Word) (failed : Bool) (value : Word) : Fut :=
  { Fut.reset with st := if failed then .failed else .resolved, kind := hKind h, gen := hGen h, count := 1, result := value }

section

variable (hdev : hDev token ≠ s.devid) (hpod : hDev token < s.ndev)

include hdev hpod

theorem peerSettled_unknown (hst : (entryAt s token).st = .free ∨ (entryAt s token).st = .block) :
    peerSettled s token failed value = setEntry s token (newsFut token failed value) := by
  unfold peerSettled
  rw [if_neg (by simp [hdev, hpod]), if_pos (by simpa using hst)]
  rfl

theorem peerSettled_known (hfree : (entryAt s token).st ≠ .free) (hblock : (entryAt s token).st ≠ .block) :
    peerSettled s token failed value = settle s token failed value := by
  unfold peerSettled
  rw [if_neg (by simp [hdev, hpod]), if_neg (by simp [hfree, hblock])]

end

/-- A request whose target cannot be reached fails, whether its access was performed or not (R352). -/
theorem exec_targetUnreachable_fails {performed : Bool} {r : Remote}
    (hr : s.remotes.find? (fun r => r.token = token) = some r) :
    exec (.targetUnreachable token performed) s = .next (answerRemote
      (if performed ∧ podDev r.addr = s.devid then (performOwn s r).2 else s) r (.failed 0x0B)) := by
  rw [exec_targetUnreachable, execTargetUnreachable, hr]
  simp only [Bool.and_eq_true, decide_eq_true_eq]
  rfl

/-- Settles O48: each event by the lemma on what it does. -/
theorem transferEvents : Obligations.TransferEvents := by
  intro s cl n token value data failed performed dev ten sys member sz loc go without fails own asked
  refine ⟨fun k hk => ⟨exec_flueAccept_freed hk, entryFreed_waits hk⟩, exec_flueAccept_none, exec_rmtAccept_room,
    exec_kilnAccept s, exec_collAccept s, fun j hj hgo c t hread => ⟨fun hstop => ?whole, fun e hstop => ?stopped⟩,
    fun r hr => ⟨fun v t => exec_remoteAccess_own hr, fun x t => exec_remoteAccess_own hr⟩,
    fun v t => exec_remoteAccess_peer_done, fun x t => exec_remoteAccess_peer_failed, fun take h => ?zeros,
    fun take hdev hnames hsettled => ?told, fun r hr => ?reply,
    fun hr => ⟨fun h => ?nowhere, fun hdev hpod => ⟨fun hst => ?unknown, fun hfree hblock => ?known⟩⟩,
    fun r => exec_targetUnreachable_fails⟩
  case whole => rw [exec_flueChunk_goes hj hgo, doChunk_whole hread hstop]
  case stopped => rw [exec_flueChunk_goes hj hgo, doChunk_stopped hread hstop]
  case zeros => rw [exec_remoteAccess_observe, peerObserves_zeros take h]
  case told =>
    rw [exec_remoteAccess_observe]
    exact congrArg _ (peerObserves_settled take hdev hnames hsettled)
  case reply =>
    rw [exec_remoteReply_answers hr]
    cases failed <;> rfl
  case nowhere => rw [exec_remoteReply_news hr, peerSettled_nowhere h]
  case unknown =>
    exact ⟨newsFut token failed value, by rw [exec_remoteReply_news hr, peerSettled_unknown hdev hpod hst], rfl, rfl, rfl⟩
  case known => rw [exec_remoteReply_news hr, peerSettled_known hdev hpod hfree hblock]

end Sys2Proof.Machine
end

section
/-!
SUPPORT. The Kiln's arithmetic: Align, the value of a block, and the addition of a block to an accumulator word (R315, R316).
-/

namespace Sys2Proof.Machine

open Sys2Proof.Claims

/-! The binary logarithm (R315). -/

theorem isLog_iff {num den : Nat} {l : Int} :
    IsLog num den l ↔ (den : ℚ) * 2 ^ l ≤ num ∧ (num : ℚ) < den * 2 ^ (l + 1) := by
  have hdouble : (den : ℚ) * 2 ^ (l + 1) = (2 * den : Nat) * 2 ^ l := by
    rw [zpow_add_one₀ two_ne_zero]
    push_cast
    ring
  rw [hdouble, IsLog]
  rcases le_or_gt 0 l with h | h
  · have hpow : den * 2 ^ (l.toNat + 1) = 2 * den * 2 ^ l.toNat := by ring
    simp only [h, hpow, ← not_le, ← shift_le_iff_of_nonneg h, forall_const, not_true_eq_false, false_imp_iff, and_true]
  · have hneg : ¬0 ≤ l := not_le.mpr h
    simp only [hneg, ← not_le, ← shift_le_iff_of_neg h, forall_const, not_false_eq_true, false_imp_iff, true_and]

theorem isLog_ilog2 {num den : Nat} (hn : num ≠ 0) (hd : 0 < den) : IsLog num den (ilog2 num den) :=
  isLog_iff.mpr (ilog2_spec (Nat.pos_of_ne_zero hn) hd)

theorem isLog_le {num den : Nat} {k l : Int} (hd : 0 < den) (hk : IsLog num den k) (hl : IsLog num den l) : k ≤ l := by
  have hlt := (isLog_iff.mp hk).1.trans_lt (isLog_iff.mp hl).2
  have hden : (0 : ℚ) < den := by exact_mod_cast hd
  rw [mul_lt_mul_iff_right₀ hden, zpow_lt_zpow_iff_right₀ one_lt_two] at hlt
  omega

theorem valLog_eq_some {x : FpVal} {l : Int} :
    valLog x = some l ↔ ∃ neg num den, x = .fin neg num den ∧ num ≠ 0 ∧ l = ilog2 num den := by
  cases x with
  | fin neg num den =>
    by_cases h : num = 0
    · simp [valLog, h]
    · simp [valLog, h, eq_comm]
  | nan | inf => simp [valLog]

/-! Align (R315). -/

variable {xs : List FpVal} {width : Nat}

theorem kept_fin (u : Int) (neg : Bool) (num den : Nat) :
    kept u (.fin neg num den) =
      let m := if 0 ≤ u then num / (den * 2 ^ u.toNat) else num * 2 ^ (-u).toNat / den
      if neg then -(m : Int) else m := by
  rcases le_or_gt 0 u with h | h
  · simp [kept, h, Int.toNat_of_nonpos (neg_nonpos.mpr h)]
  · simp [kept, not_le.mpr h, Int.toNat_of_nonpos h.le]

theorem kept_of_valLog_none (u : Int) {x : FpVal} (h : valLog x = none) : kept u x = 0 := by
  cases x with
  | fin neg num den =>
    obtain rfl : num = 0 := by simpa [valLog] using h
    simp [kept]
  | nan | inf => rfl

/-- Align keeps of each value its integer at the common weight. -/
theorem align_kept (xs : List FpVal) (width : Nat) : (align xs width).1 = xs.map (kept (align xs width).2) := by
  unfold align
  split
  case h_1 h =>
    have hnone := List.filterMap_eq_nil_iff.mp (List.max?_eq_none_iff.mp h)
    exact List.map_congr_left fun x hx => (kept_of_valLog_none 0 (hnone x hx)).symm
  case h_2 e h =>
    refine List.map_congr_left fun x _ => ?_
    cases x with
    | fin neg num den => exact (kept_fin ..).symm
    | nan | inf => rfl

theorem align_weight_none (h : (xs.filterMap valLog).max? = none) : (align xs width).2 = 0 := by rw [align, h]

theorem align_weight_some {e : Int} (h : (xs.filterMap valLog).max? = some e) :
    (align xs width).2 = e - (width - 1 : Nat) := by rw [align, h]

/-- The weight that Align chooses is the one of R315. -/
theorem aligned_align (hxs : Proper xs) (hw : 0 < width) : Aligned xs width (align xs width).2 := by
  cases h : (xs.filterMap valLog).max? with
  | none =>
    have hnone := List.filterMap_eq_nil_iff.mp (List.max?_eq_none_iff.mp h)
    have hzero : ∀ x ∈ xs, ∃ neg den, x = .fin neg 0 den := fun x hx => by
      obtain ⟨neg, num, den, rfl, -⟩ := hxs x hx
      obtain rfl : num = 0 := by simpa [valLog] using hnone _ hx
      exact ⟨neg, den, rfl⟩
    refine ⟨fun _ => align_weight_none h, fun n a d hx ha => ?_, fun ⟨x, hx, hne⟩ => ?_⟩
    · obtain ⟨_, _, ⟨⟩⟩ := hzero _ hx
      exact absurd rfl ha
    · obtain ⟨neg, den, rfl⟩ := hzero x hx
      exact absurd rfl (hne neg den)
  | some e =>
    obtain ⟨hmem, hmax⟩ := List.max?_eq_some_iff.mp h
    obtain ⟨x, hx, hlog⟩ := List.mem_filterMap.mp hmem
    obtain ⟨neg, num, den, rfl, hnum, rfl⟩ := valLog_eq_some.mp hlog
    rw [align_weight_some h]
    refine ⟨fun hall => ?_, fun n a d hy ha l hl => ?_, fun _ => ⟨neg, num, den, hx, hnum, ?_⟩⟩
    · obtain ⟨_, _, hzero⟩ := hall _ hx
      cases hzero
      exact absurd rfl hnum
    · obtain ⟨_, _, _, ⟨⟩, hd⟩ := hxs _ hy
      have hle := hmax _ (List.mem_filterMap.mpr ⟨_, hy, valLog_eq_some.mpr ⟨_, _, _, rfl, ha, rfl⟩⟩)
      have hll := isLog_le hd hl (isLog_ilog2 ha hd)
      omega
    · obtain ⟨_, _, _, ⟨⟩, hd⟩ := hxs _ hx
      have hweight : ilog2 num den - (width - 1 : Nat) + ((width : Int) - 1) = ilog2 num den := by omega
      rw [hweight]
      exact isLog_ilog2 hnum hd

/-! The value of a block (R315). -/

theorem elemVal_eq (t : Ty) : elemVal t = blockElem t := rfl

theorem elemWidth_pos (t : Ty) : 0 < elemWidth t := by
  unfold elemWidth
  split_ifs <;> decide

theorem proper_blockElem {t : Ty} {a : List Nat} (h : (a.map (blockElem t)).any notFinite = false) :
    Proper (a.map (blockElem t)) := by
  intro x hx
  obtain ⟨neg, num, den, rfl⟩ := fin_of_not_notFinite (Bool.eq_false_iff.mpr (List.any_eq_false.mp h x hx))
  refine ⟨neg, num, den, rfl, ?_⟩
  obtain ⟨v, -, hv⟩ := List.mem_map.mp hx
  rw [blockElem] at hv
  split at hv
  · cases hv
    decide
  · have hproper := tyVal_proper t v
    rwa [hv] at hproper

/-- The model's sum of products, over the pairs of two mapped lists. -/
theorem dot_map {α β : Type} (f : α → Int) (g : β → Int) (l : List α) (m : List β) :
    dot (l.map f) (m.map g) = ((l.zip m).map fun p => f p.1 * g p.2).sum := by
  induction l generalizing m with
  | nil => rfl
  | cons x l ih =>
    cases m with
    | nil => rfl
    | cons y m => simp only [List.map_cons, dot, ih, List.zip_cons_cons, List.sum_cons]

theorem scaled_eq (x t : Int) :
    scaled x t = .fin (decide (x < 0)) (x.natAbs * 2 ^ t.toNat) (2 ^ (-t).toNat) := by
  rcases le_or_gt 0 t with h | h
  · simp [scaled, h, Int.toNat_of_nonpos (neg_nonpos.mpr h)]
  · simp [scaled, not_le.mpr h, Int.toNat_of_nonpos h.le]

theorem blockIs_blockValue (ta tb : Ty) (a b : List Nat) (xa xb : Nat) :
    BlockIs ta tb a b xa xb (blockValue ta tb a b xa xb) := by
  refine ⟨fun hbad => if_pos hbad, fun hok => ?_⟩
  obtain ⟨hfin, -⟩ : ((a.map (blockElem ta)).any notFinite = false ∧ (b.map (blockElem tb)).any notFinite = false) ∧
      xa ≠ 255 ∧ xb ≠ 255 := by simpa [and_assoc] using hok
  refine ⟨_, _, aligned_align (proper_blockElem hfin.1) (elemWidth_pos ta),
    aligned_align (proper_blockElem hfin.2) (elemWidth_pos tb), ?_⟩
  rw [blockValue, elemVal_eq, elemVal_eq, if_neg (Bool.eq_false_iff.mp hok)]
  dsimp only
  rw [align_kept, align_kept, dot_map, scaled_eq]

/-! Adding a block to an accumulator word (R315, R316). -/

theorem accumulateInt_eq (acc : Nat) (a b : List Nat) : accumulateInt acc a b =
    trunc 32 (max (-(2 ^ 31 : Int)) (min (2 ^ 31 - 1)
      (sgn 32 acc + ((a.zip b).map fun p => sgn 8 p.1 * sgn 8 p.2).sum))) := by
  rw [accumulateInt, dot_map, clamp_eq (by decide)]
  rfl

theorem accumulateInt_lt (acc : Nat) (a b : List Nat) : accumulateInt acc a b < 2 ^ 32 := by
  unfold accumulateInt trunc
  omega

theorem signed_fmt32_lt {mag : Nat} (h : mag < 2 ^ 31) (neg : Bool) : signed fmt32 neg mag < 2 ^ 32 := by
  have hsigned : signed fmt32 neg mag = if neg then mag + 2 ^ 31 else mag := rfl
  rw [hsigned]
  split <;> omega

/-- A rounded magnitude is within the format's range, or the result is that of an overflow (R88, R142). -/
theorem roundFin_cases (f : FloatFmt) (d : Dir) (sat neg : Bool) (num den : Nat) :
    (roundFin f d sat neg num den).1 = overflowBits f d sat neg ∨
      ∃ mag ≤ f.maxFin, (roundFin f d sat neg num den).1 = signed f neg mag := by
  obtain ⟨mag, flags, h⟩ : ∃ mag flags, roundFin f d sat neg num den =
      if f.maxFin < mag then (overflowBits f d sat neg, flagOF ||| flagNX) else (signed f neg mag, flags) := ⟨_, _, rfl⟩
  rw [h]
  split
  case isTrue => exact .inl rfl
  case isFalse hle => exact .inr ⟨mag, not_lt.mp hle, rfl⟩

theorem roundFin_fmt32_lt (neg : Bool) (num den : Nat) : (roundFin fmt32 .rne false neg num den).1 < 2 ^ 32 := by
  have hmax : fmt32.maxFin < 2 ^ 31 := by decide
  obtain hover | ⟨mag, hmag, hsigned⟩ := roundFin_cases fmt32 .rne false neg num den
  · rw [hover]
    cases neg <;> decide
  · rw [hsigned]
    exact signed_fmt32_lt (hmag.trans_lt hmax) neg

/-- An FP32 result has 32 bits. -/
theorem roundTo_fmt32_lt (x : FpVal) : (roundTo fmt32 .rne false x).1 < 2 ^ 32 := by
  cases x with
  | nan sg => exact (show defaultNaN fmt32 < 2 ^ 32 by decide)
  | inf neg => exact signed_fmt32_lt (mag := 0x7F800000) (by decide) neg
  | fin neg num den =>
    rw [roundTo]
    split
    · exact signed_fmt32_lt (by decide) neg
    · exact roundFin_fmt32_lt neg num den

theorem accumulate_lt (acc v : Nat) : accumulate acc v < 2 ^ 32 := roundTo_fmt32_lt ..

end Sys2Proof.Machine
end

section
/-!
SUPPORT. The rows of a bank's accumulator: their words and poison marks after clearing and after a row job (R304, R311, R322).
-/

namespace Sys2Proof.Machine

open Sys2Proof.Claims

variable {b : Bank} {clear keep : Bool} {r r0 m k0 n col j : Nat} {ty : Ty} {a : BitVec 4096} {xa : BitVec 64}
  {issuer : Word} {kbs : List Nat} {f : Nat → Bool}

/-! Poison marks (R322). -/

/-- A bit of a bit string, within the slot in which it lies. -/
theorem getLsbD_slot {w : Nat} (p : BitVec w) (i : Nat) {len c : Nat} (hc : c < len) :
    p.getLsbD (len * i + c) = (slot p i len).testBit c := by
  rw [slot, Nat.testBit_mod_two_pow, decide_eq_true hc, Bool.true_and, Nat.testBit_div_two_pow, Nat.mul_comm i len,
    Nat.add_comm]
  rfl

theorem testBit_ofBits (l : List Bool) (i : Nat) : (ofBits l).testBit i = l.getD i false := by
  have hget : (l.map Bool.toNat).getD i 0 = (l.getD i false).toNat := by
    rw [List.getD_eq_getElem?_getD, List.getD_eq_getElem?_getD, List.getElem?_map]
    cases l[i]? <;> rfl
  rw [ofBits, testBit_packSlots, hget]
  cases l.getD i false <;> rfl

theorem getLsbD_markRow (p : BitVec 16384) (hr : r < 64) (hcol : col < 256) :
    (markRow p r keep f).getLsbD (256 * r + col) = (f col || (keep && p.getLsbD (256 * r + col))) := by
  rw [getLsbD_slot _ _ hcol, markRow, slot_putSlot p (by omega) (by omega), if_pos rfl, Nat.testBit_mod_two_pow,
    testBit_ofBits]
  simp [hcol]

/-- A column is marked for a poisoned scale of class MX or a poisoned tile element of its blocks. -/
theorem badColumn_iff : badColumn b kbs col = true ↔
    ∃ kb ∈ kbs, (fmtClass b.fmt = .mx ∧ b.poisonScales.getLsbD (256 * kb + col) = true) ∨
      ∃ k < 32, b.poisonTile.getLsbD (256 * (32 * kb + k) + col) = true := by
  simp [badColumn]

theorem badColumn_sound (htile : b.poisonTile = 0) (hscales : b.poisonScales = 0) : badColumn b kbs col = false := by
  simp [badColumn, htile, hscales]

/-! Rows cleared (R304). -/

/-- One accumulator row cleared. -/
def zeroRow (b : Bank) (r : Nat) : Bank :=
  { b with acc := setRow b.acc r fun _ => 0, poisonAcc := markRow b.poisonAcc r false fun _ => false }

theorem zeroRow_fmt : (zeroRow b r).fmt = b.fmt := by rw [zeroRow]

theorem zeroRow_poisonTile : (zeroRow b r).poisonTile = b.poisonTile := by rw [zeroRow]

theorem zeroRow_poisonScales : (zeroRow b r).poisonScales = b.poisonScales := by rw [zeroRow]

theorem badColumn_zeroRow : badColumn (zeroRow b r) kbs = badColumn b kbs := by
  funext col
  simp only [badColumn, zeroRow_fmt, zeroRow_poisonTile, zeroRow_poisonScales]

theorem zeroRows_none : zeroRows b r0 0 = b := by
  rw [zeroRows, span_nil (Nat.le_of_eq (Nat.add_zero r0)), List.foldl_nil]

theorem zeroRows_succ : zeroRows b r0 (m + 1) = zeroRow (zeroRows b r0 m) (r0 + m) := by
  rw [zeroRows, ← Nat.add_assoc, span_succ (Nat.le_add_right ..), List.foldl_append]
  rfl

theorem zeroRows_one : zeroRows b r 1 = zeroRow b r := by rw [zeroRows_succ, zeroRows_none, Nat.add_zero]

/-- Clearing rows zeroes the words of those rows and no other. -/
theorem slot_zeroRows (h : r0 + m ≤ 64) (hj : j < 16384) :
    slot (zeroRows b r0 m).acc j 32 = if r0 ≤ j / 256 ∧ j / 256 < r0 + m then 0 else slot b.acc j 32 := by
  induction m with
  | zero => rw [zeroRows_none, if_neg (by omega)]
  | succ m ih =>
    rw [zeroRows_succ, zeroRow, slot_setRow _ _ (by omega) hj, ih (by omega)]
    by_cases hlast : j / 256 = r0 + m
    · rw [if_pos hlast, if_pos (by omega)]
      rfl
    · rw [if_neg hlast]
      exact if_congr (by omega) rfl rfl

/-! The blocks of a row job (R311, R315, R316). -/

/-- The K blocks of a row job. -/
def rowBlocks (k0 n : Nat) : List Nat := span (k0 / 32) (cdiv (k0 + n) 32)

/-- The elements of a K block in the job's row, and in a column of the tile (R311). -/
def rowElems (a : BitVec 4096) (kb : Nat) : List Nat := (List.range 32).map fun j => slot a (32 * kb + j) 16
def colElems (b : Bank) (kb col : Nat) : List Nat := (List.range 32).map fun j => tileAt b (32 * kb + j) col

/-- The scales of a K block: the class BF16 has none, and multiplies by 1 (R315). -/
def blockScales (b : Bank) (xa : BitVec 64) (kb col : Nat) : Nat × Nat :=
  if fmtClass b.fmt = .bf16 then (127, 127) else (slot xa kb 8, scaleAt b kb col)

/-- The value of a K block in the classes MX and BF16 (R315). -/
def rowBlock (b : Bank) (ty : Ty) (a : BitVec 4096) (xa : BitVec 64) (col kb : Nat) : Nat :=
  blockValue ty (fmtElem b.fmt) (rowElems a kb) (colElems b kb col) (blockScales b xa kb col).1 (blockScales b xa kb col).2

theorem rowWord_int (h : fmtClass b.fmt = .int) (word : Nat) : rowWord b ty a xa kbs col word =
    kbs.foldl (fun acc kb => accumulateInt acc (rowElems a kb) (colElems b kb col)) word := by
  simp only [rowWord, h, List.map_map]
  rfl

theorem rowWord_float (h : fmtClass b.fmt ≠ .int) (word : Nat) : rowWord b ty a xa kbs col word =
    kbs.foldl (fun acc kb => accumulate acc (rowBlock b ty a xa col kb)) word := by
  cases hc : fmtClass b.fmt with
  | int => exact absurd hc h
  | mx =>
    simp only [rowWord, rowBlock, blockScales, hc, List.map_map]
    rfl
  | bf16 =>
    simp only [rowWord, rowBlock, blockScales, hc, List.map_map]
    rfl

theorem rowWord_zeroRow (word : Nat) :
    rowWord (zeroRow b r) ty a xa kbs col word = rowWord b ty a xa kbs col word := by
  simp only [rowWord, tileAt, scaleAt, zeroRow]

theorem foldl_lt {α : Type} {g : Nat → α → Nat} {bound : Nat} (hg : ∀ x y, g x y < bound) (l : List α) {x : Nat}
    (hx : x < bound) : l.foldl g x < bound := by
  induction l generalizing x with
  | nil => exact hx
  | cons y l ih => exact ih (hg x y)

theorem rowWord_lt {word : Nat} (h : word < 2 ^ 32) : rowWord b ty a xa kbs col word < 2 ^ 32 := by
  by_cases hc : fmtClass b.fmt = .int
  · rw [rowWord_int hc]
    exact foldl_lt (fun _ _ => accumulateInt_lt ..) kbs h
  · rw [rowWord_float hc]
    exact foldl_lt (fun _ _ => accumulate_lt ..) kbs h

/-! A row job (R310, R311, R322). -/

/-- The bank as a row job finds it, its row cleared first when the job asks for that (R311). -/
def rowStart (b : Bank) (clear : Bool) (r : Nat) : Bank := if clear then zeroRow b r else b

theorem doRow_unusable (hu : b.usable = false) : (doRow b clear r k0 n ty a xa issuer).acc = b.acc := by
  rw [doRow, hu]
  rfl

theorem doRow_empty (hu : b.usable = true) : doRow b clear r k0 0 ty a xa issuer = rowStart b clear r := by
  rw [doRow, hu, zeroRows_one]
  rfl

/-- A row job with K elements, on a usable bank: clearing has left the tile and its marks alone. -/
theorem doRow_usable (hu : b.usable = true) (hn : n ≠ 0) : doRow b clear r k0 n ty a xa issuer =
    { rowStart b clear r with
      acc := setRow (rowStart b clear r).acc r fun col =>
        rowWord b ty a xa (rowBlocks k0 n) col (slot (rowStart b clear r).acc (256 * r + col) 32)
      poisonAcc := if b.poisonTile = 0 && b.poisonScales = 0 then (rowStart b clear r).poisonAcc
        else markRow (rowStart b clear r).poisonAcc r true (badColumn b (rowBlocks k0 n)) } := by
  rw [doRow, hu, zeroRows_one, Bool.not_true, if_neg Bool.false_ne_true]
  dsimp only
  rw [if_neg hn]
  cases clear with
  | false => rfl
  | true =>
    rw [rowStart, if_pos rfl]
    simp only [rowBlocks, rowWord_zeroRow, badColumn_zeroRow, zeroRow_poisonTile, zeroRow_poisonScales]

theorem slot_rowStart (hr : r < 64) (hcol : col < 256) :
    slot (rowStart b clear r).acc (256 * r + col) 32 = if clear then 0 else slot b.acc (256 * r + col) 32 := by
  cases clear with
  | false => rfl
  | true =>
    rw [rowStart, if_pos rfl, zeroRow, slot_setRow _ _ hr (by omega), if_pos (by omega)]
    rfl

theorem slot_rowStart_other (hr : r < 64) (hj : j < 16384) (h : j / 256 ≠ r) :
    slot (rowStart b clear r).acc j 32 = slot b.acc j 32 := by
  cases clear with
  | false => rfl
  | true => rw [rowStart, if_pos rfl, zeroRow, slot_setRow _ _ hr hj, if_neg h]

theorem getLsbD_rowStart (hr : r < 64) (hcol : col < 256) :
    (rowStart b clear r).poisonAcc.getLsbD (256 * r + col) = (!clear && b.poisonAcc.getLsbD (256 * r + col)) := by
  cases clear with
  | false => rfl
  | true =>
    rw [rowStart, if_pos rfl, zeroRow]
    exact getLsbD_markRow _ hr hcol

/-- A word of the job's row: its blocks added in ascending K to what it held, or to 0 after a clear. -/
theorem slot_doRow (hu : b.usable = true) (hn : n ≠ 0) (hr : r < 64) (hcol : col < 256) :
    slot (doRow b clear r k0 n ty a xa issuer).acc (256 * r + col) 32 =
      rowWord b ty a xa (rowBlocks k0 n) col (if clear then 0 else slot b.acc (256 * r + col) 32) := by
  have hdiv : (256 * r + col) / 256 = r := by omega
  have hmod : (256 * r + col) % 256 = col := by omega
  have hword : (if clear then 0 else slot b.acc (256 * r + col) 32) < 2 ^ 32 := by
    split
    · exact Nat.two_pow_pos 32
    · exact Nat.mod_lt _ (Nat.two_pow_pos 32)
  rw [doRow_usable hu hn, slot_setRow _ _ hr (by omega), if_pos hdiv, hmod, slot_rowStart hr hcol]
  exact Nat.mod_eq_of_lt (rowWord_lt hword)

/-- A row job changes no word of another row. -/
theorem slot_doRow_other (hr : r < 64) (hj : j < 16384) (h : j / 256 ≠ r) :
    slot (doRow b clear r k0 n ty a xa issuer).acc j 32 = slot b.acc j 32 := by
  by_cases hu : b.usable = true
  · by_cases hn : n = 0
    · rw [hn, doRow_empty hu, slot_rowStart_other hr hj h]
    · rw [doRow_usable hu hn, slot_setRow _ _ hr hj, if_neg h, slot_rowStart_other hr hj h]
  · rw [doRow_unusable (Bool.eq_false_iff.mpr hu)]

/-- A word is marked after a row job when it was and is not cleared, or when it is computed from a poisoned value. -/
theorem getLsbD_doRow (hu : b.usable = true) (hn : n ≠ 0) (hr : r < 64) (hcol : col < 256) :
    (doRow b clear r k0 n ty a xa issuer).poisonAcc.getLsbD (256 * r + col) =
      ((!clear && b.poisonAcc.getLsbD (256 * r + col)) || badColumn b (rowBlocks k0 n) col) := by
  rw [doRow_usable hu hn]
  dsimp only
  split
  case isTrue h =>
    obtain ⟨htile, hscales⟩ := Bool.and_eq_true_iff.mp h
    rw [getLsbD_rowStart hr hcol, badColumn_sound (of_decide_eq_true htile) (of_decide_eq_true hscales), Bool.or_false]
  case isFalse => rw [getLsbD_markRow _ hr hcol, getLsbD_rowStart hr hcol, Bool.true_and, Bool.or_comm]

end Sys2Proof.Machine
end

section
/-!
PROOF. The jobs at the head of a bank's order (O49).
-/

namespace Sys2Proof.Machine

open Sys2Proof.Claims

variable {s t : State} {cl : Fin 96} {bank : Fin 8} {rest : List Job} {h : Word}

theorem exec_bankClear_clearing (hb : (bankAt s cl.val bank).clearing = true) :
    exec (.bankClear cl bank) s = .next (modBank s cl.val bank fun b =>
      { b with tile := 0, scales := 0, acc := 0, fmt := 0, poisonTile := 0, poisonScales := 0, poisonAcc := 0,
               clearing := false }) := by
  rw [exec_bankClear, execBankClear, if_pos hb]

theorem exec_accumulatorZeroJob_head {r0 m : Nat} (hj : (bankAt s cl.val bank).jobs = .zero r0 m h :: rest) :
    exec (.accumulatorZeroJob cl bank) s = .next (finishJob s cl.val bank fun b => zeroRows b r0 m) := by
  rw [exec_accumulatorZeroJob, execAccumulatorZeroJob, hj]

theorem exec_rowJob_head {clear : Bool} {r k0 n : Nat} {ty : Ty} {a : BitVec 4096} {xa : BitVec 64}
    (hj : (bankAt s cl.val bank).jobs = .row clear r k0 n ty a xa h :: rest) :
    exec (.rowJob cl bank) s = .next (finishJob s cl.val bank fun b => doRow b clear r k0 n ty a xa h) := by
  rw [exec_rowJob, execRowJob, hj]

section

variable {taddr stride saddr sstride fmt kb nc : Nat} {token : Word} {env : Env}
  (hj : (bankAt s cl.val bank).jobs = .load taddr stride saddr sstride fmt kb nc token env :: rest)

include hj

/-- A load that reads no poison leaves its tile and its scales, unmarked (R307, R308). -/
theorem exec_tileLoad_sound {bs marks : List Byte}
    (hread : engineBytes s env (tileAddrs taddr stride saddr sstride fmt kb nc) = (.inr (bs, marks), t))
    (hmarks : marksAny marks = false) :
    exec (.tileLoad cl bank) s = .next (finishJob (settle t token false 0) cl.val bank fun b =>
      { b with
        usable := true, fmt := fmt, drop := false, poisonTile := 0, poisonScales := 0
        tile := BitVec.ofNat 1048576 (packSlots 16 ((List.range 65536).map fun j =>
          tileElem bs fmt kb nc (j / 256) (j % 256)))
        scales := BitVec.ofNat 16384 (packSlots 8 ((List.range 2048).map fun j =>
          tileScale bs fmt kb nc (j / 256) (j % 256))) }) := by
  rw [exec_tileLoad, execTileLoad, hj]
  simp only [hread, hmarks, Bool.false_eq_true, if_false]

/-- A load that meets a failing check fails its token, and leaves the bank unusable (R309). -/
theorem exec_tileLoad_failed {code : Nat}
    (hread : engineBytes s env (tileAddrs taddr stride saddr sstride fmt kb nc) = (.inl code, t)) :
    exec (.tileLoad cl bank) s = .next (finishJob (settle t token true (failCode code)) cl.val bank fun b =>
      { b with usable := false, fmt := fmt,
               failed := if b.failed.contains env.handle then b.failed else b.failed ++ [env.handle] }) := by
  rw [exec_tileLoad, execTileLoad, hj]
  simp only [hread]

end

/-- Settles O49: each event performs the job at the head, `slot_zeroRows` and `slot_doRow` are its words, and `rowWord_int`
and `blockIs_blockValue` are what a word gets of its blocks. -/
theorem bankEvents : Obligations.BankEvents := by
  intro s cl n bk
  refine ⟨exec_bankClear_clearing, fun r0 m h rest => exec_accumulatorZeroJob_head,
    fun clear r k0 m ty a xa h rest => exec_rowJob_head, fun taddr stride saddr sstride fmt kb nc token env rest hj =>
      ⟨fun bs marks t hread hmarks => ⟨_, exec_tileLoad_sound hj hread hmarks, rfl⟩,
        fun code t => exec_tileLoad_failed hj⟩,
    fun b r0 m j => slot_zeroRows, ?_, fun b clear r k0 m ty a xa h j => slot_doRow_other⟩
  intro b clear r k0 m ty a xa h col hu hr hm hcol kbs before word av bv sum scale
  have hword : word = rowWord b ty a xa kbs col before := slot_doRow hu hm hr hcol
  refine ⟨fun hint => ?_, fun hfloat => ⟨rowBlock b ty a xa col, fun kb _ => blockIs_blockValue .., ?_⟩, ?_⟩
  · rw [hword, rowWord_int hint]
    simp only [accumulateInt_eq]
    rfl
  · exact hword.trans (rowWord_float hfloat before)
  · rw [getLsbD_doRow hu hm hr hcol, Bool.or_eq_true, badColumn_iff, Bool.and_eq_true, Bool.not_eq_true']
    rfl

end Sys2Proof.Machine
end

section
/-!
PROOF. The instructions that bind, release, clear and ask for a bank (O28), and those that give it jobs (O29).
-/

namespace Sys2Proof.Machine

open Sys2Proof.Claims

variable {s t u : State} {i : Instr} {d a b c : Reg} {lanes : Bool} {kind : Nat} {mem : Bool} {h : Word}
  {desc ws : List Word} {clear : Bool} {ty : Ty}

/-! An MTX member past its checks (R300, R301), and a job that is accepted (R234, R235). -/

theorem mtx_begun {body : State → State} (he : exec i s = mtx i lanes a b s body) (hb : body s = t) :
    Begun mtxAttr lanes i s t :=
  fun hbegins => he.trans ((issueV_begins hbegins rfl).trans (congrArg Host.Outcome.next hb))

theorem firstCode_cons {bad : Bool} {n : Nat} {cs : List (Bool × Nat)} (hbad : bad = false) :
    firstCode ((bad, n) :: cs) = firstCode cs := by
  rw [firstCode, hbad]
  rfl

theorem tokenSlot_of_allocToken {r : Word × State} (h : allocToken s kind = some r) : (tokenSlot s).isNone = false := by
  rw [allocToken] at h
  cases hslot : tokenSlot s with
  | none => rw [hslot] at h; cases h
  | some n => rfl

theorem tokenChecks_accepts {k : State → State} (hacc : Accepts s kind mem d h t) : tokenChecks s k = k s := by
  obtain ⟨hheld, u, halloc, -⟩ := hacc
  rw [tokenChecks, if_neg (Nat.not_le.mpr hheld), if_neg (Bool.eq_false_iff.mp (tokenSlot_of_allocToken halloc))]

theorem acceptJob_accepts {k : Word → State → State} (hacc : Accepts s kind mem d h t) :
    acceptJob s kind mem d desc k = k h t := by
  obtain ⟨-, u, halloc, rfl⟩ := hacc
  rw [acceptJob, halloc]

/-- An engine that has a place accepts a job, whether it waited or not (R300, R329). -/
theorem offer_accepts {k : Word → State → State} (hacc : Accepts s kind mem d h t) :
    offer s kind mem d false desc k = k h t := by
  have hgo : (fun u => if false = true then waitOffered u desc else acceptJob u kind mem d desc k) s = k h t :=
    acceptJob_accepts hacc
  rw [offer]
  split
  · exact hgo
  · exact (tokenChecks_accepts hacc).trans hgo

/-! Binding, clearing, releasing and asking for a bank (R302 to R305). -/

/-- What MXBIND does with a bank that is not being released or cleared, by its owner and the tenant's limit (R302). -/
def bindBank (s : State) (d : Reg) (n : Fin 8) (range : Word) : State :=
  let owner := (bankAt s (here s) n).owner
  let tenant := s.cpu.live.tenant
  if owner.isSome && owner != some tenant then retire (setG s d 1)
  else if owner.isNone && (s.tenants.get tenant).bankmax ≤ bankCount s tenant then retire (setG s d 2)
  else retire (setG (modCluster (modBank s (here s) n fun k =>
    { k with owner := some tenant, rows := k.rows ||| rowSet (rangeRow range) (rangeCount range) }) (here s)
      fun x => { x with kilnOff := false }) d 0)

section

variable {n : Fin 8} {range : Word}

theorem bindBank_binds (h : (bankAt s (here s) n).owner = some s.cpu.live.tenant ∨
      ((bankAt s (here s) n).owner = none ∧
        bankCount s s.cpu.live.tenant < (s.tenants.get s.cpu.live.tenant).bankmax)) :
    bindBank s d n range = retire (setG (modCluster (modBank s (here s) n fun k =>
      { k with owner := some s.cpu.live.tenant, rows := k.rows ||| rowSet (rangeRow range) (rangeCount range) }) (here s)
        fun x => { x with kilnOff := false }) d 0) := by
  unfold bindBank
  obtain howner | ⟨howner, hlimit⟩ := h
  · simp [howner]
  · simp [howner, Nat.not_le.mpr hlimit]

theorem bindBank_taken {o : Fin 16} (howner : (bankAt s (here s) n).owner = some o) (hne : o ≠ s.cpu.live.tenant) :
    bindBank s d n range = retire (setG s d 1) := by
  unfold bindBank
  simp [howner, hne]

theorem bindBank_limited (howner : (bankAt s (here s) n).owner = none)
    (hlimit : (s.tenants.get s.cpu.live.tenant).bankmax ≤ bankCount s s.cpu.live.tenant) :
    bindBank s d n range = retire (setG s d 2) := by
  unfold bindBank
  simp [howner, hlimit]

end

section

variable (hbank : badBank (capture s false a) = false)

include hbank

theorem mxbind_begun (hrange : badRange (capture s true b) = false)
    (hclear : (bankAt s (here s) (bankOf (capture s false a))).clearing = false)
    (hrel : (bankAt s (here s) (bankOf (capture s false a))).jobs.any isRel = false) :
    Begun mtxAttr false (.mxbind d a b) s (bindBank s d (bankOf (capture s false a)) (capture s true b)) := by
  have hcodes : firstCode [(badBank (capture s false a) || badRange (capture s true b), 1)] = none := by
    rw [hbank, hrange]
    rfl
  refine mtx_begun (exec_mxbind ..) ((engineCheck_passes hcodes).trans (if_neg ?_))
  rw [hclear, hrel]
  exact Bool.false_ne_true

theorem mxzero_begun (hrange : badRange (capture s true b) = false)
    (hbound : boundTo (bankAt s (here s) (bankOf (capture s false a))) s.cpu.live.tenant = true)
    (hrows : (bankAt s (here s) (bankOf (capture s false a))).rows &&&
        rowSet (rangeRow (capture s true b)) (rangeCount (capture s true b)) =
      rowSet (rangeRow (capture s true b)) (rangeCount (capture s true b))) :
    Begun mtxAttr false (.mxzero d a b) s
      (retire (accept (setG s d (BitVec.ofNat 64 (rangeCount (capture s true b)))) (bankOf (capture s false a))
        (.zero (rangeRow (capture s true b)) (rangeCount (capture s true b)) s.cpu.live.tself))) := by
  refine mtx_begun (exec_mxzero ..) (engineCheck_passes ?_)
  rw [hbank, hrange, hbound, hrows, bne_self_eq_false]
  rfl

theorem mxrel_bound (hbound : boundTo (bankAt s (here s) (bankOf (capture s false a))) s.cpu.live.tenant = true) :
    Begun mtxAttr false (.mxrel a) s (retire (accept s (bankOf (capture s false a)) .rel)) :=
  mtx_begun (exec_mxrel ..) ((engineCheck_passes (firstCode_cons hbank)).trans (if_pos hbound))

theorem mxrel_unbound (hbound : boundTo (bankAt s (here s) (bankOf (capture s false a))) s.cpu.live.tenant = false) :
    Begun mtxAttr false (.mxrel a) s (retire s) :=
  mtx_begun (exec_mxrel ..) ((engineCheck_passes (firstCode_cons hbank)).trans (if_neg (Bool.eq_false_iff.mp hbound)))

theorem mxqry_begun : Begun mtxAttr false (.mxqry d a) s (retire (setG s d
    (BitVec.ofNat 64 (bankStatus (bankAt s (here s) (bankOf (capture s false a))) s.cpu.live.tenant)))) :=
  mtx_begun (exec_mxqry ..) (engineCheck_passes (firstCode_cons hbank))

end

/-- Settles O28: MXBIND by owner and limit (`bindBank`), each other member past its one check. -/
theorem bankInstructions : Obligations.BankInstructions := by
  intro s d a b va vb n cl bk t set hbank
  refine ⟨fun hrange hclear hrel => ?_, fun hrange hbound hrows => mxzero_begun hbank hrange hbound hrows,
    fun hbound => mxrel_bound hbank hbound, fun hbound => mxrel_unbound hbank hbound, mxqry_begun hbank⟩
  have hbegun : Begun mtxAttr false (.mxbind d a b) s (bindBank s d n vb) := mxbind_begun hbank hrange hclear hrel
  exact ⟨fun hbinds => bindBank_binds hbinds ▸ hbegun, fun o howner hne => bindBank_taken howner hne ▸ hbegun,
    fun howner hlimit => bindBank_limited howner hlimit ▸ hbegun⟩

/-! Giving a bank jobs (R306 to R312, R320). -/

/-- The job of an MXLOAD, from its descriptor, with its token (R306, R308). -/
def loadJob (v : State) (i : Instr) (ws : List Word) (h : Word) : Job :=
  let last := (ws.getD 3 0).toNat
  .load (ws.getD 0 0).toNat (ws.getD 1 0).toNat (ws.getD 2 0).toNat (bits last 0 32) (bits last 32 8) (bits last 40 8)
    (bits last 48 16) h (envOf v i)

/-- An MXLOAD that is accepted: its format is the bank's latest, and its job joins the order (R306, R308, R313). -/
def loadAccepted (t : State) (i : Instr) (n : Fin 8) (ws : List Word) (h : Word) : State :=
  let v := modBank t (here t) n fun k => { k with latest := some (bits (ws.getD 3 0).toNat 32 8) }
  retire (accept v n (loadJob v i ws h))

/-- An MXSYNC that is accepted: it joins the bank's order when a job of its task is not covered yet, and else settles at
once (R320; log 96). -/
def syncAccepted (t : State) (n : Fin 8) (h : Word) : State :=
  let bk := bankAt t (here t) n
  let me := t.cpu.live.tself
  let mine := uncovered me bk.jobs
  if mine.1 then retire (accept t n (.sync h me))
  else
    let bad := !mine.2 && bk.failed.contains me
    let v := if bad then modBank t (here t) n fun k => { k with failed := k.failed.filter (· != me) } else t
    retire (settle v h bad (if bad then failCode 0x0A else 0))

theorem syncAccepted_queued {n : Fin 8} (hmine : (uncovered t.cpu.live.tself (bankAt t (here t) n).jobs).1 = true) :
    syncAccepted t n h = retire (accept t n (.sync h t.cpu.live.tself)) := if_pos hmine

theorem syncAccepted_settled {n : Fin 8} (hmine : (uncovered t.cpu.live.tself (bankAt t (here t) n).jobs).1 = false)
    (hfailed : (bankAt t (here t) n).failed = []) : syncAccepted t n h = retire (settle t h false 0) := by
  have hbad (x : Bool) : (!x && (bankAt t (here t) n).failed.contains t.cpu.live.tself) = false := by
    rw [hfailed, List.contains_nil, Bool.and_false]
  unfold syncAccepted
  simp only [hmine, hbad, Bool.false_eq_true, if_false]

section

variable (hbank : badBank (capture s false a) = false)

include hbank

theorem mxload_begun (halign : (capture s true b).toNat % 32 = 0)
    (hload : loadWords s (.mxload d a b) (capture s true b).toNat 4 = .ok ws u) (htile : badTile ws = false)
    (hbound : boundTo (bankAt u (here u) (bankOf (capture s false a))) u.cpu.live.tenant = true)
    (hacc : Accepts u 2 true d h t) : Begun mtxAttr false (.mxload d a b) s
      (loadAccepted t (.mxload d a b) (bankOf (capture s false a)) ws h) := by
  have hcodes : firstCode [(badBank (capture s false a) || badTile ws, 1),
      (!boundTo (bankAt u (here u) (bankOf (capture s false a))) u.cpu.live.tenant, 2)] = none := by
    rw [hbank, htile, hbound]
    rfl
  refine mtx_begun (exec_mxload ..) ((if_neg (by simp [halign])).trans ?_)
  rw [hload, Acc.done, tokenChecks_accepts hacc]
  exact (engineCheck_passes hcodes).trans (offer_accepts hacc)

theorem mxsync_begun (hbound : boundTo (bankAt s (here s) (bankOf (capture s false a))) s.cpu.live.tenant = true)
    (hacc : Accepts s 2 false d h t) :
    Begun mtxAttr false (.mxsync d a) s (syncAccepted t (bankOf (capture s false a)) h) := by
  have hcodes : firstCode [(badBank (capture s false a), 1),
      (!boundTo (bankAt s (here s) (bankOf (capture s false a))) s.cpu.live.tenant, 2)] = none := by
    rw [hbank, hbound]
    rfl
  refine mtx_begun (exec_mxsync ..) ?_
  dsimp only
  rw [tokenChecks_accepts hacc]
  exact (engineCheck_passes hcodes).trans (offer_accepts hacc)

end

theorem rowInstr_begun (he : exec i s = rowInstr i clear a b c s)
    (htag : (s.cpu.live.vec.regs.get c).tag = some ty) (hty : rowTag ty = true)
    (hfit : s.cpu.live.vec.vl * tyBits ty ≤ grantBits s)
    (hcodes : firstCode (rowCodes s (bankAt s (here s) (bankOf (capture s false a))) (capture s false a)
      (capture s true b) c ty) = none)
    (hroom : rowBuffers (bankAt s (here s) (bankOf (capture s false a))) < 4) :
    Begun mtxAttr true i s
      (retire (accept s (bankOf (capture s false a)) (rowJob s clear (capture s true b) c ty))) := by
  refine mtx_begun he ?_
  dsimp only
  rw [htag]
  dsimp only
  rw [hty, Bool.not_true, if_neg Bool.false_ne_true, if_neg (Nat.not_lt.mpr hfit), engineCheck_passes hcodes,
    if_neg (Nat.not_le.mpr hroom)]

/-- Settles O29: MXLOAD and MXSYNC with the token that they accept, MXROW and MXROWZ past the checks of `rowInstr`. -/
theorem bankJobs : Obligations.BankJobs := by
  intro s d a b c va vb n me bound hbank
  refine ⟨fun halign ws u h t hload htile hbound hacc => mxload_begun hbank halign hload htile hbound hacc,
    fun hbound h t hacc hmine htself => ?_, fun hbound h t hacc hmine hfailed htself => ?_,
    fun ty htag hty hfit hcodes hroom => ⟨rowInstr_begun (exec_mxrow ..) htag hty hfit hcodes hroom,
      rowInstr_begun (exec_mxrowz ..) htag hty hfit hcodes hroom⟩⟩
  · have hbegun : Begun mtxAttr false (.mxsync d a) s (syncAccepted t n h) := mxsync_begun hbank hbound hacc
    rw [← htself] at hmine ⊢
    exact syncAccepted_queued hmine ▸ hbegun
  · have hbegun : Begun mtxAttr false (.mxsync d a) s (syncAccepted t n h) := mxsync_begun hbank hbound hacc
    rw [← htself] at hmine
    exact syncAccepted_settled hmine hfailed ▸ hbegun

end Sys2Proof.Machine
end

section
/-!
PROOF. The CPY members (O27).
-/

namespace Sys2Proof.Machine

open Sys2Proof.Claims

variable {s s0 t : State} {i : Instr} {d a : Reg} {n kind : Nat} {mem : Bool} {h : Word} {desc : List Word} {job : Copy}
  {reserved : Bool}

/-! A core that joins the wait for an entry (R329): of the state only its cluster changes, and the cores before it in the
wait are the same. -/

@[simp] theorem joinFlue_cpu (s : State) : (joinFlue s).cpu = s.cpu := by
  unfold joinFlue
  split <;> rfl

theorem freeFrom_modCluster (m : Nat) (f : Cluster → Cluster) (fuel k : Nat) :
    freeFrom (modCluster s m f) fuel k = freeFrom s fuel k := by
  induction fuel generalizing k with
  | zero => rfl
  | succ fuel ih => exact if_congr Iff.rfl rfl (ih (k + 1))

theorem tokenSlot_modCluster (m : Nat) (f : Cluster → Cluster) : tokenSlot (modCluster s m f) = tokenSlot s :=
  if_congr Iff.rfl (freeFrom_modCluster ..) rfl

theorem tokenSlot_joinFlue (s : State) : tokenSlot (joinFlue s) = tokenSlot s := by
  unfold joinFlue
  split
  · rfl
  · exact tokenSlot_modCluster ..

/-- The elements before an element are the same when it is appended to a list that lacks it. -/
theorem takeWhile_ne_append_self {x : Nat} {l : List Nat} (hx : x ∉ l) :
    (l ++ [x]).takeWhile (· != x) = l.takeWhile (· != x) := by
  have hall : ∀ y ∈ l, (y != x) = true := fun y hy => bne_iff_ne.mpr fun heq => hx (heq ▸ hy)
  rw [List.takeWhile_append_of_pos hall, List.takeWhile_eq_self_iff.mpr hall]
  simp

theorem flueFull_joinFlue (s : State) : flueFull (joinFlue s) = flueFull s := by
  unfold joinFlue
  split
  case isTrue => rfl
  case isFalse hout =>
    have hbefore := takeWhile_ne_append_self (mt List.contains_iff_mem.mpr hout)
    have hhere (f : Cluster → Cluster) : here (modCluster s (here s) f) = here s := rfl
    refine decide_eq_decide.mpr ?_
    simp only [flueFree, hhere, clusterAt_modCluster, modCluster_cpu, hbefore]

/-! A job past its checks (R328 to R330). -/

theorem tokenChecks_passes {k : State → State} (hheld : s.cpu.live.held.length < 256) (hslot : tokenSlot s ≠ none) :
    tokenChecks s k = k s := by
  rw [tokenChecks, if_neg (Nat.not_le.mpr hheld), if_neg (by simpa using hslot)]

/-- A job that could have its token waits while its engine is full, whether it waited before or not (R329). -/
theorem offer_waits {k : Word → State → State} (hheld : s.cpu.live.held.length < 256) (hslot : tokenSlot s ≠ none) :
    offer s kind mem d true desc k = waitOffered s desc := by
  rw [offer]
  split
  · rfl
  · exact tokenChecks_passes hheld hslot

/-- It joins the wait for an entry first, and that leaves its cluster as full as it was (R329). -/
theorem flueOffer_waits (hfull : flueFull s = true) (hheld : s.cpu.live.held.length < 256) (hslot : tokenSlot s ≠ none) :
    flueOffer s i d desc job = waitOffered (joinFlue s) desc := by
  have hpassed : ((offered s).isSome || (decide (s.cpu.live.held.length < 256) && (tokenSlot s).isSome)) = true := by
    rw [decide_eq_true hheld, Option.isSome_iff_ne_none.mpr hslot, Bool.true_and, Bool.or_true]
  unfold flueOffer
  simp only [hpassed, hfull, Bool.true_and, if_true, flueFull_joinFlue]
  exact offer_waits (by rwa [joinFlue_cpu]) (by rwa [tokenSlot_joinFlue])

theorem flueOffer_accepts (hroom : flueFull s = false) (hacc : Accepts s 1 true d h t) :
    flueOffer s i d desc job = queuedCopy t i job h := by
  unfold flueOffer
  simp only [hroom, Bool.and_false, Bool.false_eq_true, if_false]
  exact offer_accepts hacc

theorem offers_of_flueOffer (he : exec i s0 = .next (flueOffer s i d desc job)) : Offers i s0 s d desc job :=
  ⟨fun hfull hheld hslot => he.trans (congrArg _ (flueOffer_waits hfull hheld hslot)),
    fun hroom _ _ hacc => he.trans (congrArg _ (flueOffer_accepts hroom hacc))⟩

/-! The ENGINE checks, and a descriptor that is read (R328, R329). -/

theorem engineCheck_raises {cs : List (Bool × Nat)} {k : State → State} (hcode : firstCode cs = some n) :
    engineCheck s cs k = takeTrap s 0x0A (BitVec.ofNat 64 n) := by
  rw [engineCheck, hcode]
  rfl

theorem copies_of_engineCheck (he : exec i s0 = .next (engineCheck s (copyCodes s.cpu.live.pin job reserved)
    fun u => flueOffer u i d desc job)) : Copies i s0 s d desc job reserved :=
  ⟨fun _ hcode => he.trans (congrArg _ (engineCheck_raises hcode)),
    fun hcode => offers_of_flueOffer (he.trans (congrArg _ (engineCheck_passes hcode)))⟩

theorem described_of_describedJob {job : List Word → Copy} {reserved : List Word → Bool}
    (he : exec i s = describedJob i d a n s job reserved) : Described i s d (reg s a).toNat n job reserved := by
  intro hruns
  rw [describedJob, issue_noPrefix hruns rfl, reg_eq] at he
  refine ⟨fun ws hoff => ?again, fun hoff halign => ?misaligned, fun hoff halign ws t hload => ?read⟩
  case again =>
    rw [hoff] at he
    exact offers_of_flueOffer he
  case misaligned =>
    rw [hoff] at he
    rw [he, BitVec.ofNat_toNat, BitVec.setWidth_eq]
    exact congrArg _ (if_pos (bne_iff_ne.mpr halign))
  case read =>
    rw [hoff] at he
    dsimp only at he
    rw [if_neg (by simp [halign]), hload] at he
    exact copies_of_engineCheck he

/-- Settles O27: CPY1D and CPFILL come to the ENGINE checks of their job, CPY2D and CPGATH to `describedJob`. -/
theorem copyRequests : Obligations.CopyRequests := by
  intro s d a b c va
  refine ⟨fun hruns => ?cpy1d, fun hruns => ?cpfill, described_of_describedJob (exec_cpy2d ..),
    described_of_describedJob (exec_cpgath ..), fun hruns => ?cpqry⟩
  case cpy1d => exact copies_of_engineCheck ((exec_cpy1d ..).trans (issue_noPrefix hruns rfl))
  case cpfill => exact copies_of_engineCheck ((exec_cpfill ..).trans (issue_noPrefix hruns rfl))
  case cpqry => exact (exec_cpqry ..).trans (issue_noPrefix hruns rfl)

end Sys2Proof.Machine
end

section
/-!
PROOF. The RMT members (O26).
-/

namespace Sys2Proof.Machine

open Sys2Proof.Claims

variable {s t : State} {i : Instr} {member : Fin 4} {d a b : Reg} {sz : Size} {h : Word}

/-- An address names a device of the pod (R345). -/
def NamesDevice (s : State) (v : Word) : Prop := v.toNat < 2 ^ 50 ∧ podDev v < s.ndev

theorem namesDevice_iff {v : Word} :
    NamesDevice s v ↔ (v.toNat / 2 ^ 50 != 0 || decide (s.ndev ≤ podDev v)) = false := by
  simp only [NamesDevice, Bool.or_eq_false_iff, bne_eq_false_iff_eq, decide_eq_false_iff_not, Nat.not_le,
    Nat.div_eq_zero_iff]
  omega

/-- The watchpoint that an RMT member matches, if any: one that has been offered before matches none again (R413). -/
def requestWatch (s : State) (member : Fin 4) (v : Word) (sz : Size) : Option (Fin 4) :=
  if (offered s).isSome then none else watchHit s (podLocal v) (sizeBytes sz) (member != 1) (member != 0)

theorem requestWatch_fresh {v : Word} (hoff : offered s = none) :
    requestWatch s member v sz = watchHit s (podLocal v) (sizeBytes sz) (member != 1) (member != 0) := by
  rw [requestWatch, hoff]
  rfl

theorem requestWatch_none {v : Word} (hnone : offered s ≠ none ∨
    watchHit s (podLocal v) (sizeBytes sz) (member != 1) (member != 0) = none) : requestWatch s member v sz = none :=
  ite_eq_left_iff.mpr fun hoff => hnone.resolve_left (hoff <| Option.isSome_iff_ne_none.mpr ·)

/-- An RMT member past its checks: it waits in its turn, or its request goes out (R348, R349). -/
def sendRequest (s : State) (i : Instr) (member : Fin 4) (d a b : Reg) (sz : Size) : State :=
  offer s 3 true d (64 ≤ remoteOut s s.cpu.id) [] fun h t =>
    retire { t with remotes := t.remotes ++
      [{ token := h, member := member, sz := sz, addr := reg s a, data := reg s b, env := envOf s i }] }

theorem sendRequest_waits (hfull : 64 ≤ remoteOut s s.cpu.id) (hheld : s.cpu.live.held.length < 256)
    (hslot : tokenSlot s ≠ none) : sendRequest s i member d a b sz = waitOffered s [] := by
  rw [sendRequest, decide_eq_true hfull]
  exact offer_waits hheld hslot

theorem sendRequest_accepts (hroom : remoteOut s s.cpu.id < 64) (hacc : Accepts s 3 true d h t) :
    sendRequest s i member d a b sz = retire { t with remotes := t.remotes ++
      [{ token := h, member := member, sz := sz, addr := reg s a, data := reg s b, env := envOf s i }] } := by
  rw [sendRequest, decide_eq_false (Nat.not_le.mpr hroom)]
  exact offer_accepts hacc

/-- An RMT member that issues, by its address, its alignment and its watchpoint (R345, R348, R349, R413). -/
theorem remote_runs (hruns : Runs (engineAttr 1) i s) : remote i member d a b sz s = .next (
    if (reg s a).toNat / 2 ^ 50 != 0 || decide (s.ndev ≤ podDev (reg s a)) then takeTrap s 0x0B (reg s a)
    else if podLocal (reg s a) % sizeBytes sz != 0 then takeTrap s 0x03 (reg s a)
    else match requestWatch s member (reg s a) sz with
      | some w => debugStop s 0x0E (BitVec.ofNat 64 (podLocal (reg s a))) w.val false true
      | none => sendRequest s i member d a b sz) :=
  issue_noPrefix hruns rfl

/-- What an RMT member does that issues: FABRIC, ALIGN or WATCH, and else it waits in its turn or sends its request
(R345, R348, R349, R413). -/
def Sends (i : Instr) (s : State) (member : Fin 4) (d a b : Reg) (sz : Size) : Prop :=
  let v := reg s a
  let whole := podLocal v % sizeBytes sz = 0
  let watch := watchHit s (podLocal v) (sizeBytes sz) (member != 1) (member != 0)
  (¬NamesDevice s v → exec i s = .next (takeTrap s 0x0B v)) ∧
  (NamesDevice s v → ¬whole → exec i s = .next (takeTrap s 0x03 v)) ∧
  (NamesDevice s v → whole → offered s = none → ∀ w, watch = some w →
    exec i s = .next (debugStop s 0x0E (BitVec.ofNat 64 (podLocal v)) w.val false true)) ∧
  (NamesDevice s v → whole → offered s ≠ none ∨ watch = none →
    (64 ≤ remoteOut s s.cpu.id → s.cpu.live.held.length < 256 → tokenSlot s ≠ none →
      exec i s = .next (waitOffered s [])) ∧
    (remoteOut s s.cpu.id < 64 → ∀ h t, Accepts s 3 true d h t → exec i s = .next (retire { t with
      remotes := t.remotes ++
        [{ token := h, member := member, sz := sz, addr := v, data := reg s b, env := envOf s i }] })))

theorem sends_of_remote (he : exec i s = remote i member d a b sz s) (hruns : Runs (engineAttr 1) i s) :
    Sends i s member d a b sz := by
  rw [remote_runs hruns] at he
  refine ⟨fun hgood => ?noDevice, fun hgood hwhole => ?misaligned, fun hgood hwhole hoff w hw => ?watched,
    fun hgood hwhole hnone => ?offered⟩
  case noDevice => rwa [if_pos (Bool.of_not_eq_false (mt namesDevice_iff.mpr hgood))] at he
  all_goals rw [namesDevice_iff.mp hgood, if_neg Bool.false_ne_true] at he
  case misaligned => rwa [if_pos (bne_iff_ne.mpr hwhole)] at he
  all_goals rw [if_neg (by simp [hwhole])] at he
  case watched => rwa [requestWatch_fresh hoff, hw] at he
  case offered =>
    rw [requestWatch_none hnone] at he
    exact ⟨fun hfull hheld hslot => he.trans (congrArg _ (sendRequest_waits hfull hheld hslot)),
      fun hroom h t hacc => he.trans (congrArg _ (sendRequest_accepts hroom hacc))⟩

/-- Settles O26: each member is a `remote`, with its accesses and its operand. -/
theorem remoteRequests : Obligations.RemoteRequests := by
  intro s d a b sz v good whole sends
  have hrld := sends_of_remote (exec_rld s d a sz)
  have hrst := sends_of_remote (exec_rst s d a b sz)
  have hradd := sends_of_remote (exec_radd s d a b sz)
  have hrswp := sends_of_remote (exec_rswp s d a b sz)
  exact ⟨hrld, hrst, hradd, hrswp⟩

end Sys2Proof.Machine
end

section
/-!
PROOF. The system calls, the stops of a core, and the maintenance of code, translations and L1 (O17).
-/

namespace Sys2Proof.Machine

open Sys2Proof.Claims

variable {s t u : State} {i : Instr} {a b : Reg} {n : Fin 64} {attr : Attr} {body : State → State}

/-- An instruction that takes no prefix leaves what its body leaves in the front. -/
theorem leaves_of_issue (he : exec i s = issue attr i s body) (hl : attr.lend = .refuse)
    (hb : s.cpu.lane = none → body s = t) : Leaves attr i s t :=
  fun hruns => he.trans ((issue_noPrefix hruns hl).trans (congrArg _ (hb hruns.front)))

theorem leaves_congr (h : Leaves attr i s t) (ht : t = u) : Leaves attr i s u := ht ▸ h

/-! TRAPS, BRK, HALT and WAITI (R376, R380, R416). -/

theorem traps_leaves : Leaves (sysAttr 0) (.traps n) s (takeTrap (advance s) 0x0F (BitVec.ofNat 64 n.val)) :=
  leaves_of_issue (exec_traps ..) rfl fun hl => by rw [advance_eq hl, trap]

theorem brk_leaves :
    Leaves (sysAttr 0) (.brk n) s (debugStop (advance s) 0x0C (BitVec.ofNat 64 n.val) 0 false false) :=
  leaves_of_issue (exec_brk ..) rfl fun hl => by rw [advance_eq hl]

theorem halt_leaves : Leaves (sysAttr 2) .halt s (modCpu (advance s) fun c => { c with halt := .halted }) :=
  leaves_of_issue (exec_halt ..) rfl fun hl => by rw [advance_eq hl]

/-- WAITI in a handler waits unless something wakes it already (R380; log 126). -/
theorem waiti_leaves (hh : inHandler s = true) : Leaves (sysAttr 0) .waiti s
    (if wakes s then advance s else modCpu (advance s) fun c => { c with halt := .waiti }) :=
  leaves_of_issue (exec_waiti ..) rfl fun hl => by rw [hh, Bool.not_true, if_neg Bool.false_ne_true, advance_eq hl]

theorem exec_waitiWake_wakes (hw : s.cpu.halt = .waiti) (hwakes : wakes s = true) :
    exec .waitiWake s = .next (modCpu s fun c => { c with halt := .running }) := by
  rw [exec_waitiWake, execWaitiWake, hw, hwakes]
  rfl

/-! CODESYNC (R381, R446). -/

/-- CODESYNC of a range that is not empty (R381, R446; log 81). -/
def codeSynced (s : State) (lo len : Nat) : State :=
  let segs := segmentsOf s lo len
  let u := writeBackIf s s.cpu.id fun l => !segs.isEmpty || inPieces (rangePieces s lo len) l
  retire (dropCode (dropMaps u (mapPieces u lo len segs)) lo len)

theorem codesync_leaves : Leaves (sysAttr 0) (.codesync a b) s
    (if (reg s b).toNat = 0 then advance s else codeSynced s (reg s a).toNat (reg s b).toNat) :=
  leaves_of_issue (exec_codesync ..) rfl fun hl => by rw [← advance_eq hl]; rfl

/-! TLBINV (R382). -/

/-- The stores that a TLBINV waits for, by the cores, their tasks and their queues (R275, R382; log 83). -/
theorem storesPending_iff {v : Word} : storesPending s v = true ↔
    ∃ n ∈ coreList s, ∃ c ∈ tasksOn (coreAt s n), ∃ h ∈ storesOf c, ∃ e, h.via = some e ∧ tlbMatch v e = true := by
  simp only [storesPending, namesStore, List.any_eq_true, Option.any_eq_true]

/-- A TLBINV by its reserved fields and by the stores that it waits for (R275, R382). -/
theorem tlbinv_leaves : Leaves (sysAttr 1) (.tlbinv a) s
    (if bits (reg s a).toNat 6 10 != 0 || bits (reg s a).toNat 52 12 != 0 then takeTrap s 0x0A (reg s a)
     else if storesPending s (reg s a) then waitHere s
     else retire (dropTlb s (tlbMatch (reg s a)))) :=
  leaves_of_issue (exec_tlbinv ..) rfl fun _ => rfl

theorem tlbinv_leaves_valid (h6 : bits (reg s a).toNat 6 10 = 0) (h52 : bits (reg s a).toNat 52 12 = 0) :
    Leaves (sysAttr 1) (.tlbinv a) s
      (if storesPending s (reg s a) then waitHere s else retire (dropTlb s (tlbMatch (reg s a)))) :=
  leaves_congr tlbinv_leaves (if_neg (by simp [h6, h52]))

theorem l1wb_leaves : Leaves (sysAttr 0) (.l1wb a b) s (retire (writeBackIf s s.cpu.id fun l =>
    (reg s b).toNat = 0 || inPieces (rangePieces s (reg s a).toNat (reg s b).toNat) l)) :=
  leaves_of_issue (exec_l1wb ..) rfl fun _ => rfl

/-- Settles O17: each instruction by its own lemma, with the case that its operands select. -/
theorem systemInstructions : Obligations.SystemInstructions := by
  intro s a b n lo len
  refine ⟨traps_leaves, brk_leaves, halt_leaves, fun hh hw => ?goes, fun hh hw => ?waits, exec_waitiWake_wakes,
    fun hlen => ?empty, fun hlen => ?range, fun h6 h52 => ⟨fun hp => ?drops, storesPending_iff, fun hp => ?held⟩,
    fun hres => ?reserved, l1wb_leaves⟩
  case goes => exact leaves_congr (waiti_leaves hh) (if_pos hw)
  case waits => exact leaves_congr (waiti_leaves hh) (if_neg (Bool.eq_false_iff.mp hw))
  case empty => exact leaves_congr codesync_leaves (if_pos hlen)
  case range => exact leaves_congr codesync_leaves (if_neg hlen)
  case drops => exact leaves_congr (tlbinv_leaves_valid h6 h52) (if_neg (Bool.eq_false_iff.mp hp))
  case held => exact leaves_congr (tlbinv_leaves_valid h6 h52) (if_pos hp)
  case reserved => exact leaves_congr tlbinv_leaves (if_pos (by simpa using hres))

end Sys2Proof.Machine
end

section
/-!
PROOF. The FAB members (O31).
-/

namespace Sys2Proof.Machine

open Sys2Proof.Claims

variable {s t u : State} {i : Instr} {d a b : Reg} {n : Nat} {g : Group} {v h : Word} {ws : List Word}

/-! Making a group (R354, R355). -/

/-- The group that FGRP makes, when nothing refuses it (R355). -/
theorem makeGroup_makes {tag : Word} {r : Nat} (hok : groupRefusals t tag ws = []) (hfree : freeGroup t = some n)
    (hrank : rankOf t (ws.map memberOf) = some r) : makeGroup t tag ws =
      (groupWord n (groupGenOf t n) r, { t with groups := Tab.put t.groups n (newGroup t tag ws r) }) := by
  simp only [makeGroup, hok, hfree, hrank, List.getElem?_nil]
  rfl

/-- Of several refusals that hold, FGRP answers one (R355; log 21). -/
theorem makeGroup_refuses {tag : Word} (hbad : groupRefusals t tag ws ≠ []) :
    ∃ c ∈ groupRefusals t tag ws, makeGroup t tag ws = (refusalWord c, t) := by
  have hlt := Nat.mod_lt (Config.pick t.tick 5) (List.length_pos_iff.mpr hbad)
  refine ⟨_, List.getElem_mem hlt, ?_⟩
  simp only [makeGroup, List.getElem?_eq_getElem hlt]

theorem fgrp_leaves_read {p : Nat} (halign : (reg s a).toNat % 8 = 0) (hp : (reg s b).toNat = p) (h1 : 1 ≤ p)
    (h2 : p ≤ 524288) (hload : loadWords s (.fgrp d a b) (reg s a).toNat (p + 1) = .ok ws t) :
    Leaves fabAttr (.fgrp d a b) s
      (retire (setG (makeGroup t (ws.headD 0) ws.tail).2 d (makeGroup t (ws.headD 0) ws.tail).1)) :=
  leaves_of_issue (exec_fgrp ..) rfl fun _ => by
    have hrange : (decide (p = 0) || decide (524288 < p)) = false := by
      rw [decide_eq_false (by omega), decide_eq_false (by omega)]
      rfl
    simp only [reg_eq, halign, hp, hrange, hload, Acc.done, bne_self_eq_false, Bool.false_eq_true, if_false]

theorem fgrp_leaves_count (halign : (reg s a).toNat % 8 = 0) (hp : (reg s b).toNat = 0 ∨ 524288 < (reg s b).toNat) :
    Leaves fabAttr (.fgrp d a b) s (retire (setG s d (refusalWord 5))) :=
  leaves_of_issue (exec_fgrp ..) rfl fun _ => by
    have hrange : (decide ((reg s b).toNat = 0) || decide (524288 < (reg s b).toNat)) = true := by
      simpa using hp
    simp only [reg_eq, halign, bne_self_eq_false, Bool.false_eq_true, if_false]
    exact if_pos hrange

/-! The group that a word names (R356). -/

theorem groupFor_eq_some : groupFor s v = some (n, g) ↔ n = bits v.toNat 0 8 ∧ s.groups.find n = some g ∧
    g.tenant = s.cpu.live.tenant ∧ bits v.toNat 8 8 = groupGenOf s n := by
  unfold groupFor
  cases hfind : s.groups.find (bits v.toNat 0 8) with
  | none =>
    refine ⟨fun h => by simp [hfind] at h, ?_⟩
    rintro ⟨rfl, hfind', -⟩
    cases hfind.symm.trans hfind'
  | some g' =>
    simp only [hfind, Bool.and_eq_true, decide_eq_true_eq, ite_eq_iff, Option.some.injEq, Prod.mk.injEq, reduceCtorEq]
    constructor
    · rintro (⟨hmine, rfl, rfl⟩ | ⟨-, ⟨⟩⟩)
      exact ⟨rfl, hfind, hmine⟩
    · rintro ⟨rfl, hfind', hmine⟩
      obtain rfl := Option.some.inj (hfind.symm.trans hfind')
      exact .inl ⟨hmine, rfl, rfl⟩

theorem leaveGroup_eq (hg : s.groups.find n = some g) : leaveGroup s n = failGroup (writeLate s g) n := by
  rw [leaveGroup, hg]

theorem fgqry_leaves (hg : groupFor s (reg s a) = some (n, g)) :
    Leaves fabAttr (.fgqry d a) s (retire (setG s d (BitVec.ofNat 64 (groupStatus g)))) :=
  leaves_of_issue (exec_fgqry ..) rfl fun _ => by simp only [reg_eq, hg]

/-- What a group's pending operations leave as FGFREE ends them (R356, R367). -/
def groupEmptied (s : State) (n : Nat) (g : Group) : State :=
  if g.bulk.isEmpty && g.urgent.isEmpty then s else failGroup (writeLate s g) n

theorem fgfree_leaves (hg : groupFor s (reg s a) = some (n, g)) : Leaves fabAttr (.fgfree a) s
    (retire { groupEmptied s n g with
      groups := Tab.drop (groupEmptied s n g).groups n,
      groupGen := Tab.put (groupEmptied s n g).groupGen n ((groupGenOf (groupEmptied s n g) n + 1) % 256) }) :=
  leaves_of_issue (exec_fgfree ..) rfl fun _ => by
    obtain ⟨-, hfind, -, -⟩ := groupFor_eq_some.mp hg
    simp only [reg_eq, hg, leaveGroup_eq hfind, groupEmptied]

theorem fgqry_leaves_fabric (hg : groupFor s (reg s a) = none) : Leaves fabAttr (.fgqry d a) s (takeTrap s 0x0B 2) :=
  leaves_of_issue (exec_fgqry ..) rfl fun _ => by simp only [reg_eq, hg, trap]

theorem fgfree_leaves_fabric (hg : groupFor s (reg s a) = none) : Leaves fabAttr (.fgfree a) s (takeTrap s 0x0B 2) :=
  leaves_of_issue (exec_fgfree ..) rfl fun _ => by simp only [reg_eq, hg, trap]

/-! Barriers and collectives that are accepted (R357, R359 to R361). -/

/-- The traps of an engine instruction that would have its token: one that has been offered before has passed them (R235,
R348). -/
theorem passed_tokenChecks (hheld : s.cpu.live.held.length < 256) (hslot : tokenSlot s ≠ none) (k : State → State) :
    (if (offered s).isSome then fun k => k s else tokenChecks s) k = k s := by
  split
  · rfl
  · exact tokenChecks_passes hheld hslot

theorem fbar_leaves (hheld : s.cpu.live.held.length < 256) (hslot : tokenSlot s ≠ none)
    (hg : groupFor s (reg s a) = some (n, g)) (hroom : bulkPending s < 64) (hacc : Accepts s 5 true d h t) :
    Leaves fabAttr (.fbar d a) s (retire (joinGroup t (.fbar d a) n false none h)) :=
  leaves_of_issue (exec_fbar ..) rfl fun _ => by
    rw [passed_tokenChecks hheld hslot, reg_eq, hg]
    simp only [decide_eq_false (Nat.not_le.mpr hroom)]
    exact offer_accepts hacc

/-- An operation of a collective's class has a place on the device (R359). -/
def HasPlace (s : State) (ws : List Word) : Prop :=
  if collFlags ws = 1 then urgentPending s < 16 else bulkPending s < 64

theorem offerColl_accepts (hroom : HasPlace s ws) (hacc : Accepts s 4 true d h t) :
    offerColl s i d ws n = retire (joinGroup t i n (collFlags ws = 1) (some (collOf ws)) h) := by
  have hfull : (if collFlags ws = 1 then decide (16 ≤ urgentPending s) else decide (64 ≤ bulkPending s)) = false := by
    unfold HasPlace at hroom
    split <;> simp_all
  unfold offerColl
  simp only [hfull]
  exact offer_accepts hacc

/-- FCOLL that goes on with its descriptor: one that has been offered before, or that passes the checks of R359. -/
theorem startColl_offers (hg : groupFor s (ws.getD 2 0) = some (n, g))
    (hgood : offered s ≠ none ∨
      (badColl ws g.members.length = false ∧ badBuffers (collOf ws) g.members.length = false)) :
    startColl s i d ws = offerColl s i d ws n := by
  rw [startColl, hg]
  refine ite_eq_left_iff.mpr fun hoff => ?_
  obtain ⟨hcoll, hbuffers⟩ := hgood.resolve_left (hoff <| Option.isSome_iff_ne_none.mpr ·)
  simp only [hcoll, hbuffers, Bool.false_eq_true, if_false]

theorem fcoll_leaves_again (hoff : offered s = some ws) (hg : groupFor s (ws.getD 2 0) = some (n, g))
    (hroom : HasPlace s ws) (hacc : Accepts s 4 true d h t) : Leaves fabAttr (.fcoll d a) s
      (retire (joinGroup t (.fcoll d a) n (collFlags ws = 1) (some (collOf ws)) h)) :=
  leaves_of_issue (exec_fcoll ..) rfl fun _ => by
    simp only [hoff]
    exact (startColl_offers hg (.inl (by simp [hoff]))).trans (offerColl_accepts hroom hacc)

theorem fcoll_leaves_read (hheld : s.cpu.live.held.length < 256) (hslot : tokenSlot s ≠ none) (hoff : offered s = none)
    (halign : (reg s a).toNat % 64 = 0) (hload : loadWords s (.fcoll d a) (reg s a).toNat 8 = .ok ws u)
    (hg : groupFor u (ws.getD 2 0) = some (n, g)) (hcoll : badColl ws g.members.length = false)
    (hbuffers : badBuffers (collOf ws) g.members.length = false) (hroom : HasPlace u ws)
    (hacc : Accepts u 4 true d h t) : Leaves fabAttr (.fcoll d a) s
      (retire (joinGroup t (.fcoll d a) n (collFlags ws = 1) (some (collOf ws)) h)) :=
  leaves_of_issue (exec_fcoll ..) rfl fun _ => by
    simp only [hoff, tokenChecks_passes hheld hslot, reg_eq, halign, hload, Acc.done, bne_self_eq_false,
      Bool.false_eq_true, if_false]
    exact (startColl_offers hg (.inr ⟨hcoll, hbuffers⟩)).trans (offerColl_accepts hroom hacc)

/-- Settles O31: each member by its own lemma, past its checks. -/
theorem groupInstructions : Obligations.GroupInstructions := by
  intro s d a b p
  refine ⟨fun halign h1 h2 ws t hload => ⟨fun n r hok hfree hrank => ?makes, fun hbad => ?refuses⟩,
    fun halign hp => fgrp_leaves_count halign hp, fun n g => groupFor_eq_some,
    fun n g hg => ⟨fgqry_leaves hg, fgfree_leaves hg⟩,
    fun hg => ⟨fgqry_leaves_fabric hg, fgfree_leaves_fabric hg⟩,
    fun hheld hslot => ⟨fun n g h t hg hroom hacc => fbar_leaves hheld hslot hg hroom hacc,
      fun ws hoff n g h t hg hroom hacc => fcoll_leaves_again hoff hg hroom hacc,
      fun hoff halign ws u hload n g h t hg hcoll hbuffers hroom hacc =>
        fcoll_leaves_read hheld hslot hoff halign hload hg hcoll hbuffers hroom hacc⟩⟩
  case makes =>
    refine leaves_congr (fgrp_leaves_read halign rfl h1 h2 hload) ?_
    rw [makeGroup_makes hok hfree hrank]
  case refuses =>
    obtain ⟨c, hc, hmake⟩ := makeGroup_refuses hbad
    refine ⟨c, hc, leaves_congr (fgrp_leaves_read halign rfl h1 h2 hload) ?_⟩
    rw [hmake]
    rfl

end Sys2Proof.Machine
end

section
/-!
PROOF. Taking a trap or an interrupt (O13).
-/

namespace Sys2Proof.Machine

open Sys2Proof.Claims

variable {s : State} {cause : Nat} {tval : Word}

/-! Memory at its home has nothing to do with the cores and the clusters (R189, R191). -/

/-- A state with another core's turn and other clusters. -/
def withCores (s : State) (c : Core) (cl : Tab Cluster) : State := { s with cpu := c, clusters := cl }

theorem touchLine_withCores (c : Core) (cl : Tab Cluster) (k : Fin 64) (line : Nat) :
    touchLine (withCores s c cl) k line = withCores (touchLine s k line) c cl := by
  have hkey : keyOf (withCores s c cl) line = keyOf s line := rfl
  have hkeys : (withCores s c cl).keys = s.keys := rfl
  unfold touchLine
  dsimp only
  rw [hkey, hkeys]
  split
  case isTrue h => simp only [withCores]
  case isFalse h => rfl

theorem writePhys_withCores (c : Core) (cl : Tab Cluster) (k : Fin 64) (pa : Nat) (bs : List Byte) :
    writePhys (withCores s c cl) k pa bs = withCores (writePhys s k pa bs) c cl := by
  have htouch : touch (withCores s c cl) k pa bs.length = withCores (touch s k pa bs.length) c cl :=
    (List.foldl_hom (withCores · c cl) fun t l => touchLine_withCores c cl k l)
  unfold writePhys
  rw [htouch]
  rfl

theorem withCores_unwait (s : State) (f : Core → Core) :
    modCpu (unwait s) f = withCores s (f s.cpu) (unwait s).clusters := by
  unfold unwait
  dsimp only
  split <;> rfl

/-! A trace record (R417): of the core only `trhead` and OVF of `dstat` change. -/

/-- The bytes of a trace record (R417). -/
def traceBytes (s : State) (kind cause : Nat) (h v : Word) : List Byte :=
  toBytes 1 kind ++ toBytes 1 cause ++ toBytes 2 s.cpu.id ++ toBytes 4 0 ++ toBytes 8 s.devtime.toNat ++
    toBytes 8 h.toNat ++ toBytes 8 v.toNat

theorem traceRec_mem_eq (s : State) (kind : Nat) (h v : Word) : (traceRec s kind cause h v).mem =
    if s.cpu.dctl.getLsbD 3 then
      (writePhys s 0 (s.cpu.trbase + s.cpu.trhead.toNat % 2 ^ s.cpu.trlog * 32) (traceBytes s kind cause h v)).mem
    else s.mem := by
  unfold traceRec
  dsimp only
  split <;> rfl

/-- A core that differs in its trace registers at most. -/
def SameButTrace (c k : Core) : Prop := k = { c with trhead := k.trhead, dstat := k.dstat }

theorem traceRec_cpu (s : State) (kind : Nat) (h v : Word) : SameButTrace s.cpu (traceRec s kind cause h v).cpu := by
  unfold traceRec
  dsimp only
  split
  · rw [modCpu_cpu, (writePhys_sameButMemory ..).cpu_eq]
    rfl
  · rfl

theorem traceRec_clusters (s : State) (kind : Nat) (h v : Word) : (traceRec s kind cause h v).clusters = s.clusters := by
  unfold traceRec
  dsimp only
  split
  · exact (writePhys_sameButMemory ..).clusters_eq
  · rfl

theorem SameButMemory.futs_eq {s t : State} (h : SameButMemory s t) : t.futs = s.futs := by rw [h]

theorem traceRec_futs (s : State) (kind : Nat) (h v : Word) : (traceRec s kind cause h v).futs = s.futs := by
  unfold traceRec
  dsimp only
  split
  · exact (writePhys_sameButMemory ..).futs_eq
  · rfl

/-! What a trap leaves (R374 to R377). -/

/-- The interrupted task's handle, and where the context resumes, its commit pointer and its level: none on an idle core
(R374, R417; log 73). -/
def trapHandle (s : State) : Word := if s.cpu.who = .task then s.cpu.live.tself else 0
def trapPc (s : State) : Word := if s.cpu.who = .idle then 0 else s.cpu.live.pc
def trapCommit (s : State) : Word := if s.cpu.who = .idle then 0 else commitPc s.cpu.live
def trapFrom (s : State) : BitVec 2 := if s.cpu.who = .idle then 0 else s.cpu.priv

/-- The state in which a trap has written its trace record (R417). -/
def trapTraced (s : State) (cause : Nat) : State :=
  traceRec (modCpu (unwait s) fun c => { c with lane := none, stall := none }) 4 cause (trapHandle s) (trapPc s)

theorem trapTraced_mem : (trapTraced s cause).mem =
    if s.cpu.dctl.getLsbD 3 then
      (writePhys s 0 (s.cpu.trbase + s.cpu.trhead.toNat % 2 ^ s.cpu.trlog * 32)
        (traceBytes s 4 cause (trapHandle s) (trapPc s))).mem
    else s.mem := by
  unfold trapTraced
  rw [traceRec_mem_eq, withCores_unwait, writePhys_withCores]
  rfl

theorem trapTraced_cpu : SameButTrace { s.cpu with lane := none, stall := none } (trapTraced s cause).cpu := by
  unfold trapTraced
  rw [withCores_unwait]
  exact traceRec_cpu ..

theorem trapTraced_clusters : (trapTraced s cause).clusters = (unwait s).clusters := traceRec_clusters ..

theorem trapTraced_futs : (trapTraced s cause).futs = s.futs := by
  unfold trapTraced
  rw [withCores_unwait]
  exact traceRec_futs ..

theorem toFirmware_trapTraced : toFirmware (trapTraced s cause) cause = toFirmware s cause := by
  unfold toFirmware
  rw [trapTraced_cpu]

theorem groupCount_trapTraced (n : Nat) : groupCount (trapTraced s cause) n = groupCount s n := by
  refine Eq.trans ?_ (groupCount_unwait s n)
  unfold groupCount gmap clusterAt
  rw [trapTraced_clusters]

theorem savedCtx_trapTraced (c : Ctx) : savedCtx (trapTraced s cause) c = savedCtx s c := by
  have hid : (trapTraced s cause).cpu.id = s.cpu.id := by rw [trapTraced_cpu]
  unfold savedCtx
  rw [hid, groupCount_trapTraced]

/-- The core of a trap from a context other than the firmware handler's, from the core as the trace record left it. -/
def trapCore (s : State) (cause : Nat) (tval : Word) (k : Core) : Core :=
  let fwd := toFirmware s cause
  let idle := s.cpu.who = .idle
  let vec := if fwd then k.fvec else k.tvec
  let h := enterHandler (if fwd then k.fw else k.sys) cause tval (trapPc s) (trapCommit s)
    (if idle then 0 else k.priv) (s.cpu.who = .sys) idle (vec &&& ~~~0x3F)
  { k with
    sys := if fwd then (if s.cpu.who = .sys then { k.sys with ctx := s.cpu.live } else k.sys) else h
    fw := if fwd then h else k.fw
    trapped := if s.cpu.who = .task then some (savedCtx s s.cpu.live) else if idle then none else k.trapped
    trapPoison := if s.cpu.who = .task || idle then false else k.trapPoison
    writers := []
    passed := none
    who := if fwd then .fw else .sys
    priv := if fwd then 2 else 1
    live := h.ctx }

/-- A trap after its trace record: fatal in the firmware handler, and else an entry, for which a task gives its grant
back (R374 to R377). -/
theorem takeTrap_eq : takeTrap s cause tval =
    if s.cpu.who = .fw then goFatal (trapTraced s cause) 1 (trapPc s)
    else
      modCpu (if s.cpu.who = .task then bump (setGrant (trapTraced s cause) s.cpu.id 0) 4 else trapTraced s cause)
        (trapCore s cause tval) := by
  have htraced : traceRec (modCpu (unwait s) fun c => { c with lane := none, stall := none }) 4 cause (trapHandle s)
    (trapPc s) = trapTraced s cause := rfl
  unfold takeTrap
  dsimp only
  rw [modCpu_cpu, unwait_cpu]
  dsimp only
  rw [← trapHandle, ← trapPc, htraced, toFirmware_trapTraced, savedCtx_trapTraced]
  rfl

theorem takeTrap_enters (hw : s.cpu.who ≠ .fw) : takeTrap s cause tval =
    modCpu (if s.cpu.who = .task then bump (setGrant (trapTraced s cause) s.cpu.id 0) 4 else trapTraced s cause)
      (trapCore s cause tval) := takeTrap_eq.trans (if_neg hw)

/-- A core that differs from another neither in its handlers nor in its trap save store, its level and its vectors. -/
structure SameContexts (c k : Core) : Prop where
  id : k.id = c.id
  sys : k.sys = c.sys
  fw : k.fw = c.fw
  trapped : k.trapped = c.trapped
  priv : k.priv = c.priv
  tvec : k.tvec = c.tvec
  fvec : k.fvec = c.fvec

theorem sameContexts_trapTraced : SameContexts s.cpu (trapTraced s cause).cpu := by
  rw [trapTraced_cpu]
  constructor <;> rfl

/-- The core that a trap leaves, from one that differs in no context (R374 to R377). -/
theorem takeTrap_cpu (hw : s.cpu.who ≠ .fw) :
    ∃ k, SameContexts s.cpu k ∧ (takeTrap s cause tval).cpu = trapCore s cause tval k := by
  rw [takeTrap_enters hw, modCpu_cpu]
  split
  · obtain ⟨hid, hsys, hfw, htrapped, hpriv, htvec, hfvec⟩ := sameContexts_trapTraced (s := s) (cause := cause)
    exact ⟨(bump (setGrant (trapTraced s cause) s.cpu.id 0) 4).cpu,
      ⟨hid, hsys, hfw, htrapped, hpriv, htvec, hfvec⟩, rfl⟩
  · exact ⟨(trapTraced s cause).cpu, sameContexts_trapTraced, rfl⟩

theorem takeTrap_futs (hw : s.cpu.who ≠ .fw) : (takeTrap s cause tval).futs = s.futs := by
  rw [takeTrap_enters hw, modCpu_futs]
  split <;> exact trapTraced_futs

theorem takeTrap_mem (hw : s.cpu.who ≠ .fw) : (takeTrap s cause tval).mem = (trapTraced s cause).mem := by
  rw [takeTrap_enters hw, modCpu_mem]
  split <;> rfl

/-- A task that traps gives its grant back (R130, R374). -/
theorem groupCount_takeTrap (hw : s.cpu.who = .task) : groupCount (takeTrap s cause tval) s.cpu.id = 0 := by
  have hgrants : gmap (takeTrap s cause tval) s.cpu.id = 0 := by
    rw [takeTrap_enters (by simp [hw]), if_pos hw]
    exact gmap_setGrant ..
  rw [groupCount, hgrants]
  rfl

theorem takeTrap_fw_fatal (hw : s.cpu.who = .fw) : (takeTrap s cause tval).fatal = true := by
  rw [takeTrap_eq, if_pos hw]
  rfl

/-- The trap registers as an entry leaves them (R371, R374). -/
theorem entered_enterHandler (h : Handler) (tepc tevc vec : Word) (tpriv : BitVec 2) (nest idle : Bool) :
    Entered (enterHandler h cause tval tepc tevc tpriv nest idle vec) cause tval tepc tevc tpriv nest idle where
  cause := by unfold enterHandler causeBits; split <;> rfl
  value := rfl
  pc := rfl
  commit := rfl
  from_ := rfl
  nest := rfl
  idle := rfl
  act := rfl

theorem toFirmware_iff : toFirmware s cause = true ↔
    cause = 0x23 ∨ s.cpu.who = .sys ∨ (s.cpu.who = .task ∧ s.cpu.live.priv = 1 ∧ (cause = 4 ∨ cause = 5)) := by
  simp [toFirmware, and_assoc, or_assoc]

/-- A trap that the system handler takes (R374, R375). -/
theorem takeTrap_toSystem (hw : s.cpu.who ≠ .fw) (hf : toFirmware s cause = false) :
    let t := takeTrap s cause tval
    t.cpu.who = .sys ∧ t.cpu.priv = 1 ∧ t.cpu.fw = s.cpu.fw ∧
      Entered t.cpu.sys cause tval (trapPc s) (trapCommit s) (trapFrom s) (s.cpu.who = .sys) (s.cpu.who = .idle) ∧
      t.cpu.live = startsAt s.cpu.sys s.cpu.tvec := by
  obtain ⟨k, ⟨hid, hsys, hfw, htrapped, hpriv, htvec, hfvec⟩, ht⟩ := takeTrap_cpu (cause := cause) (tval := tval) hw
  dsimp only
  rw [ht]
  simp only [trapCore, hf, hsys, hfw, hpriv, htvec, Bool.false_eq_true, if_false, true_and]
  exact ⟨entered_enterHandler .., rfl⟩

/-- A trap that the firmware handler takes: one from the system handler leaves that handler's context as it stood (R374,
R375, R377). -/
theorem takeTrap_toFirmware (hw : s.cpu.who ≠ .fw) (hf : toFirmware s cause = true) :
    let t := takeTrap s cause tval
    t.cpu.who = .fw ∧ t.cpu.priv = 2 ∧
      t.cpu.sys = (if s.cpu.who = .sys then { s.cpu.sys with ctx := s.cpu.live } else s.cpu.sys) ∧
      Entered t.cpu.fw cause tval (trapPc s) (trapCommit s) (trapFrom s) (s.cpu.who = .sys) (s.cpu.who = .idle) ∧
      t.cpu.live = startsAt s.cpu.fw s.cpu.fvec := by
  obtain ⟨k, ⟨hid, hsys, hfw, htrapped, hpriv, htvec, hfvec⟩, ht⟩ := takeTrap_cpu (cause := cause) (tval := tval) hw
  dsimp only
  rw [ht]
  simp only [trapCore, hf, hsys, hfw, hpriv, hfvec, if_true, true_and]
  exact ⟨entered_enterHandler .., rfl⟩

/-- The trap save store after a trap: the task that trapped, none on an idle core, and else as it stood (R374, R376). -/
theorem takeTrap_trapped (hw : s.cpu.who ≠ .fw) : (takeTrap s cause tval).cpu.trapped =
    if s.cpu.who = .task then some (savedCtx s s.cpu.live) else if s.cpu.who = .idle then none else s.cpu.trapped := by
  obtain ⟨k, ⟨hid, hsys, hfw, htrapped, hpriv, htvec, hfvec⟩, ht⟩ := takeTrap_cpu (cause := cause) (tval := tval) hw
  rw [ht]
  simp only [trapCore, htrapped]

theorem taskSaved_takeTrap (hw : s.cpu.who = .task) : TaskSaved s (takeTrap s cause tval) := by
  have hnfw : s.cpu.who ≠ .fw := by simp [hw]
  obtain ⟨k, ⟨hid, hsys, hfw, htrapped, hpriv, htvec, hfvec⟩, ht⟩ := takeTrap_cpu (cause := cause) (tval := tval) hnfw
  have hcore : (takeTrap s cause tval).cpu.id = s.cpu.id := ht ▸ hid
  refine ⟨?_, hcore ▸ groupCount_takeTrap hw⟩
  rw [takeTrap_trapped hnfw, if_pos hw]
  rfl

/-! The vector registers of a forced save (R130). -/

section

variable {v : VecState} {r : Reg}

theorem keepForced_untagged (h : (v.regs.get r).tag = none) :
    (keepForced v).regs.get r = { tag := none, img := 0 } := by
  rw [Vector.get_eq_getElem] at h ⊢
  simp [keepForced, h, Vector.get_eq_getElem]

/-- A vector register with a tag keeps its tag and the elements below `vl` (R130). -/
theorem get_regs_keepForced {ty : Ty} (h : (v.regs.get r).tag = some ty) : (keepForced v).regs.get r =
    { tag := some ty, img := BitVec.ofNat 16384 ((v.regs.get r).img.toNat % 2 ^ (v.vl * tyBits ty)) } := by
  rw [Vector.get_eq_getElem] at h ⊢
  simp [keepForced, h, Vector.get_eq_getElem]

theorem getLsbD_ofNat_mod {m : Nat} (x : BitVec m) (n i : Nat) :
    (BitVec.ofNat m (x.toNat % 2 ^ n)).getLsbD i = (x.getLsbD i && decide (i < n)) := by
  have hlow : x.getLsbD i = true → i < m := BitVec.lt_of_getLsbD
  rw [BitVec.getLsbD_ofNat, Nat.testBit_mod_two_pow, BitVec.testBit_toNat]
  cases hx : x.getLsbD i <;> simp_all

theorem keepForced_tagged {ty : Ty} (h : (v.regs.get r).tag = some ty) :
    ((keepForced v).regs.get r).tag = some ty ∧ ∀ i, ((keepForced v).regs.get r).img.getLsbD i =
      ((v.regs.get r).img.getLsbD i && decide (i < v.vl * tyBits ty)) := by
  rw [get_regs_keepForced h]
  exact ⟨rfl, getLsbD_ofNat_mod _ _⟩

end

/-- Settles O13: the core that a trap leaves is `trapCore` of one with the same contexts (`takeTrap_cpu`), memory differs
by the trace record (`trapTraced_mem`), and a task's registers are saved as `keepForced` has it. -/
theorem trapEntry : Obligations.TrapEntry := by
  refine ⟨?entry, fun v r => ⟨keepForced_untagged, fun ty => keepForced_tagged, rfl⟩⟩
  intro s cause tval t handle tepc
  refine ⟨toFirmware_iff, fun hw => ⟨takeTrap_futs hw, (takeTrap_mem hw).trans trapTraced_mem⟩, fun hw hf => ?task,
    fun hw hf => ?taskFirmware, fun hw => ?sys, fun hw => ?idle, takeTrap_fw_fatal⟩
  case task =>
    obtain ⟨hwho, hpriv, hfw, hsys, hlive⟩ := takeTrap_toSystem (tval := tval) (show s.cpu.who ≠ .fw by simp [hw]) hf
    simp only [trapPc, trapCommit, trapFrom, hw, reduceCtorEq, if_false, decide_false] at hsys
    exact ⟨hwho, hpriv, hfw, taskSaved_takeTrap hw, hsys, hlive⟩
  case taskFirmware =>
    obtain ⟨hwho, hpriv, hsys, hfw, hlive⟩ := takeTrap_toFirmware (tval := tval) (show s.cpu.who ≠ .fw by simp [hw]) hf
    simp only [trapPc, trapCommit, trapFrom, hw, reduceCtorEq, if_false, decide_false] at hsys hfw
    exact ⟨hwho, hpriv, hsys, taskSaved_takeTrap hw, hfw, hlive⟩
  case sys =>
    have hnfw : s.cpu.who ≠ .fw := by simp [hw]
    obtain ⟨hwho, hpriv, hsys, hfw, hlive⟩ := takeTrap_toFirmware (tval := tval) hnfw (toFirmware_iff.mpr (.inr (.inl hw)))
    simp only [trapPc, trapCommit, trapFrom, hw, reduceCtorEq, if_false, decide_false, if_true, decide_true] at hsys hfw
    have htrapped := takeTrap_trapped (cause := cause) (tval := tval) hnfw
    simp only [hw, reduceCtorEq, if_false] at htrapped
    exact ⟨hwho, hpriv, hsys, htrapped, hfw, hlive⟩
  case idle =>
    have hnfw : s.cpu.who ≠ .fw := by simp [hw]
    have htrapped := takeTrap_trapped (cause := cause) (tval := tval) hnfw
    simp only [hw, reduceCtorEq, if_false, if_true] at htrapped
    refine ⟨htrapped, ?_⟩
    split
    case isTrue hf =>
      obtain ⟨hwho, hpriv, hsys, hfw, hlive⟩ := takeTrap_toFirmware (tval := tval) hnfw hf
      simp only [trapPc, trapCommit, trapFrom, hw, reduceCtorEq, if_false, decide_false, if_true, decide_true] at hsys hfw
      exact ⟨hwho, hpriv, hsys, hfw, hlive⟩
    case isFalse hf =>
      obtain ⟨hwho, hpriv, hfw, hsys, hlive⟩ := takeTrap_toSystem (tval := tval) hnfw (Bool.of_not_eq_true hf)
      simp only [trapPc, trapCommit, trapFrom, hw, reduceCtorEq, decide_false, if_true, decide_true] at hsys
      exact ⟨hwho, hpriv, hfw, hsys, hlive⟩

end Sys2Proof.Machine
end

section
/-!
PROOF. The Spedy port (O53).
-/

namespace Sys2Proof.Machine

open Sys2Proof.Claims

variable {s t : State} {core : Fin 768} {fail : Bool} {r : Spr} {v : Word} {pa : BitVec 40} {count : Nat} {bs : List Byte}
  {key : Fin 64} {n : BitVec 32} {f : State → State} {x : Ctx}

theorem withPort_ok (h : s.debugOk = true) : withPort s f = .next (f s) := congrArg _ (if_pos h)

theorem withPort_closed (h : s.debugOk = false) : withPort s f = .next s := congrArg _ (if_neg (Bool.eq_false_iff.mp h))

/-! Halted cores (R427). -/

section

variable (hok : s.debugOk = true) (hhalt : isHalted (coreAt s core.val) = true)

include hok hhalt

theorem exec_rdspr_halted : exec (.rdspr core r) s = .next (onCore s core.val fun t =>
    afterRead { t with answer := toBytes 8 (readSpr t r).toNat } r) := by
  rw [exec_rdspr, execRdspr, withPort_ok hok, if_pos hhalt]

theorem exec_wrspr_halted : exec (.wrspr core r v) s = .next (onCore s core.val fun t => writeSpr t r v) := by
  rw [exec_wrspr, execWrspr, withPort_ok hok, if_pos hhalt]

omit hok hhalt in
theorem tself_markOnce (one : Bool) (c : Ctx) : (markOnce one c).tself = c.tself := by
  unfold markOnce
  split
  · rfl
  · split <;> rfl

omit hhalt in
/-- RDCTX of a core on which a context stands halted (R416, R427). -/
theorem exec_rdctx_of_haltedCtx (hx : haltedCtx (coreAt s core.val) = some x) : exec (.rdctx core) s =
    .next { s with answer := toBytes 8 x.tself.toNat ++ recImage (trappedRec s x x.pc) } := by
  rw [exec_rdctx, execRdctx, withPort_ok hok]
  have hself : (trappedRec s x x.pc).ctx.tself = x.tself := tself_markOnce ..
  simp only [hx, ctxAnswer, hself]

omit hok in
theorem haltedCtx_idle (hidle : (coreAt s core.val).who = .idle) :
    haltedCtx (coreAt s core.val) = (coreAt s core.val).trapped := by
  rw [haltedCtx, hhalt, Bool.not_true, if_neg Bool.false_ne_true, if_pos hidle]

omit hok in
theorem haltedCtx_running (hidle : (coreAt s core.val).who ≠ .idle) :
    haltedCtx (coreAt s core.val) = some (coreAt s core.val).live := by
  rw [haltedCtx, hhalt, Bool.not_true, if_neg Bool.false_ne_true, if_neg hidle]

end

/-! Physical reads (R428): HBM below its end, and the TCMs and CSPs above it. -/

theorem inSram_bounds {a : Nat} (h : inSram a = true) : hbmEnd ≤ a ∧ a < ctlBase := by
  simp only [inSram, Bool.or_eq_true, Bool.and_eq_true, decide_eq_true_eq] at h
  unfold tcmBase cspBase at h
  unfold hbmEnd ctlBase
  omega

theorem length_memTake (m : List Host.Cell) (a n : Nat) : (memTake m a n).length = n := by simp [memTake]

theorem length_physRead (sram : Bool) (a n : Nat) : (physRead sram s key a n).1.length = n := by
  unfold physRead
  split
  · exact length_toBytes ..
  · simp [readPhys, length_memTake, span]

/-- Above the end of HBM a read of the TCMs and the CSPs gives their bytes as they stand. -/
theorem physRead_sram {a i : Nat} (ha : hbmEnd ≤ a) (hi : i < count) (hs : inSram (a + i) = true) :
    (physRead true s key a count).1.getD i 0 = memGet s.mem (a + i) := by
  obtain ⟨-, hctl⟩ := inSram_bounds hs
  have hnone : min count (hbmEnd - a) = 0 := by omega
  unfold physRead
  rw [if_neg (by simp; omega), hnone]
  simp [readPhys, memTake, touch, span, hi, hs]

/-- The bytes that RDPA answers (R428). -/
def peeked (s : State) (key : Fin 64) (a count : Nat) : List Byte :=
  let h := min count (hbmEnd - a)
  ((List.range h).map fun i => peekByte s key (a + i)) ++ (physRead true s key (a + h) (count - h)).1

theorem length_peeked (a : Nat) : (peeked s key a count).length = count := by
  simp [peeked, length_physRead]

theorem peeked_hbm {a i : Nat} (hi : i < count) (ha : a + i < hbmEnd) :
    (peeked s key a count).getD i 0 = peekByte s key (a + i) := by
  have hlow : i < min count (hbmEnd - a) := by omega
  unfold peeked
  rw [List.getD_append _ _ _ _ (by simpa using hlow)]
  simp [hlow]

theorem peeked_sram {a i : Nat} (hi : i < count) (hs : inSram (a + i) = true) :
    (peeked s key a count).getD i 0 = memGet s.mem (a + i) := by
  obtain ⟨hhbm, -⟩ := inSram_bounds hs
  have hhigh : min count (hbmEnd - a) ≤ i := by omega
  have hread := physRead_sram (s := s) (key := key) (a := a + min count (hbmEnd - a))
    (count := count - min count (hbmEnd - a)) (i := i - min count (hbmEnd - a)) (by omega) (by omega)
  rw [show a + min count (hbmEnd - a) + (i - min count (hbmEnd - a)) = a + i by omega] at hread
  unfold peeked
  rw [List.getD_append_right _ _ _ _ (by simpa using hhigh)]
  simpa using hread hs

/-! Physical writes (R428). -/

@[simp] theorem touch_zero (s : State) (k : Fin 64) (a : Nat) : touch s k a 0 = s := by simp [touch, span]

@[simp] theorem writePhys_nil (s : State) (k : Fin 64) (a : Nat) : writePhys s k a [] = s := by
  simp [writePhys, memPut, unpoison]

/-- A byte written to a TCM or a CSP; at another address nothing is (R190, R428). -/
def putSram (s : State) (p : Nat × Byte) : State :=
  if inSram p.1 then { s with mem := memPut s.mem p.1 [p.2], poison := unpoison s.poison p.1 1 } else s

theorem putSram_cpu (p : Nat × Byte) : (putSram s p).cpu = s.cpu := by
  unfold putSram
  split <;> rfl

theorem putSram_wf (p : Nat × Byte) (hs : s.memOk) : (putSram s p).memOk := by
  unfold putSram
  split
  · exact memPut_wf _ _ hs
  · exact hs

theorem memGet_putSram_other {a : Nat} {p : Nat × Byte} (hs : s.memOk) (ha : a ≠ p.1) :
    memGet (putSram s p).mem a = memGet s.mem a := by
  unfold putSram
  split
  · exact memGet_memPut_outside hs (by simp; omega)
  · rfl

theorem memGet_putSram_same {p : Nat × Byte} (hs : s.memOk) (hp : inSram p.1 = true) :
    memGet (putSram s p).mem p.1 = p.2 := by
  rw [putSram, if_pos hp]
  simp [memGet_memPut _ _ _ hs]

theorem memGet_putSrams_other {a : Nat} {ps : List (Nat × Byte)} (hs : s.memOk) (ha : ∀ p ∈ ps, a ≠ p.1) :
    memGet (ps.foldl putSram s).mem a = memGet s.mem a := by
  induction ps generalizing s with
  | nil => rfl
  | cons p ps ih =>
    exact (ih (putSram_wf p hs) fun q hq => ha q (List.mem_cons_of_mem _ hq)).trans
      (memGet_putSram_other hs (ha p List.mem_cons_self))

/-- Bytes with the consecutive addresses that they go to. -/
def addressed (a : Nat) (bs : List Byte) : List (Nat × Byte) := ((List.range bs.length).map (a + ·)).zip bs

theorem addressed_cons (a : Nat) (b : Byte) (bs : List Byte) :
    addressed a (b :: bs) = (a, b) :: addressed (a + 1) bs := by
  simp only [addressed, List.length_cons, List.range_succ_eq_map, List.map_cons, List.map_map, List.zip_cons_cons]
  congr 2
  refine List.map_congr_left fun i _ => ?_
  simp only [Function.comp_apply]
  omega

theorem le_of_mem_addressed {a : Nat} {p : Nat × Byte} (h : p ∈ addressed a bs) : a ≤ p.1 := by
  obtain ⟨i, -, hi⟩ := List.mem_map.mp (List.of_mem_zip h).1
  omega

/-- Of bytes written at consecutive addresses each one of a TCM or a CSP is read back. -/
theorem memGet_putSrams {a i : Nat} (hs : s.memOk) (hi : i < bs.length) (hin : inSram (a + i) = true) :
    memGet ((addressed a bs).foldl putSram s).mem (a + i) = bs.getD i 0 := by
  induction bs generalizing s a i with
  | nil => exact absurd hi (Nat.not_lt_zero i)
  | cons b bs ih =>
    rw [addressed_cons, List.foldl_cons]
    have hwf : (putSram s (a, b)).memOk := putSram_wf (a, b) hs
    cases i with
    | zero =>
      refine (memGet_putSrams_other hwf fun p hp => ?_).trans (memGet_putSram_same (p := (a, b)) hs hin)
      have hle := le_of_mem_addressed hp
      omega
    | succ i =>
      have hnext := ih (a := a + 1) hwf (Nat.lt_of_succ_lt_succ hi) (by rwa [Nat.add_assoc, Nat.add_comm 1])
      rwa [Nat.add_assoc, Nat.add_comm 1] at hnext

theorem foldl_putSram_cpu (ps : List (Nat × Byte)) : (ps.foldl putSram s).cpu = s.cpu :=
  List.foldlRecOn (motive := fun t : State => t.cpu = s.cpu) ps putSram rfl fun _ ht p _ => (putSram_cpu p).trans ht

/-- A physical write of which no byte lies in HBM or in the control range. -/
theorem physWrite_sram {a : Nat} (hctl : a < ctlBase) (hnone : min bs.length (hbmEnd - a) = 0) :
    physWrite true s key a bs = (addressed a bs).foldl putSram s := by
  have hspan : span 0 bs.length = List.range bs.length := by simp [span]
  unfold physWrite
  rw [if_neg (by simp [hctl]), hnone]
  simp only [List.take_zero, List.drop_zero, writePhys_nil, hspan, Bool.true_and]
  rfl

/-- The bytes of a WRPA that lie in HBM, written (R191, R428). -/
def pokes (s : State) (key : Fin 64) (a : Nat) (bs : List Byte) : State :=
  ((List.range (min bs.length (hbmEnd - a))).zip bs).foldl (fun t p => pokeByte t key (a + p.1) p.2) s

theorem pokeByte_cpu (a : Nat) (b : Byte) : (pokeByte s key a b).cpu = s.cpu := by
  unfold pokeByte
  split
  · rfl
  · exact (writePhys_sameButMemory ..).cpu_eq

theorem pokes_cpu (a : Nat) : (pokes s key a bs).cpu = s.cpu :=
  List.foldlRecOn (motive := fun t : State => t.cpu = s.cpu) _ _ rfl fun _ ht _ _ => (pokeByte_cpu ..).trans ht

theorem pokes_wf (a : Nat) (hs : s.memOk) : (pokes s key a bs).memOk := foldl_wf (fun _ _ => pokeByte_wf) _ hs

/-- WRPA of bytes that begin below the control range: those of HBM, then those of the TCMs and the CSPs (R428). -/
def wrpaLeaves (s : State) (key : Fin 64) (a : Nat) (bs : List Byte) : State :=
  let h := min bs.length (hbmEnd - a)
  (addressed (a + h) (bs.drop h)).foldl putSram (pokes s key a bs)

theorem exec_wrpa_below (hok : s.debugOk = true) (hctl : pa.toNat < ctlBase) :
    exec (.wrpa pa bs key) s = .next (wrpaLeaves s key pa.toNat bs) := by
  rw [exec_wrpa, execWrpa, withPort_ok hok]
  refine congrArg _ (physWrite_sram ?_ ?_)
  · unfold hbmEnd ctlBase at *; omega
  · rw [List.length_drop]; omega

theorem wrpaLeaves_hbm {a : Nat} (h : a + bs.length ≤ hbmEnd) : wrpaLeaves s key a bs =
    ((List.range bs.length).zip bs).foldl (fun t p => pokeByte t key (a + p.1) p.2) s := by
  have hall : min bs.length (hbmEnd - a) = bs.length := by omega
  simp only [wrpaLeaves, pokes, hall, List.drop_length]
  rfl

theorem wrpaLeaves_cpu (a : Nat) : (wrpaLeaves s key a bs).cpu = s.cpu := (foldl_putSram_cpu _).trans (pokes_cpu a)

theorem memGet_wrpaLeaves {a i : Nat} (hs : s.memOk) (hi : i < bs.length) (hin : inSram (a + i) = true) :
    memGet (wrpaLeaves s key a bs).mem (a + i) = bs.getD i 0 := by
  obtain ⟨hhbm, -⟩ := inSram_bounds hin
  have hhigh : min bs.length (hbmEnd - a) ≤ i := by omega
  have haddr : a + min bs.length (hbmEnd - a) + (i - min bs.length (hbmEnd - a)) = a + i := by omega
  have hput := memGet_putSrams (a := a + min bs.length (hbmEnd - a)) (bs := bs.drop (min bs.length (hbmEnd - a)))
    (i := i - min bs.length (hbmEnd - a)) (pokes_wf (key := key) (bs := bs) a hs) (by rw [List.length_drop]; omega)
    (by rwa [haddr])
  rw [haddr] at hput
  refine hput.trans ?_
  simp [Nat.add_sub_cancel' hhigh]

/-! Entries of the future table (R229, R427). -/

/-- The bytes of an entry to which the manual gives no form (R229; log 10). -/
def freeBytes (s : State) (k : Nat) : List Byte := (List.range k).map (Config.byte s.tick)

theorem length_freeBytes (k : Nat) : (freeBytes s k).length = k := by simp [freeBytes]

/-- The handles of a held-list block (R229). -/
def blockHandles (f : Fut) : List Byte := ((List.range 6).map fun i => toBytes 8 (f.held.getD i 0).toNat).flatten

theorem length_blockHandles (f : Fut) : (blockHandles f).length = 48 := by
  simp [blockHandles, List.range_succ, length_toBytes]

theorem futBytes_block {n : Nat} (h : (futAt s n).st = .block) : futBytes s n =
    toBytes 1 (futCode .block) ++ freeBytes s 1 ++ toBytes 2 0 ++ toBytes 4 (futAt s n).gen ++
      (blockHandles (futAt s n) ++ freeBytes s 8) := by
  unfold futBytes
  simp only [h, if_true, List.append_assoc]
  rfl

theorem futBytes_entry {n : Nat} (h : (futAt s n).st ≠ .block) : futBytes s n =
    toBytes 1 (futCode (futAt s n).st) ++ toBytes 1 (futAt s n).kind ++ toBytes 2 0 ++ toBytes 4 (futAt s n).gen ++
      toBytes 4 (futAt s n).count ++
      toBytes 4 (heldBy s (mkHandle s.devid (futAt s n).kind (futAt s n).gen n)) ++ toBytes 8 (futAt s n).result.toNat ++
      freeBytes s 40 := by
  unfold futBytes
  simp only [h, if_false, List.append_assoc]
  rfl

theorem length_futBytes (s : State) (n : Nat) : (futBytes s n).length = 64 := by
  by_cases h : (futAt s n).st = .block
  · simp [futBytes_block h, length_toBytes, length_freeBytes, length_blockHandles]
  · simp [futBytes_entry h, length_toBytes, length_freeBytes]

theorem take_futBytes (s : State) (n : Nat) : (futBytes s n).take 1 = toBytes 1 (futCode (futAt s n).st) :=
  List.take_left' (length_toBytes ..)

section

variable {n : Nat} (h : (futAt s n).st = .block)

include h

theorem futBytes_gen : ((futBytes s n).drop 4).take 4 = toBytes 4 (futAt s n).gen := by
  rw [futBytes_block h, List.append_assoc, field_append_right (k := 4) (i := 0)
    (by simp [length_toBytes, length_freeBytes])]
  exact List.take_left' (length_toBytes ..)

theorem futBytes_handle {i : Nat} (hi : i < 6) :
    ((futBytes s n).drop (8 + 8 * i)).take 8 = toBytes 8 ((futAt s n).held.getD i 0).toNat := by
  have hblock := field_blocks (Vector.range 6) (fun i => toBytes 8 ((futAt s n).held.getD i 0).toNat)
    (fun _ => length_toBytes ..) hi
  rw [Vector.toList_range, Vector.getElem_range] at hblock
  rw [futBytes_block h, field_append_right (by simp [length_toBytes, length_freeBytes]),
    field_append_left (by rw [length_blockHandles]; omega)]
  exact hblock

end

theorem futBytes_fields {n : Nat} (h : (futAt s n).st ≠ .block) : (futBytes s n).take 24 =
    toBytes 1 (futCode (futAt s n).st) ++ toBytes 1 (futAt s n).kind ++ toBytes 2 0 ++ toBytes 4 (futAt s n).gen ++
      toBytes 4 (futAt s n).count ++
      toBytes 4 (heldBy s (mkHandle s.devid (futAt s n).kind (futAt s n).gen n)) ++
      toBytes 8 (futAt s n).result.toNat := by
  rw [futBytes_entry h]
  exact List.take_left' (by simp [length_toBytes])

/-- Settles O53: before authorization the port is closed (`withPort_closed`); then registers and contexts of a halted core
are read and written on that core, physical bytes at their homes (`peeked`, `wrpaLeaves`), and an entry as `futBytes` has
it. -/
theorem debugPort : Obligations.DebugPort := by
  intro s core fail r v pa count bs key n c
  refine ⟨fun hno => ⟨(exec_spedyHalt ..).trans (withPort_closed hno), (exec_rdspr ..).trans (withPort_closed hno),
      (exec_wrspr ..).trans (withPort_closed hno), (exec_wrpa ..).trans (withPort_closed hno)⟩,
    fun hok => ⟨(exec_spedyHalt ..).trans (withPort_ok hok), (exec_spedyRun ..).trans (withPort_ok hok),
      fun hhalt => ⟨exec_rdspr_halted hok hhalt, exec_wrspr_halted hok hhalt,
        fun x hidle hx => exec_rdctx_of_haltedCtx hok ((haltedCtx_idle hhalt hidle).trans hx),
        fun hrun => exec_rdctx_of_haltedCtx hok (haltedCtx_running hhalt hrun)⟩,
      ⟨peeked s key pa.toNat count, (exec_rdpa ..).trans (withPort_ok hok), length_peeked _,
        fun i hi => ⟨peeked_hbm hi, peeked_sram hi⟩⟩,
      fun hfit => ?hbm, ?write, ?table⟩, exec_coreRestart ..⟩
  case hbm =>
    have hctl : pa.toNat < ctlBase := by unfold hbmEnd at hfit; unfold ctlBase; omega
    rw [exec_wrpa_below hok hctl, wrpaLeaves_hbm hfit]
  case write =>
    by_cases hctl : pa.toNat < ctlBase
    · exact ⟨wrpaLeaves s key pa.toNat bs, exec_wrpa_below hok hctl, fun _ => wrpaLeaves_cpu _,
        fun hs i hi hin => memGet_wrpaLeaves hs hi hin⟩
    · refine ⟨_, (exec_wrpa ..).trans (withPort_ok hok), fun h => absurd h hctl, fun _ i _ hin => ?_⟩
      have hbelow := (inSram_bounds hin).2
      omega
  case table =>
    exact ⟨futBytes s n.toNat, (exec_rdft ..).trans (withPort_ok hok), length_futBytes .., take_futBytes ..,
      fun hblock => ⟨futBytes_gen hblock, fun i => futBytes_handle hblock⟩, futBytes_fields⟩

end Sys2Proof.Machine
end

section
/-!
SUPPORT. The Reel's orders: the entries in the order of their arrival, the entry that a dispatch picks, and the core
that it names (R391 to R393).
-/

namespace Sys2Proof.Machine

open Sys2Proof.Claims

variable {s : State} {e : Entry} {l : List Entry}

/-! Entries of one cycle in the order of their queues (R391). -/

/-- Entries that were read in one cycle stand in the order of their queues. -/
def InOrder (x y : Entry) : Prop := x.readAt = y.readAt → queueRank x.queue ≤ queueRank y.queue

theorem insertEntry_perm (e : Entry) (l : List Entry) : (insertEntry e l).Perm (e :: l) := by
  induction l with
  | nil => exact .rfl
  | cons x xs ih =>
    rw [insertEntry]
    split
    · exact .rfl
    · exact (ih.cons x).trans (.swap e x xs)

theorem insertEntry_inOrder (h : l.Pairwise InOrder) : (insertEntry e l).Pairwise InOrder := by
  induction l with
  | nil => exact List.pairwise_singleton ..
  | cons x xs ih =>
    obtain ⟨hx, hxs⟩ := List.pairwise_cons.mp h
    rw [insertEntry]
    split
    case isTrue hbefore =>
      rw [Bool.and_eq_true, decide_eq_true_eq, decide_eq_true_eq] at hbefore
      obtain ⟨hcycle, hrank⟩ := hbefore
      refine List.pairwise_cons.mpr ⟨fun y hy hread => ?_, h⟩
      obtain rfl | hy := List.mem_cons.mp hy
      · exact hrank.le
      · exact hrank.le.trans (hx y hy (hcycle.trans hread))
    case isFalse hafter =>
      refine List.pairwise_cons.mpr ⟨fun y hy hread => ?_, ih hxs⟩
      obtain rfl | hy := List.mem_cons.mp ((insertEntry_perm e xs).mem_iff.mp hy)
      · simpa [hread] using hafter
      · exact hx y hy hread

theorem insertEntry_of_later (h : ∀ x ∈ l, x.readAt ≠ e.readAt) : insertEntry e l = l ++ [e] := by
  induction l with
  | nil => rfl
  | cons x xs ih =>
    have hx : x.readAt ≠ e.readAt := h x List.mem_cons_self
    rw [insertEntry, if_neg (by simp [hx]), ih fun y hy => h y (List.mem_cons_of_mem _ hy), List.cons_append]

/-! The entry that a dispatch picks (R389, R392). -/

/-- The order of R392 as the model decides it. -/
def soonerB (a b : Entry) : Bool := a.tier < b.tier || (a.tier = b.tier && a.deadline < b.deadline)

theorem soonerB_iff {a b : Entry} : soonerB a b = true ↔ Sooner a b := by simp [soonerB, Sooner]

theorem sooner_trans {a b c : Entry} (h : Sooner a b) (h' : Sooner b c) : Sooner a c := by
  unfold Sooner at *
  bv_omega

/-- An entry that goes before a second one goes before any that the second one does not go after. -/
theorem sooner_of_not_later {a b c : Entry} (h : Sooner a b) (h' : ¬Sooner c b) : Sooner a c := by
  unfold Sooner at *
  bv_omega

theorem bestEntry_eq_none (h : bestEntry soonerB l = none) : l = [] := by
  cases l with
  | nil => rfl
  | cons e es =>
    rw [bestEntry] at h
    split at h
    · split at h <;> cases h
    · cases h

/-- The best entry goes before all that arrived earlier, and none that arrived later goes before it (R392). -/
theorem bestEntry_eq_some (h : bestEntry soonerB l = some e) : ∃ before after, l = before ++ e :: after ∧
    (∀ x ∈ before, Sooner e x) ∧ ∀ x ∈ after, ¬Sooner x e := by
  induction l generalizing e with
  | nil => cases h
  | cons x xs ih =>
    rw [bestEntry] at h
    split at h
    case h_2 hnone =>
      obtain rfl := Option.some.inj h
      rw [bestEntry_eq_none hnone]
      exact ⟨[], [], rfl, by simp, by simp⟩
    case h_1 f hf =>
      obtain ⟨before, after, rfl, hbefore, hafter⟩ := ih hf
      split at h
      case isTrue hsooner =>
        obtain rfl := Option.some.inj h
        exact ⟨x :: before, after, rfl, List.forall_mem_cons.mpr ⟨soonerB_iff.mp hsooner, hbefore⟩, hafter⟩
      case isFalse hlater =>
        obtain rfl := Option.some.inj h
        rw [soonerB_iff] at hlater
        refine ⟨[], _, rfl, by simp, fun y hy hyx => ?_⟩
        obtain hy | rfl | hy := by simpa using hy
        · exact hlater (sooner_trans (hbefore y hy) hyx)
        · exact hlater hyx
        · exact hafter y hy (sooner_of_not_later hyx hlater)

/-- The entries that a dispatch may take: a draining tenant's are not (R389). -/
def pickable (s : State) : List Entry :=
  s.reel.pending.filter fun e => (s.tenants.get (queueTenant e.queue)).state != 2

/-- The oldest entry of tier 3 goes first, once it has waited 1 ms and 15 dispatches have gone to other tiers (R392). -/
def tierAged (s : State) (o : Entry) : Bool := o.arrival.toNat + 1000000 ≤ s.devtime.toNat && 15 ≤ s.reel.since3

theorem tierAged_eq_false {o : Entry} (h : s.devtime.toNat < o.arrival.toNat + 1000000 ∨ s.reel.since3 < 15) :
    tierAged s o = false := by
  simp only [tierAged, Bool.and_eq_false_iff, decide_eq_false_iff_not]
  omega

theorem pickable_eq (s : State) :
    (s.reel.pending.filter fun e => !draining s (queueTenant e.queue)) = pickable s := by
  refine List.filter_congr fun e _ => ?_
  by_cases h : (s.tenants.get (queueTenant e.queue)).state = 2 <;> simp [draining, h]

theorem pickEntry_aged {o : Entry} (hfind : (pickable s).find? (fun e => e.tier = 3) = some o)
    (haged : tierAged s o = true) : pickEntry s = some o := by
  unfold pickEntry
  dsimp only
  rw [pickable_eq, hfind]
  exact if_pos haged

theorem pickEntry_best (hfresh : ∀ o, (pickable s).find? (fun e => e.tier = 3) = some o → tierAged s o = false) :
    pickEntry s = bestEntry soonerB (pickable s) := by
  unfold pickEntry
  dsimp only
  rw [pickable_eq]
  cases hfind : (pickable s).find? fun e => e.tier = 3 with
  | none => rfl
  | some o => exact if_neg (Bool.eq_false_iff.mp (hfresh o hfind))

/-- What a dispatch picks is the oldest entry of tier 3, if that has aged, and else the best (R392). -/
theorem pickEntry_cases (s : State) :
    (∃ o, (pickable s).find? (fun e => e.tier = 3) = some o ∧ tierAged s o = true ∧ pickEntry s = some o) ∨
    ((∀ o, (pickable s).find? (fun e => e.tier = 3) = some o → tierAged s o = false) ∧
      pickEntry s = bestEntry soonerB (pickable s)) := by
  by_cases hfresh : ∀ o, (pickable s).find? (fun e => e.tier = 3) = some o → tierAged s o = false
  · exact .inr ⟨hfresh, pickEntry_best hfresh⟩
  · push Not at hfresh
    obtain ⟨o, hfind, haged⟩ := hfresh
    exact .inl ⟨o, hfind, by simpa using haged, pickEntry_aged hfind (by simpa using haged)⟩

theorem pickEntry_eq_none (h : pickEntry s = none) : pickable s = [] := by
  obtain ⟨o, -, -, hpick⟩ | ⟨-, hpick⟩ := pickEntry_cases s
  · rw [h] at hpick; cases hpick
  · exact bestEntry_eq_none (hpick.symm.trans h)

theorem pickEntry_mem (h : pickEntry s = some e) : e ∈ pickable s := by
  obtain ⟨o, hfind, -, hpick⟩ | ⟨-, hpick⟩ := pickEntry_cases s
  · obtain rfl := Option.some.inj (h.symm.trans hpick)
    exact List.mem_of_find?_eq_some hfind
  · obtain ⟨before, after, hlist, -⟩ := bestEntry_eq_some (hpick.symm.trans h)
    exact hlist ▸ List.mem_append_right _ List.mem_cons_self

theorem picked_of_pickEntry (h : pickEntry s = some e) : Picked s (pickable s) e where
  aged o hfind hwaited hothers := by
    have haged : tierAged s o = true := by simp [tierAged, hwaited, hothers]
    exact Option.some.inj (h.symm.trans (pickEntry_aged hfind haged))
  best hfresh :=
    bestEntry_eq_some ((pickEntry_best fun o hfind => tierAged_eq_false (hfresh o hfind)).symm.trans h)

/-! The core that a dispatch names (R393). -/

/-- The ready contexts of a core. -/
def readyCount (s : State) (n : Nat) : Nat := ((coreAt s n).recs.filter fun r => r.st = .ready).length

/-- One core is named before another: it has fewer ready contexts, or as many and the lower number. -/
def NamedBefore (s : State) (n m : Nat) : Prop :=
  readyCount s n < readyCount s m ∨ (readyCount s n = readyCount s m ∧ n ≤ m)

theorem mayTake_iff {q : Fin 16} {n : Nat} : n ∈ (List.range 768).filter (mayTake s q) ↔ MayHost s q n := by
  simp [mayTake, MayHost]

/-- The core so far, or the next one if it has fewer ready contexts. -/
def fewerReady (s : State) (best : Option Nat) (n : Nat) : Option Nat :=
  match best with
  | none => some n
  | some m => if readyCount s n < readyCount s m then some n else some m

theorem dispatchCore_eq (s : State) (q : Fin 16) :
    dispatchCore s q = ((List.range 768).filter (mayTake s q)).foldl (fewerReady s) none := rfl

/-- A pass over cores of rising numbers keeps the first with the fewest ready contexts. -/
theorem foldl_fewerReady (ns : List Nat) (m : Nat) (h : (m :: ns).Pairwise (· < ·)) :
    ∃ n ∈ m :: ns, ns.foldl (fewerReady s) (some m) = some n ∧ ∀ k ∈ m :: ns, NamedBefore s n k := by
  induction ns generalizing m with
  | nil => exact ⟨m, List.mem_cons_self, rfl, by simp [NamedBefore]⟩
  | cons n ns ih =>
    obtain ⟨hm, hns⟩ := List.pairwise_cons.mp h
    have hmn : m < n := hm n List.mem_cons_self
    rw [List.foldl_cons, fewerReady]
    split
    case isTrue hless =>
      obtain ⟨r, hr, hfold, hleast⟩ := ih n hns
      refine ⟨r, List.mem_cons_of_mem _ hr, hfold, List.forall_mem_cons.mpr ⟨?_, hleast⟩⟩
      have hrn := hleast n List.mem_cons_self
      unfold NamedBefore at *
      omega
    case isFalse hmore =>
      have hsub : (m :: ns).Pairwise (· < ·) := h.sublist ((List.sublist_cons_self n ns).cons_cons m)
      obtain ⟨r, hr, hfold, hleast⟩ := ih m hsub
      obtain ⟨hrm, hrest⟩ := List.forall_mem_cons.mp hleast
      refine ⟨r, ?_, hfold, List.forall_mem_cons.mpr ⟨hrm, List.forall_mem_cons.mpr ⟨?_, hrest⟩⟩⟩
      · exact ((List.sublist_cons_self n ns).cons_cons m).mem hr
      · unfold NamedBefore at *
        omega

/-- The core of a dispatch, if any may take the root: of those the first with the fewest ready contexts (R393). -/
theorem dispatchCore_spec (s : State) (q : Fin 16) :
    (dispatchCore s q = none ∧ ∀ n, ¬MayHost s q n) ∨
    ∃ n, dispatchCore s q = some n ∧ MayHost s q n ∧ ∀ m, MayHost s q m → NamedBefore s n m := by
  have hrising : ((List.range 768).filter (mayTake s q)).Pairwise (· < ·) := List.pairwise_lt_range.filter _
  simp only [dispatchCore_eq, ← mayTake_iff]
  cases hl : (List.range 768).filter (mayTake s q) with
  | nil => exact .inl ⟨rfl, fun n => List.not_mem_nil⟩
  | cons m ns =>
    obtain ⟨n, hn, hfold, hleast⟩ := foldl_fewerReady ns m (hl ▸ hrising)
    exact .inr ⟨n, hfold, hn, hleast⟩

theorem hostCore_of_dispatchCore {q : Fin 16} {n : Nat} (h : dispatchCore s q = some n) : HostCore s q n := by
  obtain ⟨hnone, -⟩ | ⟨m, hsome, hmay, hleast⟩ := dispatchCore_spec s q
  · cases h.symm.trans hnone
  · obtain rfl := Option.some.inj (h.symm.trans hsome)
    exact ⟨hmay, hleast⟩

theorem not_mayHost_of_dispatchCore {q : Fin 16} (h : dispatchCore s q = none) (n : Nat) : ¬MayHost s q n := by
  obtain ⟨-, hno⟩ | ⟨m, hsome, -⟩ := dispatchCore_spec s q
  · exact hno n
  · cases h.symm.trans hsome

end Sys2Proof.Machine
end

section
/-!
SUPPORT. What a dispatch finds out about its entry: the checks of the records in memory, the image, and the root as it
begins (R393, R399, R431 to R439).
-/

namespace Sys2Proof.Machine

open Sys2Proof.Claims

variable {s t u v w y z : State} {e : Entry} {q : Fin 16} {b d h l : List Byte} {tier : Nat}

/-! The records that a dispatch refuses (R431, R437), and the images that it takes (R434 to R436). -/

theorem badRecord_iff : badRecord b tier = true ↔ BadLaunch b tier := by
  have hkinds (j : Nat) : (if j < at_ b 8 1 then decide (4 < at_ b (16 + j) 1) else at_ b (16 + j) 1 != 0) = true ↔
      (j < at_ b 8 1 ∧ 4 < at_ b (16 + j) 1) ∨ (at_ b 8 1 ≤ j ∧ at_ b (16 + j) 1 ≠ 0) := by
    split <;> simp <;> omega
  simp only [badRecord, BadLaunch, Bool.or_eq_true, List.any_eq_true, List.mem_range, hkinds, Bool.and_eq_true,
    decide_eq_true_eq, bne_iff_ne, or_assoc]

theorem badHeader_iff : badHeader b = true ↔ BadObject b := by
  simp only [badHeader, BadObject, Bool.or_eq_true, decide_eq_true_eq, bne_iff_ne, or_assoc]

theorem suits_iff {x : Tenant} : (eligible x d && fits x l d) = true ↔ Suits x l d := by
  simp only [eligible, fits, Suits, Bool.and_eq_true, Bool.or_eq_true, decide_eq_true_eq, and_assoc]
  rfl

theorem chooseImage_eq_none {x : Tenant} {ds : List (List Byte)} (h : ∀ d ∈ ds, ¬Suits x l d) :
    chooseImage x l ds = none :=
  List.find?_eq_none.mpr fun d hd => mt suits_iff.mp (h d hd)

theorem chooseImage_eq_some {x : Tenant} {before after : List (List Byte)} (h : Suits x l d)
    (hno : ∀ o ∈ before, ¬Suits x l o) : chooseImage x l (before ++ d :: after) = some d := by
  refine List.find?_eq_some_iff_append.mpr ⟨suits_iff.mpr h, before, after, rfl, fun o ho => ?_⟩
  rw [Bool.not_eq_true', ← Bool.not_eq_true]
  exact mt suits_iff.mp (hno o ho)

/-! The plan of an entry, check by check (R393, R399, R431, R436). -/

/-- An entry that R393 refuses before its launch record is read. -/
def BadEntry (s : State) (e : Entry) : Prop :=
  let x := s.tenants.get (queueTenant e.queue)
  e.reserved = true ∨ e.tier < x.tiermin ∨ x.state ≠ 1 ∨ e.lrec.toNat % 64 ≠ 0

theorem badEntry_iff : (e.reserved || e.tier < (s.tenants.get (queueTenant e.queue)).tiermin ||
    (s.tenants.get (queueTenant e.queue)).state != 1 || e.lrec.toNat % 64 != 0) = true ↔ BadEntry s e := by
  simp only [BadEntry, Bool.or_eq_true, decide_eq_true_eq, bne_iff_ne, or_assoc]

theorem planEntry_of_bad (hbad : BadEntry s e) : planEntry s e = (.refuse 4 none, s) :=
  if_pos (badEntry_iff.mpr hbad)

/-- An entry that is good is refused by its record's place, its launch record, or by the object that this names. -/
def planChecked (s : State) (e : Entry) : Plan × State :=
  match complOk s (queueTenant e.queue) e.compl with
  | (false, s) => (.refuse 4 none, s)
  | (true, s) =>
    match reelRead s (queueTenant e.queue) e.lrec.toNat 128 with
    | (none, s) => (.refuse 4 none, s)
    | (some l, s) => if badRecord l e.tier then (.refuse 4 (some l), s) else planImage s (queueTenant e.queue) l

theorem planEntry_of_good (hgood : ¬BadEntry s e) : planEntry s e = planChecked s e :=
  if_neg (mt badEntry_iff.mp hgood)

theorem complOk_eq {compl : Word} {place : Option (Nat × Fin 64)}
    (hplace : reelPlace s q .write compl.toNat = (place, u)) :
    complOk s q compl = (place.isSome && compl.toNat % 32 = 0, u) := by
  unfold complOk
  rw [hplace]
  cases place <;> simp

theorem planChecked_of_place {place : Option (Nat × Fin 64)}
    (hplace : reelPlace s (queueTenant e.queue) .write e.compl.toNat = (place, u))
    (hbad : place = none ∨ e.compl.toNat % 32 ≠ 0) : planChecked s e = (.refuse 4 none, u) := by
  have hok : (place.isSome && decide (e.compl.toNat % 32 = 0)) = false := by
    obtain rfl | hrem := hbad <;> simp [*]
  rw [planChecked, complOk_eq hplace, hok]

theorem complOk_of_good {compl : Word} {place : Option (Nat × Fin 64)}
    (hplace : reelPlace s q .write compl.toNat = (place, u)) (hsome : place ≠ none) (hrem : compl.toNat % 32 = 0) :
    complOk s q compl = (true, u) := by
  rw [complOk_eq hplace, Option.isSome_iff_ne_none.mpr hsome, hrem]
  rfl

theorem planChecked_unread (hok : complOk s (queueTenant e.queue) e.compl = (true, u))
    (hread : reelRead u (queueTenant e.queue) e.lrec.toNat 128 = (none, v)) : planChecked s e = (.refuse 4 none, v) := by
  rw [planChecked, hok]; dsimp only; rw [hread]

theorem planChecked_read (hok : complOk s (queueTenant e.queue) e.compl = (true, u))
    (hread : reelRead u (queueTenant e.queue) e.lrec.toNat 128 = (some l, v)) : planChecked s e =
      if badRecord l e.tier then (.refuse 4 (some l), v) else planImage v (queueTenant e.queue) l := by
  rw [planChecked, hok]; dsimp only; rw [hread]

theorem planImage_unread (hread : reelRead v q (at_ l 0 8) 64 = (none, w)) :
    planImage v q l = (.refuse 4 (some l), w) := by
  rw [planImage, hread]

theorem planImage_badHeader (hread : reelRead v q (at_ l 0 8) 64 = (some h, w)) (hbad : BadObject h) :
    planImage v q l = (.refuse 4 (some l), w) := by
  rw [planImage, hread]
  exact if_pos (badHeader_iff.mpr hbad)

/-- The object of a good header: its images read, one taken, and its entry point read. -/
def planObject (w : State) (q : Fin 16) (l h : List Byte) : Plan × State :=
  match readImages w q (at_ h 8 8) (at_ h 6 1) with
  | (none, s) => (.refuse 4 (some l), s)
  | (some ds, s) =>
    match chooseImage (s.tenants.get q) l ds with
    | none => (.refuse 2 (some l), s)
    | some d =>
      match reelRead s q (at_ d 24 8 + 8 * at_ l 24 4) 8 with
      | (none, s) => (.refuse 4 (some l), s)
      | (some e, s) => (.run l d (BitVec.ofNat 64 (ofBytes e)), s)

theorem planImage_goodHeader (hread : reelRead v q (at_ l 0 8) 64 = (some h, w)) (hgood : ¬BadObject h) :
    planImage v q l = planObject w q l h := by
  rw [planImage, hread]
  exact if_neg (mt badHeader_iff.mp hgood)

theorem planObject_unread (hread : readImages w q (at_ h 8 8) (at_ h 6 1) = (none, y)) :
    planObject w q l h = (.refuse 4 (some l), y) := by
  rw [planObject, hread]

theorem planObject_unsuitable {ds : List (List Byte)} (hread : readImages w q (at_ h 8 8) (at_ h 6 1) = (some ds, y))
    (hno : ∀ d ∈ ds, ¬Suits (y.tenants.get q) l d) : planObject w q l h = (.refuse 2 (some l), y) := by
  rw [planObject, hread]; dsimp only; rw [chooseImage_eq_none hno]

theorem planObject_noEntry {ds : List (List Byte)} (hread : readImages w q (at_ h 8 8) (at_ h 6 1) = (some ds, y))
    (hchoice : chooseImage (y.tenants.get q) l ds = some d)
    (hentry : reelRead y q (at_ d 24 8 + 8 * at_ l 24 4) 8 = (none, z)) :
    planObject w q l h = (.refuse 4 (some l), z) := by
  rw [planObject, hread]; dsimp only; rw [hchoice]; dsimp only; rw [hentry]

theorem planObject_run {ds : List (List Byte)} (hread : readImages w q (at_ h 8 8) (at_ h 6 1) = (some ds, y))
    (hchoice : chooseImage (y.tenants.get q) l ds = some d)
    (hentry : reelRead y q (at_ d 24 8 + 8 * at_ l 24 4) 8 = (some b, z)) :
    planObject w q l h = (.run l d (BitVec.ofNat 64 (ofBytes b)), z) := by
  rw [planObject, hread]; dsimp only; rw [hchoice]; dsimp only; rw [hentry]

/-- A dispatch finds out about its entry what R393, R431, R436 and R437 say, in their order. -/
theorem plans (s : State) (e : Entry) : Plans s e := by
  refine ⟨planEntry_of_bad, fun hgood place u hplace => ?_⟩
  have hchecked : planEntry s e = planChecked s e := planEntry_of_good hgood
  refine ⟨fun hbad => hchecked.trans (planChecked_of_place hplace hbad), fun hsome hrem => ?_⟩
  have hok := complOk_of_good hplace hsome hrem
  refine ⟨fun v hread => hchecked.trans (planChecked_unread hok hread), fun l v hread => ?_⟩
  have hrecord := hchecked.trans (planChecked_read hok hread)
  refine ⟨fun hbad => hrecord.trans (if_pos (badRecord_iff.mpr hbad)), fun hfine => ?_⟩
  have himage := hrecord.trans (if_neg (mt badRecord_iff.mp hfine))
  refine ⟨fun w hread => himage.trans (planImage_unread hread), fun h w hread => ?_⟩
  refine ⟨fun hbad => himage.trans (planImage_badHeader hread hbad), fun hfine => ?_⟩
  have hobject := himage.trans (planImage_goodHeader hread hfine)
  refine ⟨fun y hread => hobject.trans (planObject_unread hread), fun ds y hread => ?_⟩
  refine ⟨fun hno => hobject.trans (planObject_unsuitable hread hno), ?_⟩
  rintro before d after rfl hsuits hno
  have hchoice := chooseImage_eq_some (after := after) hsuits hno
  exact ⟨fun z hentry => hobject.trans (planObject_noEntry hread hchoice hentry),
    fun b z hentry => hobject.trans (planObject_run hread hchoice hentry)⟩

/-! The root of a launch (R438, R439). -/

theorem rootBegins (e : Entry) (l d : List Byte) (pc h : Word) (n : Nat) :
    RootBegins e l d pc h n (rootCtx e l d pc h n) where
  place := ⟨rfl, rfl, rfl, rfl, rfl⟩
  args i := by simp [rootCtx, Vector.get_ofFn]
  level := ⟨rfl, by simp [rootCtx], by simp [rootCtx], fun j hj => by simp [rootCtx, hj]⟩
  urgency := ⟨rfl, rfl⟩
  hint := ⟨rfl, by
    change launchCapOf l d = _
    unfold launchCapOf
    split
    case h_4 h1 h2 h3 => rw [if_neg h1, if_neg h2, if_neg h3]
    all_goals simp [*]⟩
  fresh := ⟨rfl, rfl, rfl, rfl, rfl, rfl, rfl⟩

end Sys2Proof.Machine
end

section
/-!
PROOF. The events of the Reel: completions, cancellation, the dispatch of a picked entry, and the end of a tenant's
draining (O51).
-/

namespace Sys2Proof.Machine

open Sys2Proof.Claims

variable {s t u v : State} {e : Entry} {q : Fin 16} {d l : List Byte} {pc h : Word} {n : Nat}

/-! Completions and cancellation (R395, R396). -/

theorem recordBytes_eq (c : Completion) : recordBytes c = complBytes c := by
  unfold recordBytes complBytes
  by_cases h : c.deadline < c.ended <;> simp [h]

/-- Byte 12 of a completion record is its STATUS. -/
theorem status_of_complBytes (c : Completion) : ((complBytes c).drop 12).take 1 = [BitVec.ofNat 8 c.status] := by
  simp [complBytes, toBytes]

theorem completes_eq (s : State) (c : Completion) : completes s c = complete s c := by
  unfold completes
  rw [recordBytes_eq, ← status_of_complBytes]
  rfl

theorem deadlineOf_eq (e : Entry) (l : List Byte) : deadlineOf e l =
    if e.deadline = BitVec.allOnes 64 ∧ at_ l 32 8 ≠ 0 then
      BitVec.ofNat 64 (min (e.arrival.toNat + at_ l 32 8) (2 ^ 64 - 1))
    else e.deadline := by
  simp only [deadlineOf, Bool.and_eq_true, decide_eq_true_eq, bne_iff_ne]

theorem entryEnds_eq (s : State) (e : Entry) (status : Nat) (record : Option (List Byte)) :
    entryEnds s e status record = complete (takeEntry s e) (refused s e status record) := by
  rw [refused, funext (deadlineOf_eq e)]
  exact completes_eq ..

theorem cancels_eq (s : State) (p : QueueId → BitVec 32 → Bool) : cancels s p = cancelAll s p := by
  have hcompletes : completes = complete := funext₂ completes_eq
  unfold cancels
  rw [hcompletes]
  rfl

/-! The host's registers (R398, R402). -/

theorem portDoes_of_recovery (h : s.boot = .recovery) : portDoes s t = s := if_pos h

theorem portDoes_eq (h : s.boot ≠ .recovery) : portDoes s t = t := if_neg h

/-! The arrival of an entry (R391, R399). -/

/-- The queue's next entry read: it completes as CANCELLED if its tenant drains, and else stands among those pending. -/
def arrives (s : State) (id : QueueId) : State :=
  let k := s.queues.get (queueSlot id)
  let r := readPhys s 0 (k.base.toNat + 64 * (k.head % 2 ^ k.log2n)) 64
  let t := { r.2 with queues := r.2.queues.set (queueSlot id) { k with head := (k.head + 1) % 2 ^ 64 } }
  if (r.2.tenants.get (queueTenant id)).state = 2 then completes t (notRun t (entryFrom r.2 id r.1) 3)
  else { t with reel := { t.reel with pending := insertEntry (entryFrom r.2 id r.1) t.reel.pending } }

theorem arrive_of_waits {id : QueueId} (h : entryWaits s (s.queues.get (queueSlot id)) = true) :
    arrive s id = arrives s id := by
  unfold arrive arrives
  simp only [h, completes_eq, draining, decide_eq_true_eq]
  rfl

theorem entryArrival_eq (id : QueueId) (s : State) :
    exec (.entryArrival id) s = .next (arrive (if id = .mgmt then s else mgmtFirst s) id) := by
  cases id with
  | mgmt => rw [if_pos rfl]; rfl
  | host h q => rw [if_neg QueueId.noConfusion]; rfl

/-! A dispatch (R392, R393). -/

theorem dispatch_eq (hdue : s.reel.next ≤ s.clock) (hpending : s.reel.pending ≠ [])
    (hpick : pickEntry s = some e) : exec .dispatch s = .next (dispatchEntry s e) := by
  have hnow : dispatchDue s = true := by simp [dispatchDue, hdue, hpending]
  rw [exec_dispatch, execDispatch, if_pos hnow, hpick]

theorem dispatchEntry_refuse {st : Nat} {record : Option (List Byte)} (h : planEntry s e = (.refuse st record, t)) :
    dispatchEntry s e = entryEnds t e st record := by
  rw [dispatchEntry, h, entryEnds_eq]

/-- An image ready to run needs a future and a core. -/
theorem dispatchEntry_noFuture (h : planEntry s e = (.run l d pc, t)) (hfree : freeSlot t = none) :
    dispatchEntry s e = entryEnds t e 2 (some l) := by
  rw [dispatchEntry, h, entryEnds_eq]
  exact if_pos (by rw [hfree]; rfl)

theorem dispatchEntry_noCore (h : planEntry s e = (.run l d pc, t)) (hfree : freeSlot t ≠ none)
    (hcore : dispatchCore t (queueTenant e.queue) = none) : dispatchEntry s e = t := by
  rw [dispatchEntry, h]
  refine (if_neg (by simpa using hfree)).trans ?_
  rw [hcore]

theorem dispatchEntry_core (h : planEntry s e = (.run l d pc, t)) (hfree : freeSlot t ≠ none)
    (hcore : dispatchCore t (queueTenant e.queue) = some n) : dispatchEntry s e = startRoot t e l d pc n := by
  rw [dispatchEntry, h]
  refine (if_neg (by simpa using hfree)).trans ?_
  rw [hcore]

theorem startRoot_ok (hfut : allocFut s 0 = some (h, u))
    (hroom : makeRoom ((coreAt s n).recs.length + 1) u n
      (recBytes (readyRec u (rootCtx e l d pc h n) .gate false)) = .ok v) :
    startRoot s e l d pc n = rootStarts v e l d n h (readyRec u (rootCtx e l d pc h n) .gate false) := by
  rw [startRoot, hfut]
  dsimp only
  rw [hroom]
  rfl

/-! The completion of a launch (R395, R396). -/

/-- A launch's completion with a state and a value. -/
def launchDone (s : State) (l : Launch) (status : Nat) (result : Word) : Completion :=
  { queue := l.queue, seq := l.seq, compl := l.compl, deadline := l.deadline, result := result, status := status,
    dispatched := l.dispatched, ended := l.ended.getD s.devtime }

theorem launchCompletion_finishes {root : Word} {l : Launch}
    (h : s.reel.launches.find? (fun l => l.root = root && l.ended.isSome) = some l) :
    exec (.launchCompletion root) s = .next (finishLaunch s l) ∧ l.ended.isSome = true := by
  refine ⟨by rw [exec_launchCompletion, execLaunchCompletion, h], ?_⟩
  have hl := List.find?_some h
  simp only [Bool.and_eq_true] at hl
  exact hl.2

theorem finishLaunch_cancelled {l : Launch} (h : l.cancelled = true) :
    finishLaunch s l = completes (dropLaunch s l.root) (launchDone s l 3 0) := by
  rw [finishLaunch, completes_eq]
  exact if_pos h

/-- The dirty lines of the core that ended the root are in memory before the record is written. -/
def rootEdge (s : State) (l : Launch) : State :=
  match (futAt s (hSlot l.root)).loc with
  | some n => writeBack s n
  | none => s

theorem finishLaunch_ended {l : Launch} (h : l.cancelled = false) (hended : l.ended.isSome = true) :
    finishLaunch s l = dropRefs (completes (dropLaunch (rootEdge s l) l.root)
      (launchDone s l (if (futAt s (hSlot l.root)).st = .failed then 1 else 0) (futAt s (hSlot l.root)).result))
      [l.root] := by
  obtain ⟨x, hx⟩ := Option.isSome_iff_exists.mp hended
  have hdone (u : State) (status : Nat) (result : Word) :
      { cutOff u l status with result := result } = launchDone s l status result := by
    simp [cutOff, launchDone, hx]
  rw [finishLaunch, completes_eq, ← hdone (rootEdge s l)]
  exact if_neg (by simp [h])

/-! The end of a tenant's draining (R389). -/

theorem dropTlb_futs (p : TlbEntry → Bool) : (dropTlb s p).futs = s.futs :=
  List.foldlRecOn (motive := fun t : State => t.futs = s.futs) _ _ rfl fun t ht n _ =>
    (show (modCore t n _).futs = t.futs by unfold modCore setCore; split <;> rfl).trans ht

/-- No cluster keeps a TLB entry that is dropped. -/
theorem dropTlb_clusters {p : TlbEntry → Bool} {c : Nat × Cluster} (hc : c ∈ (dropTlb s p).clusters) {e : TlbEntry}
    (he : e ∈ c.2.tlb) : p e = false := by
  obtain ⟨x, -, rfl⟩ := List.mem_map.mp hc
  simpa using (List.mem_filter.mp he).2

/-- The state that a tenant's draining ends in: its banks and TLB entries are gone, and it is off. -/
def tenantOff (s : State) (q : Fin 16) : State :=
  let t := dropTlb (freeBanks s q) fun e => e.tenant = q
  { t with tenants := t.tenants.set q { t.tenants.get q with state := 0 } }

theorem tenantDrainEnd_done (hstate : (s.tenants.get q).state = 2) (hwaits : tenantWaits s q = false)
    (hruns : tenantRuns s q = false) (hjobs : tenantJobs s q = false) :
    exec (.tenantDrainEnd q) s = .next (tenantOff s q) := by
  rw [exec_tenantDrainEnd, execTenantDrainEnd, if_pos (by simp [draining, *])]
  rfl

theorem tenantDrainEnd_waits (h : tenantWaits s q = true) : exec (.tenantDrainEnd q) s = .next s := by
  rw [exec_tenantDrainEnd, execTenantDrainEnd, if_neg (by simp [h])]

theorem tenantOff_state : ((tenantOff s q).tenants.get q).state = 0 := by
  simp [tenantOff, Vector.get_eq_getElem]

theorem tenantOff_tlb {c : Nat × Cluster} (hc : c ∈ (tenantOff s q).clusters) {e : TlbEntry} (he : e ∈ c.2.tlb) :
    e.tenant ≠ q :=
  of_decide_eq_false (dropTlb_clusters hc he)

/-! Each clause of the events' rules. -/

/-- In RECOVERY the host's registers do nothing (R402). -/
theorem port_of_recovery (host : Fin 2) (tail : Word) (seq : BitVec 32) (h : s.boot = .recovery) :
    exec (.doorbell host q tail) s = .next s ∧ exec (.hostSignal host) s = .next s ∧
      exec (.cancel host q seq) s = .next s :=
  have hnothing (t : State) : Host.Outcome.next (portDoes s t) = .next s := congrArg _ (portDoes_of_recovery h)
  ⟨(exec_doorbell ..).trans (hnothing _), (exec_hostSignal ..).trans (hnothing _), (exec_cancel ..).trans (hnothing _)⟩

theorem doorbell_sets_tail (host : Fin 2) (tail : Word) (h : s.boot ≠ .recovery) : exec (.doorbell host q tail) s =
    .next { s with queues := s.queues.set (queueSlot (.host host q)) { s.queues.get (queueSlot (.host host q)) with
      tail := tail.toNat } } :=
  (exec_doorbell ..).trans (congrArg Host.Outcome.next (portDoes_eq h))

theorem hostSignal_pends (host : Fin 2) (h : s.boot ≠ .recovery) (hroute : (s.hostRoute.get host).toNat < 768) :
    exec (.hostSignal host) s = .next (modCore s (s.hostRoute.get host).toNat fun c => { c with pendHost := true }) :=
  (exec_hostSignal ..).trans (congrArg Host.Outcome.next ((portDoes_eq h).trans (if_pos hroute)))

theorem cancel_cancels (host : Fin 2) (seq : BitVec 32) (h : s.boot ≠ .recovery) : exec (.cancel host q seq) s =
    .next (cancels (arriveAll (unread (s.queues.get (queueSlot (.host host q)))) (mgmtFirst s) (.host host q))
      fun j m => j = .host host q && m = seq) := by
  rw [cancels_eq]
  exact (exec_cancel ..).trans (congrArg Host.Outcome.next (portDoes_eq h))

theorem entryArrival_arrives (id : QueueId) :
    let u := if id = .mgmt then s else mgmtFirst s
    entryWaits u (u.queues.get (queueSlot id)) = true → exec (.entryArrival id) s = .next (arrives u id) :=
  fun hwaits => (entryArrival_eq id s).trans (congrArg Host.Outcome.next (arrive_of_waits hwaits))

theorem tenantDrain_cancels (h : (s.tenants.get q).state = 2) :
    exec (.tenantDrain q) s = .next (cancels s fun j _ => queueTenant j = q) := by
  rw [cancels_eq]
  exact (exec_tenantDrain ..).trans (congrArg Host.Outcome.next (if_pos (by simp [draining, h])))

theorem dispatches (hdue : s.reel.next ≤ s.clock) (hpending : s.reel.pending ≠ []) (hpick : pickEntry s = some e)
    (h : dispatchEntry s e = t) : exec .dispatch s = .next t :=
  (dispatch_eq hdue hpending hpick).trans (congrArg Host.Outcome.next h)

/-- Settles O51: each event of the Reel is its rule's change of the queues, the pending entries and the launches. A
dispatch goes through its plan (`plans`), whose refusal, missing future, missing core and start are told apart. -/
theorem reelEvents : Obligations.ReelEvents := by
  intro s host q tail root seq id
  refine ⟨port_of_recovery host tail seq,
    fun hboot => ⟨doorbell_sets_tail host tail hboot, hostSignal_pends host hboot, cancel_cancels host seq hboot⟩,
    entryArrival_arrives id, fun e l => ⟨insertEntry_perm e l, insertEntry_inOrder, insertEntry_of_later⟩,
    ⟨fun e hpick => ⟨pickEntry_mem hpick, picked_of_pickEntry hpick⟩, pickEntry_eq_none⟩,
    fun n => hostCore_of_dispatchCore, not_mayHost_of_dispatchCore, fun e hdue hpending hpick => ?dispatch,
    fun l hfind => ?launch, tenantDrain_cancels, tenantDrainEnd_waits, fun hstate hwaits hruns hjobs => ?off⟩
  case dispatch =>
    have hexec {t : State} : dispatchEntry s e = t → exec .dispatch s = .next t := dispatches hdue hpending hpick
    exact ⟨fun st record t hplan => hexec (dispatchEntry_refuse hplan), plans s e, fun l d pc t hplan =>
      ⟨rootBegins e l d pc, fun hfree => hexec (dispatchEntry_noFuture hplan hfree),
        fun n h u v hfree hcore hfut hroom =>
          hexec ((dispatchEntry_core hplan hfree hcore).trans (startRoot_ok hfut hroom)),
        fun hfree hcore => hexec (dispatchEntry_noCore hplan hfree hcore)⟩⟩
  case launch =>
    obtain ⟨hexec, hended⟩ := launchCompletion_finishes hfind
    exact ⟨fun hcancelled => hexec.trans (congrArg Host.Outcome.next (finishLaunch_cancelled hcancelled)),
      fun hlive => hexec.trans (congrArg Host.Outcome.next (finishLaunch_ended hlive hended))⟩
  case off =>
    exact ⟨tenantOff s q, tenantDrainEnd_done hstate hwaits hruns hjobs, tenantOff_state,
      fun c hc e he => tenantOff_tlb hc he, dropTlb_mem, dropTlb_futs _⟩

end Sys2Proof.Machine
end
